-- ==== Sys2Proof/Word.lean ====
section
/-! DEFINITION. The word types and the sparse map every table of the machine is kept in. -/

namespace Sys2Proof

/-- A 32-bit register word (R505). -/
abbrev Word := BitVec 32

/-- A byte of memory. -/
abbrev Byte := BitVec 8

/-- A table kept as pairs of a key and a value, keys rising; a key that is not listed holds the table's default. -/
abbrev SMap (α : Type) := List (Nat × α)

/-- One line of pixels: its planes in the order of R238, each a list of component values. -/
abbrev Line := List (List Nat)

end Sys2Proof
end

