-- ==== Sys2Proof/Syntax.lean ====
section
/-! DEFINITION. The commands of the block: one constructor per row of spec/opcode_table.json, with the operands that
the outside world (host, board, sources, firmware's free choices, measured values) supplies. -/

namespace Sys2Proof

/-- The fields of one slot of a bundle (Table 4.5), where the slot stands, whether it is the bundle's last slot that is
not NOP, and whether a word it reads from memory fails its detection code (a physical upset, R175). Three more facts of a
slot: an OP value that Table 4.6 does not list, read from the bundle in place of the command's; which of the words the slot
reads the upset lies in; and the 256-bit word of Canopy, counted from its first, that an upset lies in which a merge read of
this slot's flushes meets (R176). -/
structure Slot where
  slot : Fin 8
  pn : Bool
  ps : Fin 16
  d : Fin 64
  a : Fin 64
  b : Fin 64
  c : Fin 64
  resv : BitVec 59
  imm : Word
  upset : Bool
  last : Bool
  badOp : Option (BitVec 8) := none
  upsetWord : Nat := 0
  mergeUpset : Option Nat := none
deriving DecidableEq, Repr

/-- A range of a handle: entry, byte offset, byte length. -/
structure HRange where
  handle : Nat
  off : Nat
  len : Nat
deriving DecidableEq, Repr

/-- A line-step record (Table 7.4). -/
structure LineStep where
  template : Nat
  stage : Nat
  split : Nat
  work : Nat
  misses : Nat
  wait : Nat
  budget : Nat
  recurrent : Bool
  resvZero : Bool
deriving DecidableEq, Repr

/-- A tile variant (Table 7.5). -/
structure TileVariant where
  hmin : Nat
  hmax : Nat
  tileW : Nat
  tmax : Nat
  cores : List Nat
  splits : List Nat
  resvZero : Bool
deriving DecidableEq, Repr

/-- One schedule: bucket in input lines, its records, tile variants and critical path (R220). -/
structure Schedule where
  bucket : Nat
  steps : List LineStep
  variants : List TileVariant
  crit : Nat
deriving DecidableEq, Repr

/-- One model slot: number, look-ahead, schedules, recurrent ranges (Table 7.2, types 1, 2, 13). -/
structure ModelRec where
  slot : Nat
  look : Nat
  scheds : List Schedule
  recur : List HRange
deriving DecidableEq, Repr

/-- A batch record (Table 7.7). -/
structure BatchRec where
  template : Nat
  form : Nat
  ncores : Nat
  n : Nat
  mask : BitVec 16
  cores : List Nat
  list : Nat
  stride : List Word
deriving DecidableEq, Repr

/-- A handle declaration (Table 7.2, type 9), with the entry and base the image asks for. -/
structure HandleDecl where
  entry : Nat
  owner : Nat
  dram : Bool
  spec : Bool
  wr : Bool
  base : Nat
  size : Nat
deriving DecidableEq, Repr

/-- A route (Table 7.2, type 6). -/
structure RouteRec where
  chan : Nat
  route : Word
  order : Word
deriving DecidableEq, Repr

/-- A credit pool (Table 7.2, type 7). -/
structure PoolRec where
  pool : Nat
  cap : Nat
  guard : Word
deriving DecidableEq, Repr

/-- A slot ring (Table 7.2, type 7). -/
structure RingRec where
  ring : Nat
  cfg : Word
deriving DecidableEq, Repr

/-- A semaphore of the image (Table 7.2, type 8). -/
structure SemRec where
  sem : Nat
  init : Nat
  spec : Bool
deriving DecidableEq, Repr

/-- Resident bytes and the logical cores that hold them (Table 7.2, type 11). -/
structure ResRec where
  cores : List Nat
  off : Nat
  bytes : List Byte
deriving DecidableEq, Repr

/-- A dependency entry (Table 7.2, type 12): the schedule it belongs to by model slot and bucket, a template, and the lines it
feeds, counted from the task's LINE. -/
structure DepRec where
  slot : Nat
  bucket : Nat
  template : Nat
  lines : List Nat
deriving DecidableEq, Repr

/-- A link-tensor entry (Table 8.3). -/
structure Hc8Entry where
  tensor : Nat
  fe0 : Int
  rho : BitVec 16
  nblk : Nat
  chan : Nat
  recv : Bool
  port : Nat
  probe : Bool
  spec : Bool
  ring : Nat
  resvZero : Bool
deriving DecidableEq, Repr

/-- Initial bytes of a Canopy range of owner 0xF0. -/
structure ConstRec where
  handle : Nat
  off : Nat
  bytes : List Byte
deriving DecidableEq, Repr

/-- A Criril image: its bytes, in which the header and the section directory stand (Table 7.1), and what its sections hold
(Table 7.2), whose bytes the spec does not lay out. -/
structure Image where
  bytes : List Byte
  models : List ModelRec
  batches : List BatchRec
  templates : List (List Word)
  groups : List (List Word)
  routes : List RouteRec
  pools : List PoolRec
  rings : List RingRec
  sems : List SemRec
  pairs : List (Nat × Nat)
  handles : List HandleDecl
  code : List ResRec
  resident : List ResRec
  consts : List ConstRec
  deps : List DepRec
  hc8 : List Hc8Entry
deriving DecidableEq, Repr

/-- A firmware image (R450, Table 14.7): the bytes of its slot from the first; Machine/Header.lean reads its header. -/
structure FwImage where
  bytes : List Byte
deriving DecidableEq, Repr

/-- A handle re-armed for a task before it is placed in its queue (R210): entry, base and size, in units of 256 bytes. -/
structure Rearm where
  handle : Fin 256
  base : Nat
  size : Nat
deriving DecidableEq, Repr

/-- What firmware places in a dispatch queue: raw descriptor words, a line step of a stream, or a host job item. -/
inductive TaskSrc where
  | raw (core : Fin 128) (words : List Word)
  | line (ctx : Fin 24) (out : Fin 24) (record : Nat) (tile : Nat) (split : Nat) (m : Nat)
  | item (job : Fin 64)
deriving DecidableEq, Repr

/-- An identity record (Table 12.5). -/
structure IdentRec where
  ident : Word
  digest : Nat
  mode : Nat
  cols : Nat
  rows : Nat
  col : Nat
  row : Nat
  pairId : Bool
  dieId : BitVec 64
  role : Nat
  act : Bool
  imageId : Word
deriving DecidableEq, Repr

/-- A management request to a unit: ACTION, CHECK, REASON and EXP_EPOCH (R297). -/
structure MgmtReq where
  unit : BitVec 16
  action : BitVec 7
  check : Bool
  reason : Byte
  exp : BitVec 16
deriving DecidableEq, Repr

/-- A mirrored item (Table 12.7), the role claim that STATE frames exchange (R377), or a commanded change of the partner's
role with the frame it is named for (R378). A confirmation names the frame at whose boundary both parts promote (R383). -/
inductive MirrorItem where
  | regWrite (addr : Nat) (v : Word)
  | frameNo (ctx : Fin 24) (frame lock : Word)
  | decision (ctx : Fin 24) (frame : Word) (words : List (Fin 8 × BitVec 8))
  | phase (ctx : Fin 24) (frame a b : Word) (phase : BitVec 8)
  | model (ctx : Fin 24) (slot : Nat)
  | specStart (ctx : Fin 24) (slot : Nat)
  | specConfirm (frame : Word)
  | specCancel
  | loss (ctx : Fin 24) (state : Nat)
  | claim (role : Nat) (pairId : Bool) (dieId : BitVec 64) (act : Bool)
  | roleChange (role cause : Nat) (frame : Option Word)
deriving DecidableEq, Repr

/-- How a frame arrived on a Hinge port: port, SEQ, whether its trailer CRC is right (R371). -/
structure HngHdr where
  port : Fin 4
  seq : BitVec 12
  crcOk : Bool
deriving DecidableEq, Repr

/-- What a fetch from host memory ends in (R278). -/
inductive FetchResult where
  | words (ws : List Word)
  | error
deriving DecidableEq, Repr

/-- The timing of an input frame as its receiver measures it: totals, frame rate [mHz] and active size (R87, R113). -/
structure InTiming where
  htotal : BitVec 14
  vtotal : BitVec 14
  frate : BitVec 24
  hact : BitVec 13
  vact : BitVec 13
deriving DecidableEq, Repr

/-- How a DSC-coded input stream arrives (R93): slices per line and compressed bits per pixel in sixteenths. -/
structure DscRec where
  slices : Nat
  bpp16 : Nat
deriving DecidableEq, Repr

/-- The straps (Table 14.3) with TEST_EN (R464). -/
structure Straps where
  pairId : Bool
  mgmtAddr : BitVec 2
  bootRec : Bool
  testEn : Bool
deriving DecidableEq, Repr

/-- A boot configuration copy (Table 14.6a): its 4096 bytes; Machine/Header.lean reads its fields. -/
structure BootCfg where
  bytes : List Byte
deriving DecidableEq, Repr

/-- What the boot path measures and reads outside the part (R453). -/
structure BootMeas where
  tripFiring : Bool
  mr8Density : BitVec 2
  mr8Agree : Bool
  trainOk : Bool
  rates : List (List Nat)
  dieMv : Nat
  degC : Nat
  msToRelease : Nat
deriving DecidableEq, Repr

/-- The commands. -/
inductive Instr where
  -- 01, 02: raster and governor
  | rasterSlot (s : Fin 24) (m : Fin 8192)
  | sourceSelection (s : Fin 24) (m : Fin 8192)
  | lintelLine (s : Fin 24) (m : Fin 8192)
  | outputFrameBoundary (s : Fin 24) (speculate : Bool)
  | residentRepair
  | governorIntervalEnd (minRate maxRate : BitVec 16)
  | govEnable (v : Word)
  | avsAck
  | avsResponseTimeout
  | avsPoll (ok : Bool) (mv : BitVec 10)
  | avsSettleCheck (dieMv : Nat)
  | avsSettleTimeout
  -- 03: video ports and streams
  | streamArm (s : Fin 24) (v : Word)
  | streamDisarm (s : Fin 24) (v : Word)
  | inputLine (s : Fin 24) (y : Fin 8192) (px : Line) (t : InTiming) (dsc : Option DscRec)
  | inputLoss (s : Fin 24) (cause : Fin 5)
  | replayLine (s : Fin 24)
  | planeFetch (s : Fin 24) (m : Fin 8192)
  | rxLinkTraining (n : Fin 2) (rate : Fin 8) (lanes : Fin 4) (ok : Bool)
  | nativeAux (n : Fin 2) (write : Bool) (addr : BitVec 20) (len : Fin 17) (data : List Byte)
  | i2cOverAux (n : Fin 2) (write : Bool) (dev : BitVec 7) (len : Fin 17) (data : List Byte)
  | linkAddress (n : Fin 2)
  | enumPathResources (n : Fin 2) (port : Fin 16)
  | allocatePayload (n : Fin 2) (port : Fin 16) (id : Fin 128) (pbn : BitVec 16)
  | queryPayload (n : Fin 2) (port : Fin 16) (id : Fin 128)
  | clearPayloadIdTable (n : Fin 2)
  | remoteI2cRead (n : Fin 2) (port : Fin 16) (dev : BitVec 7) (off : Fin 512) (len : Fin 256)
  | csiFrameStart (vc : Fin 4) (t : InTiming)
  | csiFrameEnd (vc : Fin 4)
  | csiLineStart (vc : Fin 4)
  | csiLineEnd (vc : Fin 4)
  | csiLongPacket (vc : Fin 4) (dt : BitVec 6) (crcOk : Bool) (px : Line)
  | edidCommit (n : Fin 2) (v : Word)
  | hpdPulseEnd (n : Fin 2)
  | txHpdFall (n : Fin 2)
  | txHpdRise (n : Fin 2)
  | txLinkTraining (n : Fin 2) (ok : Bool)
  -- 04, 06: tasks and bundles
  | taskEnqueue (src : TaskSrc) (rearms : List Rearm)
  | taskStart (k : Fin 128)
  | bundleComplete (k : Fin 128)
  | standWatchdog (n : Fin 17) (c : Fin 8)
  | waitLimit (k : Fin 128)
  | nop (k : Fin 128) (sl : Slot)
  | ldS (k : Fin 128) (sl : Slot)
  | stS (k : Fin 128) (sl : Slot)
  | ldV (k : Fin 128) (sl : Slot)
  | stV (k : Fin 128) (sl : Slot)
  | ldVb (k : Fin 128) (sl : Slot)
  | ldVx (k : Fin 128) (sl : Slot)
  | ldAr (k : Fin 128) (sl : Slot)
  | stAr (k : Fin 128) (sl : Slot)
  | stAh (k : Fin 128) (sl : Slot)
  | stAcc (k : Fin 128) (sl : Slot)
  | mma (k : Fin 128) (sl : Slot)
  | mmaz (k : Fin 128) (sl : Slot)
  | azero (k : Fin 128) (sl : Slot)
  | amov (k : Fin 128) (sl : Slot)
  | aadd (k : Fin 128) (sl : Slot)
  | ard (k : Fin 128) (sl : Slot)
  | awr (k : Fin 128) (sl : Slot)
  | vadd (k : Fin 128) (sl : Slot)
  | vsub (k : Fin 128) (sl : Slot)
  | vmul (k : Fin 128) (sl : Slot)
  | vfma (k : Fin 128) (sl : Slot)
  | vmax (k : Fin 128) (sl : Slot)
  | vmin (k : Fin 128) (sl : Slot)
  | vmov (k : Fin 128) (sl : Slot)
  | vbcst (k : Fin 128) (sl : Slot)
  | vsel (k : Fin 128) (sl : Slot)
  | vcmplt (k : Fin 128) (sl : Slot)
  | vcmpeq (k : Fin 128) (sl : Slot)
  | vshift (k : Fin 128) (sl : Slot)
  | vcvti (k : Fin 128) (sl : Slot)
  | vcvtp (k : Fin 128) (sl : Slot)
  | vsum (k : Fin 128) (sl : Slot)
  | add (k : Fin 128) (sl : Slot)
  | sub (k : Fin 128) (sl : Slot)
  | mul (k : Fin 128) (sl : Slot)
  | and (k : Fin 128) (sl : Slot)
  | or (k : Fin 128) (sl : Slot)
  | xor (k : Fin 128) (sl : Slot)
  | shl (k : Fin 128) (sl : Slot)
  | shr (k : Fin 128) (sl : Slot)
  | sra (k : Fin 128) (sl : Slot)
  | min (k : Fin 128) (sl : Slot)
  | max (k : Fin 128) (sl : Slot)
  | addi (k : Fin 128) (sl : Slot)
  | li (k : Fin 128) (sl : Slot)
  | cmplt (k : Fin 128) (sl : Slot)
  | cmpeq (k : Fin 128) (sl : Slot)
  | pand (k : Fin 128) (sl : Slot)
  | por (k : Fin 128) (sl : Slot)
  | pnot (k : Fin 128) (sl : Slot)
  | ptail (k : Fin 128) (sl : Slot)
  | rdsr (k : Fin 128) (sl : Slot)
  | sendV (k : Fin 128) (sl : Slot)
  | sendS (k : Fin 128) (sl : Slot)
  | sendAnswer (k : Fin 128)
  | sendRetry (k : Fin 128)
  | recvV (k : Fin 128) (sl : Slot)
  | recvS (k : Fin 128) (sl : Slot)
  | trecvV (k : Fin 128) (sl : Slot)
  | br (k : Fin 128) (sl : Slot)
  | jmp (k : Fin 128) (sl : Slot)
  | call (k : Fin 128) (sl : Slot)
  | ret (k : Fin 128) (sl : Slot)
  | hint (k : Fin 128) (sl : Slot)
  | swait (k : Fin 128) (sl : Slot)
  | ssig (k : Fin 128) (sl : Slot)
  | stry (k : Fin 128) (sl : Slot)
  | crget (k : Fin 128) (sl : Slot)
  | crput (k : Fin 128) (sl : Slot)
  | fence (k : Fin 128) (sl : Slot)
  | tagw (k : Fin 128) (sl : Slot)
  | halt (k : Fin 128) (sl : Slot)
  | trap (k : Fin 128) (sl : Slot)
  -- 05: Canopy and DRAM
  | cnpCfgWrite (v : Word)
  | clearingWrite (waits : List (Fin 64))
  | dramClearDone (h : Fin 256)
  | lineCacheFill (addr : Fin 17179869184) (core lecc : Bool)
  | lineCacheClean (addr : Fin 17179869184) (lecc : Bool) (waits : List (Fin 64))
  | dramRefresh (ch : Fin 16) (bank : Fin 32) (postpone : Bool)
  | dramRetrain (ch : Fin 16)
  | apertureAccess (write : Bool) (addr : BitVec 28) (len : Fin 513) (data : List Byte) (waits : List (Fin 64))
  | revokeClear
  | shadowPrefetch
  | modelPromotion
  -- 09: jobs, link codec, host interface
  | jobComplete (j : Fin 64)
  | linkLineEncode (l : Fin 64)
  | snap (v : Word)
  | histSnapCopy
  | flr
  | hotReset
  | dlDown (moved : List (Nat × List Byte))
  | dlUp (speed : Fin 5) (lanes : Fin 5)
  | registerWrite (addr : BitVec 26) (size : Nat) (v : BitVec 64)
  | rcRead (addr : BitVec 26) (size : Nat)
  | glbTimeRead (size : Nat)
  | wmstatRead (r : Fin 512)
  | ringEnable (r : Fin 512) (v : Word)
  | ringDisable (r : Fin 512) (v : Word)
  | ringDoorbell (r : Fin 512) (v : Word)
  | ringHeadWrite (r : Fin 512) (v : Word)
  | descriptorFetch (r : Fin 512) (res : FetchResult)
  | jobSubmit (r : Fin 512)
  | dmaSubmit (r : Fin 512)
  | dmaComplete (i : Nat) (data : List Byte) (ok : Bool)
  | modWindowEnd (r : Fin 512)
  -- 09: management port
  | ident (addr : BitVec 7) (code : Byte)
  | health
  | temp (pecOk : Bool) (sensor : Byte)
  | rail (pecOk : Bool) (rail : Byte)
  | ceil (pecOk : Bool) (mv : BitVec 16) (reason : Byte) (exp : BitVec 16) (check : Byte)
  | unitRead (pecOk : Bool) (unit : BitVec 16)
  | unitReqHoldOff (pecOk : Bool) (unit : BitVec 16) (action : BitVec 7) (check : Bool) (reason : Byte) (exp : BitVec 16)
  | unitReqClose (pecOk : Bool) (unit : BitVec 16) (check : Bool) (reason : Byte) (exp : BitVec 16)
  | unitReqRelease (pecOk : Bool) (unit : BitVec 16) (check : Bool) (reason : Byte) (exp : BitVec 16)
  | boot
  | alert
  | alertMask (pecOk : Bool) (mask : Word)
  -- 10: Warden command set
  | wicketDoorbell (m : Fin 16) (v : Word) (join : Bool)
  | mailboxTake (m : Fin 16)
  | commandComplete (m : Fin 16)
  | getInfo (m : Fin 16)
  | fwStage (m : Fin 16) (img : FwImage) (linkOk : Bool)
  | fwActivate (m : Fin 16) (torn : Bool)
  | streamSetup (m : Fin 16) (handle : Fin 256) (base : Nat)
  | streamRelease (m : Fin 16)
  | streamQuery (m : Fin 16)
  | shutterClose (m : Fin 16) (mgmt : Option MgmtReq)
  | shutterOpen (m : Fin 16) (mgmt : Option MgmtReq)
  | scenePlan (m : Fin 16)
  | sceneDecideConfirm (m : Fin 16) (partnerReady : Bool)
  | sceneDecideCancel (m : Fin 16)
  | imageLoad (m : Fin 16) (img : Image) (linkOk : Bool)
  | imagePromote (m : Fin 16) (partnerReady : Bool)
  | imageDrop (m : Fin 16)
  | imageInfo (m : Fin 16)
  | handleAlloc (m : Fin 16) (handle : Fin 256) (base : Nat)
  | handleFree (m : Fin 16)
  | jobCancel (m : Fin 16)
  | schedFit (m : Fin 16)
  | modeSet (m : Fin 16) (partner : Option IdentRec)
  | standby (m : Fin 16)
  | powerTarget (m : Fin 16)
  | powerGet (m : Fin 16)
  | energyCfg (m : Fin 16)
  | calRead (m : Fin 16) (linkOk : Bool)
  | calWrite (m : Fin 16) (pages : List (List Byte)) (linkOk : Bool) (torn : Option Nat)
  | calInfo (m : Fin 16)
  | bistRun (m : Fin 16)
  | bistResults (m : Fin 16)
  | rotationCfg (m : Fin 16)
  | pairRole (m : Fin 16) (linkUp : Bool)
  | pairSwap (m : Fin 16) (linkUp answers synced : Bool)
  | pairStatus (m : Fin 16)
  | counterSnap (m : Fin 16) (linkOk : Bool)
  | dbgSnapshot (m : Fin 16) (trace : List Byte) (linkOk : Bool)
  | dbgLog (m : Fin 16)
  -- 11: Understorey and Glade
  | rwGo (a : Fin 64) (v : Word)
  | rewriteDone (a : Fin 64) (vfail : BitVec 18)
  | swap (a : Fin 64) (v : Word)
  | networkEnable (n : Fin 8) (v : Word)
  | evaluationEnd (n : Fin 8) (errs : List (List Int))
  | listenEn (v : Word)
  | ack (v : Word)
  | audioSample (mic1 mic2 : BitVec 16)
  | gladeFeatureVector
  | gladeEvaluationEnd (errs : List (List Int))
  | commandWindowEnd
  | refractEnd
  | stbyReqAssert
  | stbyReqDeassert
  | vgladePowerOn (pwrOk rstHigh stbyLow : Bool)
  | vgladeLoss
  -- 12: pairs and walls
  | portTraining (n : Fin 4) (ok : Bool) (cause : Fin 3)
  | trainingRetry (n : Fin 4)
  | trainFrame (n : Fin 4) (crcOk : Bool) (rec : IdentRec)
  | ackFrame (n : Fin 4) (crcOk : Bool) (seq : BitVec 12)
  | nakFrame (n : Fin 4) (crcOk : Bool) (seq : BitVec 12)
  | hingeAckSend (n : Fin 4)
  | heartbeatFrame (h : HngHdr) (frame : Word) (line : Fin 8192) (src : Fin 4) (closed : Bool) (ctx : Fin 24) (lcrc : Word)
  | syncFrame (h : HngHdr) (frame lock : Word)
  | govFrame (h : HngHdr) (mv : BitVec 10) (urgent : Bool)
  | stateFrame (h : HngHdr) (item : MirrorItem)
  | dataFrame (h : HngHdr) (lch : Fin 64) (bytes : List Byte)
  | haloFrame (h : HngHdr) (ctx : Fin 24) (frame : Word) (y x : Nat) (px : Line)
  | fwdFrame (h : HngHdr) (img : Image) (part : Nat) (load : Bool)
  | heartbeatMiss (s : Fin 24) (m : Fin 8192) (peerAct : Bool)
  | splitHeartbeatWait (s : Fin 24) (m : Fin 8192)
  | frameSyncEdge (highNs : Nat)
  | frameSyncPulseEnd
  | frameSyncLost
  | peerWaitTimeout (peerAct : Bool)
  -- 13: power, thermal, rotation
  | currentWindow (mv : List (BitVec 16)) (ma : List (BitVec 16)) (dieMv : Nat)
  | energyRecord (s : Fin 24) (frame : Word)
  | sensorSample (q : List (BitVec 16))
  | thermalTrip (i : Fin 24) (q : BitVec 16)
  | standPowerUp (n : Fin 17)
  | rotationCopyDone
  | quietPoint
  | rotationCommit
  | rotationAbort
  | rotationTick
  | ageingMeasurement (n : Fin 17) (rate : BitVec 12) (mv : Nat) (degC : Nat)
  | bistComplete (n : Fin 17) (pass : Bool) (detail : Word)
  -- 14: reset and boot
  | pwrOkFall
  | pwrOkRise (ordered : Bool)
  | resetNAssert
  | resetNRelease
  | resetExit (st : Straps)
  | wardenWatchdog
  | bootPath (c0 c1 : BootCfg) (slotA slotB : FwImage) (ms : BootMeas)
  | perstNAssert (moved : List (Nat × List Byte))
  | perstNDeassert
  -- 15: pins
  | strapSample (st : Straps)
  | ambSample (mv : Int)
  | ambCfgWrite (v : Word)
  -- 16: JTAG
  | idcode
  | samplePreload (balls : List Bool)
  | extest
  | highz
  | clamp
  | dbgAccess (data : Word) (addr : BitVec 26) (write : Bool)
  | bypass
  -- further events
  | hingePortDown (n : Fin 4) (cause : Fin 3)
  | linkRecovery
  | tapReset
  | alertResponse (addr : BitVec 7)
deriving DecidableEq, Repr

end Sys2Proof
end

