-- ==== Sys2Proof/Decode.lean ====
section
/-! DEFINITION. The command a word spells by the opcode table's bits: no row of spec/opcode_table.json gives any bits, so
no word spells a command. -/

namespace Sys2Proof

/-- The command that the word w of nbits bits spells: none, since the table gives no row bits (log entry 1). -/
def decodeTableWord (_nbits _w : Nat) : Option Instr := none

end Sys2Proof
end

