-- ==== Sys2Proof/Machine/Store.lean ====
section
/-! DEFINITION. The sparse map's operations, the bit fields of a register word (R7), two's complement and byte order. -/

namespace Sys2Proof.Machine

/-- The value at a key, the default where none is listed. -/
def mget {α : Type} (d : α) (m : SMap α) (k : Nat) : α :=
  match m with
  | [] => d
  | (j, v) :: t => if j = k then v else mget d t k

/-- The map without a key. -/
def merase {α : Type} (m : SMap α) (k : Nat) : SMap α := m.filter (fun p => p.1 != k)

/-- A pair put in its place by key. -/
def minsert {α : Type} (k : Nat) (v : α) : SMap α → SMap α
  | [] => [(k, v)]
  | (j, w) :: t => if k < j then (k, v) :: (j, w) :: t else (j, w) :: minsert k v t

/-- The map with a key set: the default value takes the key out, so that equal tables are equal data. -/
def mset {α : Type} [DecidableEq α] (d : α) (m : SMap α) (k : Nat) (v : α) : SMap α :=
  if v = d then merase m k else minsert k v (merase m k)

/-- The map with every key that satisfies p back at the default. -/
def mdrop {α : Type} (p : Nat → Bool) (m : SMap α) : SMap α := m.filter (fun e => !p e.1)

/-- The keys rise strictly. -/
def msorted {α : Type} : SMap α → Bool
  | [] => true
  | [_] => true
  | (j, _) :: (k, w) :: t => decide (j < k) && msorted ((k, w) :: t)

/-- The canonical form: keys rise strictly and no entry holds the default. -/
def mwf {α : Type} [DecidableEq α] (d : α) (m : SMap α) : Bool := msorted m && m.all (fun p => decide (p.2 ≠ d))

/-- The value of the n bits from lo (R7). -/
def fieldGet (v : Word) (lo n : Nat) : Nat := (v.toNat >>> lo) % 2 ^ n

/-- The word with the n bits from lo set to x modulo 2^n. -/
def fieldPut (v : Word) (lo n x : Nat) : Word :=
  let mask : Word := BitVec.ofNat 32 (2 ^ n - 1) <<< lo
  (v &&& ~~~mask) ||| ((BitVec.ofNat 32 (x % 2 ^ n) <<< lo) &&& mask)

/-- A natural number of n bits read as two's complement. -/
def toSigned (n x : Nat) : Int := if x % 2 ^ n < 2 ^ (n - 1) then (x % 2 ^ n : Nat) else ((x % 2 ^ n : Nat) : Int) - 2 ^ n

/-- An integer as the n-bit two's complement number it is modulo 2^n. -/
def ofSigned (n : Nat) (x : Int) : Nat := (x % (2 ^ n : Int)).toNat

/-- An integer held between two bounds. -/
def clampI (lo hi x : Int) : Int := if x < lo then lo else if hi < x then hi else x

/-- A number held between two bounds. -/
def clampN (lo hi x : Nat) : Nat := if x < lo then lo else if hi < x then hi else x

/-- num / den to the nearest integer, ties away from zero (R244); den is positive. -/
def roundDiv (num : Int) (den : Nat) : Int :=
  if 0 ≤ num then ((2 * num.natAbs + den) / (2 * den) : Nat) else -(((2 * num.natAbs + den) / (2 * den) : Nat) : Int)

/-- The bytes of a number, least significant first. -/
def toBytes (n x : Nat) : List Byte := (List.range n).map (fun i => BitVec.ofNat 8 (x >>> (8 * i)))

/-- The number whose bytes, least significant first, these are. -/
def ofBytes : List Byte → Nat
  | [] => 0
  | b :: t => b.toNat + 256 * ofBytes t

/-- The i-th of a list, the default past its end. -/
def nth {α : Type} (d : α) (l : List α) (i : Nat) : α := l.getD i d

/-- A condition as a bit. -/
def bit (b : Bool) : Nat := if b then 1 else 0

/-- Whether bit i of a number is 1. -/
def tbit (x i : Nat) : Bool := x.testBit i

/-- A number with bit i set. -/
def setBit (x i : Nat) : Nat := if x.testBit i then x else x + 2 ^ i

/-- A number with bit i cleared. -/
def clrBit (x i : Nat) : Nat := if x.testBit i then x - 2 ^ i else x

/-- The low 32 bits as a word. -/
def w32 (x : Nat) : Word := BitVec.ofNat 32 x

/-- A fold over 0 … n − 1. -/
def forN {α : Type} (n : Nat) (f : Nat → α → α) (a : α) : α := (List.range n).foldl (fun x i => f i x) a

end Sys2Proof.Machine
end

