-- ==== Sys2Proof/Machine/Crc.lean ====
section
/-! DEFINITION. The cyclic codes: CRC-32 (Table 7.1), CRC-16 of routes (R194), CRC-10 of memory words (R174), CRC-8 of SMBus. -/

namespace Sys2Proof.Machine

/-- One bit step of the reflected CRC-32. -/
def crc32Bit (r : Nat) : Nat := if r.testBit 0 then (r >>> 1) ^^^ 0xEDB88320 else r >>> 1

/-- One byte of the CRC-32. -/
def crc32Byte (r : Nat) (b : Byte) : Nat := (List.range 8).foldl (fun x _ => crc32Bit x) (r ^^^ b.toNat)

/-- CRC-32, IEEE 802.3 polynomial, reflected, initial 0xFFFF_FFFF, final inversion (Table 7.1). -/
def crc32 (bs : List Byte) : Word := BitVec.ofNat 32 (bs.foldl crc32Byte 0xFFFFFFFF ^^^ 0xFFFFFFFF)

/-- One bit step of CRC-16, polynomial 0x1021, most significant bit first. -/
def crc16Bit (r : Nat) : Nat := if r.testBit 15 then ((r <<< 1) ^^^ 0x1021) % 65536 else (r <<< 1) % 65536

/-- One byte of the CRC-16. -/
def crc16Byte (r : Nat) (b : Byte) : Nat := (List.range 8).foldl (fun x _ => crc16Bit x) (r ^^^ (b.toNat <<< 8))

/-- CRC-16 with initial 0xFFFF and no final inversion (R194). -/
def crc16 (bs : List Byte) : Nat := bs.foldl crc16Byte 0xFFFF

/-- The signature of a route (R194): the route word, the order word with its upper half zero, then IMAGE_ID (log entry 56). -/
def routeSig (route order id : Word) : Nat :=
  crc16 (toBytes 4 route.toNat ++ toBytes 4 (order.toNat % 65536) ++ toBytes 4 id.toNat)

/-- One bit step of CRC-8, polynomial 0x07, most significant bit first. -/
def crc8Bit (r : Nat) : Nat := if r.testBit 7 then ((r <<< 1) ^^^ 0x07) % 256 else (r <<< 1) % 256

/-- CRC-8 with initial 0, the PEC of SMBus (R294 names it; polynomial and order PRESUMED, log entry 119). -/
def crc8 (bs : List Byte) : Byte :=
  BitVec.ofNat 8 (bs.foldl (fun r b => (List.range 8).foldl (fun x _ => crc8Bit x) (r ^^^ b.toNat)) 0)

/-- CRC-10 of a 256-bit word, generator x^10 + x^3 + 1, bit 255 first (R174). -/
def crc10 (w : BitVec 256) : Nat :=
  (List.range 256).foldl (fun r i =>
    let fb := Bool.xor (r.testBit 9) (w.toNat.testBit (255 - i))
    let s := (r <<< 1) % 1024
    if fb then s ^^^ 9 else s) 0

end Sys2Proof.Machine
end

