-- ==== Sys2Proof/Machine/Crypt.lean ====
section
/-! DEFINITION. The two cryptographic tests of R451: SHA-256 and ECDSA over the curve P-256. The spec names both and states neither;
their constants are those of the published standards (PRESUMED, log entry 12). -/

namespace Sys2Proof.Machine

/-- A number handed on evaluated: f x, with x worked out first. -/
def settled {α : Type} (x : Nat) (f : Nat → α) : α := match x with
  | 0 => f 0
  | n + 1 => f (n + 1)

/-! SHA-256. -/

/-- The round constants of SHA-256. -/
def shaK : List Nat := [
  0x428a2f98, 0x71374491, 0xb5c0fbcf, 0xe9b5dba5, 0x3956c25b, 0x59f111f1, 0x923f82a4, 0xab1c5ed5,
  0xd807aa98, 0x12835b01, 0x243185be, 0x550c7dc3, 0x72be5d74, 0x80deb1fe, 0x9bdc06a7, 0xc19bf174,
  0xe49b69c1, 0xefbe4786, 0x0fc19dc6, 0x240ca1cc, 0x2de92c6f, 0x4a7484aa, 0x5cb0a9dc, 0x76f988da,
  0x983e5152, 0xa831c66d, 0xb00327c8, 0xbf597fc7, 0xc6e00bf3, 0xd5a79147, 0x06ca6351, 0x14292967,
  0x27b70a85, 0x2e1b2138, 0x4d2c6dfc, 0x53380d13, 0x650a7354, 0x766a0abb, 0x81c2c92e, 0x92722c85,
  0xa2bfe8a1, 0xa81a664b, 0xc24b8b70, 0xc76c51a3, 0xd192e819, 0xd6990624, 0xf40e3585, 0x106aa070,
  0x19a4c116, 0x1e376c08, 0x2748774c, 0x34b0bcb5, 0x391c0cb3, 0x4ed8aa4a, 0x5b9cca4f, 0x682e6ff3,
  0x748f82ee, 0x78a5636f, 0x84c87814, 0x8cc70208, 0x90befffa, 0xa4506ceb, 0xbef9a3f7, 0xc67178f2]

/-- The initial value of SHA-256. -/
def shaInit : List Nat := [0x6a09e667, 0xbb67ae85, 0x3c6ef372, 0xa54ff53a, 0x510e527f, 0x9b05688c, 0x1f83d9ab, 0x5be0cd19]

/-- A 32-bit rotation to the right. -/
def rotr (n x : Nat) : Nat := (x >>> n) ||| ((x <<< (32 - n)) % 2 ^ 32)

/-- Word t of the message schedule from the sixteen before it, the latest first. -/
def shaNext (w : List Nat) : Nat :=
  let (a, b) := (nth 0 w 14, nth 0 w 1)
  let s0 := rotr 7 a ^^^ rotr 18 a ^^^ (a >>> 3)
  let s1 := rotr 17 b ^^^ rotr 19 b ^^^ (b >>> 10)
  (nth 0 w 15 + s0 + nth 0 w 6 + s1) % 2 ^ 32

/-- The message schedule, the latest word first. -/
def shaSchedule (block : List Nat) : List Nat :=
  (List.range 48).foldl (fun w _ => settled (shaNext w) (fun x => x :: w)) block.reverse

/-- One round on the eight working words. -/
def shaRound (v : List Nat) (k w : Nat) : List Nat := match v with
  | [a, b, c, d, e, f, g, h] =>
    settled ((h + (rotr 6 e ^^^ rotr 11 e ^^^ rotr 25 e) + ((e &&& f) ^^^ ((0xFFFFFFFF ^^^ e) &&& g)) + k + w) % 2 ^ 32) (fun t1 =>
    settled ((t1 + (rotr 2 a ^^^ rotr 13 a ^^^ rotr 22 a) + ((a &&& b) ^^^ (a &&& c) ^^^ (b &&& c))) % 2 ^ 32) (fun a' =>
    settled ((d + t1) % 2 ^ 32) (fun e' => [a', a, b, c, e', e, f, g])))
  | _ => v

/-- One block of sixteen words. -/
def shaBlock (hash block : List Nat) : List Nat :=
  let out := (shaK.zip (shaSchedule block).reverse).foldl (fun v p => shaRound v p.1 p.2) hash
  (hash.zip out).foldr (fun p t => settled ((p.1 + p.2) % 2 ^ 32) (fun x => x :: t)) []

/-- The number whose bytes, most significant first, these are. -/
def ofBytesBe (bs : List Byte) : Nat := bs.foldl (fun n b => settled (256 * n + b.toNat) id) 0

/-- A message padded to whole blocks. -/
def shaPad (bs : List Byte) : List Byte :=
  bs ++ [0x80] ++ List.replicate ((119 - bs.length % 64) % 64) 0 ++ (toBytes 8 (8 * bs.length)).reverse

/-- Word i of a list of bytes, most significant byte first. -/
def wordBe (bs : List Byte) (i : Nat) : Nat := ofBytesBe ((bs.drop (4 * i)).take 4)

/-- SHA-256 as one number of 256 bits, its first byte the most significant. -/
def sha256 (bs : List Byte) : Nat :=
  let m := shaPad bs
  let hash := (List.range (m.length / 64)).foldl (fun h i =>
    let b := (m.drop (64 * i)).take 64
    shaBlock h ((List.range 16).map (wordBe b))) shaInit
  hash.foldl (fun n x => settled (2 ^ 32 * n + x) id) 0

/-! ECDSA over P-256. -/

/-- The prime of the field of P-256. -/
def p256 : Nat := 2 ^ 256 - 2 ^ 224 + 2 ^ 192 + 2 ^ 96 - 1

/-- The order of the group of P-256. -/
def p256Order : Nat := 0xffffffff00000000ffffffffffffffffbce6faada7179e84f3b9cac2fc632551

/-- The coefficient b of y² = x³ − 3 x + b. -/
def p256B : Nat := 0x5ac635d8aa3a93e7b3ebbd55769886bc651d06b0cc53b0f63bce3c3e27d2604b

/-- A point in Jacobian coordinates: (x / z², y / z³), the neutral point where z is 0. -/
structure EcPoint where
  x : Nat
  y : Nat
  z : Nat
deriving DecidableEq, Repr

/-- The base point of P-256. -/
def p256Base : EcPoint :=
  ⟨0x6b17d1f2e12c4247f8bce6e563a440f277037d812deb33a0f4a13945d898c296, 0x4fe342e2fe1a7f9b8ee7eb4a7c0f9e162bce33576b315ececbb6406837bf51f5, 1⟩

/-- The neutral point. -/
def EcPoint.zero : EcPoint := ⟨1, 1, 0⟩

/-- A difference in the field. -/
def fpSub (a b : Nat) : Nat := (a + p256 - b % p256) % p256

/-- A point doubled. -/
def EcPoint.dbl (q : EcPoint) : EcPoint :=
  settled (q.z * q.z % p256) (fun zz =>
  settled (q.y * q.y % p256) (fun yy =>
  settled (q.x * yy % p256) (fun b =>
  settled (3 * fpSub q.x zz * (q.x + zz) % p256) (fun a =>
  settled (fpSub (a * a) (8 * b)) (fun x =>
  settled (fpSub (a * fpSub (4 * b) x) (8 * yy * yy)) (fun y =>
  settled (2 * q.y * q.z % p256) (fun z => ⟨x, y, z⟩)))))))

/-- The sum of two points. -/
def EcPoint.add (p q : EcPoint) : EcPoint :=
  if p.z = 0 then q else if q.z = 0 then p
  else
    settled (p.z * p.z % p256) (fun z1 =>
    settled (q.z * q.z % p256) (fun z2 =>
    settled (p.x * z2 % p256) (fun u =>
    settled (p.y * z2 * q.z % p256) (fun s =>
    settled (fpSub (q.x * z1) u) (fun h =>
    settled (fpSub (q.y * z1 * p.z) s) (fun r =>
    if h = 0 then (if r = 0 then p.dbl else EcPoint.zero)
    else
      settled (h * h % p256) (fun hh =>
      settled (fpSub (r * r) (h * hh + 2 * u * hh)) (fun x =>
      settled (fpSub (r * fpSub (u * hh) x) (s * h * hh)) (fun y =>
      settled (h * p.z * q.z % p256) (fun z => ⟨x, y, z⟩))))))))))

/-- a times the base point plus b times q. -/
def ecCombine (a b : Nat) (q : EcPoint) : EcPoint :=
  let both := p256Base.add q
  (List.range 256).foldl (fun acc i =>
    let acc := acc.dbl
    match a.testBit (255 - i), b.testBit (255 - i) with
    | true, true => acc.add both
    | true, false => acc.add p256Base
    | false, true => acc.add q
    | false, false => acc) EcPoint.zero

/-- x to the power e modulo n, for an exponent of 256 bits. -/
def powMod (x e n : Nat) : Nat :=
  (List.range 256).foldl (fun acc i => settled (acc * acc * (if e.testBit (255 - i) then x else 1) % n) id) 1

/-- Whether a public key is a point of the curve other than the neutral one. -/
def ecOnCurve (x y : Nat) : Bool :=
  decide (x < p256 ∧ y < p256) && fpSub (y * y) (x * x * x + p256B) == fpSub 0 (3 * x)

/-- Whether (r, s) is a valid signature of a digest under the public key (x, y). -/
def ecdsaOk (x y r s digest : Nat) : Bool :=
  let n := p256Order
  settled (powMod s (n - 2) n) (fun w =>
  let q := ecCombine (digest * w % n) (r * w % n) ⟨x, y, 1⟩
  let zz := q.z * q.z % p256
  decide (0 < r ∧ r < n ∧ 0 < s ∧ s < n) && ecOnCurve x y && decide (q.z ≠ 0) &&
    (q.x == r * zz % p256 || (decide (r + n < p256) && q.x == (r + n) * zz % p256)))

end Sys2Proof.Machine
end

