-- ==== Sys2Proof/Machine/Header.lean ====
section
/-! DEFINITION. What is read from the bytes that come from outside: the header and the section directory of a Criril image
(07_schedules_and_tiling.md, Table 7.1), the header of a firmware image and a boot configuration copy (14_boot_and_calibration.md,
Tables 14.7 and 14.6a). -/

namespace Sys2Proof

/-- An entry of the section directory (Table 7.1). -/
structure DirEntry where
  type : Nat
  off : Nat
  len : Nat
  resv : Nat
deriving DecidableEq, Repr

/-- The byte at an offset of an image. -/
def Image.byteAt (im : Image) (o : Nat) : Nat := (Machine.nth 0 im.bytes o).toNat

/-- The four bytes from an offset, little-endian (R8). -/
def Image.wordAt (im : Image) (o : Nat) : Nat := Machine.ofBytes ((im.bytes.drop o).take 4)

/-- MAGIC is right. -/
def Image.magicOk (im : Image) : Bool := im.bytes.take 4 == [0x43, 0x52, 0x49, 0x4C]

/-- FORMAT. -/
def Image.format (im : Image) : Nat := im.wordAt 0x04

/-- IDENT. -/
def Image.ident (im : Image) : Word := BitVec.ofNat 32 (im.wordAt 0x08)

/-- IMAGE_ID. -/
def Image.id (im : Image) : Word := BitVec.ofNat 32 (im.wordAt 0x0C)

/-- LENGTH [bytes]. -/
def Image.length (im : Image) : Nat := im.wordAt 0x10

/-- CRC as the header states it. -/
def Image.crc (im : Image) : Word := BitVec.ofNat 32 (im.wordAt 0x14)

/-- The CRC-32 over bytes 0x20 … LENGTH − 1. -/
def Image.crcOf (im : Image) : Word := Machine.crc32 ((im.bytes.take im.length).drop 0x20)

/-- CODE_SZ [4 KiB]. -/
def Image.codeSz (im : Image) : Nat := im.byteAt 0x18

/-- RES_SZ [4 KiB]. -/
def Image.resSz (im : Image) : Nat := im.byteAt 0x19

/-- LCB_MIN. -/
def Image.lcbMin (im : Image) : Nat := im.byteAt 0x1A

/-- PART. -/
def Image.part (im : Image) : Nat := im.byteAt 0x1B

/-- MODELS: the number of model slots described. -/
def Image.modelsN (im : Image) : Nat := im.byteAt 0x1C

/-- SECTIONS: the number of directory entries. -/
def Image.sectionsN (im : Image) : Nat := im.byteAt 0x1D

/-- The section directory. -/
def Image.directory (im : Image) : List DirEntry :=
  (List.range im.sectionsN).map (fun i => ⟨im.wordAt (0x40 + 16 * i), im.wordAt (0x44 + 16 * i), im.wordAt (0x48 + 16 * i),
    im.wordAt (0x4C + 16 * i)⟩)

/-- The TYPE of each section. -/
def Image.sections (im : Image) : List Nat := im.directory.map (·.type)

/-- Every section lies behind the directory and within LENGTH. -/
def Image.sectionsIn (im : Image) : Bool :=
  im.directory.all (fun e => decide (0x40 + 16 * im.sectionsN ≤ e.off ∧ e.off + e.len ≤ im.length))

/-- The reserved bytes of header and directory are zero. -/
def Image.resvZero (im : Image) : Bool :=
  (im.bytes.drop 0x1E).take 2 == [0, 0] && ((im.bytes.drop 0x20).take 32).all (· == 0) && im.directory.all (fun e => e.resv == 0)

/-! Firmware images (R450, R451). -/

/-- The n bytes from an offset, least significant first. -/
def FwImage.field (f : FwImage) (o n : Nat) : Nat := Machine.ofBytes ((f.bytes.drop o).take n)

/-- The 32 bytes from an offset, most significant first. -/
def FwImage.big (f : FwImage) (o : Nat) : Nat := Machine.ofBytesBe ((f.bytes.drop o).take 32)

/-- MAGIC is right. -/
def FwImage.magicOk (f : FwImage) : Bool := f.bytes.take 4 == [0x57, 0x46, 0x57, 0x31]

/-- RELEASE: [15:8] major, [7:0] minor. -/
def FwImage.release (f : FwImage) : Nat := f.field 0x004 2

/-- LENGTH: the body [bytes]. -/
def FwImage.length (f : FwImage) : Nat := f.field 0x008 4

/-- GLADE_OFF: where the Glade program begins in the body. -/
def FwImage.gladeOff (f : FwImage) : Nat := f.field 0x00C 4

/-- GLADE_LEN [bytes]. -/
def FwImage.gladeLen (f : FwImage) : Nat := f.field 0x010 4

/-- The reserved bytes of the header are zero. -/
def FwImage.resvZero (f : FwImage) : Bool :=
  ((f.bytes.drop 0x006).take 2 ++ (f.bytes.drop 0x014).take 12 ++ (f.bytes.drop 0x0A0).take 96).all (· == 0)

/-- The image is whole, and its lengths are within Table 14.7. -/
def FwImage.sized (f : FwImage) : Bool :=
  decide (f.length ≤ 0x003FFF00 ∧ f.gladeLen ≤ 131072 ∧ f.gladeOff + f.gladeLen ≤ f.length ∧ 0x100 + f.length ≤ f.bytes.length)

/-- The SHA-256 of PUBKEY. -/
def FwImage.keyDigest (f : FwImage) : Nat := Machine.sha256 ((f.bytes.drop 0x020).take 64)

/-- The SHA-256 of the whole image with the bytes of SIG taken as zero. -/
def FwImage.digest (f : FwImage) : Nat :=
  Machine.sha256 (f.bytes.take 0x060 ++ List.replicate 64 0 ++ (f.bytes.take (0x100 + f.length)).drop 0x0A0)

/-- SIG is valid under PUBKEY. -/
def FwImage.sigValid (f : FwImage) : Bool :=
  Machine.ecdsaOk (f.big 0x020) (f.big 0x040) (f.big 0x060) (f.big 0x080) f.digest

/-- Whether a firmware image is authentic against the fused key digest (R451). -/
def FwImage.authentic (fused : Nat) (f : FwImage) : Bool :=
  f.magicOk && f.resvZero && f.sized && decide (f.keyDigest = fused) && f.sigValid

/-! Boot configuration copies (R449). -/

/-- The n bytes from an offset, least significant first. -/
def BootCfg.field (b : BootCfg) (o n : Nat) : Nat := Machine.ofBytes ((b.bytes.drop o).take n)

/-- A copy is valid where its MAGIC and its CRC are right. -/
def BootCfg.valid (b : BootCfg) : Bool :=
  b.bytes.take 4 == [0x46, 0x42, 0x43, 0x46] && b.field 0xFFC 4 == (Machine.crc32 (b.bytes.take 0xFFC)).toNat

/-- SEQ. -/
def BootCfg.seq (b : BootCfg) : Nat := b.field 0x004 4

/-- BOOT_SLOT: whether it names slot B. -/
def BootCfg.slot (b : BootCfg) : Bool := b.field 0x008 1 == 1

/-- DRAM: [1:0] RATE, [3:2] DENSITY. -/
def BootCfg.dram (b : BootCfg) : BitVec 4 := BitVec.ofNat 4 (b.field 0x009 1)

/-- A copy as firmware writes it, its reserved bytes zero and its CRC with it. -/
def BootCfg.make (seq slot dram xspi : Nat) : BootCfg :=
  let body : List Byte := [0x46, 0x42, 0x43, 0x46] ++ Machine.toBytes 4 seq ++ Machine.toBytes 1 slot ++ Machine.toBytes 1 dram ++
    Machine.toBytes 1 xspi ++ List.replicate 4081 0
  ⟨body ++ Machine.toBytes 4 (Machine.crc32 body).toNat⟩

end Sys2Proof
end

