-- ==== Sys2Proof/Config.lean ====
section
/-! DEFINITION. What an implementation fixes and the spec leaves open: constants without a body (free values), so that
no proof can lean on a value of them, and the sizes the spec states. -/

namespace Sys2Proof.Config

/-- FREE VALUE (log entry 5): coefficient k of Lintel's filter of a tap count at the phase num / den, with 16 fractional bits (R41
fixes the coefficients in hardware and states none of them). -/
opaque lintelCoef (taps num den k : Nat) : Int

/-- FREE VALUE (log entry 5): coefficient (row, column) of the 3 × 3 low-pass that the unsharp mask of R41 subtracts, with 16
fractional bits. -/
opaque lintelBlur (i j : Nat) : Int

/-- FREE VALUE (log entry 5): an integer with its lowest bits dropped so that it is about x / den: how Lintel's internal arithmetic
keeps 16 fractional bits between its steps (R41 states the last rounding only). -/
opaque lintelNarrow (x : Int) (den : Nat) : Int

/-- FREE VALUE (log entry 5): which of n samples stands in for the one at a place outside the picture. -/
opaque lintelEdge (n : Nat) (i : Int) : Nat

/-- FREE VALUE (log entry 5): a sample of an input line that Lintel's store does not hold. -/
opaque lintelLost (line plane x : Nat) : Int

/-- FREE VALUE (log entry 5): plane i of a pixel of three filtered components, in the format of an output whose SAMP, MATRIX or FULL
differs from the input's (R41 states no conversion). -/
opaque lintelConvert (fin fout i : Nat) (px : List Int) : Int

/-- FREE VALUE (log entry 6): coefficient (row i, column j; j = 3 is the offset) of the RGB to Y′CbCr matrix, with 16
fractional bits, for a MATRIX code that Table 3.1 does not list. -/
opaque matrixCoef (matrix : Nat) (full : Bool) (bpc i j : Nat) : Int

/-- FREE VALUE (log entry 52): what a rounded component outside 0 … 2^bpc − 1 becomes (R100, R240 and R41 state no result
there). -/
opaque overRange (bpc : Nat) (x : Int) : Nat

/-- FREE VALUE (log entry 53): component i (alpha, red, green, blue) of a plane word in a PLFMT that Table 3.1 does not list. -/
opaque planeFormat (fmt w i : Nat) : Nat

/-- FREE VALUE (log entry 7): whether VMAX or VMIN of a +0 and a −0 gives the first operand (Table 4.6 states no order of
the two zeros). -/
opaque zeroPick (isMax : Bool) (a b : BitVec 16) : Bool

/-- FREE VALUE (log entry 8): a DPCD byte the spec does not give (R92 names the DPCD and lists no content). -/
opaque dpcdByte (n addr : Nat) : Byte

/-- FREE VALUE (log entry 9): the VCORE energy estimated for one operation in a bundle slot at a VCORE in mV (R415: a coefficient of
the firmware). -/
opaque energySlot (slot mv : Nat) : Nat

/-- FREE VALUE (log entry 9): the memory energy estimated for one access to Canopy (R415). -/
opaque energyCanopy : Nat

/-- FREE VALUE (log entry 9): the memory energy estimated for one byte of DRAM (R415). -/
opaque energyDram : Nat

/-- FREE VALUE (log entry 9): the idle terms of an interval of so many ns, of VCORE (0) and of memory (1) (R415). -/
opaque energyIdle (kind ns : Nat) : Nat

/-- FREE VALUE (log entry 49): the log-mel value of one of the forty bands of R359 over the last 400 samples of a microphone (the
spec states neither the filter bank nor the logarithm's scale). -/
opaque melBand (band : Nat) (samples : List (BitVec 16)) : Int

/-- FREE VALUE (log entry 49): the running mean of a band after a new value, from the mean before (R359 states its time constant of 2 s, not the discrete law). -/
opaque melMean (band : Nat) (mean value : Int) : Int

/-- FREE VALUE (log entry 157): word j of an identity record (Table 12.5 states what it holds, not where). -/
opaque trainWord (r : IdentRec) (j : Nat) : BitVec 64

/-- FREE VALUE (log entry 157): word j of a STATE frame's payload (Table 12.7 states the items, not where they stand). -/
opaque stateWord (i : MirrorItem) (j : Nat) : BitVec 64

/-- FREE VALUE (log entry 157): the first payload word of a HALO frame, which names context, frame, line and column (R400 states the
containers that follow). -/
opaque haloWord (ctx : Nat) (frame : Word) (y x : Nat) : BitVec 64

/-- FREE VALUE (log entry 11): the set index of the line cache for a DRAM line (R157 states the ways, not the index). -/
opaque lineCacheSet (sets line : Nat) : Nat

/-- FREE VALUE (log entry 171): the current [mA] that a rail's sense reading gives with an offset [mA] and a gain [1/32 768] of
calibration page 5 (Table 14.9 states both and not their order). -/
opaque senseMa (off : Int) (gain ma : Nat) : Nat

/-- FREE VALUE (log entry 77): byte i of a calibration page that a reset left half programmed, by the model's counter (R460). -/
opaque tornByte (n i : Nat) : BitVec 8

/-- FREE VALUE (log entry 12): the key digest fused at production test (R451). -/
opaque keyDigest : Nat

/-- FREE VALUE (log entry 14): the capture value of a JTAG data register bit the spec does not give. -/
opaque jtagBit (n : Nat) : Bool

/-- FREE VALUE (log entry 15): the next value of the model's counter of free values, as a word. -/
opaque freeWord (n : Nat) : Word

/-- Operand buffer of one core [bytes] (Table 5.1). -/
abbrev opbufBytes : Nat := 0x8000
/-- Core memory of one core [bytes] (Table 5.1). -/
abbrev coreMemBytes : Nat := 0x80000
/-- Canopy [bytes] (Table 5.1). -/
abbrev canopyBytes : Nat := 0x10000000

end Sys2Proof.Config
end

