-- ==== Sys2Proof/Machine/Regs.lean ====
section
/-! DEFINITION. The register map (17_register_map.md and the register tables of every chapter): the address of every
BAR0 register, the place of every field in it, and one row per register with its reset value and access masks. -/

namespace Sys2Proof.Machine

/-- A field of a register: its BAR0 address, its lowest bit, its width (R7, R17). -/
structure Fld where
  addr : Nat
  lo : Nat
  n : Nat
deriving DecidableEq, Repr

/-- One row of the register tables: first address, two strides with their counts (Table 17.2), the reset value and the
masks of the access codes of Table 0.4. -/
structure RegRow where
  base : Nat
  s1 : Nat
  c1 : Nat
  s2 : Nat
  c2 : Nat
  reset : Nat
  rw : Nat
  w1c : Nat
  rc : Nat
  wo : Nat
deriving DecidableEq, Repr

/-- Base address of stand n: stands 0 … 15 by the formula, stand 16 in its own window (R144, R506). -/
def stdBase (n : Nat) : Nat := if n = 16 then 0x78000 else 0x80000 + 0x8000 * n

/-! Register addresses. -/
namespace R

/-- RAS_s_POLICY (R45, Table 1.5). -/
abbrev rasPolicy (s : Nat) : Nat := 0x50000 + 0x40 * s
/-- RAS_s_LINTEL (R45, Table 1.5). -/
abbrev rasLintel (s : Nat) : Nat := 0x50004 + 0x40 * s
/-- RAS_s_LINTEL_ACT (R45, Table 1.5). -/
abbrev rasLintelAct (s : Nat) : Nat := 0x50008 + 0x40 * s
/-- RAS_s_FB_LATE (R45, Table 1.5). -/
abbrev rasFbLate (s : Nat) : Nat := 0x5000c + 0x40 * s
/-- RAS_s_FB_DET (R45, Table 1.5). -/
abbrev rasFbDet (s : Nat) : Nat := 0x50010 + 0x40 * s
/-- RAS_s_FB_STAND (R45, Table 1.5). -/
abbrev rasFbStand (s : Nat) : Nat := 0x50014 + 0x40 * s
/-- RAS_s_FB_LAST (R45, Table 1.5). -/
abbrev rasFbLast (s : Nat) : Nat := 0x50018 + 0x40 * s
/-- RAS_s_LATE_WR (R45, Table 1.5). -/
abbrev rasLateWr (s : Nat) : Nat := 0x5001c + 0x40 * s
/-- RAS_s_SLACK (R71, Table 2.5). -/
abbrev rasSlack (s : Nat) : Nat := 0x50020 + 0x40 * s
/-- RAS_s_SLACK_NEG (R71, Table 2.5). -/
abbrev rasSlackNeg (s : Nat) : Nat := 0x50024 + 0x40 * s
/-- PHC_GOV_CTRL (R85, Table 2.6). -/
abbrev phcGovCtrl : Nat := 0x1c0100
/-- PHC_GOV_FLOOR (R85, Table 2.6). -/
abbrev phcGovFloor : Nat := 0x1c0104
/-- PHC_GOV_CEIL (R85, Table 2.6). -/
abbrev phcGovCeil : Nat := 0x1c0108
/-- PHC_GOV_BAND (R85, Table 2.6). -/
abbrev phcGovBand : Nat := 0x1c010c
/-- PHC_GOV_STATUS (R85, Table 2.6). -/
abbrev phcGovStatus : Nat := 0x1c0110
/-- PHC_GOV_RATE (R85, Table 2.6). -/
abbrev phcGovRate : Nat := 0x1c0114
/-- PHC_GOV_COUNT (R85, Table 2.6). -/
abbrev phcGovCount : Nat := 0x1c0118
/-- PHC_GOV_TARGET (R85, Table 2.6). -/
abbrev phcGovTarget : Nat := 0x1c011c
/-- PHC_GOV_CAL (R85, Table 2.6). -/
abbrev phcGovCal : Nat := 0x1c0120
/-- PHC_GOV_IDLE (R85, Table 2.6). -/
abbrev phcGovIdle : Nat := 0x1c0124
/-- STC_s_CTRL (R87, Table 3.1). -/
abbrev stcCtrl (s : Nat) : Nat := 0x41000 + 0x80 * s
/-- STC_s_GEOM (R87, Table 3.1). -/
abbrev stcGeom (s : Nat) : Nat := 0x41004 + 0x80 * s
/-- STC_s_TOTAL (R87, Table 3.1). -/
abbrev stcTotal (s : Nat) : Nat := 0x41008 + 0x80 * s
/-- STC_s_RATE (R87, Table 3.1). -/
abbrev stcRate (s : Nat) : Nat := 0x4100c + 0x80 * s
/-- STC_s_FMT (R87, Table 3.1). -/
abbrev stcFmt (s : Nat) : Nat := 0x41010 + 0x80 * s
/-- STC_s_SCHED (R87, Table 3.1). -/
abbrev stcSched (s : Nat) : Nat := 0x41014 + 0x80 * s
/-- STC_s_RING (R87, Table 3.1). -/
abbrev stcRing (s : Nat) : Nat := 0x41018 + 0x80 * s
/-- STC_s_FSTORE (R87, Table 3.1). -/
abbrev stcFstore (s : Nat) : Nat := 0x4101c + 0x80 * s
/-- STC_s_POS (R87, Table 3.1). -/
abbrev stcPos (s : Nat) : Nat := 0x41020 + 0x80 * s
/-- STC_s_REPORT (R87, Table 3.1). -/
abbrev stcReport (s : Nat) : Nat := 0x41024 + 0x80 * s
/-- STC_s_STATUS (R87, Table 3.1). -/
abbrev stcStatus (s : Nat) : Nat := 0x41028 + 0x80 * s
/-- STC_s_PHASE (R87, Table 3.1). -/
abbrev stcPhase (s : Nat) : Nat := 0x4102c + 0x80 * s
/-- STC_s_LOSS_CNT (R87, Table 3.1). -/
abbrev stcLossCnt (s : Nat) : Nat := 0x41030 + 0x80 * s
/-- STC_s_DROPDUP (R87, Table 3.1). -/
abbrev stcDropdup (s : Nat) : Nat := 0x41034 + 0x80 * s
/-- STC_s_MISS (R87, Table 3.1). -/
abbrev stcMiss (s : Nat) : Nat := 0x41038 + 0x80 * s
/-- VID_RXn_CTRL (Table 3.6, Table 3.6). -/
abbrev vidRxCtrl (n : Nat) : Nat := 0x40000 + 0x400 * n
/-- VID_RXn_STATUS (Table 3.6, Table 3.6). -/
abbrev vidRxStatus (n : Nat) : Nat := 0x40004 + 0x400 * n
/-- VID_RXn_EDID (Table 3.6, Table 3.6). -/
abbrev vidRxEdid (n w : Nat) : Nat := 0x40200 + 0x400 * n + 0x4 * w
/-- VID_TXn_CTRL (Table 3.6, Table 3.6). -/
abbrev vidTxCtrl (n : Nat) : Nat := 0x40800 + 0x400 * n
/-- VID_TXn_STATUS (Table 3.6, Table 3.6). -/
abbrev vidTxStatus (n : Nat) : Nat := 0x40804 + 0x400 * n
/-- VID_CSI_CTRL (Table 3.6, Table 3.6). -/
abbrev vidCsiCtrl : Nat := 0x40e00
/-- VID_CSI_STATUS (Table 3.6, Table 3.6). -/
abbrev vidCsiStatus : Nat := 0x40e04
/-- STD_n_STATE (R144, Table 4.9). -/
abbrev stdState (n : Nat) : Nat := stdBase n + 0x0
/-- STD_n_WDOG (R144, Table 4.9). -/
abbrev stdWdog (n : Nat) : Nat := stdBase n + 0x4
/-- STD_n_FAULT (R144, Table 4.9). -/
abbrev stdFault (n : Nat) : Nat := stdBase n + 0x8
/-- STD_n_Cc_PC (R144, Table 4.9). -/
abbrev stdCorePc (n c : Nat) : Nat := stdBase n + 0x100 + 0x40 * c
/-- STD_n_Cc_FAULT (R144, Table 4.9). -/
abbrev stdCoreFault (n c : Nat) : Nat := stdBase n + 0x104 + 0x40 * c
/-- STD_n_Cc_ISSUE (R144, Table 4.9). -/
abbrev stdCoreIssue (n c : Nat) : Nat := stdBase n + 0x108 + 0x40 * c
/-- STD_n_Cc_WAIT (R144, Table 4.9). -/
abbrev stdCoreWait (n c : Nat) : Nat := stdBase n + 0x10c + 0x40 * c
/-- CNP_HT_e_W0 (R152, Table 5.4). -/
abbrev cnpHtW0 (e : Nat) : Nat := 0x101000 + 0x10 * e
/-- CNP_HT_e_W1 (R152, Table 5.4). -/
abbrev cnpHtW1 (e : Nat) : Nat := 0x101004 + 0x10 * e
/-- CNP_HT_e_W2 (R152, Table 5.4). -/
abbrev cnpHtW2 (e : Nat) : Nat := 0x101008 + 0x10 * e
/-- CNP_HT_e_W3 (R152, Table 5.4). -/
abbrev cnpHtW3 (e : Nat) : Nat := 0x10100c + 0x10 * e
/-- CNP_CFG (R182, Table 5.10). -/
abbrev cnpCfg : Nat := 0x100000
/-- CNP_STATUS (R182, Table 5.10). -/
abbrev cnpStatus : Nat := 0x100004
/-- CNP_CLR_PENDING (R182, Table 5.10). -/
abbrev cnpClrPending : Nat := 0x100008
/-- CNP_LC_HIT (R182, Table 5.10). -/
abbrev cnpLcHit : Nat := 0x100010
/-- CNP_LC_MISS (R182, Table 5.10). -/
abbrev cnpLcMiss : Nat := 0x100014
/-- CNP_LC_WB (R182, Table 5.10). -/
abbrev cnpLcWb : Nat := 0x100018
/-- CNP_DET_COUNT (R182, Table 5.10). -/
abbrev cnpDetCount : Nat := 0x100020
/-- CNP_DET_ADDR (R182, Table 5.10). -/
abbrev cnpDetAddr : Nat := 0x100024
/-- CNP_DET_SRC (R182, Table 5.10). -/
abbrev cnpDetSrc : Nat := 0x100028
/-- CNP_GB_MERGE (R182, Table 5.10). -/
abbrev cnpGbMerge : Nat := 0x100030
/-- CNP_GB_RMW (R182, Table 5.10). -/
abbrev cnpGbRmw : Nat := 0x100034
/-- CNP_AP_VIOL (R182, Table 5.10). -/
abbrev cnpApViol : Nat := 0x100038
/-- CNP_AP_LAST (R182, Table 5.10). -/
abbrev cnpApLast : Nat := 0x10003c
/-- CNP_b_CONFLICT (R182, Table 5.10). -/
abbrev cnpConflict (b : Nat) : Nat := 0x100100 + 0x4 * b
/-- DRC_CFG (R182, Table 5.10). -/
abbrev drcCfg : Nat := 0x200000
/-- DRC_STATUS (R182, Table 5.10). -/
abbrev drcStatus : Nat := 0x200004
/-- DRC_LECC (R182, Table 5.10). -/
abbrev drcLecc : Nat := 0x200008
/-- CHN_c_ROUTE (R215, Table 6.2). -/
abbrev chnRoute (c : Nat) : Nat := 0x60000 + 0x20 * c
/-- CHN_c_ORDER (R215, Table 6.2). -/
abbrev chnOrder (c : Nat) : Nat := 0x60004 + 0x20 * c
/-- CHN_c_MSG (R215, Table 6.2). -/
abbrev chnMsg (c : Nat) : Nat := 0x60008 + 0x20 * c
/-- CHN_c_STALL (R215, Table 6.2). -/
abbrev chnStall (c : Nat) : Nat := 0x6000c + 0x20 * c
/-- CHN_c_NACK (R215, Table 6.2). -/
abbrev chnNack (c : Nat) : Nat := 0x60010 + 0x20 * c
/-- CHN_c_FIFO (R215, Table 6.2). -/
abbrev chnFifo (c : Nat) : Nat := 0x60014 + 0x20 * c
/-- CHN_GRP_g_MASKw (R215, Table 6.2). -/
abbrev chnGrpMask (g w : Nat) : Nat := 0x68000 + 0x10 * g + 0x4 * w
/-- CHN_STATUS (R215, Table 6.2). -/
abbrev chnStatus : Nat := 0x68200
/-- CHN_STORM (R215, Table 6.2). -/
abbrev chnStorm : Nat := 0x68204
/-- SEM_s_COUNT (R215, Table 6.2). -/
abbrev semCount (s : Nat) : Nat := 0x70000 + 0x10 * s
/-- SEM_s_INIT (R215, Table 6.2). -/
abbrev semInit (s : Nat) : Nat := 0x70004 + 0x10 * s
/-- CHN_CP_p_COUNT (R215, Table 6.2). -/
abbrev chnCpCount (p : Nat) : Nat := 0x71000 + 0x10 * p
/-- CHN_CP_p_GUARD (R215, Table 6.2). -/
abbrev chnCpGuard (p : Nat) : Nat := 0x71004 + 0x10 * p
/-- CHN_CP_p_LODGED (R215, Table 6.2). -/
abbrev chnCpLodged (p : Nat) : Nat := 0x71008 + 0x10 * p
/-- CHN_SR_r_CFG (R215, Table 6.2). -/
abbrev chnSrCfg (r : Nat) : Nat := 0x72000 + 0x20 * r
/-- CHN_SR_r_STATE (R215, Table 6.2). -/
abbrev chnSrState (r : Nat) : Nat := 0x72004 + 0x20 * r
/-- CHN_SR_r_UNDER (R215, Table 6.2). -/
abbrev chnSrUnder (r : Nat) : Nat := 0x72008 + 0x20 * r
/-- CHN_SR_r_OVER (R215, Table 6.2). -/
abbrev chnSrOver (r : Nat) : Nat := 0x7200c + 0x20 * r
/-- CHN_STRM_s_UNDER (R215, Table 6.2). -/
abbrev chnStrmUnder (s : Nat) : Nat := 0x73000 + 0x4 * s
/-- HNG_LC_l_CFG (R266, Table 8.6). -/
abbrev hngLcCfg (l : Nat) : Nat := 0x188000 + 0x10 * l
/-- HNG_LC_l_ESC (R266, Table 8.6). -/
abbrev hngLcEsc (l : Nat) : Nat := 0x188004 + 0x10 * l
/-- HNG_LC_l_SAT (R266, Table 8.6). -/
abbrev hngLcSat (l : Nat) : Nat := 0x188008 + 0x10 * l
/-- HNG_LC_l_BAD (R266, Table 8.6). -/
abbrev hngLcBad (l : Nat) : Nat := 0x18800c + 0x10 * l
/-- HNG_HIST_CTRL (R266, Table 8.6). -/
abbrev hngHistCtrl : Nat := 0x188400
/-- HNG_HIST_BIN_b (R266, Table 8.6). -/
abbrev hngHistBin (b : Nat) : Nat := 0x188800 + 0x4 * b
/-- GLB_IDENT (R273, Table 9.2). -/
abbrev glbIdent : Nat := 0x0
/-- GLB_PCIE (R273, Table 9.2). -/
abbrev glbPcie : Nat := 0x4
/-- GLB_LINK_EVT (R273, Table 9.2). -/
abbrev glbLinkEvt : Nat := 0x8
/-- GLB_EVT_CFG (R273, Table 9.2). -/
abbrev glbEvtCfg : Nat := 0x10
/-- GLB_BAR0_ERR (R273, Table 9.2). -/
abbrev glbBar0Err : Nat := 0x14
/-- GLB_TIME_LO (R273, Table 9.2). -/
abbrev glbTimeLo : Nat := 0x18
/-- GLB_TIME_HI (R273, Table 9.2). -/
abbrev glbTimeHi : Nat := 0x1c
/-- RNG_r_BASE_LO (R275, Table 9.3). -/
abbrev rngBaseLo (r : Nat) : Nat := 0x20000 + 0x40 * r
/-- RNG_r_BASE_HI (R275, Table 9.3). -/
abbrev rngBaseHi (r : Nat) : Nat := 0x20004 + 0x40 * r
/-- RNG_r_CFG (R275, Table 9.3). -/
abbrev rngCfg (r : Nat) : Nat := 0x20008 + 0x40 * r
/-- RNG_r_HEAD (R275, Table 9.3). -/
abbrev rngHead (r : Nat) : Nat := 0x2000c + 0x40 * r
/-- RNG_r_TAIL (R275, Table 9.3). -/
abbrev rngTail (r : Nat) : Nat := 0x20010 + 0x40 * r
/-- RNG_r_FILL (R275, Table 9.3). -/
abbrev rngFill (r : Nat) : Nat := 0x20014 + 0x40 * r
/-- RNG_r_WM (R275, Table 9.3). -/
abbrev rngWm (r : Nat) : Nat := 0x20018 + 0x40 * r
/-- RNG_r_WMSTAT (R275, Table 9.3). -/
abbrev rngWmstat (r : Nat) : Nat := 0x2001c + 0x40 * r
/-- RNG_r_FILLMM (R275, Table 9.3). -/
abbrev rngFillmm (r : Nat) : Nat := 0x20020 + 0x40 * r
/-- RNG_r_STAT (R275, Table 9.3). -/
abbrev rngStat (r : Nat) : Nat := 0x20024 + 0x40 * r
/-- RNG_r_DROP (R275, Table 9.3). -/
abbrev rngDrop (r : Nat) : Nat := 0x20028 + 0x40 * r
/-- PHC_SHUT_t (R302, Table 9.11). -/
abbrev phcShut (t : Nat) : Nat := 0x1c0200 + 0x4 * t
/-- PHC_CEIL_AUTH (R302, Table 9.11). -/
abbrev phcCeilAuth : Nat := 0x1c0208
/-- PHC_STD_HOLD (R302, Table 9.11). -/
abbrev phcStdHold : Nat := 0x1c020c
/-- PHC_AUTH_LOG (R302, Table 9.11). -/
abbrev phcAuthLog : Nat := 0x1c0210
/-- PHC_MGMT_CNT (R302, Table 9.11). -/
abbrev phcMgmtCnt : Nat := 0x1c0214
/-- WKT_m_REQ_w (R304, Table 10.1). -/
abbrev wktReq (m w : Nat) : Nat := 0x10000 + 0x100 * m + 0x4 * w
/-- WKT_m_RSP_w (R304, Table 10.1). -/
abbrev wktRsp (m w : Nat) : Nat := 0x10040 + 0x100 * m + 0x4 * w
/-- WKT_m_DOORBELL (R304, Table 10.1). -/
abbrev wktDoorbell (m : Nat) : Nat := 0x10080 + 0x100 * m
/-- WKT_m_STATE (R304, Table 10.1). -/
abbrev wktState (m : Nat) : Nat := 0x10084 + 0x100 * m
/-- WKT_m_CTRL (R304, Table 10.1). -/
abbrev wktCtrl (m : Nat) : Nat := 0x10088 + 0x100 * m
/-- WKT_FW (R304, Table 10.1). -/
abbrev wktFw : Nat := 0x11000
/-- UND_a_CTRL (R353, Table 11.5). -/
abbrev undCtrl (a : Nat) : Nat := 0x140000 + 0x20 * a
/-- UND_a_RWSRC (R353, Table 11.5). -/
abbrev undRwsrc (a : Nat) : Nat := 0x140004 + 0x20 * a
/-- UND_a_STATUS (R353, Table 11.5). -/
abbrev undStatus (a : Nat) : Nat := 0x140008 + 0x20 * a
/-- UND_a_VFAIL (R353, Table 11.5). -/
abbrev undVfail (a : Nat) : Nat := 0x14000c + 0x20 * a
/-- UND_a_EVAL (R353, Table 11.5). -/
abbrev undEval (a : Nat) : Nat := 0x140010 + 0x20 * a
/-- UND_a_ADC (R353, Table 11.5). -/
abbrev undAdc (a : Nat) : Nat := 0x140014 + 0x20 * a
/-- UND_VLIMIT (R353, Table 11.5). -/
abbrev undVlimit : Nat := 0x140800
/-- UND_NET_n_CFG (R353, Table 11.5). -/
abbrev undNetCfg (n : Nat) : Nat := 0x141000 + 0x100 * n
/-- UND_NET_n_L_j (R353, Table 11.5). -/
abbrev undNetL (n j : Nat) : Nat := 0x141004 + 0x100 * n + 0x4 * j
/-- UND_NET_n_SC_k (R353, Table 11.5). -/
abbrev undNetSc (n k : Nat) : Nat := 0x141024 + 0x100 * n + 0x4 * k
/-- UND_NET_n_FRAME (R353, Table 11.5). -/
abbrev undNetFrame (n : Nat) : Nat := 0x141044 + 0x100 * n
/-- UND_NET_n_SKIP (R353, Table 11.5). -/
abbrev undNetSkip (n : Nat) : Nat := 0x141048 + 0x100 * n
/-- UND_NET_n_DWORD (R353, Table 11.5). -/
abbrev undNetDword (n : Nat) : Nat := 0x14104c + 0x100 * n
/-- UND_NET_n_Dd_A (R353, Table 11.5). -/
abbrev undNetDA (n d : Nat) : Nat := 0x141050 + 0x100 * n + 0x8 * d
/-- UND_NET_n_Dd_B (R353, Table 11.5). -/
abbrev undNetDB (n d : Nat) : Nat := 0x141054 + 0x100 * n + 0x8 * d
/-- GLD_CTRL (R364, Table 11.8). -/
abbrev gldCtrl : Nat := 0x148000
/-- GLD_STATE (R364, Table 11.8). -/
abbrev gldState : Nat := 0x148004
/-- GLD_RESULT (R364, Table 11.8). -/
abbrev gldResult : Nat := 0x148008
/-- GLD_RESULT_T (R364, Table 11.8). -/
abbrev gldResultT : Nat := 0x14800c
/-- GLD_THR (R364, Table 11.8). -/
abbrev gldThr : Nat := 0x148010
/-- GLD_WIN (R364, Table 11.8). -/
abbrev gldWin : Nat := 0x148014
/-- GLD_MIC (R364, Table 11.8). -/
abbrev gldMic : Nat := 0x148018
/-- GLD_CNT (R364, Table 11.8). -/
abbrev gldCnt : Nat := 0x14801c
/-- GLD_AUDIO_POS (R364, Table 11.8). -/
abbrev gldAudioPos : Nat := 0x148020
/-- GLD_NET_L_j (R364, Table 11.8). -/
abbrev gldNetL (j : Nat) : Nat := 0x148030 + 0x4 * j
/-- GLD_NET_CFG (R364, Table 11.8). -/
abbrev gldNetCfg : Nat := 0x148040
/-- HNG_n_STATE (R403, Table 12.9). -/
abbrev hngState (n : Nat) : Nat := 0x180000 + 0x100 * n
/-- HNG_n_CRCERR (R403, Table 12.9). -/
abbrev hngCrcerr (n : Nat) : Nat := 0x180004 + 0x100 * n
/-- HNG_n_REPLAY (R403, Table 12.9). -/
abbrev hngReplay (n : Nat) : Nat := 0x180008 + 0x100 * n
/-- HNG_n_FRAMES (R403, Table 12.9). -/
abbrev hngFrames (n : Nat) : Nat := 0x18000c + 0x100 * n
/-- HNG_PAIR_STATUS (R403, Table 12.9). -/
abbrev hngPairStatus : Nat := 0x180400
/-- HNG_HB (R403, Table 12.9). -/
abbrev hngHb : Nat := 0x180404
/-- HNG_MIR (R403, Table 12.9). -/
abbrev hngMir : Nat := 0x180408
/-- HNG_MIR_LOST (R403, Table 12.9). -/
abbrev hngMirLost : Nat := 0x18040c
/-- HNG_MIR_SYNC (R403, Table 12.9). -/
abbrev hngMirSync : Nat := 0x180410
/-- HNG_GRID (R403, Table 12.9). -/
abbrev hngGrid : Nat := 0x180414
/-- HNG_GOV (R403, Table 12.9). -/
abbrev hngGov : Nat := 0x180418
/-- HNG_HALO_LATE (R403, Table 12.9). -/
abbrev hngHaloLate : Nat := 0x18041c
/-- HNG_DIEID_LO (R403, Table 12.9). -/
abbrev hngDieidLo : Nat := 0x180420
/-- HNG_DIEID_HI (R403, Table 12.9). -/
abbrev hngDieidHi : Nat := 0x180424
/-- PHC_RAIL_r_MEAS (R437, Table 13.8). -/
abbrev phcRailMeas (r : Nat) : Nat := 0x1c0000 + 0x10 * r
/-- PHC_RAIL_r_LIMIT (R437, Table 13.8). -/
abbrev phcRailLimit (r : Nat) : Nat := 0x1c0004 + 0x10 * r
/-- PHC_RAIL_r_PEAK (R437, Table 13.8). -/
abbrev phcRailPeak (r : Nat) : Nat := 0x1c0008 + 0x10 * r
/-- PHC_PKG (R437, Table 13.8). -/
abbrev phcPkg : Nat := 0x1c0080
/-- PHC_CUR_CTRL (R437, Table 13.8). -/
abbrev phcCurCtrl : Nat := 0x1c0084
/-- PHC_CUR_STATUS (R437, Table 13.8). -/
abbrev phcCurStatus : Nat := 0x1c0088
/-- PHC_AVS_STATUS (R437, Table 13.8). -/
abbrev phcAvsStatus : Nat := 0x1c0090
/-- PHC_ENERGY (R437, Table 13.8). -/
abbrev phcEnergy : Nat := 0x1c00a0
/-- PHC_TEMP_i (R437, Table 13.8). -/
abbrev phcTemp (i : Nat) : Nat := 0x1c0300 + 0x4 * i
/-- PHC_THERM_CFG (R437, Table 13.8). -/
abbrev phcThermCfg : Nat := 0x1c0360
/-- PHC_THERM_STATUS (R437, Table 13.8). -/
abbrev phcThermStatus : Nat := 0x1c0364
/-- PHC_ROT_CFG (R437, Table 13.8). -/
abbrev phcRotCfg : Nat := 0x1c0380
/-- PHC_ROT_STATUS (R437, Table 13.8). -/
abbrev phcRotStatus : Nat := 0x1c0384
/-- PHC_ROT_CNT (R437, Table 13.8). -/
abbrev phcRotCnt : Nat := 0x1c0388
/-- PHC_AGE_n (R437, Table 13.8). -/
abbrev phcAge (n : Nat) : Nat := 0x1c0400 + 0x4 * n
/-- PHC_BOOT_CAUSE (R461, Table 14.11). -/
abbrev phcBootCause : Nat := 0x1c0500
/-- PHC_BOOT_STATUS (R461, Table 14.11). -/
abbrev phcBootStatus : Nat := 0x1c0504
/-- PHC_CAL_BAD_LO (R461, Table 14.11). -/
abbrev phcCalBadLo : Nat := 0x1c0508
/-- PHC_CAL_BAD_HI (R461, Table 14.11). -/
abbrev phcCalBadHi : Nat := 0x1c050c
/-- PHC_STRAPS (R461, Table 14.11). -/
abbrev phcStraps : Nat := 0x1c0510
/-- PHC_AMB_CFG (R479, Table 15.6). -/
abbrev phcAmbCfg : Nat := 0x1c0600
/-- PHC_AMB_STATUS (R479, Table 15.6). -/
abbrev phcAmbStatus : Nat := 0x1c0604
/-- PHC_PIN_STATUS (R479, Table 15.6). -/
abbrev phcPinStatus : Nat := 0x1c0608
/-- PHC_AMB_CNT (R479, Table 15.6). -/
abbrev phcAmbCnt : Nat := 0x1c060c
/-- DBG_CTRL (R503, Table 16.10). -/
abbrev dbgCtrl : Nat := 0x300000
/-- DBG_SAT (R503, Table 16.10). -/
abbrev dbgSat : Nat := 0x300004
/-- DBG_RERUN (R503, Table 16.10). -/
abbrev dbgRerun : Nat := 0x300008
/-- DBG_EVT_e (R503, Table 16.10). -/
abbrev dbgEvt (e : Nat) : Nat := 0x300040 + 0x4 * e
/-- DBG_STD_n_FAIL (R503, Table 16.10). -/
abbrev dbgStdFail (n : Nat) : Nat := 0x300080 + 0x4 * n
/-- Word w of entry e of the MSI-X table (R505). -/
abbrev msix (e w : Nat) : Nat := 0x8000 + 0x10 * e + 4 * w
/-- Word w of the MSI-X pending-bit array (R505). -/
abbrev pba (w : Nat) : Nat := 0x9000 + 4 * w
/-- Word w of GLD_AUDIO, two samples a word (R364). -/
abbrev gldAudio (w : Nat) : Nat := 0x150000 + 4 * w

end R

/-! Register fields. -/
namespace F

abbrev rasPolicyForceLintel (s : Nat) : Fld := ⟨R.rasPolicy s, 0, 1⟩
abbrev rasPolicyFbEventEn (s : Nat) : Fld := ⟨R.rasPolicy s, 1, 1⟩
abbrev rasPolicyCfgRej (s : Nat) : Fld := ⟨R.rasPolicy s, 8, 1⟩
abbrev rasLintelVtaps (s : Nat) : Fld := ⟨R.rasLintel s, 0, 2⟩
abbrev rasLintelHtaps (s : Nat) : Fld := ⟨R.rasLintel s, 2, 2⟩
abbrev rasLintelSharp (s : Nat) : Fld := ⟨R.rasLintel s, 4, 4⟩
abbrev rasLintelNr (s : Nat) : Fld := ⟨R.rasLintel s, 8, 4⟩
abbrev rasLintelActCfg (s : Nat) : Fld := ⟨R.rasLintelAct s, 0, 12⟩
abbrev rasLintelActFrame (s : Nat) : Fld := ⟨R.rasLintelAct s, 16, 8⟩
abbrev rasFbLateCount (s : Nat) : Fld := ⟨R.rasFbLate s, 0, 32⟩
abbrev rasFbDetCount (s : Nat) : Fld := ⟨R.rasFbDet s, 0, 32⟩
abbrev rasFbStandCount (s : Nat) : Fld := ⟨R.rasFbStand s, 0, 32⟩
abbrev rasFbLastStand (s : Nat) : Fld := ⟨R.rasFbLast s, 0, 5⟩
abbrev rasFbLastLine (s : Nat) : Fld := ⟨R.rasFbLast s, 8, 13⟩
abbrev rasFbLastFrame (s : Nat) : Fld := ⟨R.rasFbLast s, 21, 8⟩
abbrev rasFbLastCause (s : Nat) : Fld := ⟨R.rasFbLast s, 29, 3⟩
abbrev rasLateWrCount (s : Nat) : Fld := ⟨R.rasLateWr s, 0, 32⟩
abbrev rasSlackMin (s : Nat) : Fld := ⟨R.rasSlack s, 0, 16⟩
abbrev rasSlackLast (s : Nat) : Fld := ⟨R.rasSlack s, 16, 16⟩
abbrev rasSlackNegCount (s : Nat) : Fld := ⟨R.rasSlackNeg s, 0, 32⟩
abbrev phcGovCtrlEn : Fld := ⟨R.phcGovCtrl, 0, 1⟩
abbrev phcGovCtrlHold : Fld := ⟨R.phcGovCtrl, 1, 1⟩
abbrev phcGovCtrlStep : Fld := ⟨R.phcGovCtrl, 4, 3⟩
abbrev phcGovCtrlInterval : Fld := ⟨R.phcGovCtrl, 8, 8⟩
abbrev phcGovCtrlDownHold : Fld := ⟨R.phcGovCtrl, 16, 4⟩
abbrev phcGovCtrlUrgentHold : Fld := ⟨R.phcGovCtrl, 20, 4⟩
abbrev phcGovFloorHostMv : Fld := ⟨R.phcGovFloor, 0, 10⟩
abbrev phcGovFloorEffMv : Fld := ⟨R.phcGovFloor, 16, 10⟩
abbrev phcGovCeilHostMv : Fld := ⟨R.phcGovCeil, 0, 10⟩
abbrev phcGovCeilMgmtMv : Fld := ⟨R.phcGovCeil, 16, 10⟩
abbrev phcGovBandLo : Fld := ⟨R.phcGovBand, 0, 8⟩
abbrev phcGovBandHi : Fld := ⟨R.phcGovBand, 8, 8⟩
abbrev phcGovStatusSetMv : Fld := ⟨R.phcGovStatus, 0, 10⟩
abbrev phcGovStatusInFlight : Fld := ⟨R.phcGovStatus, 10, 1⟩
abbrev phcGovStatusAtFloor : Fld := ⟨R.phcGovStatus, 11, 1⟩
abbrev phcGovStatusAtCeil : Fld := ⟨R.phcGovStatus, 12, 1⟩
abbrev phcGovStatusCurVeto : Fld := ⟨R.phcGovStatus, 13, 1⟩
abbrev phcGovStatusNegAtCeil : Fld := ⟨R.phcGovStatus, 14, 1⟩
abbrev phcGovStatusFloorClamp : Fld := ⟨R.phcGovStatus, 15, 1⟩
abbrev phcGovStatusCeilEff : Fld := ⟨R.phcGovStatus, 16, 10⟩
abbrev phcGovRateMin : Fld := ⟨R.phcGovRate, 0, 16⟩
abbrev phcGovRateMax : Fld := ⟨R.phcGovRate, 16, 16⟩
abbrev phcGovCountUp : Fld := ⟨R.phcGovCount, 0, 16⟩
abbrev phcGovCountDown : Fld := ⟨R.phcGovCount, 16, 16⟩
abbrev phcGovTargetMv : Fld := ⟨R.phcGovTarget, 0, 10⟩
abbrev phcGovCalCalMv : Fld := ⟨R.phcGovCal, 0, 10⟩
abbrev phcGovIdleMv : Fld := ⟨R.phcGovIdle, 0, 10⟩
abbrev stcCtrlArm (s : Nat) : Fld := ⟨R.stcCtrl s, 0, 1⟩
abbrev stcCtrlDir (s : Nat) : Fld := ⟨R.stcCtrl s, 1, 1⟩
abbrev stcCtrlSrc (s : Nat) : Fld := ⟨R.stcCtrl s, 2, 3⟩
abbrev stcCtrlSub (s : Nat) : Fld := ⟨R.stcCtrl s, 5, 3⟩
abbrev stcCtrlMode (s : Nat) : Fld := ⟨R.stcCtrl s, 8, 1⟩
abbrev stcCtrlLock (s : Nat) : Fld := ⟨R.stcCtrl s, 9, 1⟩
abbrev stcCtrlLossPol (s : Nat) : Fld := ⟨R.stcCtrl s, 10, 3⟩
abbrev stcCtrlLink (s : Nat) : Fld := ⟨R.stcCtrl s, 16, 5⟩
abbrev stcCtrlRepeat (s : Nat) : Fld := ⟨R.stcCtrl s, 24, 8⟩
abbrev stcGeomHact (s : Nat) : Fld := ⟨R.stcGeom s, 0, 13⟩
abbrev stcGeomVact (s : Nat) : Fld := ⟨R.stcGeom s, 16, 13⟩
abbrev stcTotalHtotal (s : Nat) : Fld := ⟨R.stcTotal s, 0, 14⟩
abbrev stcTotalVtotal (s : Nat) : Fld := ⟨R.stcTotal s, 16, 14⟩
abbrev stcRateFrate (s : Nat) : Fld := ⟨R.stcRate s, 0, 24⟩
abbrev stcRateRatioN (s : Nat) : Fld := ⟨R.stcRate s, 24, 4⟩
abbrev stcRateRatioM (s : Nat) : Fld := ⟨R.stcRate s, 28, 4⟩
abbrev stcRateStretch (s : Nat) : Fld := ⟨R.stcRate s, 24, 8⟩
abbrev stcFmtSamp (s : Nat) : Fld := ⟨R.stcFmt s, 0, 2⟩
abbrev stcFmtBpc (s : Nat) : Fld := ⟨R.stcFmt s, 2, 2⟩
abbrev stcFmtMatrix (s : Nat) : Fld := ⟨R.stcFmt s, 4, 2⟩
abbrev stcFmtFull (s : Nat) : Fld := ⟨R.stcFmt s, 6, 1⟩
abbrev stcFmtDsc (s : Nat) : Fld := ⟨R.stcFmt s, 7, 1⟩
abbrev stcFmtPlfmt (s : Nat) : Fld := ⟨R.stcFmt s, 8, 2⟩
abbrev stcFmtPremul (s : Nat) : Fld := ⟨R.stcFmt s, 10, 1⟩
abbrev stcFmtScale2 (s : Nat) : Fld := ⟨R.stcFmt s, 11, 1⟩
abbrev stcSchedBucket (s : Nat) : Fld := ⟨R.stcSched s, 0, 3⟩
abbrev stcSchedModel (s : Nat) : Fld := ⟨R.stcSched s, 8, 8⟩
abbrev stcSchedActModel (s : Nat) : Fld := ⟨R.stcSched s, 16, 8⟩
abbrev stcSchedActBucket (s : Nat) : Fld := ⟨R.stcSched s, 24, 3⟩
abbrev stcRingHandle (s : Nat) : Fld := ⟨R.stcRing s, 0, 8⟩
abbrev stcRingDepth (s : Nat) : Fld := ⟨R.stcRing s, 8, 6⟩
abbrev stcRingSem (s : Nat) : Fld := ⟨R.stcRing s, 16, 8⟩
abbrev stcFstoreBase (s : Nat) : Fld := ⟨R.stcFstore s, 0, 18⟩
abbrev stcFstoreFrames (s : Nat) : Fld := ⟨R.stcFstore s, 18, 2⟩
abbrev stcPosX (s : Nat) : Fld := ⟨R.stcPos s, 0, 13⟩
abbrev stcPosY (s : Nat) : Fld := ⟨R.stcPos s, 16, 13⟩
abbrev stcReportRing (s : Nat) : Fld := ⟨R.stcReport s, 0, 9⟩
abbrev stcReportEn (s : Nat) : Fld := ⟨R.stcReport s, 9, 1⟩
abbrev stcStatusState (s : Nat) : Fld := ⟨R.stcStatus s, 0, 3⟩
abbrev stcStatusWrIgn (s : Nat) : Fld := ⟨R.stcStatus s, 3, 1⟩
abbrev stcStatusArmErr (s : Nat) : Fld := ⟨R.stcStatus s, 4, 4⟩
abbrev stcStatusEpoch (s : Nat) : Fld := ⟨R.stcStatus s, 16, 16⟩
abbrev stcPhasePhase (s : Nat) : Fld := ⟨R.stcPhase s, 0, 8⟩
abbrev stcPhaseA (s : Nat) : Fld := ⟨R.stcPhase s, 8, 8⟩
abbrev stcPhaseB (s : Nat) : Fld := ⟨R.stcPhase s, 16, 8⟩
abbrev stcLossCntCount (s : Nat) : Fld := ⟨R.stcLossCnt s, 0, 32⟩
abbrev stcDropdupDrop (s : Nat) : Fld := ⟨R.stcDropdup s, 0, 16⟩
abbrev stcDropdupDup (s : Nat) : Fld := ⟨R.stcDropdup s, 16, 16⟩
abbrev stcMissLineOver (s : Nat) : Fld := ⟨R.stcMiss s, 0, 16⟩
abbrev stcMissPlaneLate (s : Nat) : Fld := ⟨R.stcMiss s, 16, 16⟩
abbrev vidRxCtrlEn (n : Nat) : Fld := ⟨R.vidRxCtrl n, 0, 1⟩
abbrev vidRxCtrlMaxRate (n : Nat) : Fld := ⟨R.vidRxCtrl n, 1, 3⟩
abbrev vidRxCtrlMaxLanes (n : Nat) : Fld := ⟨R.vidRxCtrl n, 4, 2⟩
abbrev vidRxCtrlMstEn (n : Nat) : Fld := ⟨R.vidRxCtrl n, 6, 1⟩
abbrev vidRxCtrlDscEn (n : Nat) : Fld := ⟨R.vidRxCtrl n, 7, 1⟩
abbrev vidRxCtrlEdidCommit (n : Nat) : Fld := ⟨R.vidRxCtrl n, 8, 1⟩
abbrev vidRxStatusHpd (n : Nat) : Fld := ⟨R.vidRxStatus n, 0, 1⟩
abbrev vidRxStatusTrained (n : Nat) : Fld := ⟨R.vidRxStatus n, 1, 1⟩
abbrev vidRxStatusRate (n : Nat) : Fld := ⟨R.vidRxStatus n, 2, 3⟩
abbrev vidRxStatusLanes (n : Nat) : Fld := ⟨R.vidRxStatus n, 5, 2⟩
abbrev vidRxStatusStreams (n : Nat) : Fld := ⟨R.vidRxStatus n, 8, 3⟩
abbrev vidRxEdidData (n w : Nat) : Fld := ⟨R.vidRxEdid n w, 0, 32⟩
abbrev vidTxCtrlEdp (n : Nat) : Fld := ⟨R.vidTxCtrl n, 0, 1⟩
abbrev vidTxCtrlRate (n : Nat) : Fld := ⟨R.vidTxCtrl n, 1, 3⟩
abbrev vidTxCtrlLanes (n : Nat) : Fld := ⟨R.vidTxCtrl n, 4, 2⟩
abbrev vidTxStatusHpdIn (n : Nat) : Fld := ⟨R.vidTxStatus n, 0, 1⟩
abbrev vidTxStatusTrained (n : Nat) : Fld := ⟨R.vidTxStatus n, 1, 1⟩
abbrev vidCsiCtrlEn : Fld := ⟨R.vidCsiCtrl, 0, 1⟩
abbrev vidCsiCtrlLanes : Fld := ⟨R.vidCsiCtrl, 1, 2⟩
abbrev vidCsiCtrlMbps : Fld := ⟨R.vidCsiCtrl, 3, 13⟩
abbrev vidCsiStatusCrcErr : Fld := ⟨R.vidCsiStatus, 0, 16⟩
abbrev vidCsiStatusDtDrop : Fld := ⟨R.vidCsiStatus, 16, 16⟩
abbrev stdStateState (n : Nat) : Fld := ⟨R.stdState n, 0, 3⟩
abbrev stdStateLogical (n : Nat) : Fld := ⟨R.stdState n, 4, 4⟩
abbrev stdStateEpoch (n : Nat) : Fld := ⟨R.stdState n, 16, 16⟩
abbrev stdWdogLimit (n : Nat) : Fld := ⟨R.stdWdog n, 0, 8⟩
abbrev stdWdogJobWait (n : Nat) : Fld := ⟨R.stdWdog n, 8, 8⟩
abbrev stdFaultCore (n : Nat) : Fld := ⟨R.stdFault n, 0, 8⟩
abbrev stdCorePcPc (n c : Nat) : Fld := ⟨R.stdCorePc n c, 0, 12⟩
abbrev stdCoreFaultPc (n c : Nat) : Fld := ⟨R.stdCoreFault n c, 0, 12⟩
abbrev stdCoreFaultCause (n c : Nat) : Fld := ⟨R.stdCoreFault n c, 12, 4⟩
abbrev stdCoreFaultSlot (n c : Nat) : Fld := ⟨R.stdCoreFault n c, 16, 3⟩
abbrev stdCoreIssueCount (n c : Nat) : Fld := ⟨R.stdCoreIssue n c, 0, 32⟩
abbrev stdCoreWaitCount (n c : Nat) : Fld := ⟨R.stdCoreWait n c, 0, 32⟩
abbrev cnpHtW0Valid (e : Nat) : Fld := ⟨R.cnpHtW0 e, 0, 1⟩
abbrev cnpHtW0Target (e : Nat) : Fld := ⟨R.cnpHtW0 e, 1, 1⟩
abbrev cnpHtW0Wr (e : Nat) : Fld := ⟨R.cnpHtW0 e, 2, 1⟩
abbrev cnpHtW0Spec (e : Nat) : Fld := ⟨R.cnpHtW0 e, 3, 1⟩
abbrev cnpHtW0Busy (e : Nat) : Fld := ⟨R.cnpHtW0 e, 4, 1⟩
abbrev cnpHtW0Owner (e : Nat) : Fld := ⟨R.cnpHtW0 e, 8, 8⟩
abbrev cnpHtW0Epoch (e : Nat) : Fld := ⟨R.cnpHtW0 e, 16, 16⟩
abbrev cnpHtW1Base (e : Nat) : Fld := ⟨R.cnpHtW1 e, 0, 26⟩
abbrev cnpHtW2SizeM1 (e : Nat) : Fld := ⟨R.cnpHtW2 e, 0, 15⟩
abbrev cnpCfgPart : Fld := ⟨R.cnpCfg, 0, 1⟩
abbrev cnpCfgLcb : Fld := ⟨R.cnpCfg, 1, 3⟩
abbrev cnpCfgWb : Fld := ⟨R.cnpCfg, 4, 6⟩
abbrev cnpCfgAb : Fld := ⟨R.cnpCfg, 10, 6⟩
abbrev cnpStatusCfgIgn : Fld := ⟨R.cnpStatus, 0, 1⟩
abbrev cnpStatusHtRej : Fld := ⟨R.cnpStatus, 1, 1⟩
abbrev cnpClrPendingLines : Fld := ⟨R.cnpClrPending, 0, 21⟩
abbrev cnpLcHitCount : Fld := ⟨R.cnpLcHit, 0, 32⟩
abbrev cnpLcMissCount : Fld := ⟨R.cnpLcMiss, 0, 32⟩
abbrev cnpLcWbCount : Fld := ⟨R.cnpLcWb, 0, 32⟩
abbrev cnpDetCountCanopy : Fld := ⟨R.cnpDetCount, 0, 16⟩
abbrev cnpDetCountCoremem : Fld := ⟨R.cnpDetCount, 16, 8⟩
abbrev cnpDetCountOpbuf : Fld := ⟨R.cnpDetCount, 24, 8⟩
abbrev cnpDetAddrWord : Fld := ⟨R.cnpDetAddr, 5, 23⟩
abbrev cnpDetAddrLevel : Fld := ⟨R.cnpDetAddr, 28, 2⟩
abbrev cnpDetAddrAcc : Fld := ⟨R.cnpDetAddr, 30, 1⟩
abbrev cnpDetAddrResident : Fld := ⟨R.cnpDetAddr, 31, 1⟩
abbrev cnpDetSrcCore : Fld := ⟨R.cnpDetSrc, 0, 7⟩
abbrev cnpDetSrcHandle : Fld := ⟨R.cnpDetSrc, 8, 8⟩
abbrev cnpGbMergeCount : Fld := ⟨R.cnpGbMerge, 0, 32⟩
abbrev cnpGbRmwCount : Fld := ⟨R.cnpGbRmw, 0, 32⟩
abbrev cnpApViolCount : Fld := ⟨R.cnpApViol, 0, 32⟩
abbrev cnpApLastAddr : Fld := ⟨R.cnpApLast, 0, 28⟩
abbrev cnpConflictCount (b : Nat) : Fld := ⟨R.cnpConflict b, 0, 32⟩
abbrev drcCfgRate : Fld := ⟨R.drcCfg, 0, 2⟩
abbrev drcCfgDensity : Fld := ⟨R.drcCfg, 2, 2⟩
abbrev drcStatusTrained : Fld := ⟨R.drcStatus, 0, 1⟩
abbrev drcLeccCount : Fld := ⟨R.drcLecc, 0, 32⟩
abbrev chnRouteValid (c : Nat) : Fld := ⟨R.chnRoute c, 0, 1⟩
abbrev chnRouteMode (c : Nat) : Fld := ⟨R.chnRoute c, 1, 1⟩
abbrev chnRouteWidth (c : Nat) : Fld := ⟨R.chnRoute c, 2, 1⟩
abbrev chnRouteMcast (c : Nat) : Fld := ⟨R.chnRoute c, 3, 1⟩
abbrev chnRouteSpec (c : Nat) : Fld := ⟨R.chnRoute c, 4, 1⟩
abbrev chnRouteRetry (c : Nat) : Fld := ⟨R.chnRoute c, 5, 1⟩
abbrev chnRouteSrc (c : Nat) : Fld := ⟨R.chnRoute c, 8, 7⟩
abbrev chnRouteDst (c : Nat) : Fld := ⟨R.chnRoute c, 16, 7⟩
abbrev chnOrderRank (c : Nat) : Fld := ⟨R.chnOrder c, 0, 12⟩
abbrev chnOrderCapM1 (c : Nat) : Fld := ⟨R.chnOrder c, 12, 2⟩
abbrev chnOrderSig (c : Nat) : Fld := ⟨R.chnOrder c, 16, 16⟩
abbrev chnMsgCount (c : Nat) : Fld := ⟨R.chnMsg c, 0, 32⟩
abbrev chnStallCount (c : Nat) : Fld := ⟨R.chnStall c, 0, 32⟩
abbrev chnNackCount (c : Nat) : Fld := ⟨R.chnNack c, 0, 32⟩
abbrev chnFifoLevel (c : Nat) : Fld := ⟨R.chnFifo c, 0, 3⟩
abbrev chnFifoPeak (c : Nat) : Fld := ⟨R.chnFifo c, 4, 3⟩
abbrev chnGrpMaskCores (g w : Nat) : Fld := ⟨R.chnGrpMask g w, 0, 32⟩
abbrev chnStatusChan : Fld := ⟨R.chnStatus, 0, 10⟩
abbrev chnStatusCause : Fld := ⟨R.chnStatus, 12, 3⟩
abbrev chnStatusRej : Fld := ⟨R.chnStatus, 15, 1⟩
abbrev chnStormThr : Fld := ⟨R.chnStorm, 0, 16⟩
abbrev semCountCount (s : Nat) : Fld := ⟨R.semCount s, 0, 16⟩
abbrev semCountSpec (s : Nat) : Fld := ⟨R.semCount s, 16, 1⟩
abbrev semCountOvf (s : Nat) : Fld := ⟨R.semCount s, 17, 1⟩
abbrev semInitInit (s : Nat) : Fld := ⟨R.semInit s, 0, 16⟩
abbrev chnCpCountFree (p : Nat) : Fld := ⟨R.chnCpCount p, 0, 16⟩
abbrev chnCpCountCap (p : Nat) : Fld := ⟨R.chnCpCount p, 16, 16⟩
abbrev chnCpGuardHandle (p : Nat) : Fld := ⟨R.chnCpGuard p, 0, 8⟩
abbrev chnCpGuardConsumer (p : Nat) : Fld := ⟨R.chnCpGuard p, 8, 7⟩
abbrev chnCpGuardKind (p : Nat) : Fld := ⟨R.chnCpGuard p, 15, 1⟩
abbrev chnCpGuardSpec (p : Nat) : Fld := ⟨R.chnCpGuard p, 16, 1⟩
abbrev chnCpGuardValid (p : Nat) : Fld := ⟨R.chnCpGuard p, 17, 1⟩
abbrev chnCpGuardLinksem (p : Nat) : Fld := ⟨R.chnCpGuard p, 24, 8⟩
abbrev chnCpLodgedLodged (p : Nat) : Fld := ⟨R.chnCpLodged p, 0, 16⟩
abbrev chnSrCfgHandle (r : Nat) : Fld := ⟨R.chnSrCfg r, 0, 8⟩
abbrev chnSrCfgSlotsM1 (r : Nat) : Fld := ⟨R.chnSrCfg r, 8, 4⟩
abbrev chnSrCfgSlotSize (r : Nat) : Fld := ⟨R.chnSrCfg r, 12, 12⟩
abbrev chnSrCfgFullSem (r : Nat) : Fld := ⟨R.chnSrCfg r, 24, 8⟩
abbrev chnSrStateHead (r : Nat) : Fld := ⟨R.chnSrState r, 0, 4⟩
abbrev chnSrStateTail (r : Nat) : Fld := ⟨R.chnSrState r, 4, 4⟩
abbrev chnSrStateValid (r : Nat) : Fld := ⟨R.chnSrState r, 8, 1⟩
abbrev chnSrStateFill (r : Nat) : Fld := ⟨R.chnSrState r, 16, 16⟩
abbrev chnSrUnderCount (r : Nat) : Fld := ⟨R.chnSrUnder r, 0, 32⟩
abbrev chnSrOverCount (r : Nat) : Fld := ⟨R.chnSrOver r, 0, 32⟩
abbrev chnStrmUnderCount (s : Nat) : Fld := ⟨R.chnStrmUnder s, 0, 32⟩
abbrev hngLcCfgValid (l : Nat) : Fld := ⟨R.hngLcCfg l, 0, 1⟩
abbrev hngLcCfgDir (l : Nat) : Fld := ⟨R.hngLcCfg l, 1, 1⟩
abbrev hngLcCfgPort (l : Nat) : Fld := ⟨R.hngLcCfg l, 2, 2⟩
abbrev hngLcCfgProbe (l : Nat) : Fld := ⟨R.hngLcCfg l, 4, 1⟩
abbrev hngLcCfgSpec (l : Nat) : Fld := ⟨R.hngLcCfg l, 5, 1⟩
abbrev hngLcCfgTensor (l : Nat) : Fld := ⟨R.hngLcCfg l, 8, 8⟩
abbrev hngLcCfgFe (l : Nat) : Fld := ⟨R.hngLcCfg l, 16, 8⟩
abbrev hngLcCfgRing (l : Nat) : Fld := ⟨R.hngLcCfg l, 24, 7⟩
abbrev hngLcEscCount (l : Nat) : Fld := ⟨R.hngLcEsc l, 0, 32⟩
abbrev hngLcSatCount (l : Nat) : Fld := ⟨R.hngLcSat l, 0, 32⟩
abbrev hngLcBadCount (l : Nat) : Fld := ⟨R.hngLcBad l, 0, 32⟩
abbrev hngHistCtrlSel : Fld := ⟨R.hngHistCtrl, 0, 6⟩
abbrev hngHistCtrlSnap : Fld := ⟨R.hngHistCtrl, 8, 1⟩
abbrev hngHistCtrlBusy : Fld := ⟨R.hngHistCtrl, 9, 1⟩
abbrev hngHistBinCount (b : Nat) : Fld := ⟨R.hngHistBin b, 0, 32⟩
abbrev glbIdentId : Fld := ⟨R.glbIdent, 0, 32⟩
abbrev glbPcieSpeed : Fld := ⟨R.glbPcie, 0, 3⟩
abbrev glbPcieWidth : Fld := ⟨R.glbPcie, 3, 3⟩
abbrev glbLinkEvtRetrain : Fld := ⟨R.glbLinkEvt, 0, 16⟩
abbrev glbLinkEvtDldown : Fld := ⟨R.glbLinkEvt, 16, 16⟩
abbrev glbEvtCfgRing : Fld := ⟨R.glbEvtCfg, 0, 9⟩
abbrev glbEvtCfgUrgRing : Fld := ⟨R.glbEvtCfg, 16, 9⟩
abbrev glbEvtCfgEn : Fld := ⟨R.glbEvtCfg, 31, 1⟩
abbrev glbBar0ErrCount : Fld := ⟨R.glbBar0Err, 0, 32⟩
abbrev glbTimeLoNs : Fld := ⟨R.glbTimeLo, 0, 32⟩
abbrev glbTimeHiNs : Fld := ⟨R.glbTimeHi, 0, 32⟩
abbrev rngBaseLoAddr (r : Nat) : Fld := ⟨R.rngBaseLo r, 6, 26⟩
abbrev rngBaseHiAddr (r : Nat) : Fld := ⟨R.rngBaseHi r, 0, 32⟩
abbrev rngCfgEn (r : Nat) : Fld := ⟨R.rngCfg r, 0, 1⟩
abbrev rngCfgDir (r : Nat) : Fld := ⟨R.rngCfg r, 1, 1⟩
abbrev rngCfgLog2sz (r : Nat) : Fld := ⟨R.rngCfg r, 2, 4⟩
abbrev rngCfgKind (r : Nat) : Fld := ⟨R.rngCfg r, 8, 3⟩
abbrev rngCfgVec (r : Nat) : Fld := ⟨R.rngCfg r, 16, 6⟩
abbrev rngCfgIrqEn (r : Nat) : Fld := ⟨R.rngCfg r, 22, 1⟩
abbrev rngCfgMod (r : Nat) : Fld := ⟨R.rngCfg r, 24, 8⟩
abbrev rngHeadIdx (r : Nat) : Fld := ⟨R.rngHead r, 0, 12⟩
abbrev rngTailIdx (r : Nat) : Fld := ⟨R.rngTail r, 0, 12⟩
abbrev rngFillFill (r : Nat) : Fld := ⟨R.rngFill r, 0, 13⟩
abbrev rngWmLo (r : Nat) : Fld := ⟨R.rngWm r, 0, 13⟩
abbrev rngWmHi (r : Nat) : Fld := ⟨R.rngWm r, 16, 13⟩
abbrev rngWmEvEn (r : Nat) : Fld := ⟨R.rngWm r, 31, 1⟩
abbrev rngWmstatHiX (r : Nat) : Fld := ⟨R.rngWmstat r, 0, 1⟩
abbrev rngWmstatLoX (r : Nat) : Fld := ⟨R.rngWmstat r, 1, 1⟩
abbrev rngWmstatFired (r : Nat) : Fld := ⟨R.rngWmstat r, 2, 1⟩
abbrev rngWmstatHiCnt (r : Nat) : Fld := ⟨R.rngWmstat r, 8, 8⟩
abbrev rngWmstatLoCnt (r : Nat) : Fld := ⟨R.rngWmstat r, 16, 8⟩
abbrev rngFillmmMin (r : Nat) : Fld := ⟨R.rngFillmm r, 0, 13⟩
abbrev rngFillmmMax (r : Nat) : Fld := ⟨R.rngFillmm r, 16, 13⟩
abbrev rngStatOvf (r : Nat) : Fld := ⟨R.rngStat r, 0, 1⟩
abbrev rngStatDbRej (r : Nat) : Fld := ⟨R.rngStat r, 1, 1⟩
abbrev rngStatErr (r : Nat) : Fld := ⟨R.rngStat r, 2, 1⟩
abbrev rngStatCfgIgn (r : Nat) : Fld := ⟨R.rngStat r, 3, 1⟩
abbrev rngDropCount (r : Nat) : Fld := ⟨R.rngDrop r, 0, 32⟩
abbrev phcShutClosed (t : Nat) : Fld := ⟨R.phcShut t, 0, 1⟩
abbrev phcShutHold (t : Nat) : Fld := ⟨R.phcShut t, 1, 1⟩
abbrev phcShutCause (t : Nat) : Fld := ⟨R.phcShut t, 2, 2⟩
abbrev phcShutReason (t : Nat) : Fld := ⟨R.phcShut t, 4, 2⟩
abbrev phcShutEpoch (t : Nat) : Fld := ⟨R.phcShut t, 16, 16⟩
abbrev phcCeilAuthMv : Fld := ⟨R.phcCeilAuth, 0, 10⟩
abbrev phcCeilAuthHold : Fld := ⟨R.phcCeilAuth, 10, 1⟩
abbrev phcCeilAuthReason : Fld := ⟨R.phcCeilAuth, 11, 2⟩
abbrev phcCeilAuthEpoch : Fld := ⟨R.phcCeilAuth, 16, 16⟩
abbrev phcStdHoldStand : Fld := ⟨R.phcStdHold, 0, 17⟩
abbrev phcAuthLogUnit : Fld := ⟨R.phcAuthLog, 0, 16⟩
abbrev phcAuthLogAction : Fld := ⟨R.phcAuthLog, 16, 7⟩
abbrev phcAuthLogReason : Fld := ⟨R.phcAuthLog, 24, 2⟩
abbrev phcMgmtCntApplied : Fld := ⟨R.phcMgmtCnt, 0, 16⟩
abbrev phcMgmtCntRefused : Fld := ⟨R.phcMgmtCnt, 16, 16⟩
abbrev wktReqWord (m w : Nat) : Fld := ⟨R.wktReq m w, 0, 32⟩
abbrev wktRspWord (m w : Nat) : Fld := ⟨R.wktRsp m w, 0, 32⟩
abbrev wktDoorbellRing (m : Nat) : Fld := ⟨R.wktDoorbell m, 0, 1⟩
abbrev wktStateState (m : Nat) : Fld := ⟨R.wktState m, 0, 2⟩
abbrev wktStateWrIgn (m : Nat) : Fld := ⟨R.wktState m, 2, 1⟩
abbrev wktStateDbIgn (m : Nat) : Fld := ⟨R.wktState m, 3, 1⟩
abbrev wktStateSeq (m : Nat) : Fld := ⟨R.wktState m, 8, 8⟩
abbrev wktCtrlIrqEn (m : Nat) : Fld := ⟨R.wktCtrl m, 0, 1⟩
abbrev wktFwMinor : Fld := ⟨R.wktFw, 0, 8⟩
abbrev wktFwMajor : Fld := ⟨R.wktFw, 8, 8⟩
abbrev wktFwFwstate : Fld := ⟨R.wktFw, 16, 2⟩
abbrev undCtrlSwap (a : Nat) : Fld := ⟨R.undCtrl a, 0, 1⟩
abbrev undCtrlRwGo (a : Nat) : Fld := ⟨R.undCtrl a, 1, 1⟩
abbrev undRwsrcHandle (a : Nat) : Fld := ⟨R.undRwsrc a, 0, 8⟩
abbrev undRwsrcOffset (a : Nat) : Fld := ⟨R.undRwsrc a, 8, 24⟩
abbrev undStatusActive (a : Nat) : Fld := ⟨R.undStatus a, 0, 1⟩
abbrev undStatusSwapPend (a : Nat) : Fld := ⟨R.undStatus a, 1, 1⟩
abbrev undStatusRw (a : Nat) : Fld := ⟨R.undStatus a, 2, 2⟩
abbrev undStatusBad0 (a : Nat) : Fld := ⟨R.undStatus a, 4, 1⟩
abbrev undStatusBad1 (a : Nat) : Fld := ⟨R.undStatus a, 5, 1⟩
abbrev undStatusRej (a : Nat) : Fld := ⟨R.undStatus a, 6, 1⟩
abbrev undStatusRejCause (a : Nat) : Fld := ⟨R.undStatus a, 8, 3⟩
abbrev undVfailCells (a : Nat) : Fld := ⟨R.undVfail a, 0, 18⟩
abbrev undEvalCount (a : Nat) : Fld := ⟨R.undEval a, 0, 32⟩
abbrev undAdcBits (a : Nat) : Fld := ⟨R.undAdc a, 0, 4⟩
abbrev undAdcRows (a : Nat) : Fld := ⟨R.undAdc a, 16, 11⟩
abbrev undVlimitLimit : Fld := ⟨R.undVlimit, 0, 18⟩
abbrev undNetCfgEn (n : Nat) : Fld := ⟨R.undNetCfg n, 0, 1⟩
abbrev undNetCfgCfgRej (n : Nat) : Fld := ⟨R.undNetCfg n, 1, 1⟩
abbrev undNetCfgCtx (n : Nat) : Fld := ⟨R.undNetCfg n, 2, 5⟩
abbrev undNetCfgLayersM1 (n : Nat) : Fld := ⟨R.undNetCfg n, 7, 3⟩
abbrev undNetCfgGDiff (n : Nat) : Fld := ⟨R.undNetCfg n, 10, 3⟩
abbrev undNetCfgGMean (n : Nat) : Fld := ⟨R.undNetCfg n, 13, 3⟩
abbrev undNetCfgGHf (n : Nat) : Fld := ⟨R.undNetCfg n, 16, 3⟩
abbrev undNetLFirst (n j : Nat) : Fld := ⟨R.undNetL n j, 0, 6⟩
abbrev undNetLCountM1 (n j : Nat) : Fld := ⟨R.undNetL n j, 6, 2⟩
abbrev undNetLOutM1 (n j : Nat) : Fld := ⟨R.undNetL n j, 8, 9⟩
abbrev undNetLRelu (n j : Nat) : Fld := ⟨R.undNetL n j, 17, 1⟩
abbrev undNetLShift (n j : Nat) : Fld := ⟨R.undNetL n j, 18, 4⟩
abbrev undNetLRange (n j : Nat) : Fld := ⟨R.undNetL n j, 22, 3⟩
abbrev undNetScLo (n k : Nat) : Fld := ⟨R.undNetSc n k, 0, 16⟩
abbrev undNetScHi (n k : Nat) : Fld := ⟨R.undNetSc n k, 16, 16⟩
abbrev undNetFrameFrame (n : Nat) : Fld := ⟨R.undNetFrame n, 0, 32⟩
abbrev undNetSkipCount (n : Nat) : Fld := ⟨R.undNetSkip n, 0, 32⟩
abbrev undNetDwordApplied (n : Nat) : Fld := ⟨R.undNetDword n, 0, 8⟩
abbrev undNetDwordPending (n : Nat) : Fld := ⟨R.undNetDword n, 8, 8⟩
abbrev undNetDAScore (n d : Nat) : Fld := ⟨R.undNetDA n d, 0, 4⟩
abbrev undNetDAKind (n d : Nat) : Fld := ⟨R.undNetDA n d, 4, 1⟩
abbrev undNetDACut (n d : Nat) : Fld := ⟨R.undNetDA n d, 5, 1⟩
abbrev undNetDAEn (n d : Nat) : Fld := ⟨R.undNetDA n d, 6, 1⟩
abbrev undNetDANOn (n d : Nat) : Fld := ⟨R.undNetDA n d, 8, 8⟩
abbrev undNetDANOff (n d : Nat) : Fld := ⟨R.undNetDA n d, 16, 8⟩
abbrev undNetDBOn (n d : Nat) : Fld := ⟨R.undNetDB n d, 0, 10⟩
abbrev undNetDBOff (n d : Nat) : Fld := ⟨R.undNetDB n d, 16, 10⟩
abbrev gldCtrlListenEn : Fld := ⟨R.gldCtrl, 0, 1⟩
abbrev gldCtrlAck : Fld := ⟨R.gldCtrl, 1, 1⟩
abbrev gldStateState : Fld := ⟨R.gldState, 0, 2⟩
abbrev gldStateIsolated : Fld := ⟨R.gldState, 2, 1⟩
abbrev gldStateWake : Fld := ⟨R.gldState, 3, 1⟩
abbrev gldStateWindow : Fld := ⟨R.gldState, 4, 1⟩
abbrev gldStateCfgRej : Fld := ⟨R.gldState, 5, 1⟩
abbrev gldStateProg : Fld := ⟨R.gldState, 6, 1⟩
abbrev gldResultWord : Fld := ⟨R.gldResult, 0, 7⟩
abbrev gldResultLevel : Fld := ⟨R.gldResult, 8, 3⟩
abbrev gldResultTMs : Fld := ⟨R.gldResultT, 0, 32⟩
abbrev gldThrWakeOn : Fld := ⟨R.gldThr, 0, 10⟩
abbrev gldThrNWake : Fld := ⟨R.gldThr, 12, 4⟩
abbrev gldThrCmdOn : Fld := ⟨R.gldThr, 16, 10⟩
abbrev gldWinCmdWindow : Fld := ⟨R.gldWin, 0, 16⟩
abbrev gldWinRefract : Fld := ⟨R.gldWin, 16, 16⟩
abbrev gldMicMic1 : Fld := ⟨R.gldMic, 0, 1⟩
abbrev gldMicMic2 : Fld := ⟨R.gldMic, 1, 1⟩
abbrev gldMicRate : Fld := ⟨R.gldMic, 2, 2⟩
abbrev gldMicGAud : Fld := ⟨R.gldMic, 4, 3⟩
abbrev gldCntDetect : Fld := ⟨R.gldCnt, 0, 16⟩
abbrev gldCntDrop : Fld := ⟨R.gldCnt, 16, 16⟩
abbrev gldAudioPosPos : Fld := ⟨R.gldAudioPos, 0, 15⟩
abbrev gldNetLCfg (j : Nat) : Fld := ⟨R.gldNetL j, 0, 25⟩
abbrev gldNetCfgLayersM1 : Fld := ⟨R.gldNetCfg, 0, 2⟩
abbrev hngStateState (n : Nat) : Fld := ⟨R.hngState n, 0, 2⟩
abbrev hngStateBonded (n : Nat) : Fld := ⟨R.hngState n, 2, 1⟩
abbrev hngStateCause (n : Nat) : Fld := ⟨R.hngState n, 4, 4⟩
abbrev hngStateEpoch (n : Nat) : Fld := ⟨R.hngState n, 16, 16⟩
abbrev hngCrcerrCount (n : Nat) : Fld := ⟨R.hngCrcerr n, 0, 32⟩
abbrev hngReplayCount (n : Nat) : Fld := ⟨R.hngReplay n, 0, 32⟩
abbrev hngFramesCount (n : Nat) : Fld := ⟨R.hngFrames n, 0, 32⟩
abbrev hngPairStatusRole : Fld := ⟨R.hngPairStatus, 0, 2⟩
abbrev hngPairStatusPeerRole : Fld := ⟨R.hngPairStatus, 2, 2⟩
abbrev hngPairStatusSynced : Fld := ⟨R.hngPairStatus, 4, 1⟩
abbrev hngPairStatusPeerAct : Fld := ⟨R.hngPairStatus, 5, 1⟩
abbrev hngPairStatusAct : Fld := ⟨R.hngPairStatus, 6, 1⟩
abbrev hngPairStatusPairId : Fld := ⟨R.hngPairStatus, 7, 1⟩
abbrev hngPairStatusMode : Fld := ⟨R.hngPairStatus, 8, 2⟩
abbrev hngPairStatusEpoch : Fld := ⟨R.hngPairStatus, 16, 16⟩
abbrev hngHbMiss : Fld := ⟨R.hngHb, 0, 16⟩
abbrev hngHbFailover : Fld := ⟨R.hngHb, 16, 16⟩
abbrev hngMirDiff : Fld := ⟨R.hngMir, 0, 16⟩
abbrev hngMirSrcDiff : Fld := ⟨R.hngMir, 16, 16⟩
abbrev hngMirLostCount : Fld := ⟨R.hngMirLost, 0, 32⟩
abbrev hngMirSyncSync : Fld := ⟨R.hngMirSync, 0, 24⟩
abbrev hngGridColsM1 : Fld := ⟨R.hngGrid, 0, 7⟩
abbrev hngGridRowsM1 : Fld := ⟨R.hngGrid, 8, 7⟩
abbrev hngGridCol : Fld := ⟨R.hngGrid, 16, 7⟩
abbrev hngGridRow : Fld := ⟨R.hngGrid, 24, 7⟩
abbrev hngGovOwnMv : Fld := ⟨R.hngGov, 0, 10⟩
abbrev hngGovPubMv : Fld := ⟨R.hngGov, 16, 10⟩
abbrev hngHaloLateCount : Fld := ⟨R.hngHaloLate, 0, 32⟩
abbrev hngDieidLoId : Fld := ⟨R.hngDieidLo, 0, 32⟩
abbrev hngDieidHiId : Fld := ⟨R.hngDieidHi, 0, 32⟩
abbrev phcRailMeasMv (r : Nat) : Fld := ⟨R.phcRailMeas r, 0, 16⟩
abbrev phcRailMeasMa (r : Nat) : Fld := ⟨R.phcRailMeas r, 16, 16⟩
abbrev phcRailLimitLimitMa (r : Nat) : Fld := ⟨R.phcRailLimit r, 0, 16⟩
abbrev phcRailLimitWarnPct (r : Nat) : Fld := ⟨R.phcRailLimit r, 16, 8⟩
abbrev phcRailPeakPeakMa (r : Nat) : Fld := ⟨R.phcRailPeak r, 0, 16⟩
abbrev phcRailPeakOver (r : Nat) : Fld := ⟨R.phcRailPeak r, 16, 16⟩
abbrev phcPkgLimit : Fld := ⟨R.phcPkg, 0, 12⟩
abbrev phcPkgPower : Fld := ⟨R.phcPkg, 16, 12⟩
abbrev phcCurCtrlShedEn : Fld := ⟨R.phcCurCtrl, 0, 1⟩
abbrev phcCurCtrlRestore : Fld := ⟨R.phcCurCtrl, 8, 8⟩
abbrev phcCurStatusShed : Fld := ⟨R.phcCurStatus, 0, 1⟩
abbrev phcCurStatusSpareOff : Fld := ⟨R.phcCurStatus, 1, 1⟩
abbrev phcCurStatusVfault : Fld := ⟨R.phcCurStatus, 2, 1⟩
abbrev phcCurStatusVeto : Fld := ⟨R.phcCurStatus, 3, 1⟩
abbrev phcCurStatusLimitHit : Fld := ⟨R.phcCurStatus, 4, 1⟩
abbrev phcCurStatusRail : Fld := ⟨R.phcCurStatus, 8, 3⟩
abbrev phcCurStatusSheds : Fld := ⟨R.phcCurStatus, 16, 16⟩
abbrev phcAvsStatusFail : Fld := ⟨R.phcAvsStatus, 0, 1⟩
abbrev phcAvsStatusRetry : Fld := ⟨R.phcAvsStatus, 8, 8⟩
abbrev phcAvsStatusSlow : Fld := ⟨R.phcAvsStatus, 16, 8⟩
abbrev phcEnergyMj : Fld := ⟨R.phcEnergy, 0, 32⟩
abbrev phcTempNow (i : Nat) : Fld := ⟨R.phcTemp i, 0, 16⟩
abbrev phcTempMax (i : Nat) : Fld := ⟨R.phcTemp i, 16, 16⟩
abbrev phcThermCfgWarn : Fld := ⟨R.phcThermCfg, 0, 8⟩
abbrev phcThermCfgHyst : Fld := ⟨R.phcThermCfg, 8, 4⟩
abbrev phcThermCfgTrip : Fld := ⟨R.phcThermCfg, 16, 8⟩
abbrev phcThermStatusWarn : Fld := ⟨R.phcThermStatus, 0, 1⟩
abbrev phcThermStatusTrip : Fld := ⟨R.phcThermStatus, 1, 1⟩
abbrev phcThermStatusArmed : Fld := ⟨R.phcThermStatus, 2, 1⟩
abbrev phcThermStatusSensor : Fld := ⟨R.phcThermStatus, 8, 5⟩
abbrev phcThermStatusHottest : Fld := ⟨R.phcThermStatus, 16, 16⟩
abbrev phcRotCfgInterval : Fld := ⟨R.phcRotCfg, 0, 16⟩
abbrev phcRotStatusSpare : Fld := ⟨R.phcRotStatus, 0, 5⟩
abbrev phcRotStatusNext : Fld := ⟨R.phcRotStatus, 8, 5⟩
abbrev phcRotStatusRemain : Fld := ⟨R.phcRotStatus, 16, 16⟩
abbrev phcRotCntDone : Fld := ⟨R.phcRotCnt, 0, 16⟩
abbrev phcRotCntPostpone : Fld := ⟨R.phcRotCnt, 16, 8⟩
abbrev phcRotCntAbort : Fld := ⟨R.phcRotCnt, 24, 8⟩
abbrev phcAgeRatio (n : Nat) : Fld := ⟨R.phcAge n, 0, 12⟩
abbrev phcAgeDrive (n : Nat) : Fld := ⟨R.phcAge n, 12, 3⟩
abbrev phcAgeRate (n : Nat) : Fld := ⟨R.phcAge n, 16, 12⟩
abbrev phcBootCausePor : Fld := ⟨R.phcBootCause, 0, 1⟩
abbrev phcBootCausePwr : Fld := ⟨R.phcBootCause, 1, 1⟩
abbrev phcBootCausePin : Fld := ⟨R.phcBootCause, 2, 1⟩
abbrev phcBootCauseWdog : Fld := ⟨R.phcBootCause, 3, 1⟩
abbrev phcBootCauseWdogSeq : Fld := ⟨R.phcBootCause, 8, 4⟩
abbrev phcBootStatusSlot : Fld := ⟨R.phcBootStatus, 0, 2⟩
abbrev phcBootStatusFallback : Fld := ⟨R.phcBootStatus, 2, 1⟩
abbrev phcBootStatusAuthA : Fld := ⟨R.phcBootStatus, 3, 1⟩
abbrev phcBootStatusAuthB : Fld := ⟨R.phcBootStatus, 4, 1⟩
abbrev phcBootStatusBcbDef : Fld := ⟨R.phcBootStatus, 5, 1⟩
abbrev phcBootStatusRecStrap : Fld := ⟨R.phcBootStatus, 6, 1⟩
abbrev phcBootStatusDramFail : Fld := ⟨R.phcBootStatus, 7, 1⟩
abbrev phcBootStatusCalDie : Fld := ⟨R.phcBootStatus, 8, 1⟩
abbrev phcBootStatusBootMs : Fld := ⟨R.phcBootStatus, 16, 16⟩
abbrev phcCalBadLoPages : Fld := ⟨R.phcCalBadLo, 0, 32⟩
abbrev phcCalBadHiPages : Fld := ⟨R.phcCalBadHi, 0, 32⟩
abbrev phcStrapsPairId : Fld := ⟨R.phcStraps, 0, 1⟩
abbrev phcStrapsMgmtAddr : Fld := ⟨R.phcStraps, 1, 2⟩
abbrev phcStrapsBootRec : Fld := ⟨R.phcStraps, 3, 1⟩
abbrev phcAmbCfgLoMv : Fld := ⟨R.phcAmbCfg, 0, 11⟩
abbrev phcAmbCfgRepEn : Fld := ⟨R.phcAmbCfg, 15, 1⟩
abbrev phcAmbCfgHiMv : Fld := ⟨R.phcAmbCfg, 16, 11⟩
abbrev phcAmbCfgDeb : Fld := ⟨R.phcAmbCfg, 28, 4⟩
abbrev phcAmbStatusLevel : Fld := ⟨R.phcAmbStatus, 0, 1⟩
abbrev phcAmbStatusCfgIgn : Fld := ⟨R.phcAmbStatus, 1, 1⟩
abbrev phcAmbStatusChg : Fld := ⟨R.phcAmbStatus, 2, 1⟩
abbrev phcAmbStatusMv : Fld := ⟨R.phcAmbStatus, 16, 11⟩
abbrev phcPinStatusPeerAct : Fld := ⟨R.phcPinStatus, 0, 1⟩
abbrev phcPinStatusFsync : Fld := ⟨R.phcPinStatus, 1, 1⟩
abbrev phcPinStatusTripPin : Fld := ⟨R.phcPinStatus, 2, 1⟩
abbrev phcPinStatusStby : Fld := ⟨R.phcPinStatus, 3, 1⟩
abbrev phcPinStatusPairId : Fld := ⟨R.phcPinStatus, 8, 1⟩
abbrev phcPinStatusMgmtAddr : Fld := ⟨R.phcPinStatus, 9, 2⟩
abbrev phcPinStatusBootRec : Fld := ⟨R.phcPinStatus, 11, 1⟩
abbrev phcPinStatusStrapChg : Fld := ⟨R.phcPinStatus, 12, 1⟩
abbrev phcAmbCntCount : Fld := ⟨R.phcAmbCnt, 0, 32⟩
abbrev dbgCtrlJtagEn : Fld := ⟨R.dbgCtrl, 0, 1⟩
abbrev dbgCtrlEvtLimit : Fld := ⟨R.dbgCtrl, 8, 8⟩
abbrev dbgSatBlock : Fld := ⟨R.dbgSat, 0, 13⟩
abbrev dbgRerunStarted : Fld := ⟨R.dbgRerun, 0, 16⟩
abbrev dbgRerunExhausted : Fld := ⟨R.dbgRerun, 16, 16⟩
abbrev dbgEvtRaised (e : Nat) : Fld := ⟨R.dbgEvt e, 0, 20⟩
abbrev dbgEvtNotposted (e : Nat) : Fld := ⟨R.dbgEvt e, 20, 12⟩
abbrev dbgStdFailCause (n : Nat) : Fld := ⟨R.dbgStdFail n, 0, 4⟩
abbrev dbgStdFailFrame (n : Nat) : Fld := ⟨R.dbgStdFail n, 8, 24⟩

end F

/-- Rows of the GLB window. -/
def glbRows : List RegRow := [
  ⟨0x0, 0x4000000, 1, 0x4000000, 1, 0x6b720021, 0x0, 0x0, 0x0, 0x0⟩,
  ⟨0x4, 0x4000000, 1, 0x4000000, 1, 0x0, 0x0, 0x0, 0x0, 0x0⟩,
  ⟨0x8, 0x4000000, 1, 0x4000000, 1, 0x0, 0x0, 0x0, 0xffffffff, 0x0⟩,
  ⟨0x10, 0x4000000, 1, 0x4000000, 1, 0x0, 0x81ff01ff, 0x0, 0x0, 0x0⟩,
  ⟨0x14, 0x4000000, 1, 0x4000000, 1, 0x0, 0x0, 0x0, 0xffffffff, 0x0⟩,
  ⟨0x18, 0x4000000, 1, 0x4000000, 1, 0x0, 0x0, 0x0, 0x0, 0x0⟩,
  ⟨0x1c, 0x4000000, 1, 0x4000000, 1, 0x0, 0x0, 0x0, 0x0, 0x0⟩,
  ⟨0x8000, 0x10, 64, 0x4, 3, 0x0, 0xffffffff, 0x0, 0x0, 0x0⟩,
  ⟨0x800c, 0x10, 64, 0x10, 1, 0x1, 0x1, 0x0, 0x0, 0x0⟩,
  ⟨0x9000, 0x4, 2, 0x4, 1, 0x0, 0x0, 0x0, 0x0, 0x0⟩]

/-- Rows of the WKT window. -/
def wktRows : List RegRow := [
  ⟨0x10000, 0x100, 16, 0x4, 16, 0x0, 0xffffffff, 0x0, 0x0, 0x0⟩,
  ⟨0x10040, 0x100, 16, 0x4, 16, 0x0, 0x0, 0x0, 0x0, 0x0⟩,
  ⟨0x10080, 0x100, 16, 0x100, 1, 0x0, 0x0, 0x0, 0x0, 0x1⟩,
  ⟨0x10084, 0x100, 16, 0x100, 1, 0x0, 0x0, 0xc, 0x0, 0x0⟩,
  ⟨0x10088, 0x100, 16, 0x100, 1, 0x1, 0x1, 0x0, 0x0, 0x0⟩,
  ⟨0x11000, 0x4000000, 1, 0x4000000, 1, 0x0, 0x0, 0x0, 0x0, 0x0⟩]

/-- Rows of the RNG window. -/
def rngRows : List RegRow := [
  ⟨0x20000, 0x40, 512, 0x40, 1, 0x0, 0xffffffc0, 0x0, 0x0, 0x0⟩,
  ⟨0x20004, 0x40, 512, 0x40, 1, 0x0, 0xffffffff, 0x0, 0x0, 0x0⟩,
  ⟨0x20008, 0x40, 512, 0x40, 1, 0x0, 0xff7f073f, 0x0, 0x0, 0x0⟩,
  ⟨0x2000c, 0x40, 512, 0x40, 1, 0x0, 0xfff, 0x0, 0x0, 0x0⟩,
  ⟨0x20010, 0x40, 512, 0x40, 1, 0x0, 0xfff, 0x0, 0x0, 0x0⟩,
  ⟨0x20014, 0x40, 512, 0x40, 1, 0x0, 0x0, 0x0, 0x0, 0x0⟩,
  ⟨0x20018, 0x40, 512, 0x40, 1, 0x0, 0x9fff1fff, 0x0, 0x0, 0x0⟩,
  ⟨0x2001c, 0x40, 512, 0x40, 1, 0x0, 0x0, 0x0, 0xffff07, 0x0⟩,
  ⟨0x20020, 0x40, 512, 0x40, 1, 0x0, 0x0, 0x0, 0x0, 0x0⟩,
  ⟨0x20024, 0x40, 512, 0x40, 1, 0x0, 0x0, 0xf, 0x0, 0x0⟩,
  ⟨0x20028, 0x40, 512, 0x40, 1, 0x0, 0x0, 0x0, 0xffffffff, 0x0⟩]

/-- Rows of the VID window, part 0. -/
def vidRows0 : List RegRow := [
  ⟨0x41000, 0x80, 24, 0x80, 1, 0x61f0000, 0xff1f1fff, 0x0, 0x0, 0x0⟩,
  ⟨0x41004, 0x80, 24, 0x80, 1, 0x0, 0x1fff1fff, 0x0, 0x0, 0x0⟩,
  ⟨0x41008, 0x80, 24, 0x80, 1, 0x0, 0x3fff3fff, 0x0, 0x0, 0x0⟩,
  ⟨0x4100c, 0x80, 24, 0x80, 1, 0x0, 0xffffffff, 0x0, 0x0, 0x0⟩,
  ⟨0x41010, 0x80, 24, 0x80, 1, 0x4, 0xf7f, 0x0, 0x0, 0x0⟩,
  ⟨0x41014, 0x80, 24, 0x80, 1, 0x7, 0xff07, 0x0, 0x0, 0x0⟩,
  ⟨0x41018, 0x80, 24, 0x80, 1, 0x0, 0xff3fff, 0x0, 0x0, 0x0⟩,
  ⟨0x4101c, 0x80, 24, 0x80, 1, 0x0, 0x3ffff, 0x0, 0x0, 0x0⟩,
  ⟨0x41020, 0x80, 24, 0x80, 1, 0x0, 0x1fff1fff, 0x0, 0x0, 0x0⟩,
  ⟨0x41024, 0x80, 24, 0x80, 1, 0x0, 0x3ff, 0x0, 0x0, 0x0⟩,
  ⟨0x41028, 0x80, 24, 0x80, 1, 0x0, 0x0, 0x8, 0x0, 0x0⟩,
  ⟨0x4102c, 0x80, 24, 0x80, 1, 0x0, 0x0, 0x0, 0x0, 0x0⟩,
  ⟨0x41030, 0x80, 24, 0x80, 1, 0x0, 0x0, 0x0, 0xffffffff, 0x0⟩,
  ⟨0x41034, 0x80, 24, 0x80, 1, 0x0, 0x0, 0x0, 0xffffffff, 0x0⟩,
  ⟨0x41038, 0x80, 24, 0x80, 1, 0x0, 0x0, 0x0, 0xffffffff, 0x0⟩,
  ⟨0x40000, 0x400, 2, 0x400, 1, 0xea, 0xff, 0x0, 0x0, 0x100⟩,
  ⟨0x40004, 0x400, 2, 0x400, 1, 0x0, 0x0, 0x0, 0x0, 0x0⟩,
  ⟨0x40200, 0x400, 2, 0x4, 128, 0x0, 0xffffffff, 0x0, 0x0, 0x0⟩,
  ⟨0x40800, 0x400, 2, 0x400, 1, 0x28, 0x3f, 0x0, 0x0, 0x0⟩,
  ⟨0x40804, 0x400, 2, 0x400, 1, 0x0, 0x0, 0x0, 0x0, 0x0⟩]

/-- Rows of the VID window, part 1. -/
def vidRows1 : List RegRow := [
  ⟨0x40e00, 0x4000000, 1, 0x4000000, 1, 0x8ca4, 0xffff, 0x0, 0x0, 0x0⟩,
  ⟨0x40e04, 0x4000000, 1, 0x4000000, 1, 0x0, 0x0, 0x0, 0xffffffff, 0x0⟩]

/-- Rows of the VID window. -/
def vidRows : List RegRow := vidRows0 ++ vidRows1

/-- Rows of the RAS window. -/
def rasRows : List RegRow := [
  ⟨0x50000, 0x40, 24, 0x40, 1, 0x2, 0x3, 0x100, 0x0, 0x0⟩,
  ⟨0x50004, 0x40, 24, 0x40, 1, 0x24f, 0xfff, 0x0, 0x0, 0x0⟩,
  ⟨0x50008, 0x40, 24, 0x40, 1, 0x24f, 0x0, 0x0, 0x0, 0x0⟩,
  ⟨0x5000c, 0x40, 24, 0x40, 1, 0x0, 0x0, 0x0, 0xffffffff, 0x0⟩,
  ⟨0x50010, 0x40, 24, 0x40, 1, 0x0, 0x0, 0x0, 0xffffffff, 0x0⟩,
  ⟨0x50014, 0x40, 24, 0x40, 1, 0x0, 0x0, 0x0, 0xffffffff, 0x0⟩,
  ⟨0x50018, 0x40, 24, 0x40, 1, 0x0, 0x0, 0x0, 0x0, 0x0⟩,
  ⟨0x5001c, 0x40, 24, 0x40, 1, 0x0, 0x0, 0x0, 0xffffffff, 0x0⟩,
  ⟨0x50020, 0x40, 24, 0x40, 1, 0x7fff7fff, 0x0, 0x0, 0x0, 0x0⟩,
  ⟨0x50024, 0x40, 24, 0x40, 1, 0x0, 0x0, 0x0, 0xffffffff, 0x0⟩]

/-- Rows of the CHN window, part 0. -/
def chnRows0 : List RegRow := [
  ⟨0x78000, 0x4000000, 1, 0x4000000, 1, 0x0, 0x0, 0x0, 0x0, 0x0⟩,
  ⟨0x78004, 0x4000000, 1, 0x4000000, 1, 0x1004, 0xffff, 0x0, 0x0, 0x0⟩,
  ⟨0x78008, 0x4000000, 1, 0x4000000, 1, 0x0, 0x0, 0xff, 0x0, 0x0⟩,
  ⟨0x78100, 0x40, 8, 0x40, 1, 0x0, 0x0, 0x0, 0x0, 0x0⟩,
  ⟨0x78104, 0x40, 8, 0x40, 1, 0x0, 0x0, 0x0, 0x0, 0x0⟩,
  ⟨0x78108, 0x40, 8, 0x40, 1, 0x0, 0x0, 0x0, 0xffffffff, 0x0⟩,
  ⟨0x7810c, 0x40, 8, 0x40, 1, 0x0, 0x0, 0x0, 0xffffffff, 0x0⟩,
  ⟨0x60000, 0x20, 1024, 0x20, 1, 0x0, 0x0, 0x0, 0x0, 0x0⟩,
  ⟨0x60004, 0x20, 1024, 0x20, 1, 0x0, 0x0, 0x0, 0x0, 0x0⟩,
  ⟨0x60008, 0x20, 1024, 0x20, 1, 0x0, 0x0, 0x0, 0xffffffff, 0x0⟩,
  ⟨0x6000c, 0x20, 1024, 0x20, 1, 0x0, 0x0, 0x0, 0xffffffff, 0x0⟩,
  ⟨0x60010, 0x20, 1024, 0x20, 1, 0x0, 0x0, 0x0, 0xffffffff, 0x0⟩,
  ⟨0x60014, 0x20, 1024, 0x20, 1, 0x0, 0x0, 0x0, 0x70, 0x0⟩,
  ⟨0x68000, 0x10, 32, 0x4, 4, 0x0, 0x0, 0x0, 0x0, 0x0⟩,
  ⟨0x68200, 0x4000000, 1, 0x4000000, 1, 0x0, 0x0, 0x8000, 0x0, 0x0⟩,
  ⟨0x68204, 0x4000000, 1, 0x4000000, 1, 0x40, 0xffff, 0x0, 0x0, 0x0⟩,
  ⟨0x70000, 0x10, 256, 0x10, 1, 0x0, 0x0, 0x20000, 0x0, 0x0⟩,
  ⟨0x70004, 0x10, 256, 0x10, 1, 0x0, 0x0, 0x0, 0x0, 0x0⟩,
  ⟨0x71000, 0x10, 256, 0x10, 1, 0x0, 0x0, 0x0, 0x0, 0x0⟩,
  ⟨0x71004, 0x10, 256, 0x10, 1, 0x0, 0x0, 0x0, 0x0, 0x0⟩]

/-- Rows of the CHN window, part 1. -/
def chnRows1 : List RegRow := [
  ⟨0x71008, 0x10, 256, 0x10, 1, 0x0, 0x0, 0x0, 0x0, 0x0⟩,
  ⟨0x72000, 0x20, 128, 0x20, 1, 0x0, 0x0, 0x0, 0x0, 0x0⟩,
  ⟨0x72004, 0x20, 128, 0x20, 1, 0x0, 0x0, 0x0, 0x0, 0x0⟩,
  ⟨0x72008, 0x20, 128, 0x20, 1, 0x0, 0x0, 0x0, 0xffffffff, 0x0⟩,
  ⟨0x7200c, 0x20, 128, 0x20, 1, 0x0, 0x0, 0x0, 0xffffffff, 0x0⟩,
  ⟨0x73000, 0x4, 24, 0x4, 1, 0x0, 0x0, 0x0, 0xffffffff, 0x0⟩]

/-- Rows of the CHN window. -/
def chnRows : List RegRow := chnRows0 ++ chnRows1

/-- Rows of the STD window. -/
def stdRows : List RegRow := [
  ⟨0x80000, 0x8000, 16, 0x8000, 1, 0x0, 0x0, 0x0, 0x0, 0x0⟩,
  ⟨0x80004, 0x8000, 16, 0x8000, 1, 0x1004, 0xffff, 0x0, 0x0, 0x0⟩,
  ⟨0x80008, 0x8000, 16, 0x8000, 1, 0x0, 0x0, 0xff, 0x0, 0x0⟩,
  ⟨0x80100, 0x8000, 16, 0x40, 8, 0x0, 0x0, 0x0, 0x0, 0x0⟩,
  ⟨0x80104, 0x8000, 16, 0x40, 8, 0x0, 0x0, 0x0, 0x0, 0x0⟩,
  ⟨0x80108, 0x8000, 16, 0x40, 8, 0x0, 0x0, 0x0, 0xffffffff, 0x0⟩,
  ⟨0x8010c, 0x8000, 16, 0x40, 8, 0x0, 0x0, 0x0, 0xffffffff, 0x0⟩]

/-- Rows of the CNP window. -/
def cnpRows : List RegRow := [
  ⟨0x101000, 0x10, 256, 0x10, 1, 0x0, 0x0, 0x0, 0x0, 0x0⟩,
  ⟨0x101004, 0x10, 256, 0x10, 1, 0x0, 0x0, 0x0, 0x0, 0x0⟩,
  ⟨0x101008, 0x10, 256, 0x10, 1, 0x0, 0x0, 0x0, 0x0, 0x0⟩,
  ⟨0x10100c, 0x10, 256, 0x10, 1, 0x0, 0x0, 0x0, 0x0, 0x0⟩,
  ⟨0x100000, 0x4000000, 1, 0x4000000, 1, 0x8, 0xffff, 0x0, 0x0, 0x0⟩,
  ⟨0x100004, 0x4000000, 1, 0x4000000, 1, 0x0, 0x0, 0x3, 0x0, 0x0⟩,
  ⟨0x100008, 0x4000000, 1, 0x4000000, 1, 0x0, 0x0, 0x0, 0x0, 0x0⟩,
  ⟨0x100010, 0x4000000, 1, 0x4000000, 1, 0x0, 0x0, 0x0, 0xffffffff, 0x0⟩,
  ⟨0x100014, 0x4000000, 1, 0x4000000, 1, 0x0, 0x0, 0x0, 0xffffffff, 0x0⟩,
  ⟨0x100018, 0x4000000, 1, 0x4000000, 1, 0x0, 0x0, 0x0, 0xffffffff, 0x0⟩,
  ⟨0x100020, 0x4000000, 1, 0x4000000, 1, 0x0, 0x0, 0x0, 0xffffffff, 0x0⟩,
  ⟨0x100024, 0x4000000, 1, 0x4000000, 1, 0x0, 0x0, 0x0, 0x0, 0x0⟩,
  ⟨0x100028, 0x4000000, 1, 0x4000000, 1, 0x0, 0x0, 0x0, 0x0, 0x0⟩,
  ⟨0x100030, 0x4000000, 1, 0x4000000, 1, 0x0, 0x0, 0x0, 0xffffffff, 0x0⟩,
  ⟨0x100034, 0x4000000, 1, 0x4000000, 1, 0x0, 0x0, 0x0, 0xffffffff, 0x0⟩,
  ⟨0x100038, 0x4000000, 1, 0x4000000, 1, 0x0, 0x0, 0x0, 0xffffffff, 0x0⟩,
  ⟨0x10003c, 0x4000000, 1, 0x4000000, 1, 0x0, 0x0, 0x0, 0x0, 0x0⟩,
  ⟨0x100100, 0x4, 64, 0x4, 1, 0x0, 0x0, 0x0, 0xffffffff, 0x0⟩]

/-- Rows of the UND window, part 0. -/
def undRows0 : List RegRow := [
  ⟨0x140000, 0x20, 64, 0x20, 1, 0x0, 0x0, 0x0, 0x0, 0x3⟩,
  ⟨0x140004, 0x20, 64, 0x20, 1, 0x0, 0xffffffff, 0x0, 0x0, 0x0⟩,
  ⟨0x140008, 0x20, 64, 0x20, 1, 0x0, 0x0, 0x40, 0x0, 0x0⟩,
  ⟨0x14000c, 0x20, 64, 0x20, 1, 0x0, 0x0, 0x0, 0x0, 0x0⟩,
  ⟨0x140010, 0x20, 64, 0x20, 1, 0x0, 0x0, 0x0, 0xffffffff, 0x0⟩,
  ⟨0x140014, 0x20, 64, 0x20, 1, 0x0, 0x0, 0x0, 0x0, 0x0⟩,
  ⟨0x140800, 0x4000000, 1, 0x4000000, 1, 0x40, 0x3ffff, 0x0, 0x0, 0x0⟩,
  ⟨0x141000, 0x100, 8, 0x100, 1, 0x0, 0x7fffd, 0x2, 0x0, 0x0⟩,
  ⟨0x141004, 0x100, 8, 0x4, 8, 0x0, 0x1ffffff, 0x0, 0x0, 0x0⟩,
  ⟨0x141024, 0x100, 8, 0x4, 8, 0x0, 0x0, 0x0, 0x0, 0x0⟩,
  ⟨0x141044, 0x100, 8, 0x100, 1, 0x0, 0x0, 0x0, 0x0, 0x0⟩,
  ⟨0x141048, 0x100, 8, 0x100, 1, 0x0, 0x0, 0x0, 0xffffffff, 0x0⟩,
  ⟨0x14104c, 0x100, 8, 0x100, 1, 0x0, 0x0, 0x0, 0x0, 0x0⟩,
  ⟨0x141050, 0x100, 8, 0x8, 8, 0x0, 0xffff7f, 0x0, 0x0, 0x0⟩,
  ⟨0x141054, 0x100, 8, 0x8, 8, 0x0, 0x3ff03ff, 0x0, 0x0, 0x0⟩,
  ⟨0x148000, 0x4000000, 1, 0x4000000, 1, 0x0, 0x1, 0x0, 0x0, 0x2⟩,
  ⟨0x148004, 0x4000000, 1, 0x4000000, 1, 0x5, 0x0, 0x20, 0x0, 0x0⟩,
  ⟨0x148008, 0x4000000, 1, 0x4000000, 1, 0x7f, 0x0, 0x0, 0x0, 0x0⟩,
  ⟨0x14800c, 0x4000000, 1, 0x4000000, 1, 0x0, 0x0, 0x0, 0x0, 0x0⟩,
  ⟨0x148010, 0x4000000, 1, 0x4000000, 1, 0x1003100, 0x3fff3ff, 0x0, 0x0, 0x0⟩]

/-- Rows of the UND window, part 1. -/
def undRows1 : List RegRow := [
  ⟨0x148014, 0x4000000, 1, 0x4000000, 1, 0x5dc0fa0, 0xffffffff, 0x0, 0x0, 0x0⟩,
  ⟨0x148018, 0x4000000, 1, 0x4000000, 1, 0x4, 0x7f, 0x0, 0x0, 0x0⟩,
  ⟨0x14801c, 0x4000000, 1, 0x4000000, 1, 0x0, 0x0, 0x0, 0xffffffff, 0x0⟩,
  ⟨0x148020, 0x4000000, 1, 0x4000000, 1, 0x0, 0x0, 0x0, 0x0, 0x0⟩,
  ⟨0x148030, 0x4, 4, 0x4, 1, 0x0, 0x1ffffff, 0x0, 0x0, 0x0⟩,
  ⟨0x148040, 0x4000000, 1, 0x4000000, 1, 0x0, 0x3, 0x0, 0x0, 0x0⟩,
  ⟨0x150000, 0x4, 16384, 0x4, 1, 0x0, 0x0, 0x0, 0x0, 0x0⟩]

/-- Rows of the UND window. -/
def undRows : List RegRow := undRows0 ++ undRows1

/-- Rows of the HNG window. -/
def hngRows : List RegRow := [
  ⟨0x188000, 0x10, 64, 0x10, 1, 0x0, 0x0, 0x0, 0x0, 0x0⟩,
  ⟨0x188004, 0x10, 64, 0x10, 1, 0x0, 0x0, 0x0, 0xffffffff, 0x0⟩,
  ⟨0x188008, 0x10, 64, 0x10, 1, 0x0, 0x0, 0x0, 0xffffffff, 0x0⟩,
  ⟨0x18800c, 0x10, 64, 0x10, 1, 0x0, 0x0, 0x0, 0xffffffff, 0x0⟩,
  ⟨0x188400, 0x4000000, 1, 0x4000000, 1, 0x0, 0x3f, 0x0, 0x0, 0x100⟩,
  ⟨0x188800, 0x4, 256, 0x4, 1, 0x0, 0x0, 0x0, 0x0, 0x0⟩,
  ⟨0x180000, 0x100, 4, 0x100, 1, 0x50, 0x0, 0x0, 0x0, 0x0⟩,
  ⟨0x180004, 0x100, 4, 0x100, 1, 0x0, 0x0, 0x0, 0xffffffff, 0x0⟩,
  ⟨0x180008, 0x100, 4, 0x100, 1, 0x0, 0x0, 0x0, 0xffffffff, 0x0⟩,
  ⟨0x18000c, 0x100, 4, 0x100, 1, 0x0, 0x0, 0x0, 0xffffffff, 0x0⟩,
  ⟨0x180400, 0x4000000, 1, 0x4000000, 1, 0x0, 0x0, 0x0, 0x0, 0x0⟩,
  ⟨0x180404, 0x4000000, 1, 0x4000000, 1, 0x0, 0x0, 0x0, 0xffffffff, 0x0⟩,
  ⟨0x180408, 0x4000000, 1, 0x4000000, 1, 0x0, 0x0, 0x0, 0xffffffff, 0x0⟩,
  ⟨0x18040c, 0x4000000, 1, 0x4000000, 1, 0x0, 0x0, 0x0, 0xffffffff, 0x0⟩,
  ⟨0x180410, 0x4000000, 1, 0x4000000, 1, 0x0, 0x0, 0x0, 0x0, 0x0⟩,
  ⟨0x180414, 0x4000000, 1, 0x4000000, 1, 0x0, 0x0, 0x0, 0x0, 0x0⟩,
  ⟨0x180418, 0x4000000, 1, 0x4000000, 1, 0x0, 0x0, 0x0, 0x0, 0x0⟩,
  ⟨0x18041c, 0x4000000, 1, 0x4000000, 1, 0x0, 0x0, 0x0, 0xffffffff, 0x0⟩,
  ⟨0x180420, 0x4000000, 1, 0x4000000, 1, 0x0, 0x0, 0x0, 0x0, 0x0⟩,
  ⟨0x180424, 0x4000000, 1, 0x4000000, 1, 0x0, 0x0, 0x0, 0x0, 0x0⟩]

/-- Rows of the PHC window, part 0. -/
def phcRows0 : List RegRow := [
  ⟨0x1c0100, 0x4000000, 1, 0x4000000, 1, 0x840811, 0xffff73, 0x0, 0x0, 0x0⟩,
  ⟨0x1c0104, 0x4000000, 1, 0x4000000, 1, 0x2bc02bc, 0x3ff, 0x0, 0x0, 0x0⟩,
  ⟨0x1c0108, 0x4000000, 1, 0x4000000, 1, 0x3840384, 0x3ff, 0x0, 0x0, 0x0⟩,
  ⟨0x1c010c, 0x4000000, 1, 0x4000000, 1, 0x8030, 0xffff, 0x0, 0x0, 0x0⟩,
  ⟨0x1c0110, 0x4000000, 1, 0x4000000, 1, 0x38402ee, 0x0, 0xe000, 0x0, 0x0⟩,
  ⟨0x1c0114, 0x4000000, 1, 0x4000000, 1, 0x0, 0x0, 0x0, 0x0, 0x0⟩,
  ⟨0x1c0118, 0x4000000, 1, 0x4000000, 1, 0x0, 0x0, 0x0, 0xffffffff, 0x0⟩,
  ⟨0x1c011c, 0x4000000, 1, 0x4000000, 1, 0x2ee, 0x3ff, 0x0, 0x0, 0x0⟩,
  ⟨0x1c0120, 0x4000000, 1, 0x4000000, 1, 0x2bc, 0x0, 0x0, 0x0, 0x0⟩,
  ⟨0x1c0124, 0x4000000, 1, 0x4000000, 1, 0x258, 0x3ff, 0x0, 0x0, 0x0⟩,
  ⟨0x1c0200, 0x4, 2, 0x4, 1, 0x0, 0x0, 0x0, 0x0, 0x0⟩,
  ⟨0x1c0208, 0x4000000, 1, 0x4000000, 1, 0x384, 0x0, 0x0, 0x0, 0x0⟩,
  ⟨0x1c020c, 0x4000000, 1, 0x4000000, 1, 0x0, 0x0, 0x0, 0x0, 0x0⟩,
  ⟨0x1c0210, 0x4000000, 1, 0x4000000, 1, 0x0, 0x0, 0x0, 0x37fffff, 0x0⟩,
  ⟨0x1c0214, 0x4000000, 1, 0x4000000, 1, 0x0, 0x0, 0x0, 0xffffffff, 0x0⟩,
  ⟨0x1c0000, 0x10, 7, 0x10, 1, 0x0, 0x0, 0x0, 0x0, 0x0⟩,
  ⟨0x1c0004, 0x4000000, 1, 0x4000000, 1, 0x5aafc8, 0xffffff, 0x0, 0x0, 0x0⟩,
  ⟨0x1c0014, 0x4000000, 1, 0x4000000, 1, 0x5a36b0, 0xffffff, 0x0, 0x0, 0x0⟩,
  ⟨0x1c0024, 0x4000000, 1, 0x4000000, 1, 0x5a0032, 0xffffff, 0x0, 0x0, 0x0⟩,
  ⟨0x1c0034, 0x4000000, 1, 0x4000000, 1, 0x5a0190, 0xffffff, 0x0, 0x0, 0x0⟩]

/-- Rows of the PHC window, part 1. -/
def phcRows1 : List RegRow := [
  ⟨0x1c0044, 0x4000000, 1, 0x4000000, 1, 0x5a0fa0, 0xffffff, 0x0, 0x0, 0x0⟩,
  ⟨0x1c0054, 0x4000000, 1, 0x4000000, 1, 0x5a07d0, 0xffffff, 0x0, 0x0, 0x0⟩,
  ⟨0x1c0064, 0x4000000, 1, 0x4000000, 1, 0x5a0bb8, 0xffffff, 0x0, 0x0, 0x0⟩,
  ⟨0x1c0008, 0x10, 7, 0x10, 1, 0x0, 0x0, 0x0, 0xffffffff, 0x0⟩,
  ⟨0x1c0080, 0x4000000, 1, 0x4000000, 1, 0x190, 0x0, 0x0, 0x0, 0x0⟩,
  ⟨0x1c0084, 0x4000000, 1, 0x4000000, 1, 0x7801, 0xff01, 0x0, 0x0, 0x0⟩,
  ⟨0x1c0088, 0x4000000, 1, 0x4000000, 1, 0x0, 0x0, 0x10, 0xffff0000, 0x0⟩,
  ⟨0x1c0090, 0x4000000, 1, 0x4000000, 1, 0x0, 0x0, 0x0, 0xffff00, 0x0⟩,
  ⟨0x1c00a0, 0x4000000, 1, 0x4000000, 1, 0x0, 0x0, 0x0, 0x0, 0x0⟩,
  ⟨0x1c0300, 0x4, 24, 0x4, 1, 0x0, 0x0, 0x0, 0xffff0000, 0x0⟩,
  ⟨0x1c0360, 0x4000000, 1, 0x4000000, 1, 0x7d0564, 0xfff, 0x0, 0x0, 0x0⟩,
  ⟨0x1c0364, 0x4000000, 1, 0x4000000, 1, 0x4, 0x0, 0x0, 0x0, 0x0⟩,
  ⟨0x1c0380, 0x4000000, 1, 0x4000000, 1, 0xe10, 0x0, 0x0, 0x0, 0x0⟩,
  ⟨0x1c0384, 0x4000000, 1, 0x4000000, 1, 0x1f, 0x0, 0x0, 0x0, 0x0⟩,
  ⟨0x1c0388, 0x4000000, 1, 0x4000000, 1, 0x0, 0x0, 0x0, 0xffffffff, 0x0⟩,
  ⟨0x1c0400, 0x4, 17, 0x4, 1, 0x0, 0x0, 0x0, 0x0, 0x0⟩,
  ⟨0x1c0500, 0x4000000, 1, 0x4000000, 1, 0x1, 0x0, 0xf, 0x0, 0x0⟩,
  ⟨0x1c0504, 0x4000000, 1, 0x4000000, 1, 0x3, 0x0, 0x0, 0x0, 0x0⟩,
  ⟨0x1c0508, 0x4000000, 1, 0x4000000, 1, 0x0, 0x0, 0x0, 0x0, 0x0⟩,
  ⟨0x1c050c, 0x4000000, 1, 0x4000000, 1, 0x0, 0x0, 0x0, 0x0, 0x0⟩]

/-- Rows of the PHC window, part 2. -/
def phcRows2 : List RegRow := [
  ⟨0x1c0510, 0x4000000, 1, 0x4000000, 1, 0x0, 0x0, 0x0, 0x0, 0x0⟩,
  ⟨0x1c0600, 0x4000000, 1, 0x4000000, 1, 0x81f4012c, 0xf7ff87ff, 0x0, 0x0, 0x0⟩,
  ⟨0x1c0604, 0x4000000, 1, 0x4000000, 1, 0x0, 0x0, 0x6, 0x0, 0x0⟩,
  ⟨0x1c0608, 0x4000000, 1, 0x4000000, 1, 0x0, 0x0, 0x1000, 0x0, 0x0⟩,
  ⟨0x1c060c, 0x4000000, 1, 0x4000000, 1, 0x0, 0x0, 0x0, 0xffffffff, 0x0⟩]

/-- Rows of the PHC window. -/
def phcRows : List RegRow := phcRows0 ++ phcRows1 ++ phcRows2

/-- Rows of the DRC window. -/
def drcRows : List RegRow := [
  ⟨0x200000, 0x4000000, 1, 0x4000000, 1, 0xa, 0x0, 0x0, 0x0, 0x0⟩,
  ⟨0x200004, 0x4000000, 1, 0x4000000, 1, 0x0, 0x0, 0x0, 0x0, 0x0⟩,
  ⟨0x200008, 0x4000000, 1, 0x4000000, 1, 0x0, 0x0, 0x0, 0xffffffff, 0x0⟩]

/-- Rows of the DBG window. -/
def dbgRows : List RegRow := [
  ⟨0x300000, 0x4000000, 1, 0x4000000, 1, 0x4000, 0xff01, 0x0, 0x0, 0x0⟩,
  ⟨0x300004, 0x4000000, 1, 0x4000000, 1, 0x0, 0x0, 0x1fff, 0x0, 0x0⟩,
  ⟨0x300008, 0x4000000, 1, 0x4000000, 1, 0x0, 0x0, 0x0, 0xffffffff, 0x0⟩,
  ⟨0x300044, 0x4, 10, 0x4, 1, 0x0, 0x0, 0x0, 0xffffffff, 0x0⟩,
  ⟨0x300080, 0x4, 17, 0x4, 1, 0x0, 0x0, 0x0, 0x0, 0x0⟩]

/-- The rows of the window that holds an address (Table 17.1). -/
def rowsOf (a : Nat) : List RegRow :=
  if a < 0x10000 then glbRows
  else if a < 0x20000 then wktRows
  else if a < 0x40000 then rngRows
  else if a < 0x50000 then vidRows
  else if a < 0x60000 then rasRows
  else if a < 0x80000 then chnRows
  else if a < 0x100000 then stdRows
  else if a < 0x140000 then cnpRows
  else if a < 0x180000 then undRows
  else if a < 0x1c0000 then hngRows
  else if a < 0x200000 then phcRows
  else if a < 0x300000 then drcRows
  else if a < 0x400000 then dbgRows
  else []

/-- All rows, in ascending window order. -/
def allRows : List RegRow := glbRows ++ wktRows ++ rngRows ++ vidRows ++ rasRows ++ chnRows ++ stdRows ++ cnpRows ++ undRows ++ hngRows ++ phcRows ++ drcRows ++ dbgRows

/-- Whether a row holds an address. -/
def RegRow.has (r : RegRow) (a : Nat) : Bool :=
  decide (r.base ≤ a) && decide ((a - r.base) / r.s1 < r.c1) &&
    decide (((a - r.base) % r.s1) / r.s2 < r.c2) && decide (((a - r.base) % r.s1) % r.s2 = 0)

/-- The row that holds an address; none where no register lies (R504). -/
def regRow (a : Nat) : Option RegRow := (rowsOf a).find? (fun r => r.has a)

/-- The reset value of the register at an address (R17), 0 where there is none. -/
def regReset (a : Nat) : BitVec 32 := match regRow a with
  | some r => BitVec.ofNat 32 r.reset
  | none => 0

/-- Every address of a row, ascending for the strides of the tables. -/
def RegRow.addrs (r : RegRow) : List Nat :=
  (List.range r.c1).flatMap (fun i => (List.range r.c2).map (fun j => r.base + r.s1 * i + r.s2 * j))

end Sys2Proof.Machine
end

