-- ==== Sys2Proof/Machine/State.lean ====
section
/-! DEFINITION. The state of the block: every register (one sparse file by BAR0 address), every memory, buffer, queue,
mode, pin and internal counter the spec gives it, and the queue of waiting commands. -/

namespace Sys2Proof.Machine

/-- Why a step stops with a fault. -/
inductive Fault where
  /-- Raised by PWR_OK_RISE after a power-up that broke Table 14.1: R438 defines no power-up there. Safe: the model
  stops where the spec says nothing. -/
  | powerUpUndefined
deriving DecidableEq, Repr

/-- Why a step is refused. -/
inductive Refusal where
  /-- Raised by an arm of exec whose command has no meaning yet. Safe: nothing follows from it. -/
  | notModelled (mnemonic : String)
deriving DecidableEq, Repr

/-- Where the pixels of a raster slot come from (R22, Table 1.4). -/
inductive LineSrc where
  | neural | lintel | black
deriving DecidableEq, Repr

/-- A frame a Hinge port sends (Table 12.4). -/
inductive HngOut where
  | train (r : IdentRec)
  | ack (seq : Nat)
  | nak (seq : Nat)
  | heartbeat (frame line src ctx : Nat) (closed : Bool) (lcrc : Word)
  | sync (frame lock : Word)
  | gov (mv : Nat) (urgent : Bool)
  | state (item : MirrorItem)
  | data (lch : Nat) (bytes : List Byte)
  | halo (ctx : Nat) (frame : Word) (y x : Nat) (px : Line)
  | fwd (img : Image) (part : Nat) (load : Bool)
deriving DecidableEq, Repr

/-- Something that leaves the part. -/
inductive Output where
  | readData (addr : Nat) (v : Word)
  | hostWrite (addr : Nat) (ws : List Word)
  | hostBytes (addr : Nat) (bs : List Byte)
  | msix (vec : Nat) (addr : Nat) (data : Word)
  | line (tx ctx frame m : Nat) (src : LineSrc) (blank : Bool) (px : Line)
  | avsWrite (mv : Nat)
  | avsRead
  | smbus (bs : List Byte)
  | smbusNack
  | hinge (port seq : Nat) (f : HngOut) (ws : List (BitVec 64))
  | aux (n : Nat) (bs : List Byte)
  | auxNak (n : Nat)
  | mst (n : Nat) (ws : List Nat)
  | mstNak (n : Nat)
  | irqHpd (n : Nat)
  | tdo (bits : List Bool)
  | aperture (bs : List Byte)
  | dram (op ch bank : Nat)
  | dramLine (write : Bool) (ch addr : Nat)
deriving DecidableEq, Repr

/-- The operations of Table 4.6. -/
inductive Op where
  | nop | ldS | stS | ldV | stV | ldVb | ldVx | ldAr | stAr | stAh | stAcc
  | mma | mmaz | azero | amov | aadd | ard | awr
  | vadd | vsub | vmul | vfma | vmax | vmin | vmov | vbcst | vsel | vcmplt | vcmpeq | vshift | vcvti | vcvtp | vsum
  | add | sub | mul | and | or | xor | shl | shr | sra | min | max | addi | li | cmplt | cmpeq | pand | por | pnot | ptail | rdsr
  | sendV | sendS | recvV | recvS | trecvV
  | br | jmp | call | ret | hint | swait | ssig | stry | crget | crput | fence | tagw | halt | trap
deriving DecidableEq, Repr

/-- A task: its descriptor's fields (Table 6.1), where it came from, what its run has used, and whether it is the one rerun of
its line or item (R178). -/
structure Task where
  entry : Nat
  core : Nat
  tmode : Bool
  spec : Bool
  owner : Nat
  task : Word
  frame : Word
  line : Nat
  bbHandle : Nat
  bbBase : Nat
  bbBound : Nat
  startSem : Nat
  startN : Nat
  startEn : Bool
  done : List (Nat × Nat × Bool)
  args : List Word
  template : Nat
  phase : Nat
  item : Nat
  inCommit : Bool
  recurrent : Bool
  rerun : Bool := false
deriving DecidableEq, Repr

/-- One issued slot and its operation. -/
structure Issued where
  op : Op
  sl : Slot
deriving DecidableEq, Repr

/-- A physical tile core outside its register files: its task, the owner of the task before, the slots staged for the
bundle that is to issue, the channel and sync slots its issued bundle still waits in, the message a SEND holds and whether
it was negatively acknowledged, where the PC goes when the bundle completes, whether the bundle halts, whether a fault
stopped the core, the HINT target, and whether STD_n_Cc_WAIT has counted the bundle. -/
structure CoreSt where
  task : Option Task
  prevOwner : Nat
  staged : List Issued
  waiting : List Issued
  msg : BitVec 1024
  nacked : Bool
  nextPc : Nat
  halting : Bool
  stopped : Bool
  hint : Option Nat
  waited : Bool := false
deriving DecidableEq, Repr

/-- The idle core: no task, no bundle, previous owner none. -/
def CoreSt.idle : CoreSt := ⟨none, 0, [], [], 0, false, 0, false, false, none, false⟩

/-- A message waiting in a channel FIFO (R187). -/
abbrev Msg := BitVec 1024

/-- A detection waiting for its repair (R180): level, key of the word, the CNP_DET_ADDR word, the logical core. -/
structure Repair where
  level : Nat
  key : Nat
  det : Word
  core : Nat
deriving DecidableEq, Repr

/-- The inference fabric: register files, cores, queues, channels, credits; of the negative acknowledgements of a channel the
window they are counted in (R197); the cores that have held credits of a pool since it was initialised (R204); the energy estimates
of the present interval, by owner and frame (R415). -/
structure Fab where
  sregs : SMap Word
  vregs : SMap (BitVec 1024)
  aregs : SMap Word
  pregs : SMap (BitVec 64)
  cores : SMap CoreSt
  queues : SMap (List Task)
  fifos : SMap (List Msg)
  nackLine : SMap Nat
  stormPosted : List Nat
  semLast : SMap Nat
  heldCr : SMap Nat
  underPosted : List Nat
  overPosted : List Nat
  reruns : List (Nat × Nat × Nat)
  rerunBusy : List (Nat × Nat × Nat)
  repairs : List Repair
  recurClear : List HRange
  memDet : SMap (List Nat)
  specRun : Option (Nat × Nat)
  nackWin : Nat × Nat
  crWriters : List (Nat × Nat)
  enFab : SMap Nat
  enMem : SMap Nat
deriving DecidableEq, Repr

/-- One entry of a gather buffer: Canopy line, writing cores, byte enables with bytes (R170). -/
structure GbEntry where
  line : Nat
  cores : List Nat
  bytes : SMap Nat
deriving DecidableEq, Repr

/-- A line of the line cache (R157). -/
structure LcLine where
  addr : Nat
  set : Nat
  dirty : Bool
deriving DecidableEq, Repr

/-- Canopy's controllers: gather buffers, line cache, revocations, refresh. -/
structure Cnp where
  gather : SMap (List GbEntry)
  lc : List LcLine
  revoked : List (Nat × Nat)
  refresh : SMap Nat
  retrainNext : Nat
  refreshes : Nat
deriving DecidableEq, Repr

/-- A complete frame of the frame store (R105): its number, its completion instant c(j) (R108), the buffer that holds it. -/
structure FrameRec where
  num : Nat
  done : Nat
  buf : Nat
deriving DecidableEq, Repr

/-- What a stream context holds besides its registers. Of an output: whether it is enabled, to be disabled, locked, about to
run, its frame number, the fetched plane lines of its planes (R102), whether FRAME_SYNC locks it. Deferred writes (R88). Of
an input: the measured timing seen, its frame, next line and buffer, the complete frames, those since the pair last took
B, whether its stream has started or is about to, the loss state in force (R112: 0 none, 1 repeat, 2 policy), the returned
frames, whether the input is back and its new stream started (R113), the replay position, the fill tags of
its line ring (R207), the cadence (R107), the timing of the present frame and of a returned one with its count (R113), the partner's
mirrored loss state (R384), the pair in force with the buffers it is read from (R105) and the staged one (R385), the 64 × 16 luma sums of Understorey's
features (R342), halos received (R400). Of a stream: its scene plan, whether its energy is reported, split exchange down. Of a
secondary's output: whether recurrent state was cleared since the last boundary (R386). Of
an output: the instant of its last boundary, and the number its next frame takes from a master (R384, R397). Of an input: the tile
variant chosen for the schedule in force and the output width it was chosen for (R223, R230); in a wall the frames whose own lines are
in and that wait for halos, halos that came before the own first line (R400), the input frame in progress at the last FRAME_SYNC edge
and at that of the lock frame (R398). Of a secondary's output: the primary's lock frame (R385). -/
structure VCtx where
  outOn : Bool := false
  offPend : Bool := false
  locked : Bool := false
  lockPend : Bool := false
  frame : Word := 0
  fsyncLock : Bool := false
  dCtrl : Option Word := none
  dSched : Option Word := none
  dFstore : Option Word := none
  dPos : Option Word := none
  dReport : Option Word := none
  measured : Bool := false
  inFrame : Nat := 0
  nextLine : Nat := 0
  whole : Bool := false
  buf : Nat := 0
  frames : List FrameRec := []
  sinceB : Nat := 0
  started : Bool := false
  startPend : Bool := false
  lossMode : Nat := 0
  lossCause : Nat := 0
  goodFrames : Nat := 0
  back : Bool := false
  fresh : Bool := false
  modeChg : Bool := false
  curTiming : InTiming := ⟨0, 0, 0, 0, 0⟩
  newTiming : Option (Nat × InTiming) := none
  peerLoss : Nat := 0
  repCount : Nat := 0
  replayFrame : Nat := 0
  replayLine : Nat := 0
  ringHead : Nat := 0
  ringTail : Nat := 0
  ringFill : Nat := 0
  cadK : Nat := 0
  lockA : Option Nat := none
  pair : Option (Nat × Nat × Nat) := none
  pairBuf : Option (Nat × Nat) := none
  staged : Option (Nat × Nat × Nat) := none
  nextPair : Option (Nat × Nat × Nat) := none
  luma : List (List Nat) := []
  prevLuma : List (List Nat) := []
  halos : SMap Nat := []
  ownDone : List (Nat × Nat) := []
  haloWait : List (Nat × Word × Nat × Nat × Line) := []
  lockIn : Option Nat := none
  edgeIn : Nat := 0
  lockAt : Option Word := none
  variant : Option TileVariant := none
  hactSel : Nat := 0
  scenePlan : Option Nat := none
  energyOn : Bool := false
  planes : List (Nat × Line) := []
  splitDown : Bool := false
  syncPend : Bool := false
  lastB : Nat := 0
  numNext : Option Word := none
deriving DecidableEq, Repr

/-- A stream context at reset. -/
def VCtx.init : VCtx := {}

/-- The line in an egress buffer (R23): line, frame, source, cause, pixels, the source its heartbeat names, whether a split
partner is awaited (R395), the plane lines that were complete at D(m), by plane context (R102), and the transmitters whose
Shutter was closed at D(m). -/
structure Egress where
  m : Nat
  frame : Word
  src : LineSrc
  cause : Nat
  px : Line
  hbSrc : Nat
  await : Bool
  planes : List (Nat × List Nat)
  shut : List Nat
deriving DecidableEq, Repr

/-- The raster engine of one output, with its Lintel: the line drained last (R31), the egress buffer, Lintel's output
buffer, whether the frame's first fallback has been, its first miss and mismatch are posted, whether the output line recorded negative slack
(R75), the interval's least slack, the heartbeat missed last, CRCs and sources of own and received lines (R380 … R382), the
partner's last CLOSED. -/
structure RCtx where
  drained : Option (Word × Nat) := none
  egress : List Egress := []
  lintelOut : List (Nat × Line) := []
  fbPosted : Bool := false
  negLine : Bool := false
  runMin : Option Int := none
  hbPosted : Bool := false
  hbMissed : Option (Nat × Nat) := none
  lastCrc : Word := 0
  own : List (Nat × Nat × Nat × Word) := []
  peer : List (Nat × Nat × Nat × Word) := []
  peerClosed : Bool := false
  crcPosted : Bool := false
deriving DecidableEq, Repr

/-- A raster engine at reset. -/
def RCtx.init : RCtx := {}

/-- The raster engine: per-output state, the ready-tag store and V(m) of each tag (R134, R69), Lintel's line store per
input context. -/
structure Ras where
  ctx : SMap RCtx
  tags : SMap Word
  tagTime : SMap Nat
  lintelStore : SMap (List (Nat × Line))
  shutHost : SMap Bool
deriving DecidableEq, Repr

/-- The video ports outside their registers: published EDIDs, MST payloads, DPCD, I2C segment, CSI state with the timing measured on each
virtual channel (R87), transmitters; the registers of each context that have been written since reset (bit 1 CTRL, 2 GEOM, 4 FMT, 8
RING; R319). -/
structure Ports where
  edidPub : SMap (List Word)
  hpdPulse : List Nat
  payloads : SMap (List (Nat × Nat × Nat))
  dpcd : SMap Byte
  i2cSeg : SMap Nat
  i2cOff : SMap Nat
  csiFrame : List Nat
  csiLine : List Nat
  csiY : SMap Nat
  csiTiming : SMap InTiming
  txTrained : SMap Nat
  txRetrain : List Nat
  stcWritten : SMap Nat
deriving DecidableEq, Repr

/-- A host job outstanding (R233). -/
structure Job where
  tag : Word
  cplRing : Nat
  batch : Nat
  items : List Task
  total : Nat
  started : Nat
  doneItems : Nat
  ended : Nat
  failed : Bool
  exhausted : Bool
  cancelled : Bool
  silent : Bool
deriving DecidableEq, Repr

/-- A DMA transfer in progress (R284). -/
structure Dma where
  id : Nat
  tag : Word
  cplRing : Nat
  job : Nat
  toHost : Bool
  haddr : Nat
  handle : Nat
  key : Nat
  len : Nat
  cr : Option (Nat × Nat)
deriving DecidableEq, Repr

/-- What a ring keeps besides its registers (R279 … R291). -/
structure RingSt where
  posted : Nat
  ph : Bool
  minFill : Nat
  maxFill : Nat
  dropsSince : Nat
  stopped : Bool
  fetched : Option (List Word)
  windowOpen : Bool
  windowPosted : Bool
deriving DecidableEq, Repr

/-- A ring at enabling (R276, R279). -/
def RingSt.init : RingSt := ⟨0, true, 0, 0, 0, false, none, false, false⟩

/-- A command a mailbox has had taken (R306): its 16 words, and its answer once there is one. -/
structure Taken where
  words : List Word
  answer : Option (Nat × Nat × Nat × List Word)
  started : Bool
deriving DecidableEq, Repr

/-- What the endpoint's configuration space holds that can change (Table 9.1): the BARs as the host wrote them, the power state, ASPM
L1, the payload and read-request sizes [bytes], the completion timeout [ms], and whether AER reports errors. No command of the opcode
table carries a configuration request, so they stay as their reset leaves them. -/
structure PcieCfg where
  bars : List Word := [0, 0, 0, 0, 0, 0]
  d3hot : Bool := false
  aspmL1 : Bool := false
  maxPayload : Nat := 128
  maxRead : Nat := 512
  ctoMs : Nat := 50
  aer : Bool := false
deriving DecidableEq, Repr

/-- The host interface; bellTail counts the doorbells, last in their order, that came in the latest arbitration event (R310). -/
structure HostSt where
  jobs : SMap (Option Job)
  jobEpoch : SMap Nat
  dmas : List Dma
  dmaNext : Nat
  rings : SMap RingSt
  linkUp : Bool
  timeBase : Nat
  queue : List (Nat × List Word)
  msixWritten : List Nat
  doorbells : List Nat
  taken : SMap (Option Taken)
  takeOrder : List Nat
  epImage : Nat
  epCal : Nat
  epFw : Nat
  epTopo : Nat
  epPower : Nat
  epRot : Nat
  bellTail : Nat
  pcie : PcieCfg
deriving DecidableEq, Repr

/-- The images in firmware's keeping, the promotion that awaits a frame boundary (mailbox; context and slot of a scene decision),
and the contexts that hold a semaphore pair of STREAM_SETUP (R319); the half of the top 512 MiB of DRAM that holds the copy in force
(R323: the other one is the shadow's). -/
structure ImgSt where
  cur : Option Image
  shadow : Option Image
  prefetched : Bool
  promote : Option (Option Nat × Option (Nat × Nat))
  setup : List Nat
  half : Bool
deriving DecidableEq, Repr

/-- Understorey: the byte of two cell levels by array, bank and offset in a bank image (R336); evaluations in progress with
their input frame and feature vector; counts and arming of the decision units (Table 11.3); rewrites in progress (source key
and target bank); staging words (R385), the partner's words with their frame; of a staged network the FRAME and the units' scores when it was staged (R351). -/
structure Und where
  cells : SMap Nat
  evalBusy : List Nat
  evalFrame : SMap Nat
  features : SMap (List Int)
  onCount : SMap Nat
  offCount : SMap Nat
  disarmed : SMap Bool
  rewrite : SMap (Option (Nat × Nat))
  staging : SMap (Option Nat)
  peerWord : SMap (Option (Word × Nat))
  stagedAt : SMap (Option (Nat × List Nat))
deriving DecidableEq, Repr

/-- Glade outside its registers (R354 … R363): whether VGLADE is absent, whether STBY_REQ reads asserted, the result FIFO
(word, ms), the latest vectors, the input of the evaluation in progress, consecutive wake scores, the leading command with
its consecutive evaluations, whether the command window and the refractory period run, the instant of the VGLADE power-on
from which Glade time counts, the running means of the forty bands (R359). -/
structure Gld where
  off : Bool := false
  isolated : Bool := true
  fifo : List (Nat × Nat) := []
  vectors : List (List Int) := []
  evalIn : Option (List Int) := none
  wakeRun : Nat := 0
  cmdRun : Nat × Nat := (0, 0)
  window : Bool := false
  refract : Bool := false
  base : Nat := 0
  means : SMap Int := []
deriving DecidableEq, Repr

/-- The link layer of one Hinge link (R371): the SEQ of the next frame to send and of the next one expected, the sequenced
frames not yet acknowledged, the SEQ last asked for again with how often, whether an acknowledgement is due, whether the
identity record was sent, the frames that wait for room in the replay buffer, in transmit order. -/
structure PortSt where
  txSeq : Nat := 0
  rxSeq : Nat := 0
  unacked : List (Nat × HngOut) := []
  replaySeq : Nat := 0
  replays : Nat := 0
  pendAck : Bool := false
  identSent : Bool := false
  txq : List HngOut := []
deriving DecidableEq, Repr

/-- A port at reset. -/
def PortSt.init : PortSt := {}

/-- One link channel outside its registers (R249 … R264). -/
structure LcSt where
  rho : BitVec 16
  nblk : Nat
  fe0 : Int
  line : Nat
  frameSent : Bool
  maxQ : Option Nat
  rxFe : Option Int
deriving DecidableEq, Repr

/-- A link channel at reset. -/
def LcSt.init : LcSt := ⟨0, 0, 0, 0, false, none, none⟩

/-- A role change to come (R376 … R378): the role, its cause, the mailbox that asked for it, the frame it is named for. -/
structure RoleAt where
  role : Nat
  cause : Nat
  mailbox : Option Nat := none
  frame : Option Word := none
deriving DecidableEq, Repr

/-- Pairs, walls and the link codec: the links, the link channels; the live histogram and its speculative bank, the copied
channel (R262 … R264); PAIR_ACT_N and PAIR_PEER_N as they read (high is released), FRAME_SYNC driven and lost (R369); whether
R391 holds PAIR_ACT_N; the firmware digest; the SYNC numbers seen or, at the master, sent, the lock frame (R397); a role change to come with its cause and the mailbox that asked (R376 … R378); the highest value received and the
highest urgent one (R402); whether the loss of the partner is posted (R388, R389); mirrored items that wait for a boundary
(R384); whether heartbeats are expected (R390); the instant of the last accepted FRAME_SYNC edge (R369); the parts of a forwarded
image received in order (R371, R383); the frame at whose boundary both parts promote (R383). -/
structure Hng where
  ports : SMap PortSt := []
  lcs : SMap LcSt := []
  live : SMap Nat := []
  specBins : SMap Nat := []
  pairActN : Bool := true
  snapCh : Nat := 0
  peerN : Bool := true
  fsyncOut : Bool := false
  fsyncLost : Bool := false
  hold391 : Bool := false
  fwDigest : Nat := 0
  syncSeen : Option (Word × Word) := none
  lockFrame : Word := 0
  roleAt : Option RoleAt := none
  recvGov : Nat := 0
  govUrgent : Nat := 0
  lostPosted : Bool := false
  mirPend : List MirrorItem := []
  joined : Bool := false
  fsyncAt : Option Nat := none
  fwdGot : Nat := 0
  promAt : Option Word := none
deriving DecidableEq, Repr

/-- Power, thermal and rotation (13) with the governor (02): the law's quiet and hold counts, lines of the interval and
whether intervals run, the AVSBus write in flight, its goal, attempts and settling, a first interval to start; windows until
the veto ends, windows at level 2 at the floor by class, package power of the last 256 windows, energy in pJ, die VCORE, windows
outside and inside its range, a shed to come, quiet frames, the values whose cause 3 is posted; stands powered off (1 with retention,
2 without, 3 and 4 powering up from these), routine tests passed and in progress (1 ageing, 2 … 5 tests 1 … 4), the order in
which stands entered SERVICE; boundaries since the last rotation or skip, whether one is due, the named pair, whether the
leaving stand is LEAVING, copy and quiet point done, remaps (logical, physical, copied), HOLD_OFF to come and RELEASE in
progress, ticks; the self-test commanded, the stand it runs on, last results; the trip latch. Of the present energy interval (R415): when it began, the measured energy of VCORE, VCANOPY and VDDQ
and the package's in pJ, the sum of die VCORE over its windows and their number; the energy assigned so far in pJ by owner and frame
(fabric, memory); mean die VCORE [mV] and package energy [pJ] of the last interval. -/
structure Pwr where
  quiet : Nat := 0
  hold : Nat := 0
  lines : Nat := 0
  running : Bool := false
  inFlight : Option Nat := none
  target : Option Nat := none
  avsTries : Nat := 0
  settleSeen : Bool := false
  startIval : Bool := false
  vetoLeft : Nat := 0
  lvl2Run : SMap Nat := []
  window : List Nat := []
  energy : Nat := 0
  dieMv : Nat := 0
  vcoreBad : Nat := 0
  vcoreOk : Nat := 0
  shedPend : Option Nat := none
  quietFrames : Nat := 0
  limitPosted : List Nat := []
  standOff : SMap Nat := []
  routineOk : SMap Bool := []
  routine : SMap Nat := []
  serveSince : SMap Nat := []
  serveNext : Nat := 0
  rotCount : Nat := 0
  rotDue : Bool := false
  rotPair : Option (Nat × Nat) := none
  leavingNow : Bool := false
  copyDone : Bool := false
  quietDone : Bool := false
  remaps : List (Nat × Nat × Bool) := []
  holdPend : List Nat := []
  relPend : List Nat := []
  ticks : Nat := 0
  bist : Option (Nat × Nat × Option Nat) := none
  bistOn : Option Nat := none
  bistLast : SMap (Nat × Bool × Nat × Word) := []
  trip : Bool := false
  enStart : Nat := 0
  enCore : Nat := 0
  enCanopy : Nat := 0
  enDdq : Nat := 0
  enPkg : Nat := 0
  enMv : Nat × Nat := (0, 0)
  enDone : SMap (Nat × Nat) := []
  enLast : Nat × Nat := (0, 0)
deriving DecidableEq, Repr

/-- Boot, straps, flash and the calibration store (14, 15): whether the main domain is held in reset, the readings of
PWR_OK, RESET_N and PERST_N, a watchdog reset in progress, the two boot configuration copies and firmware slots as firmware
last read or wrote them, the slot staged, the calibration store's bytes and bad pages, ARCHIVED, whether the endpoint is
released, the straps sampled and live, the consecutive ambient samples, the fresh rates that boot loaded from page 1 (R433), the
offsets and gains it loaded from page 5 as bytes (R453; empty for the defaults of Table 14.10), the fused key digest (R451). -/
structure BootSt where
  inReset : Bool := false
  pwrOk : Bool := true
  rstHigh : Bool := true
  wdog : Bool := false
  cfg : List BootCfg := []
  slots : SMap (Option FwImage) := []
  staged : Option Nat := none
  cal : SMap Byte := []
  calBad : List Nat := []
  archived : Bool := false
  epReleased : Bool := false
  perstN : Bool := false
  straps : Straps := ⟨false, 0, false, false⟩
  live : Straps := ⟨false, 0, false, false⟩
  ambCount : Nat := 0
  fresh : Option (List (List Nat)) := none
  offsets : List Byte := []
  keyDigest : Nat := Config.keyDigest
deriving DecidableEq, Repr

/-- The TAP's data register that is selected (Table 16.9). -/
inductive JtagReg where
  | idcode | boundary | dbg | bypass
deriving DecidableEq, Repr

/-- Diagnostics and the management port (16, 09): records posted and suppressed by code in the window of R487, the last 1024
events (R498), the TAP with its drive of the balls and its registers (R500 … R502), the debug UART's level, ALERT and its
mask, snapshots that wait for a boundary (mailbox, whether its transfer succeeds, the firmware trace of a debug snapshot). -/
structure Diag where
  evtPosted : SMap Nat
  evtSuppressed : SMap Nat
  log : List (List Word)
  jtag : JtagReg
  jtagDrive : Bool
  jtagHighz : Bool
  boundary : List Bool
  dbgDone : Bool
  dbgDenied : Bool
  dbgData : Word
  uartLevel : Nat
  alert : Word
  alertMask : Word
  snaps : List (Nat × Bool × Option (List Byte))
deriving DecidableEq, Repr

/-- Everything but the byte memories. -/
structure Ctl where
  regs : SMap Word
  now : Nat
  fab : Fab
  cnp : Cnp
  vid : SMap VCtx
  ras : Ras
  ports : Ports
  host : HostSt
  img : ImgSt
  und : Und
  gld : Gld
  hng : Hng
  pwr : Pwr
  boot : BootSt
  diag : Diag
  free : Nat
  out : List Output
deriving DecidableEq, Repr

/-- The byte memories: one space with the operand buffers, the core memories, Canopy and DRAM at bases of their own; the
lines that are no longer pending clear (R162: a line not listed is pending); the poisoned words (R176). -/
structure Mem where
  bytes : List Host.Cell
  written : SMap Bool
  poison : SMap Bool
deriving DecidableEq, Repr

/-- The hardware: controllers and memories. -/
structure Hw where
  ctl : Ctl
  mem : Mem
deriving DecidableEq, Repr

/-- The state of the block: the hardware and the commands that wait, first in, first out. -/
structure State where
  hw : Hw
  pending : List Instr
deriving DecidableEq, Repr

/-- Straps all low (log entry 3). -/
def Straps.low : Straps := ⟨false, 0, false, false⟩

def Fab.reset : Fab :=
  ⟨[], [], [], [], [], [], [], [], [], [], [], [], [], [], [], [], [], [], none, (0, 0), [], [], []⟩
def Cnp.reset : Cnp := ⟨[], [], [], [], 0, 0⟩
def Ras.reset : Ras := ⟨[], [], [], [], []⟩
def Ports.reset : Ports := ⟨[], [], [], [], [], [], [], [], [], [], [], [], []⟩
def HostSt.reset : HostSt := ⟨[], [], [], 0, [], false, 0, [], [], [], [], [], 0, 0, 0, 0, 0, 0, 0, {}⟩
def ImgSt.reset : ImgSt := ⟨none, none, false, none, [], false⟩
def Und.reset (cells : SMap Nat) : Und := ⟨cells, [], [], [], [], [], [], [], [], [], []⟩
/-- Glade after a VGLADE power-on: IDLE, isolated (R341, R473). -/
def Gld.reset : Gld := {}
def Hng.reset : Hng := {}
def Pwr.reset : Pwr := {}
/-- Reset exit after a power-up: the rails good, RESET_N high, PERST_N asserted, the straps low (log entry 3). -/
def BootSt.reset : BootSt := {}
def Diag.reset : Diag := ⟨[], [], [], .idcode, false, false, [], false, false, 0, 0, 0, 0, []⟩

/-- The controllers at reset: every register at the reset value of its table (nothing listed). -/
def Ctl.reset : Ctl :=
  { regs := [], now := 0, fab := Fab.reset, cnp := Cnp.reset, vid := [], ras := Ras.reset, ports := Ports.reset,
    host := HostSt.reset, img := ImgSt.reset, und := Und.reset [], gld := Gld.reset, hng := Hng.reset, pwr := Pwr.reset,
    boot := BootSt.reset, diag := Diag.reset, free := 0, out := [] }

/-- The memories at reset: every clear bit set, so every line reads as zeros (R443). -/
def Mem.reset : Mem := ⟨[], [], []⟩

/-- The block right after the main domain leaves reset following a VGLADE power-on (R440, R443): no command waits. -/
def State.reset : State := ⟨⟨Ctl.reset, Mem.reset⟩, []⟩

end Sys2Proof.Machine
end

