-- ==== Sys2Proof/Machine/Memory.lean ====
section
/-! DEFINITION. The byte memories (05_memory_hierarchy.md): one space of keys with the operand buffers, the core memories,
Canopy and DRAM at bases of their own; the few acts a step may do to them; and the step's work area. -/

namespace Sys2Proof.Machine

/-- Key of byte o of the operand buffer of physical core q = 8 × n + c. -/
def opbufKey (q o : Nat) : Nat := q * Config.opbufBytes + o
/-- Key of byte o of the core memory of physical core q. -/
def cmemKey (q o : Nat) : Nat := 0x10000000 + q * Config.coreMemBytes + o
/-- Key of the byte at Canopy physical address o (R154). -/
def canopyKey (o : Nat) : Nat := 0x40000000 + o
/-- Key of the byte at DRAM address o. -/
def dramKey (o : Nat) : Nat := 0x1000000000 + o

/-- Whether a key lies in Canopy. -/
def isCanopy (k : Nat) : Bool := decide (0x40000000 ≤ k ∧ k < 0x50000000)
/-- Whether a key lies in DRAM. -/
def isDram (k : Nat) : Bool := decide (0x1000000000 ≤ k)

/-- Bytes of a clear-bitmap line at a key: 256 in Canopy, 128 in operand buffers and core memory. -/
def lineBytes (k : Nat) : Nat := if isCanopy k then 256 else 128

/-- The first key of the line that holds a key. -/
def lineKey (k : Nat) : Nat := k - k % lineBytes k

/-- The first key of the 256-bit word that holds a key (R174). -/
def wordKey (k : Nat) : Nat := k - k % 32

/-- The byte at a key: zero in a pending line (R164), zero in DRAM nothing has written (log entry 16). -/
def Mem.rd (m : Mem) (k : Nat) : Byte := mget 0 m.bytes k

/-- n bytes from a key. -/
def Mem.rdN (m : Mem) (k n : Nat) : List Byte := (List.range n).map (fun i => m.rd (k + i))

/-- Whether the line that holds a key is pending clear (R162). -/
def Mem.pendingAt (m : Mem) (k : Nat) : Bool := !isDram k && !mget false m.written (lineKey k)

/-- Whether the word that holds a key is poison (R176). -/
def Mem.poisonAt (m : Mem) (k : Nat) : Bool := mget false m.poison (wordKey k)

/-- The 256-bit word that holds a key, its lowest byte in bits 7:0 (R174). -/
def Mem.word (m : Mem) (k : Nat) : BitVec 256 := BitVec.ofNat 256 (ofBytes (m.rdN (wordKey k) 32))

/-- The 10-bit detection code stored with the word that holds a key (R174): the word's CRC, inverted in all ten bits where the word
is poison (R176). Bytes and poison together determine it, so State keeps no second copy (log entry 153). -/
def Mem.codeAt (m : Mem) (k : Nat) : Nat := if m.poisonAt k then crc10 (m.word k) ^^^ 0x3FF else crc10 (m.word k)

/-- Whether the stored code of the word that holds a key fails the check: exactly where the word is poison. -/
def Mem.fails (m : Mem) (k : Nat) : Bool := m.codeAt k != crc10 (m.word k)

/-- Whether any of n bytes from a key lies in a poisoned word of a line that is not pending. -/
def Mem.poisonIn (m : Mem) (k n : Nat) : Bool :=
  (List.range ((wordKey (k + n - 1) - wordKey k) / 32 + 1)).any (fun i => m.poisonAt (wordKey k + 32 * i)) && n != 0

/-- The lines of Canopy that are pending (R166). -/
def Mem.clrPending (m : Mem) : Nat := 0x100000 - (m.written.filter (fun p => isCanopy p.1)).length

/-- What a step may do to the memories. -/
inductive MAct where
  /-- Write bytes from a key: the lines touched are no longer pending, their other bytes read zero (R165); a word written
  whole is no longer poison, one written in part stays what it was (R171, R176). -/
  | put (k : Nat) (bs : List Byte)
  /-- Mark the lines of a range for Clearing in one commit (R162); a DRAM range is zeroed (R167). -/
  | mark (k n : Nat)
  /-- The clearing engine writes zeros to the line at a key if it is pending (R166). -/
  | clear (k : Nat)
  /-- The word at a key becomes poison (R176). -/
  | poison (k : Nat)
  /-- The n keys from k copied to those from d, with what is pending and poisoned (Table 13.7). -/
  | copy (k d n : Nat)
deriving DecidableEq, Repr

/-- One byte written. -/
def Mem.wr (m : Mem) (k : Nat) (b : Byte) : Mem :=
  { m with bytes := mset 0 m.bytes k b
           written := if isDram k then m.written else mset false m.written (lineKey k) true }

/-- Bytes written from a key on. -/
def Mem.wrN (m : Mem) (k : Nat) : List Byte → Mem
  | [] => m
  | b :: t => (m.wr k b).wrN (k + 1) t

/-- Whether a key lies in the n keys from k. -/
def inRange (k n a : Nat) : Bool := decide (k ≤ a ∧ a < k + n)

/-- The entries of n keys from k put at d in place of what was there. -/
def mcopy {α : Type} [DecidableEq α] (z : α) (m : SMap α) (k d n : Nat) : SMap α :=
  (m.filter (fun p => inRange k n p.1)).foldl (fun t p => mset z t (p.1 - k + d) p.2) (mdrop (inRange d n) m)

/-- The effect of one act. -/
def MAct.apply (m : Mem) (a : MAct) : Mem :=
  match a with
  | .put k bs =>
    let m' := m.wrN k bs
    { m' with poison := mdrop (fun w => decide (k ≤ w ∧ w + 32 ≤ k + bs.length)) m'.poison }
  | .mark k n =>
    { bytes := mdrop (inRange k n) m.bytes, written := mdrop (inRange k n) m.written, poison := mdrop (inRange k n) m.poison }
  | .clear k => if m.pendingAt k then { m with written := mset false m.written (lineKey k) true } else m
  | .poison k => { m with poison := mset false m.poison (wordKey k) true }
  | .copy k d n => ⟨mcopy 0 m.bytes k d n, mcopy false m.written k d n, mcopy false m.poison k d n⟩

/-- Acts in order. -/
def MAct.run (m : Mem) (as : List MAct) : Mem := as.foldl MAct.apply m

/-- The canonical form of the memories: keys rise strictly and nothing listed reads as an unlisted key does. -/
def Mem.wf (m : Mem) : Bool := mwf 0 m.bytes && mwf false m.written && mwf false m.poison

/-- The work area of a step: the controllers as they become, the memories as the acts so far leave them, and those acts,
the latest first. -/
structure W where
  ctl : Ctl
  mem : Mem
  acts : List MAct
deriving DecidableEq, Repr

/-- A change of the controllers alone. -/
def W.on (w : W) (f : Ctl → Ctl) : W := { w with ctl := f w.ctl }

/-- One act on the memories. -/
def W.act (w : W) (a : MAct) : W := { w with mem := MAct.apply w.mem a, acts := a :: w.acts }

/-- A step that changes the controllers alone: the memories and the queue stay. -/
def onCtl (s : State) (f : Ctl → Ctl) : Host.Outcome State Fault Refusal :=
  .next { s with hw := { s.hw with ctl := f s.hw.ctl } }

/-- A step that may act on the memories: its acts, in order, are all that happens to them. -/
def onHw (s : State) (f : W → W) : Host.Outcome State Fault Refusal :=
  let w := f ⟨s.hw.ctl, s.hw.mem, []⟩
  .next { s with hw := ⟨w.ctl, MAct.run s.hw.mem w.acts.reverse⟩ }

end Sys2Proof.Machine
end

