-- ==== Sys2Proof/Machine/Ops.lean ====
section
/-! DEFINITION. The operations every meaning shares: registers and their fields, saturating counters, unit epochs, host
time, the outputs in order of line time, MSI-X, ring records and events. -/

namespace Sys2Proof.Machine

/-! Registers. -/

/-- The stored word of a register, its reset value where nothing else was written (R17). -/
def Ctl.rd (c : Ctl) (a : Nat) : Word := mget (regReset a) c.regs a

/-- A register's word replaced. -/
def Ctl.wr (c : Ctl) (a : Nat) (v : Word) : Ctl := { c with regs := mset (regReset a) c.regs a v }

/-- The value of a field. -/
def Ctl.get (c : Ctl) (f : Fld) : Nat := fieldGet (c.rd f.addr) f.lo f.n

/-- Whether a field is 1. -/
def Ctl.on (c : Ctl) (f : Fld) : Bool := c.get f == 1

/-- A field set. -/
def Ctl.put (c : Ctl) (f : Fld) (x : Nat) : Ctl := c.wr f.addr (fieldPut (c.rd f.addr) f.lo f.n x)

/-- Row of Table 0.5 that holds the block of a register; stand 16's registers belong to the STD row (R494). -/
def blockOf (a : Nat) : Nat :=
  if a < 0x10000 then 0 else if a < 0x20000 then 1 else if a < 0x40000 then 2 else if a < 0x50000 then 3
  else if a < 0x60000 then 4 else if a < 0x78000 then 5 else if a < 0x100000 then 6 else if a < 0x140000 then 7
  else if a < 0x180000 then 8 else if a < 0x1c0000 then 9 else if a < 0x200000 then 10 else if a < 0x300000 then 11 else 12

/-- A counter field raised by n: it saturates at its largest value, and reaching that sets the block's bit of DBG_SAT
(R494). -/
def Ctl.bump (c : Ctl) (f : Fld) (n : Nat) : Ctl :=
  let m := 2 ^ f.n - 1
  let v := c.get f + n
  if n = 0 then c
  else if m ≤ v then
    let c := c.put f m
    c.wr R.dbgSat (w32 (setBit (c.rd R.dbgSat).toNat (blockOf f.addr)))
  else c.put f v

/-- An epoch field raised by 1 modulo its width (R296). -/
def Ctl.nextEpoch (c : Ctl) (f : Fld) : Ctl := c.put f (c.get f + 1)

/-- A change of a unit's state register: its epoch rises by 1 if any of the state fields changed (R119, R296). -/
def Ctl.unitState (c : Ctl) (ep : Fld) (vals : List (Fld × Nat)) : Ctl :=
  if vals.all (fun p => c.get p.1 == p.2 % 2 ^ p.1.n) then c
  else (vals.foldl (fun c p => c.put p.1 p.2) c).nextEpoch ep

/-- The state of physical stand n of the 17 set, with its logical stand (R118, R119). -/
def Ctl.setStand (c : Ctl) (n st logical : Nat) : Ctl :=
  if 17 ≤ n then c else c.unitState (F.stdStateEpoch n) [(F.stdStateState n, st), (F.stdStateLogical n, logical)]

/-- The state of stream context s set (R296). -/
def Ctl.setStc (c : Ctl) (s st : Nat) : Ctl := c.unitState (F.stcStatusEpoch s) [(F.stcStatusState s, st)]

/-! Parts of the controllers by index. -/

/-- Stream context s outside its registers. -/
def Ctl.vc (c : Ctl) (s : Nat) : VCtx := mget VCtx.init c.vid s
/-- A change of stream context s. -/
def Ctl.vcSet (c : Ctl) (s : Nat) (v : VCtx) : Ctl := { c with vid := mset VCtx.init c.vid s v }
/-- The raster engine of output context s. -/
def Ctl.rc (c : Ctl) (s : Nat) : RCtx := mget RCtx.init c.ras.ctx s
/-- A change of the raster engine of output context s. -/
def Ctl.rcSet (c : Ctl) (s : Nat) (v : RCtx) : Ctl := { c with ras := { c.ras with ctx := mset RCtx.init c.ras.ctx s v } }
/-- Ring r outside its registers. -/
def Ctl.ring (c : Ctl) (r : Nat) : RingSt := mget RingSt.init c.host.rings r
/-- A change of ring r. -/
def Ctl.ringSet (c : Ctl) (r : Nat) (v : RingSt) : Ctl := { c with host := { c.host with rings := mset RingSt.init c.host.rings r v } }
/-- Physical core q outside its register files. -/
def Ctl.core (c : Ctl) (q : Nat) : CoreSt := mget CoreSt.idle c.fab.cores q
/-- A change of physical core q. -/
def Ctl.coreSet (c : Ctl) (q : Nat) (v : CoreSt) : Ctl := { c with fab := { c.fab with cores := mset CoreSt.idle c.fab.cores q v } }
/-- Something leaves the part. -/
def Ctl.emit (c : Ctl) (o : Output) : Ctl := { c with out := c.out ++ [o] }

/-! Host time and output frames. -/

/-- GLB_TIME: nanoseconds since the reset of the global registers (R274, R512). -/
def Ctl.glbTime (c : Ctl) : Nat := (c.now - c.host.timeBase) % 2 ^ 64

/-- The enabled outputs, in ascending context. -/
def Ctl.outputs (c : Ctl) : List Nat := (List.range 24).filter (fun s => (c.vc s).outOn)

/-- Whether any output is enabled. -/
def Ctl.anyOut (c : Ctl) : Bool := !c.outputs.isEmpty

/-- Lines per 10³ seconds of output s: FRATE × VTOTAL. -/
def Ctl.lineRate (c : Ctl) (s : Nat) : Nat := c.get (F.stcRateFrate s) * c.get (F.stcTotalVtotal s)

/-- The enabled output with the shortest t_out; of equals the lowest context (log entry 17). -/
def Ctl.shortOut (c : Ctl) : Option Nat :=
  c.outputs.foldl (fun b s => match b with
    | none => some s
    | some t => if c.lineRate t < c.lineRate s then some s else some t) none

/-- Whether output s is the enabled one with the shortest t_out. -/
def Ctl.isShort (c : Ctl) (s : Nat) : Bool := c.shortOut == some s

/-- The output frame a record names: that of the enabled output with the shortest t_out, 0 while none is enabled. -/
def Ctl.frameNow (c : Ctl) : Word := match c.shortOut with
  | some s => (c.vc s).frame
  | none => 0

/-! MSI-X. -/

/-- A vector is signalled: a message, or its pending bit where the entry is masked or was never written (R290) or the link
is down (log entry 18). -/
def Ctl.msix (c : Ctl) (v : Nat) : Ctl :=
  if c.host.linkUp && c.host.msixWritten.contains v && !(c.rd (R.msix v 3)).getLsbD 0 then
    c.emit (.msix v ((c.rd (R.msix v 0)).toNat + 2 ^ 32 * (c.rd (R.msix v 1)).toNat) (c.rd (R.msix v 2)))
  else c.wr (R.pba (v / 32)) (w32 (setBit (c.rd (R.pba (v / 32))).toNat (v % 32)))

/-- Pending vectors that can be sent now are sent and their pending bits cleared. -/
def Ctl.msixFlush (c : Ctl) : Ctl :=
  forN 64 (fun v c =>
    if (c.rd (R.pba (v / 32))).getLsbD (v % 32) && c.host.linkUp && c.host.msixWritten.contains v &&
        !(c.rd (R.msix v 3)).getLsbD 0 then
      (c.wr (R.pba (v / 32)) (w32 (clrBit (c.rd (R.pba (v / 32))).toNat (v % 32)))).msix v
    else c) c

/-! Rings. -/

/-- Entries of ring r. -/
def Ctl.ringSize (c : Ctl) (r : Nat) : Nat := 2 ^ c.get (F.rngCfgLog2sz r)

/-- The fill of ring r (R277). -/
def Ctl.ringFill (c : Ctl) (r : Nat) : Nat :=
  (c.get (F.rngTailIdx r) + 4096 * c.ringSize r - c.get (F.rngHeadIdx r)) % c.ringSize r

/-- Whether r is one of the 512 descriptor rings, and enabled (R276). -/
def Ctl.ringOn (c : Ctl) (r : Nat) : Bool := decide (r < 512) && c.on (F.rngCfgEn r)

/-- Whether ring r is an enabled ring of a kind. -/
def Ctl.ringKind (c : Ctl) (r k : Nat) : Bool := c.ringOn r && c.get (F.rngCfgKind r) == k

/-- A watermark crossing that posts WM_CROSS: ring, 0 for HI and 1 for LO, the fill after it. -/
abbrev Cross := Nat × Nat × Nat

/-- The fill of a ring moves: RNG_r_FILL, the interval's extremes (R289), and a watermark crossed (R286, R287); the first
crossing of an arming, with EV_EN 1, sets FIRED and is to be posted (R288). -/
def Ctl.moveFill (c : Ctl) (r old new : Nat) : Ctl × List Cross :=
  let rs := c.ring r
  let c := (c.put (F.rngFillFill r) new).ringSet r { rs with minFill := min rs.minFill new, maxFill := max rs.maxFill new }
  let up := decide (old < c.get (F.rngWmHi r) ∧ c.get (F.rngWmHi r) ≤ new)
  let dn := decide (c.get (F.rngWmLo r) < old ∧ new ≤ c.get (F.rngWmLo r))
  let first := !c.on (F.rngWmstatHiX r) && !c.on (F.rngWmstatLoX r)
  let c := if up then (c.put (F.rngWmstatHiX r) 1).bump (F.rngWmstatHiCnt r) 1
    else if dn then (c.put (F.rngWmstatLoX r) 1).bump (F.rngWmstatLoCnt r) 1 else c
  if (up || dn) && first && c.on (F.rngWmEvEn r) then
    (c.put (F.rngWmstatFired r) 1, [(r, bit (!up), new)])
  else (c, [])

/-- A ring's vector after a posting, with moderation (R291). -/
def Ctl.ringIrq (c : Ctl) (r : Nat) : Ctl :=
  if !c.on (F.rngCfgIrqEn r) then c
  else if (c.ring r).windowOpen then c.ringSet r { c.ring r with windowPosted := true }
  else
    let c := c.msix (c.get (F.rngCfgVec r))
    if c.get (F.rngCfgMod r) = 0 then c else c.ringSet r { c.ring r with windowOpen := true, windowPosted := false }

/-- A record written at TAIL of a ring that has room, its PH, SEQ and timestamp filled in (R279, R282). -/
def Ctl.ringWrite (c : Ctl) (r : Nat) (ws : List Word) : Ctl × List Cross :=
  let rs := c.ring r
  let tail := c.get (F.rngTailIdx r)
  let marker := fieldGet (nth 0 ws 0) 0 4 == 14
  let w0 := nth 0 ws 0 ||| w32 (128 * bit rs.ph) ||| w32 (65536 * (rs.posted % 65536))
  let stamp := if marker then [0, 0] else [w32 c.glbTime, w32 (c.glbTime / 2 ^ 32)]
  let rec16 := w0 :: (List.range 5).map (fun i => nth 0 ws (i + 1)) ++ stamp ++ List.replicate 8 0
  let base := (c.rd (R.rngBaseLo r)).toNat + 2 ^ 32 * (c.rd (R.rngBaseHi r)).toNat
  let old := c.ringFill r
  let tail' := (tail + 1) % c.ringSize r
  let c := c.emit (.hostWrite (base + 64 * tail) rec16)
  let c := c.put (F.rngTailIdx r) tail'
  let c := c.ringSet r { rs with posted := rs.posted + 1, ph := if tail' = 0 then !rs.ph else rs.ph }
  let (c, x) := c.moveFill r old (old + 1)
  (c.ringIrq r, x)

/-- A record for a ring is posted, queued while the link is down (R293), or dropped where the ring or the queue is full
(R281); completions are never dropped (R280). The Bool says whether it reached the ring or the queue. -/
def Ctl.ringPost (c : Ctl) (r : Nat) (ws : List Word) : Ctl × Bool × List Cross :=
  let drop := ((c.bump (F.rngDropCount r) 1).put (F.rngStatOvf r) 1).ringSet r
    { c.ring r with dropsSince := (c.ring r).dropsSince + 1 }
  if !c.ringOn r then (c, false, [])
  else if !c.host.linkUp then
    if c.host.queue.length < 256 || c.get (F.rngCfgKind r) == 2 then
      ({ c with host := { c.host with queue := c.host.queue ++ [(r, ws)] } }, true, [])
    else (drop, false, [])
  else if c.ringFill r = c.ringSize r - 1 then (drop, false, [])
  else let (c, x) := c.ringWrite r ws; (c, true, x)

/-! Events. -/

/-- The epoch of a unit or object, 0 where it has none (R486, Table 10.3). -/
def Ctl.epochOf (c : Ctl) (src : Nat) : Nat :=
  let i := src % 256
  match src / 256 with
  | 1 => if i < 17 then c.get (F.stdStateEpoch i) else 0
  | 2 => if i < 24 then c.get (F.stcStatusEpoch i) else 0
  | 3 => if i < 2 then c.get (F.phcShutEpoch i) else 0
  | 4 => if i = 0 then c.get F.phcCeilAuthEpoch else 0
  | 5 => if i < 4 then c.get (F.hngStateEpoch i) else 0
  | 6 => c.get (F.cnpHtW0Epoch i)
  | 7 => c.host.epImage % 65536
  | 8 => c.host.epCal % 65536
  | 9 => c.host.epFw % 65536
  | 10 => mget 0 c.host.jobEpoch i % 65536
  | 11 => c.host.epTopo % 65536
  | 12 => c.host.epPower % 65536
  | 13 => c.get F.hngPairStatusEpoch
  | 14 => c.host.epRot % 65536
  | _ => 0

/-- Event codes (Table 16.2). -/
abbrev evSlotUnder : Nat := 1
abbrev evSlotOver : Nat := 2
abbrev evWmCross : Nat := 3
abbrev evLineFallback : Nat := 4
abbrev evDetErr : Nat := 5
abbrev evNackStorm : Nat := 6
abbrev evThermWarn : Nat := 7
abbrev evThermTrip : Nat := 8
abbrev evHbMiss : Nat := 9
abbrev evEpochStale : Nat := 10

/-- Status codes (Table 0.6). -/
abbrev stOk : Nat := 0
abbrev stBusyRaster : Nat := 1
abbrev stRevoked : Nat := 2
abbrev stCancelled : Nat := 3
abbrev stBadArg : Nat := 4
abbrev stNoCredit : Nat := 5
abbrev stAuthFail : Nat := 6
abbrev stNotOwner : Nat := 7
abbrev stRerunExhausted : Nat := 8
abbrev stLinkDown : Nat := 9

/-- The ring an event of a code goes to (R292, Table 16.2). -/
def Ctl.eventRing (c : Ctl) (code : Nat) : Nat :=
  if 7 ≤ code then c.get F.glbEvtCfgUrgRing else c.get F.glbEvtCfgRing

/-- Whether a ring takes event records now (R292). -/
def Ctl.eventRingOk (c : Ctl) (r : Nat) : Bool := c.on F.glbEvtCfgEn && c.ringKind r 3

/-- A record of an event kept for the snapshot's event section, which holds the last 1024 (R498). -/
def Ctl.logEvent (c : Ctl) (ws : List Word) : Ctl :=
  let l := ws ++ [w32 c.glbTime, w32 (c.glbTime / 2 ^ 32)] ++ List.replicate 8 0
  { c with diag := { c.diag with log := (c.diag.log ++ [l]).drop (c.diag.log.length + 1 - 1024) } }

/-- An event of a code over the limit of R487 counted for the storm record. -/
def Ctl.suppressEvent (c : Ctl) (code : Nat) : Ctl :=
  { c with diag := { c.diag with evtSuppressed := mset 0 c.diag.evtSuppressed code (mget 0 c.diag.evtSuppressed code + 1) } }

/-- An event of a code posted in the window of R487. -/
def Ctl.countPosted (c : Ctl) (code : Nat) : Ctl :=
  { c with diag := { c.diag with evtPosted := mset 0 c.diag.evtPosted code (mget 0 c.diag.evtPosted code + 1) } }

/-- Whether the limit of R487 forbids posting an event of a code now. -/
def Ctl.overLimit (c : Ctl) (code : Nat) : Bool :=
  c.get F.dbgCtrlEvtLimit != 0 && decide (c.get F.dbgCtrlEvtLimit ≤ mget 0 c.diag.evtPosted code)

/-- An event raised: counted in RAISED, kept in the snapshot's event section (R498), and posted unless the limit of R487,
GLB_EVT_CFG or a full ring forbids it, which NOTPOSTED counts (R488); a WM_CROSS its own posting causes is raised in
turn. -/
def Ctl.eventN : Nat → Ctl → Nat → Nat → Word → Word → Nat → Ctl
  | 0, c, _, _, _, _, _ => c
  | fuel + 1, c, code, src, a0, a1, status =>
    let ws := [w32 (9 + 256 * status), w32 (code + 65536 * src), a0, a1, w32 (c.epochOf src), 0]
    let c := (c.bump (F.dbgEvtRaised code) 1).logEvent ws
    if c.overLimit code then (c.suppressEvent code).bump (F.dbgEvtNotposted code) 1
    else if !c.eventRingOk (c.eventRing code) then c.bump (F.dbgEvtNotposted code) 1
    else
      let (d, posted, xs) := c.ringPost (c.eventRing code) ws
      if !posted then d.bump (F.dbgEvtNotposted code) 1
      else xs.foldl (fun c x => Ctl.eventN fuel c evWmCross (0x1000 + x.1) (w32 (x.1 + 65536 * x.2.1)) (w32 x.2.2) stOk) (d.countPosted code)

/-- WM_CROSS of the crossings a change of fill made (R288). -/
def Ctl.crossings (c : Ctl) (xs : List Cross) : Ctl :=
  xs.foldl (fun c x => Ctl.eventN 3 c evWmCross (0x1000 + x.1) (w32 (x.1 + 65536 * x.2.1)) (w32 x.2.2) stOk) c

/-- An event with STATUS OK (R485). -/
def Ctl.event (c : Ctl) (code src : Nat) (a0 a1 : Word) : Ctl := Ctl.eventN 4 c code src a0 a1 stOk

/-- EPOCH_STALE of a refused request (R298, R309): path 0 host, 1 management. -/
def Ctl.epochStale (c : Ctl) (src exp path : Nat) : Ctl := c.event evEpochStale src (w32 exp) (w32 path)

/-- A record posted to a ring, with the WM_CROSS its posting causes. -/
def Ctl.post (c : Ctl) (r : Nat) (ws : List Word) : Ctl :=
  let (c, _, xs) := c.ringPost r ws
  c.crossings xs

/-- A record posted to the normal event ring, where it takes records (R292). -/
def Ctl.postNormal (c : Ctl) (ws : List Word) : Ctl :=
  if c.eventRingOk (c.get F.glbEvtCfgRing) then c.post (c.get F.glbEvtCfgRing) ws else c

/-- A status record (TYPE 11): subkind, source, status and words 2 … 5 (Table 9.6). -/
def statusRec (subkind src status : Nat) (d : List Word) : List Word :=
  [w32 (11 + 256 * status), w32 (subkind + 65536 * src)] ++ (List.range 4).map (fun i => nth 0 d i)

/-- A record posted to the report ring of stream context s, where REPORT.EN is 1 and the ring an enabled report ring
(Table 3.1, Table 9.6). -/
def Ctl.postReport (c : Ctl) (s : Nat) (ws : List Word) : Ctl :=
  if c.on (F.stcReportEn s) && c.ringKind (c.get (F.stcReportRing s)) 4 then c.post (c.get (F.stcReportRing s)) ws else c

/-- The next free word (log entry 15): the model's counter advances, and nothing constrains the word. -/
def Ctl.freeWord (c : Ctl) : Ctl × Word := ({ c with free := c.free + 1 }, Config.freeWord c.free)

/-- A status record for the normal event ring whose SOURCE no rule states: SOURCE is a free value (log entry 26). -/
def Ctl.postFreeSrc (c : Ctl) (subkind status : Nat) (d : List Word) : Ctl :=
  let (c, w) := c.freeWord
  c.postNormal (statusRec subkind (w.toNat % 65536) status d)

/-- A power-status record (R419, Table 13.6): cause, object, value. -/
def Ctl.powerRec (c : Ctl) (cause obj value : Nat) : Ctl := c.postFreeSrc 7 stOk [w32 (cause + 256 * obj), w32 value]

/-- The storm records of the codes that exceeded the limit, and the counts of the window begun anew (R487). -/
def Ctl.stormRecords (c : Ctl) (frame : Word) : Ctl :=
  let c := c.diag.evtSuppressed.foldl (fun c p => c.postFreeSrc 10 stOk [w32 p.1, w32 p.2, frame]) c
  { c with diag := { c.diag with evtPosted := [], evtSuppressed := [] } }

/-! Management alerts. -/

/-- An ALERT bit set (R295). -/
def Ctl.alert (c : Ctl) (i : Nat) : Ctl := { c with diag := { c.diag with alert := w32 (setBit c.diag.alert.toNat i) } }

/-! The main domain and the stands. -/

/-- Whether the main domain runs: not held in reset (R440). -/
def Ctl.running (c : Ctl) : Bool := !c.boot.inReset

/-- The physical stand that carries logical stand L and executes its tasks: SERVICE or LEAVING (Table 4.1); during a
rotation the leaving one until the commit. -/
def Ctl.standOf (c : Ctl) (l : Nat) : Option Nat :=
  (List.range 17).find? (fun n => (c.get (F.stdStateState n) == 3 || c.get (F.stdStateState n) == 4) &&
    c.get (F.stdStateLogical n) == l)

/-- The physical core 8 × n + c of logical core k (R117). -/
def Ctl.physOf (c : Ctl) (k : Nat) : Option Nat := (c.standOf (k / 8)).map (fun n => 8 * n + k % 8)

/-- The logical core of physical core q while its stand carries one. -/
def Ctl.logOf (c : Ctl) (q : Nat) : Nat := 8 * c.get (F.stdStateLogical (q / 8)) + q % 8

end Sys2Proof.Machine
end

