-- ==== Sys2Proof/Machine/Link.lean ====
section
/-! DEFINITION. Hinge links and the roles of a pair (12_pair_and_wall.md): sending a frame with its replay buffer, pair-status
records, role changes, PAIR_ACT_N and the Shutters. -/

namespace Sys2Proof.Machine

/-- Whether a frame type is sequenced (Table 12.4). -/
def HngOut.sequenced : HngOut → Bool
  | .train _ => false
  | .ack _ => false
  | .nak _ => false
  | _ => true

/-! The words of a frame (R370, Table 12.3, Table 12.4, Table 12.6). -/

/-- TYPE of a frame (Table 12.4). -/
def HngOut.type : HngOut → Nat
  | .train _ => 0
  | .ack _ => 1
  | .nak _ => 2
  | .heartbeat _ _ _ _ _ _ => 3
  | .state _ => 4
  | .sync _ _ => 5
  | .gov _ _ => 6
  | .data _ _ => 7
  | .halo _ _ _ _ _ => 8
  | .fwd _ _ _ => 9

/-- A frame's place in the transmit order (Table 12.4 lists STATE after GOV). -/
def HngOut.prio (f : HngOut) : Nat := if f.type = 4 then 6 else if f.type = 5 ∨ f.type = 6 then f.type - 1 else f.type

/-- Bytes as 64-bit words, least significant byte first, the last word filled with zeros. -/
def words64 (bs : List Byte) : List (BitVec 64) :=
  (List.range ((bs.length + 7) / 8)).map (fun i => BitVec.ofNat 64 (ofBytes ((bs.drop (8 * i)).take 8)))

/-- Payload bytes of one FWD frame: 1041 words (R371). -/
abbrev fwdBytes : Nat := 8328

/-- Frames that an image takes. -/
def fwdParts (im : Image) : Nat := max 1 ((im.length + fwdBytes - 1) / fwdBytes)

/-- The payload of a frame (Tables 12.4 … 12.6). Where the spec states what a payload holds and not where, its words are free and
their number the model's choice (DESIGN CHOICE, log entry 157). -/
def HngOut.payload : HngOut → List (BitVec 64)
  | .train r => (List.range 5).map (Config.trainWord r)
  | .ack seq => [BitVec.ofNat 64 (seq % 4096)]
  | .nak seq => [BitVec.ofNat 64 (seq % 4096)]
  | .heartbeat frame line src ctx closed lcrc =>
    [BitVec.ofNat 64 (frame % 2 ^ 32 + 2 ^ 32 * (line % 2 ^ 13) + 2 ^ 45 * (src % 4) + 2 ^ 47 * bit closed + 2 ^ 48 * (ctx % 32)), lcrc.setWidth 64]
  | .sync frame lock => [BitVec.ofNat 64 (frame.toNat + 2 ^ 32 * lock.toNat)]
  | .gov mv urgent => [BitVec.ofNat 64 (mv % 1024 + 2 ^ 16 * bit urgent)]
  | .state i => (List.range 4).map (Config.stateWord i)
  | .data _ bs => words64 bs
  | .halo ctx frame y x px => Config.haloWord ctx frame y x :: words64 (px.flatMap (fun p => p.flatMap (fun v => toBytes 2 v)))
  | .fwd im part _ => words64 (((im.bytes.take im.length).drop (fwdBytes * part)).take fwdBytes)

/-- The link channel that the header names: of a DATA frame, else 0 (Table 12.3). -/
def HngOut.lch : HngOut → Nat
  | .data l _ => l % 64
  | _ => 0

/-- The header word (Table 12.3). -/
def HngOut.header (f : HngOut) (seq : Nat) : BitVec 64 :=
  BitVec.ofNat 64 (f.type + 2 ^ 4 * (if f.sequenced then seq % 4096 else 0) + 2 ^ 16 * (f.payload.length % 8192) + 2 ^ 32 * f.lch)

/-- The trailer over header and payload: the CRC-32 of Table 7.1, fed least significant byte first (R370). -/
def hngTrailer (ws : List (BitVec 64)) : BitVec 64 := (crc32 (ws.flatMap (fun w => toBytes 8 w.toNat))).setWidth 64

/-- The words in which a frame leaves a port: header, payload, trailer (R370). -/
def HngOut.frame (f : HngOut) (seq : Nat) : List (BitVec 64) :=
  (f.header seq :: f.payload) ++ [hngTrailer (f.header seq :: f.payload)]

/-- Bytes of a frame in the replay buffer. -/
def HngOut.size (f : HngOut) : Nat := 8 * (f.payload.length + 2)

/-- The mode of Table 12.1. -/
def Ctl.mode (c : Ctl) : Nat := c.get F.hngPairStatusMode

/-- Mirror or split: the modes of a pair. -/
def Ctl.paired (c : Ctl) : Bool := c.mode == 1 || c.mode == 2

/-- The link a port belongs to: ports 0 and 1 of a pair are one bond, kept under port 0 (R365; DEDUCED, log entry 27). -/
def Ctl.linkOf (c : Ctl) (n : Nat) : Nat := if c.paired && n ≤ 1 then 0 else n

/-- Whether the mode uses port n (Table 12.1; in wall mode a port that faces outside the grid is not used, R397). -/
def Ctl.portUsed (c : Ctl) (n : Nat) : Bool :=
  match c.mode with
  | 0 => false
  | 3 => match n with
    | 0 => decide (0 < c.get F.hngGridCol)
    | 1 => decide (c.get F.hngGridCol < c.get F.hngGridColsM1)
    | 2 => decide (0 < c.get F.hngGridRow)
    | _ => decide (c.get F.hngGridRow < c.get F.hngGridRowsM1)
  | _ => decide (n ≤ 1)

/-- The links of the mode. -/
def Ctl.links (c : Ctl) : List Nat :=
  match c.mode with
  | 0 => []
  | 3 => (List.range 4).filter c.portUsed
  | _ => [0]

/-- Whether a link carries frames: its port reads UP, of a bond both ports (R396). -/
def Ctl.linkIsUp (c : Ctl) (l : Nat) : Bool :=
  if c.paired then c.get (F.hngStateState 0) == 2 && c.get (F.hngStateState 1) == 2 else c.get (F.hngStateState l) == 2

/-- The link layer of a link. -/
def Ctl.port (c : Ctl) (l : Nat) : PortSt := mget PortSt.init c.hng.ports l
/-- The link layer of a link set. -/
def Ctl.portSet (c : Ctl) (l : Nat) (p : PortSt) : Ctl := { c with hng := { c.hng with ports := mset PortSt.init c.hng.ports l p } }

/-- The replay buffer of a link: 32 KiB per port, both ports of a bond (R371; DEDUCED, log entry 158). -/
def Ctl.replayBytes (c : Ctl) : Nat := if c.paired then 65536 else 32768

/-- Whether a frame finds room in the replay buffer, of which 1 KiB per port is for HEARTBEAT, SYNC and GOV (R371); a frame that is
not sequenced needs none. -/
def Ctl.hngRoom (c : Ctl) (l : Nat) (f : HngOut) : Bool :=
  let used := (c.port l).unacked.foldl (fun n e => n + e.2.size) 0
  let keep := if f.type = 3 ∨ f.type = 5 ∨ f.type = 6 then 0 else c.replayBytes / 32
  !f.sequenced || decide (used + f.size + keep ≤ c.replayBytes)

/-- A frame leaves: a sequenced one takes the next SEQ and is kept until it is acknowledged (R371). -/
def Ctl.hngEmit (c : Ctl) (l : Nat) (f : HngOut) : Ctl :=
  if f.sequenced then
    let p := c.port l
    (c.portSet l { p with txSeq := (p.txSeq + 1) % 4096, unacked := p.unacked ++ [(p.txSeq, f)] }).emit (.hinge l p.txSeq f (f.frame p.txSeq))
  else c.emit (.hinge l 0 f (f.frame 0))

/-- The first frame that waits on a link leaves, if there is room for it. -/
def Ctl.hngTry (c : Ctl) (l : Nat) : Ctl :=
  match (c.port l).txq with
  | [] => c
  | f :: t => if c.hngRoom l f then (c.portSet l { c.port l with txq := t }).hngEmit l f else c

/-- The frames that wait on a link leave in their order while there is room for them. -/
def Ctl.hngPump (c : Ctl) (l : Nat) : Ctl := forN (c.port l).txq.length (fun _ c => c.hngTry l) c

/-- A frame put behind those of its priority or a higher one (Table 12.4). -/
def hngQueue (q : List HngOut) (f : HngOut) : List HngOut :=
  q.filter (fun g => decide (g.prio ≤ f.prio)) ++ [f] ++ q.filter (fun g => decide (f.prio < g.prio))

/-- A frame is ready on a link that is up: it leaves at once, or waits in its priority while the replay buffer has no room (R371; a
frame takes no time to send, log entry 158). -/
def Ctl.hngSend (c : Ctl) (l : Nat) (f : HngOut) : Ctl :=
  if !c.linkIsUp l then c
  else (c.portSet l { c.port l with txq := hngQueue (c.port l).txq f }).hngPump l

/-- An image's bytes sent in FWD frames of at most 1041 payload words (R371, R383). -/
def Ctl.fwdSend (c : Ctl) (im : Image) (load : Bool) : Ctl :=
  forN (fwdParts im) (fun i c => c.hngSend 0 (.fwd im i load)) c

/-- A frame on every link of the mode that is up but one. -/
def Ctl.hngSendAll (c : Ctl) (but : Option Nat) (f : HngOut) : Ctl :=
  c.links.foldl (fun c l => if but = some l then c else c.hngSend l f) c

/-! Roles. -/

/-- Whether the part is primary. -/
def Ctl.isPrimary (c : Ctl) : Bool := c.get F.hngPairStatusRole == 1
/-- Whether the part is a secondary of a pair. -/
def Ctl.isSecondary (c : Ctl) : Bool := c.paired && c.get F.hngPairStatusRole == 2

/-- The bits of HNG_PAIR_STATUS that mirror pins and SYNC bits brought up to date (Table 12.9). -/
def Ctl.pairRegs (c : Ctl) : Ctl :=
  let synced := c.get F.hngPairStatusRole == 2 && c.outputs.all (fun s => tbit (c.get F.hngMirSyncSync) s)
  ((c.put F.hngPairStatusSynced (bit synced)).put F.hngPairStatusPeerAct (bit (!c.hng.peerN))).put F.hngPairStatusAct
    (bit (!c.hng.pairActN))

/-- A pair-status record (R376): HNG_PAIR_STATUS and the cause. -/
def Ctl.pairRec (c : Ctl) (cause : Nat) : Ctl :=
  let c := c.pairRegs
  c.postFreeSrc 6 stOk [c.rd R.hngPairStatus, w32 cause]

/-- PAIR_ACT_N asserted or released. -/
def Ctl.setAct (c : Ctl) (act : Bool) : Ctl := ({ c with hng := { c.hng with pairActN := !act } }).pairRegs

/-- A role taken: at a change the epoch rises, the SYNC bits clear (R386) and a pair-status record posts (R376). -/
def Ctl.setRole (c : Ctl) (role cause : Nat) : Ctl :=
  if c.get F.hngPairStatusRole = role then c
  else (((c.put F.hngPairStatusRole role).nextEpoch F.hngPairStatusEpoch).put F.hngMirSyncSync 0).pairRec cause

/-! Shutters. -/

/-- The state fields of Shutter t set; its epoch rises at a change (R296). -/
def Ctl.shutSet (c : Ctl) (t closed hold cause reason : Nat) : Ctl :=
  c.unitState (F.phcShutEpoch t) [(F.phcShutClosed t, closed), (F.phcShutHold t, hold), (F.phcShutCause t, cause),
    (F.phcShutReason t, reason)]

/-- Shutter t closed with a cause, its hold and reason kept. -/
def Ctl.shutClose (c : Ctl) (t cause : Nat) : Ctl := c.shutSet t 1 (c.get (F.phcShutHold t)) cause (c.get (F.phcShutReason t))

/-- Shutter t opened; CAUSE names the last closing still. A held Shutter stays as it is (R299, R388). -/
def Ctl.shutOpen (c : Ctl) (t : Nat) : Ctl :=
  if c.on (F.phcShutHold t) then c
  else c.shutSet t 0 0 (c.get (F.phcShutCause t)) (c.get (F.phcShutReason t))

/-- Whether R391 holds PAIR_ACT_N released; a part in reset or with THERMTRIP_N asserted releases it too (R387). -/
def Ctl.mayAct (c : Ctl) : Bool := !c.hng.hold391 && !c.boot.inReset && !c.pwr.trip

/-- The closed state the host driver last set for Shutter t (R391). -/
def Ctl.hostShut (c : Ctl) (t : Nat) : Bool := mget false c.ras.shutHost t

/-- The part acts as its role says in mirror and split modes (R378, R387): in mirror mode a primary asserts PAIR_ACT_N, a
secondary releases it and keeps its Shutters closed with CAUSE 3, also those closed before for another cause; a new primary's Shutters
take a given closed state, with CAUSE 0 where it is the one the host driver set (R391; DESIGN CHOICE, log entry 166). -/
def Ctl.actRole (c : Ctl) (closed : Nat → Bool) (host : Bool) : Ctl :=
  if c.mode ≠ 1 then c
  else if c.isPrimary then
    if !c.mayAct then c
    else [0, 1].foldl (fun c t =>
      if !closed t then c.shutOpen t else if host && !c.on (F.phcShutHold t) then c.shutClose t 0 else c) (c.setAct true)
  else [0, 1].foldl (fun c t => c.shutClose t 3) (c.setAct false)

end Sys2Proof.Machine
end

