-- ==== Sys2Proof/Machine/Float.lean ====
section
/-! DEFINITION. binary16 and FP32 (R241 … R247): exact values, one rounding to nearest with ties away from zero. -/

namespace Sys2Proof.Machine

/-- A floating-point format: fraction bits, bias, exponent bits (Table 8.1). -/
structure Fmt where
  fb : Nat
  bias : Nat
  eb : Nat
deriving DecidableEq, Repr

/-- binary16. -/
def f16 : Fmt := ⟨10, 15, 5⟩
/-- FP32. -/
def f32 : Fmt := ⟨23, 127, 8⟩

/-- A value: NaN, an infinity, or (−1)^neg × m × 2^e exactly. -/
inductive FVal where
  | nan
  | inf (neg : Bool)
  | fin (neg : Bool) (m : Nat) (e : Int)
deriving DecidableEq, Repr

/-- The exponent of the smallest subnormal. -/
def Fmt.qmin (f : Fmt) : Int := 1 - (f.bias : Int) - f.fb

/-- The canonical quiet NaN (Table 8.1). -/
def Fmt.qnan (f : Fmt) : Nat := (2 ^ f.eb - 1) * 2 ^ f.fb + 2 ^ (f.fb - 1)

/-- The sign bit's weight. -/
def Fmt.sgn (f : Fmt) : Nat := 2 ^ (f.fb + f.eb)

/-- The value of a bit pattern. -/
def Fmt.decode (f : Fmt) (x : Nat) : FVal :=
  let neg := x.testBit (f.fb + f.eb)
  let ex := (x >>> f.fb) % 2 ^ f.eb
  let fr := x % 2 ^ f.fb
  if ex = 2 ^ f.eb - 1 then (if fr = 0 then .inf neg else .nan)
  else if ex = 0 then .fin neg fr f.qmin
  else .fin neg (2 ^ f.fb + fr) (f.qmin + (ex : Int) - 1)

/-- m × 2^e rounded to a multiple of 2^q, ties to the larger magnitude, as that multiple. -/
def roundMag (m : Nat) (e q : Int) : Nat :=
  if q ≤ e then m <<< (e - q).toNat
  else (m + (1 <<< ((q - e).toNat - 1))) >>> (q - e).toNat

/-- The bit pattern of a value rounded once (R242, R243): NaN is canonical, overflow gives an infinity. -/
def Fmt.encode (f : Fmt) : FVal → Nat
  | .nan => f.qnan
  | .inf neg => (if neg then f.sgn else 0) + (2 ^ f.eb - 1) * 2 ^ f.fb
  | .fin neg m e =>
    let s := if neg then f.sgn else 0
    if m = 0 then s
    else
      let q := max ((Nat.log2 m : Int) + e - f.fb) f.qmin
      let bits := (q - f.qmin).toNat * 2 ^ f.fb + roundMag m e q
      if (2 ^ f.eb - 1) * 2 ^ f.fb ≤ bits then s + (2 ^ f.eb - 1) * 2 ^ f.fb else s + bits

/-- Whether a value is NaN. -/
def FVal.isNan : FVal → Bool
  | .nan => true
  | _ => false

/-- A signed integer times a power of two as a value; zero takes the given sign. -/
def FVal.ofInt (zneg : Bool) (x e : Int) : FVal := if x = 0 then .fin zneg 0 0 else .fin (decide (x < 0)) x.natAbs e

/-- The signed mantissa. -/
def sgnI (neg : Bool) (m : Nat) : Int := if neg then -(m : Int) else m

/-- The exact sum; an exact zero is +0 unless both operands are −0 (R246). -/
def FVal.add : FVal → FVal → FVal
  | .nan, _ => .nan
  | _, .nan => .nan
  | .inf a, .inf b => if a = b then .inf a else .nan
  | .inf a, .fin _ _ _ => .inf a
  | .fin _ _ _, .inf b => .inf b
  | .fin a m e, .fin b n g =>
    let q := min e g
    let x := sgnI a (m <<< (e - q).toNat) + sgnI b (n <<< (g - q).toNat)
    FVal.ofInt (a && b && decide (m = 0) && decide (n = 0)) x q

/-- The exact product; a zero takes the exclusive-or of the signs (R246). -/
def FVal.mul : FVal → FVal → FVal
  | .nan, _ => .nan
  | _, .nan => .nan
  | .inf a, .inf b => .inf (a != b)
  | .inf a, .fin b n _ => if n = 0 then .nan else .inf (a != b)
  | .fin a m _, .inf b => if m = 0 then .nan else .inf (a != b)
  | .fin a m e, .fin b n g => .fin (a != b) (m * n) (e + g)

/-- The value with its sign inverted. -/
def FVal.neg : FVal → FVal
  | .nan => .nan
  | .inf a => .inf (!a)
  | .fin a m e => .fin (!a) m e

/-- a < b; false where one is NaN; the two zeros are equal. -/
def FVal.lt : FVal → FVal → Bool
  | .nan, _ => false
  | _, .nan => false
  | .inf a, .inf b => a && !b
  | .inf a, .fin _ _ _ => a
  | .fin _ _ _, .inf b => !b
  | .fin a m e, .fin b n g =>
    let q := min e g
    decide (sgnI a (m <<< (e - q).toNat) < sgnI b (n <<< (g - q).toNat))

/-- a = b as numbers; false where one is NaN. -/
def FVal.eq (a b : FVal) : Bool := !a.isNan && !b.isNan && !a.lt b && !b.lt a

/-- Whether a value is a zero. -/
def FVal.isZero : FVal → Bool
  | .fin _ m _ => decide (m = 0)
  | _ => false

/-- A value times a power of two. -/
def FVal.scale (v : FVal) (k : Int) : FVal :=
  match v with
  | .fin a m e => .fin a m (e + k)
  | w => w

/-! binary16 operations (Table 8.2). -/

def add16 (a b : BitVec 16) : BitVec 16 := BitVec.ofNat 16 (f16.encode ((f16.decode a.toNat).add (f16.decode b.toNat)))
def sub16 (a b : BitVec 16) : BitVec 16 := BitVec.ofNat 16 (f16.encode ((f16.decode a.toNat).add (f16.decode b.toNat).neg))
def mul16 (a b : BitVec 16) : BitVec 16 := BitVec.ofNat 16 (f16.encode ((f16.decode a.toNat).mul (f16.decode b.toNat)))
def fma16 (a b c : BitVec 16) : BitVec 16 :=
  BitVec.ofNat 16 (f16.encode (((f16.decode a.toNat).mul (f16.decode b.toNat)).add (f16.decode c.toNat)))
def lt16 (a b : BitVec 16) : Bool := (f16.decode a.toNat).lt (f16.decode b.toNat)
def eq16 (a b : BitVec 16) : Bool := (f16.decode a.toNat).eq (f16.decode b.toNat)
/-- FP32 bits of a binary16, exact (R247). -/
def widen (a : BitVec 16) : Word := BitVec.ofNat 32 (f32.encode (f16.decode a.toNat))
/-- A binary16 rounded once from FP32 bits. -/
def narrow (a : Word) : BitVec 16 := BitVec.ofNat 16 (f16.encode (f32.decode a.toNat))
/-- FP32 addition, rounded once. -/
def add32 (a b : Word) : Word := BitVec.ofNat 32 (f32.encode ((f32.decode a.toNat).add (f32.decode b.toNat)))
/-- The exact product of two binary16 in FP32 (R135). -/
def prod32 (a b : BitVec 16) : Word := BitVec.ofNat 32 (f32.encode ((f16.decode a.toNat).mul (f16.decode b.toNat)))

/-- VMAX and VMIN of a lane: a NaN operand gives the other, two NaNs the canonical NaN; which of +0 and −0 is a free value. -/
def pick16 (isMax : Bool) (a b : BitVec 16) : BitVec 16 :=
  let x := f16.decode a.toNat
  let y := f16.decode b.toNat
  if x.isNan && y.isNan then BitVec.ofNat 16 f16.qnan
  else if x.isNan then b
  else if y.isNan then a
  else if x.isZero && y.isZero && a != b then (if Config.zeroPick isMax a b then a else b)
  else if isMax then (if x.lt y then b else a)
  else (if y.lt x then b else a)

/-- FMAX and FMIN of Table 5.9: a NaN operand gives the other, +0 counts above −0. -/
def pick32 (isMax : Bool) (a b : Word) : Word :=
  let x := f32.decode a.toNat
  let y := f32.decode b.toNat
  if x.isNan && y.isNan then BitVec.ofNat 32 f32.qnan
  else if x.isNan then b
  else if y.isNan then a
  else if x.isZero && y.isZero then (if isMax then (if a = 0 then a else b) else (if a = 0 then b else a))
  else if isMax then (if x.lt y then b else a)
  else (if y.lt x then b else a)

/-- VCVTI of a lane: an unsigned integer times 2^−k, rounded. -/
def cvti16 (a : BitVec 16) (k : Nat) : BitVec 16 := BitVec.ofNat 16 (f16.encode (.fin false a.toNat (-(k : Int))))

/-- VCVTP of a lane: times 2^k, rounded to an integer, held in 0 … 2^n − 1; NaN and −∞ give 0, +∞ the top (R244). With n above 16 the
lane takes the low 16 bits (DESIGN CHOICE, log entry 85). -/
def cvtp16 (a : BitVec 16) (k n : Nat) : BitVec 16 :=
  match f16.decode a.toNat with
  | .nan => 0
  | .inf neg => if neg then 0 else BitVec.ofNat 16 (2 ^ n - 1)
  | .fin neg m e => if neg then 0 else BitVec.ofNat 16 (min (roundMag m (e + k) 0) (2 ^ n - 1))

/-- One level of the tree of R135: adjacent pairs added in FP32. -/
def sumLevel : List Word → List Word
  | a :: b :: t => add32 a b :: sumLevel t
  | l => l

/-- The sum of 64 FP32 values in the fixed tree of R135. -/
def treeSum (l : List Word) : Word := nth 0 (sumLevel (sumLevel (sumLevel (sumLevel (sumLevel (sumLevel l)))))) 0

/-- FADD16 (Table 5.9): the exact sum of a binary16 and an FP32, rounded once to binary16. -/
def fadd16 (m : BitVec 16) (r : Word) : BitVec 16 :=
  BitVec.ofNat 16 (f16.encode ((f16.decode m.toNat).add (f32.decode r.toNat)))

end Sys2Proof.Machine
end

