-- ==== Sys2Proof/Machine/Flags.lean ====
section
/-! DEFINITION. The tile core's register files (Table 4.2), guards (R130), and every computation of a predicate: the
flags of this hardware are the 64-bit predicate registers. -/

namespace Sys2Proof.Machine

/-! Register files, by physical core q. -/

/-- sI of core q: s0 reads 0 (Table 4.2). -/
def Ctl.sreg (c : Ctl) (q i : Nat) : Word := if i = 0 then 0 else mget 0 c.fab.sregs (64 * q + i)
/-- vI of core q. -/
def Ctl.vreg (c : Ctl) (q i : Nat) : BitVec 1024 := mget 0 c.fab.vregs (32 * q + i)
/-- pI of core q: p0 reads all ones (Table 4.2). -/
def Ctl.preg (c : Ctl) (q i : Nat) : BitVec 64 := if i = 0 then BitVec.allOnes 64 else mget 0 c.fab.pregs (16 * q + i)
/-- Element (row, col) of aI of core q. -/
def Ctl.areg (c : Ctl) (q i row col : Nat) : Word := mget 0 c.fab.aregs (((q * 8 + i) * 16 + row) * 32 + col)

/-- sI of core q written: a write to s0 is discarded (Table 4.2). -/
def Ctl.sregSet (c : Ctl) (q i : Nat) (v : Word) : Ctl :=
  if i = 0 then c else { c with fab := { c.fab with sregs := mset 0 c.fab.sregs (64 * q + i) v } }
/-- vI of core q written. -/
def Ctl.vregSet (c : Ctl) (q i : Nat) (v : BitVec 1024) : Ctl :=
  { c with fab := { c.fab with vregs := mset 0 c.fab.vregs (32 * q + i) v } }
/-- pI of core q written: a write to p0 is discarded (Table 4.2). -/
def Ctl.pregSet (c : Ctl) (q i : Nat) (v : BitVec 64) : Ctl :=
  if i = 0 then c else { c with fab := { c.fab with pregs := mset 0 c.fab.pregs (16 * q + i) v } }
/-- Element (row, col) of aI of core q written. -/
def Ctl.aregSet (c : Ctl) (q i row col : Nat) (v : Word) : Ctl :=
  { c with fab := { c.fab with aregs := mset 0 c.fab.aregs (((q * 8 + i) * 16 + row) * 32 + col) v } }

/-- Every register of core q zero (R126). -/
def Ctl.clearRegs (c : Ctl) (q : Nat) : Ctl :=
  { c with fab := { c.fab with
      sregs := mdrop (inRange (64 * q) 64) c.fab.sregs
      vregs := mdrop (inRange (32 * q) 32) c.fab.vregs
      pregs := mdrop (inRange (16 * q) 16) c.fab.pregs
      aregs := mdrop (inRange (4096 * q) 4096) c.fab.aregs } }

/-! Lanes. -/

/-- Lane i of a vector: bits [16i+15:16i] (Table 4.2). -/
def lane (v : BitVec 1024) (i : Nat) : BitVec 16 := (v >>> (16 * i)).setWidth 16

/-- The vector whose lanes a function gives. -/
def ofLanes (f : Nat → BitVec 16) : BitVec 1024 :=
  (List.range 64).foldl (fun a i => a ||| ((f i).setWidth 1024 <<< (16 * i))) 0

/-- The predicate whose bits a function gives. -/
def ofBits (f : Nat → Bool) : BitVec 64 :=
  BitVec.ofNat 64 ((List.range 64).foldl (fun a i => if f i then a + 2 ^ i else a) 0)

/-- The vector of 128 bytes, least significant first. -/
def vecOfBytes (bs : List Byte) : BitVec 1024 := BitVec.ofNat 1024 (ofBytes bs)

/-- The 128 bytes of a vector. -/
def bytesOfVec (v : BitVec 1024) : List Byte := toBytes 128 v.toNat

/-! Guards and predicates. -/

/-- The guard of a slot: pPS, inverted when PN is 1 (R130). -/
def Ctl.guard (c : Ctl) (q : Nat) (sl : Slot) : BitVec 64 :=
  if sl.pn then ~~~ c.preg q sl.ps.val else c.preg q sl.ps.val

/-- Guard bit 0, which every operation that is not a vector operation uses (R130). -/
def Ctl.guard0 (c : Ctl) (q : Nat) (sl : Slot) : Bool := (c.guard q sl).getLsbD 0

/-- Lanes of a new vector where the guard bit is 1, of the old one elsewhere (R130). -/
def mergeLanes (g : BitVec 64) (old new : BitVec 1024) : BitVec 1024 :=
  ofLanes (fun i => if g.getLsbD i then lane new i else lane old i)

/-- Bits of a new predicate where the guard bit is 1, of the old one elsewhere (R130). -/
def mergeBits (g old new : BitVec 64) : BitVec 64 := (new &&& g) ||| (old &&& ~~~ g)

/-- All ones or zero. -/
def allBits (b : Bool) : BitVec 64 := if b then BitVec.allOnes 64 else 0

/-- Bit i ← (vA[i] < vB[i]) (VCMPLT). -/
def cmpLtLanes (a b : BitVec 1024) : BitVec 64 := ofBits (fun i => lt16 (lane a i) (lane b i))
/-- Bit i ← (vA[i] = vB[i]) (VCMPEQ). -/
def cmpEqLanes (a b : BitVec 1024) : BitVec 64 := ofBits (fun i => eq16 (lane a i) (lane b i))
/-- Every bit ← (sA < sB, signed) (CMPLT). -/
def cmpLt (a b : Word) : BitVec 64 := allBits (a.slt b)
/-- Every bit ← (sA = sB) (CMPEQ). -/
def cmpEq (a b : Word) : BitVec 64 := allBits (a == b)
/-- Bit i ← (i < sA), i 0 … 63 (PTAIL): sA signed, as CMPLT compares (DEDUCED, log entry 19). -/
def tailBits (a : Word) : BitVec 64 := ofBits (fun i => decide ((i : Int) < a.toInt))

end Sys2Proof.Machine
end

