-- ==== Sys2Proof/Machine/Fabric.lean ====
section
/-! DEFINITION. Operations of the fabric outside a core: slot geometry and ready tags, fill tags (R205 … R208), semaphores
(R198), credit pools (R200 … R202), channel FIFOs (R187 … R197), gather buffers (R170, R171), the line cache (R157). -/

namespace Sys2Proof.Machine

/-! Line and output rings. -/

/-- Samples of one chroma plane of a line of the context (R238). -/
def Ctl.chromaN (c : Ctl) (s : Nat) : Nat :=
  if c.get (F.stcFmtSamp s) ≤ 1 then c.get (F.stcGeomHact s) else c.get (F.stcGeomHact s) / 2

/-- Bytes of a line-ring slot, rounded up to 256 (R319): one line, or in re-timing mode the lines of A and B (R103, R238). -/
def Ctl.lineSlot (c : Ctl) (s : Nat) : Nat :=
  ((c.get (F.stcGeomHact s) + 2 * c.chromaN s) * 2 * (if c.on (F.stcCtrlMode s) then 2 else 1) + 255) / 256 * 256

/-- Bytes of an output-ring slot, rounded up to 256 (R239, R319). -/
def Ctl.outSlot (c : Ctl) (s : Nat) : Nat := (c.get (F.stcGeomHact s) * 6 + 255) / 256 * 256

/-- The ready tag of slot i of output context s: the tag store has one per output-ring slot (R134). -/
def Ctl.tag (c : Ctl) (s i : Nat) : Word := mget 0 c.ras.tags (64 * s + i)

/-- A ready tag written. -/
def Ctl.tagSet (c : Ctl) (s i : Nat) (v : Word) : Ctl := { c with ras := { c.ras with tags := mset 0 c.ras.tags (64 * s + i) v } }

/-- The output-ring slot of line m: m modulo DEPTH (DEDUCED, log entry 20). -/
def Ctl.slotOfLine (c : Ctl) (s m : Nat) : Nat := m % max 1 (c.get (F.stcRingDepth s))

/-- Whether frame f (its low n bits) comes before frame g, counted modulo 2^n. -/
def frameBefore (n f g : Nat) : Bool := let d := (g + 2 ^ n - f % 2 ^ n) % 2 ^ n; decide (0 < d ∧ d < 2 ^ (n - 1))

/-- Whether output s has already drained line m of the frame whose low n bits are f (R31, R32; log entry 21). -/
def Ctl.drained (c : Ctl) (s n f m : Nat) : Bool :=
  match (c.rc s).drained with
  | none => false
  | some (g, l) => (g.toNat % 2 ^ n == f % 2 ^ n && decide (m ≤ l)) || frameBefore n f (g.toNat % 2 ^ n)

/-- The ring slot an offset of a handle lies in, with what counts its misuse. -/
inductive SlotRef where
  | ring (r slot : Nat)
  | line (s slot : Nat)
  | out (s slot : Nat)
deriving DecidableEq, Repr

/-- Whether context s is armed with a direction. -/
def Ctl.armedAs (c : Ctl) (s dir : Nat) : Bool := c.on (F.stcCtrlArm s) && c.get (F.stcCtrlDir s) == dir

/-- The ring slot that holds an offset of handle h, if a slot ring, line ring or output ring uses the handle. -/
def Ctl.slotRef (c : Ctl) (h off : Nat) : Option SlotRef :=
  match (List.range 128).find? (fun r => c.on (F.chnSrStateValid r) && c.get (F.chnSrCfgHandle r) == h) with
  | some r => some (.ring r (off / max 1 (c.get (F.chnSrCfgSlotSize r) * 256)))
  | none =>
    match (List.range 24).find? (fun s => c.armedAs s 0 && c.get (F.stcCtrlSrc s) != 3 && c.get (F.stcRingHandle s) == h &&
        decide (off < c.lineSlot s * c.get (F.stcRingDepth s))) with
    | some s => some (.line s (off / max 1 (c.lineSlot s)))
    | none =>
      match (List.range 24).find? (fun s => c.armedAs s 1 && c.get (F.stcRingHandle s) == h &&
          decide (off < c.outSlot s * c.get (F.stcRingDepth s))) with
      | some s => some (.out s (off / max 1 (c.outSlot s)))
      | none => none

/-- The fill tag of a ring slot (R205, R207, R208). -/
def Ctl.filled (c : Ctl) : SlotRef → Bool
  | .ring r i => tbit (c.get (F.chnSrStateFill r)) i
  | .line s i => tbit (c.vc s).ringFill i
  | .out s i => (c.tag s i).getLsbD 31

/-- SOURCE of a slot event (Table 16.2, Table 16.3). -/
def SlotRef.source : SlotRef → Nat
  | .ring r _ => 0x3000 + r
  | .line s _ => 0x0200 + s
  | .out s _ => 0x0200 + s

/-- The slot number. -/
def SlotRef.slot : SlotRef → Nat
  | .ring _ i => i
  | .line _ i => i
  | .out _ i => i

/-- A read of an unfilled slot counted, the first of the ring in the frame posted (R206, R207; core 0xFF: no core). -/
def Ctl.slotUnder (c : Ctl) (x : SlotRef) (core : Nat) : Ctl :=
  let c := match x with
    | .ring r _ => c.bump (F.chnSrUnderCount r) 1
    | .line s _ => c.bump (F.chnStrmUnderCount s) 1
    | .out s _ => c.bump (F.chnStrmUnderCount s) 1
  if c.fab.underPosted.contains x.source then c
  else ({ c with fab := { c.fab with underPosted := x.source :: c.fab.underPosted } }).event evSlotUnder x.source (w32 x.slot) (w32 core)

/-- A write into a filled slot counted, the first of the ring in the frame posted (R206). No register counts a store of a
core into a filled line or output slot. -/
def Ctl.slotOver (c : Ctl) (x : SlotRef) (core : Nat) : Ctl :=
  let c := match x with
    | .ring r _ => c.bump (F.chnSrOverCount r) 1
    | _ => c
  if c.fab.overPosted.contains x.source then c
  else ({ c with fab := { c.fab with overPosted := x.source :: c.fab.overPosted } }).event evSlotOver x.source (w32 x.slot) (w32 core)

/-! Semaphores. -/

/-- One slot of a slot ring filled from TAIL; a slot already full counts in OVER (R205). -/
def Ctl.fillOne (c : Ctl) (r core : Nat) : Ctl :=
  let i := c.get (F.chnSrStateTail r)
  let was := tbit (c.get (F.chnSrStateFill r)) i
  let c := (c.put (F.chnSrStateFill r) (setBit (c.get (F.chnSrStateFill r)) i)).put (F.chnSrStateTail r)
    ((i + 1) % (c.get (F.chnSrCfgSlotsM1 r) + 1))
  if was then c.slotOver (.ring r i) core else c

/-- One slot of a slot ring emptied from HEAD; a slot already empty counts in UNDER (R205). -/
def Ctl.drainOne (c : Ctl) (r core : Nat) : Ctl :=
  let i := c.get (F.chnSrStateHead r)
  let was := tbit (c.get (F.chnSrStateFill r)) i
  let c := (c.put (F.chnSrStateFill r) (clrBit (c.get (F.chnSrStateFill r)) i)).put (F.chnSrStateHead r)
    ((i + 1) % (c.get (F.chnSrCfgSlotsM1 r) + 1))
  if was then c else c.slotUnder (.ring r i) core

/-- One slot of a line ring emptied from its head (R207). -/
def Ctl.drainLine (c : Ctl) (s core : Nat) : Ctl :=
  let v := c.vc s
  let c := c.vcSet s { v with ringFill := clrBit v.ringFill v.ringHead, ringHead := (v.ringHead + 1) % max 1 (c.get (F.stcRingDepth s)) }
  if tbit v.ringFill v.ringHead then c else c.slotUnder (.line s v.ringHead) core

/-- The count of a semaphore raised: it stays at 65 535 and sets OVF beyond (R198). -/
def Ctl.semAdd (c : Ctl) (sem n : Nat) : Ctl :=
  let v := c.get (F.semCountCount sem) + n
  if 65535 < v then (c.put (F.semCountCount sem) 65535).put (F.semCountOvf sem) 1 else c.put (F.semCountCount sem) v

/-- Credits a core holds of a pool (R200). -/
def Ctl.held (c : Ctl) (p k : Nat) : Nat := mget 0 c.fab.heldCr (128 * p + k)
/-- Credits a core holds of a pool set. -/
def Ctl.heldSet (c : Ctl) (p k n : Nat) : Ctl := { c with fab := { c.fab with heldCr := mset 0 c.fab.heldCr (128 * p + k) n } }

/-- Core k holds n credits of pool p that a CRGET gave it: it counts as a writer of the pool from then on (R204). -/
def Ctl.creditTake (c : Ctl) (p k n : Nat) : Ctl :=
  let c := c.heldSet p k n
  { c with fab := { c.fab with crWriters := if c.fab.crWriters.contains (p, k) then c.fab.crWriters else c.fab.crWriters ++ [(p, k)] } }

/-- Credits lodged by a signal of a core on the linked semaphore (R201). -/
def Ctl.lodge (c : Ctl) (sem n k : Nat) : Ctl :=
  (List.range 256).foldl (fun c p =>
    if c.on (F.chnCpGuardValid p) && c.get (F.chnCpGuardLinksem p) == sem then
      let m := min n (c.held p k)
      (c.heldSet p k (c.held p k - m)).put (F.chnCpLodgedLodged p) (c.get (F.chnCpLodgedLodged p) + m)
    else c) c

/-- The fill tags a signal of n moves on the slot rings and line rings of the semaphore (R205, R207). -/
def Ctl.signalTags (c : Ctl) (sem n core : Nat) : Ctl :=
  let c := (List.range 128).foldl (fun c r =>
    if !c.on (F.chnSrStateValid r) then c
    else if c.get (F.chnSrCfgFullSem r) == sem then forN n (fun _ c => c.fillOne r core) c
    else if c.get (F.chnSrCfgFullSem r) + 1 == sem then forN n (fun _ c => c.drainOne r core) c
    else c) c
  (List.range 24).foldl (fun c s =>
    if c.armedAs s 0 && c.get (F.stcCtrlSrc s) != 3 && c.get (F.stcRingSem s) + 1 == sem then
      forN n (fun _ c => c.drainLine s core) c
    else c) c

/-- A signal of n on a semaphore by logical core k: the count, the fill tags, the credits lodged (R198, R201, R205). -/
def Ctl.signal (c : Ctl) (sem n k : Nat) : Ctl := ((c.semAdd sem n).signalTags sem n k).lodge sem n k

/-- A signal that no core makes: firmware, ingress, a link channel, DMA. -/
def Ctl.signalHw (c : Ctl) (sem n : Nat) : Ctl := (c.semAdd sem n).signalTags sem n 0xFF

/-- The count a waiter on a semaphore needs: a core's SWAIT in waiting, or an idle core's head descriptor. -/
def Ctl.semNeed (c : Ctl) (k sem : Nat) : Option Nat :=
  match c.physOf k with
  | none => none
  | some q =>
    let cs := c.core q
    match cs.task with
    | some _ => (cs.waiting.find? (fun i => i.op == .swait && i.sl.imm.toNat % 256 == sem)).map
        (fun i => fieldGet i.sl.imm 8 16)
    | none => match mget [] c.fab.queues k with
      | t :: _ => if t.startEn && t.startSem == sem then some t.startN else none
      | [] => none

/-- Whether logical core k is served next among the waiters the count satisfies: rotating order from the core after the one
served last (R198). -/
def Ctl.semTurn (c : Ctl) (k sem : Nat) : Bool :=
  let cnt := c.get (F.semCountCount sem)
  let last := mget 127 c.fab.semLast sem
  let order := (List.range 128).map (fun i => (last + 1 + i) % 128)
  order.find? (fun j => match c.semNeed j sem with | some n => decide (n ≤ cnt) | none => false) == some k

/-- A count taken from a semaphore for logical core k (R198). -/
def Ctl.semTake (c : Ctl) (sem n k : Nat) : Ctl :=
  let c := c.put (F.semCountCount sem) (c.get (F.semCountCount sem) - n)
  { c with fab := { c.fab with semLast := mset 127 c.fab.semLast sem k } }

/-- A semaphore at its INIT value (R199). -/
def Ctl.semInit (c : Ctl) (sem : Nat) : Ctl :=
  let c := c.put (F.semCountCount sem) (c.get (F.semInitInit sem))
  { c with fab := { c.fab with semLast := merase c.fab.semLast sem } }

/-! Credit pools. -/

/-- A pool at its capacity: FREE = CAP, nothing held or lodged (R204). -/
def Ctl.poolReset (c : Ctl) (p : Nat) : Ctl :=
  let c := (c.put (F.chnCpCountFree p) (c.get (F.chnCpCountCap p))).put (F.chnCpLodgedLodged p) 0
  { c with fab := { c.fab with heldCr := mdrop (inRange (128 * p) 128) c.fab.heldCr
                               crWriters := c.fab.crWriters.filter (fun w => w.1 != p) } }

/-- Whether any valid pool guards handle h (R202). -/
def Ctl.guarded (c : Ctl) (h : Nat) : Bool :=
  (List.range 256).any (fun p => c.on (F.chnCpGuardValid p) && !c.on (F.chnCpGuardKind p) && c.get (F.chnCpGuardHandle p) == h)

/-- Whether core k holds a credit of a valid pool that guards handle h (R202). -/
def Ctl.mayWriteHandle (c : Ctl) (h k : Nat) : Bool :=
  !c.guarded h || (List.range 256).any (fun p => c.on (F.chnCpGuardValid p) && !c.on (F.chnCpGuardKind p) &&
    c.get (F.chnCpGuardHandle p) == h && decide (1 ≤ c.held p k))

/-- Whether core k holds a credit of a valid pool that guards the scratch region of core j (R202). -/
def Ctl.mayWriteCore (c : Ctl) (j k : Nat) : Bool :=
  (List.range 256).any (fun p => c.on (F.chnCpGuardValid p) && c.on (F.chnCpGuardKind p) &&
    c.get (F.chnCpGuardConsumer p) == j && decide (1 ≤ c.held p k))

/-! Channels. -/

/-- The FIFO of a channel at a receiving core. -/
def Ctl.fifo (c : Ctl) (ch k : Nat) : List Msg := mget [] c.fab.fifos (128 * ch + k)

/-- Whether core k is in multicast group g. -/
def Ctl.inGroup (c : Ctl) (g k : Nat) : Bool := (c.rd (R.chnGrpMask g (k / 32))).getLsbD (k % 32)

/-- The receivers of a channel. -/
def Ctl.receivers (c : Ctl) (ch : Nat) : List Nat :=
  if c.on (F.chnRouteMcast ch) then (List.range 128).filter (fun k => c.inGroup (c.get (F.chnRouteDst ch) % 32) k)
  else [c.get (F.chnRouteDst ch)]

/-- Entries held at the highest receiver: the accepted messages not yet received by every receiver. -/
def Ctl.level (c : Ctl) (ch : Nat) : Nat := ((c.receivers ch).map (fun k => (c.fifo ch k).length)).foldl max 0

/-- LEVEL and PEAK of a channel brought up to date (Table 6.2). -/
def Ctl.fifoRegs (c : Ctl) (ch : Nat) : Ctl :=
  let l := c.level ch
  (c.put (F.chnFifoLevel ch) l).put (F.chnFifoPeak ch) (max l (c.get (F.chnFifoPeak ch)))

/-- Whether a message that arrives is accepted: every receiving FIFO has a free entry (R187). -/
def Ctl.accepts (c : Ctl) (ch : Nat) : Bool := (c.receivers ch).all (fun k => decide ((c.fifo ch k).length < 4))

/-- A message accepted: written at every receiver, counted once (R187, R196). -/
def Ctl.deliver (c : Ctl) (ch : Nat) (m : Msg) : Ctl :=
  let c := (c.receivers ch).foldl (fun c k =>
    { c with fab := { c.fab with fifos := mset [] c.fab.fifos (128 * ch + k) (c.fifo ch k ++ [m]) } }) c
  (c.bump (F.chnMsgCount ch) 1).fifoRegs ch

/-- The oldest message taken by receiver k (R188). -/
def Ctl.receive (c : Ctl) (ch k : Nat) : Ctl :=
  ({ c with fab := { c.fab with fifos := mset [] c.fab.fifos (128 * ch + k) (c.fifo ch k).tail } }).fifoRegs ch

/-- The output line in which negative acknowledgements are counted (R197): a line of the enabled output with the shortest t_out,
from one deadline to the next, in the blanking by the time since the boundary; 2 µs while no output is enabled (DEDUCED, log entry
128). -/
def Ctl.nackWindow (c : Ctl) : Nat × Nat :=
  match c.shortOut with
  | none => (0, c.now / 2000)
  | some o =>
    let blank := (1, (c.now - (c.vc o).lastB) * c.lineRate o / 10 ^ 12)
    match (c.rc o).drained with
    | some (f, m) => if f = (c.vc o).frame then (2, m) else blank
    | none => blank

/-- A negative acknowledgement counted, and NACK_STORM at the threshold within the line, once per frame (R191, R197). -/
def Ctl.nack (c : Ctl) (ch : Nat) : Ctl :=
  let win := c.nackWindow
  let line := if win = c.fab.nackWin then c.fab.nackLine else []
  let n := mget 0 line ch + 1
  let c := c.bump (F.chnNackCount ch) 1
  let c := { c with fab := { c.fab with nackLine := mset 0 line ch n, nackWin := win } }
  let thr := c.get F.chnStormThr
  if thr = 0 ∨ n < thr ∨ c.fab.stormPosted.contains ch then c
  else ({ c with fab := { c.fab with stormPosted := ch :: c.fab.stormPosted } }).event evNackStorm (0x2000 + ch) (w32 n)
    (w32 (c.get (F.chnRouteSrc ch)))

/-! Canopy: gather buffers, detection, line cache. -/

/-- CNP_CLR_PENDING brought up to date (R166). -/
def W.clrCount (w : W) : W := w.on (fun c => c.put F.cnpClrPendingLines w.mem.clrPending)

/-- An act on the memories with CNP_CLR_PENDING following it. -/
def W.actC (w : W) (a : MAct) : W := (w.act a).clrCount

/-- Start and length in bytes of handle h. -/
def Ctl.hBase (c : Ctl) (h : Nat) : Nat := c.get (F.cnpHtW1Base h) * 256
/-- Length in bytes of handle h. -/
def Ctl.hSize (c : Ctl) (h : Nat) : Nat := (c.get (F.cnpHtW2SizeM1 h) + 1) * 256
/-- The key of the byte at an offset of handle h. -/
def Ctl.hKey (c : Ctl) (h off : Nat) : Nat :=
  if c.on (F.cnpHtW0Target h) then dramKey (c.hBase h + off) else canopyKey (c.hBase h + off)

/-- Whether a key lies in the range of a valid handle with OWNER 0xF0, which R180 repairs. -/
def Ctl.residentKey (c : Ctl) (key : Nat) : Bool :=
  (List.range 256).any (fun h => c.on (F.cnpHtW0Valid h) && c.get (F.cnpHtW0Owner h) == 0xF0 &&
    decide (c.hKey h 0 ≤ key ∧ key < c.hKey h 0 + c.hSize h))

/-- A detection queued for its repair at the next vertical blanking (R180): level, key of the word, the CNP_DET_ADDR word, the
logical core. -/
def Ctl.repairLater (c : Ctl) (level key : Nat) (det : Word) (core : Nat) : Ctl :=
  { c with fab := { c.fab with repairs := c.fab.repairs ++ [⟨level, wordKey key, det, core⟩] } }

/-- DET_ERR of a word of Canopy with its address and source words: source 0x4000 (Table 16.3), repaired where R180 asks it. -/
def Ctl.detPost (c : Ctl) (key core : Nat) (a src : Word) : Ctl :=
  let c := if c.residentKey key then c.repairLater 2 key a core else c
  let c := ((c.bump F.cnpDetCountCanopy 1).wr R.cnpDetAddr a).wr R.cnpDetSrc src
  c.event evDetErr 0x4000 a src

/-- A detection in a word of Canopy that no tile core's load met (R176). -/
def Ctl.detWord (c : Ctl) (acc : Bool) (key core h : Nat) : Ctl :=
  c.detPost key core (w32 ((key - canopyKey 0) / 32 * 32 + 2 * 2 ^ 28 + bit acc * 2 ^ 30 + bit (c.residentKey key) * 2 ^ 31))
    (w32 (core + 256 * h))

/-- A detection at an accumulate-on-write operand or in a merge read: ACC = 1 (R176). -/
def Ctl.detAcc (c : Ctl) (key core h : Nat) : Ctl := c.detWord true key core h

/-- One 256-bit word of a gather entry written: a word enabled whole directly; one enabled in part by a merge read, which
CNP_GB_RMW counts and which finds poison (R171, R176); a line that was pending when the flush began needs no merge. -/
def W.flushWord (w : W) (e : GbEntry) (pend : Bool) (i : Nat) : W :=
  let en := (List.range 32).filter (fun j => mget 256 e.bytes (32 * i + j) != 256)
  if en.isEmpty then w
  else
    let key := e.line + 32 * i
    let merge := en.length != 32 && !pend
    let bad := merge && w.mem.poisonAt key
    let byte (j : Nat) : Byte := BitVec.ofNat 8 (mget 256 e.bytes (32 * i + j))
    let w := if en.length = 32 then w.act (.put key ((List.range 32).map byte))
      else en.foldl (fun w j => w.act (.put (key + j) [byte j])) w
    let w := if merge then w.on (fun c => c.bump F.cnpGbRmwCount 1) else w
    if bad then w.on (fun c => c.detAcc key (nth 0 e.cores 0) 0) else w

/-- An entry flushed to its bank (R171). -/
def W.flushEntry (w : W) (e : GbEntry) : W := (forN 8 (fun i v => v.flushWord e (w.mem.pendingAt e.line) i) w).clrCount

/-- The gather buffer of stand n. -/
def Ctl.gather (c : Ctl) (n : Nat) : List GbEntry := mget [] c.cnp.gather n
/-- The gather buffer of stand n set. -/
def Ctl.gatherSet (c : Ctl) (n : Nat) (l : List GbEntry) : Ctl := { c with cnp := { c.cnp with gather := mset [] c.cnp.gather n l } }

/-- The entries of stand n that a condition picks are flushed, oldest first (R170). -/
def W.flushWhere (w : W) (n : Nat) (p : GbEntry → Bool) : W :=
  let es := w.ctl.gather n
  (es.filter p).foldl W.flushEntry (w.on (fun c => c.gatherSet n (es.filter (fun e => !p e))))

/-- A physical upset in the word of Canopy that a slot names, where an entry of stand n's gather buffer holds a part of it and no
clear is pending: the merge read of its flush finds the word failing its code (R175, R176). -/
def W.mergeUpset (w : W) (n : Nat) (a : Option Nat) : W :=
  match a with
  | none => w
  | some a =>
    let key := canopyKey (32 * a)
    let partly (e : GbEntry) : Bool := e.line == lineKey key &&
      (let m := ((List.range 32).filter (fun j => mget 256 e.bytes (key - e.line + j) != 256)).length; m != 0 && m != 32)
    if (w.ctl.gather n).any partly && !w.mem.pendingAt key then w.act (.poison key) else w

/-- The implicit or explicit FENCE of logical core k on stand n (R139, R170). -/
def W.fence (w : W) (n k : Nat) : W := w.flushWhere n (fun e => e.cores.contains k)

/-- A store of less than a line enters the gather buffer of stand n (R170): the line's key, offsets in it and bytes. -/
def W.gatherStore (w : W) (n k : Nat) (lk : Nat) (bs : List (Nat × Byte)) : W :=
  let put (e : GbEntry) : GbEntry :=
    { e with cores := if e.cores.contains k then e.cores else e.cores ++ [k]
             bytes := bs.foldl (fun m b => mset 256 m b.1 b.2.toNat) e.bytes }
  let w := match (w.ctl.gather n).find? (fun (e : GbEntry) => e.line == lk) with
    | some _ => (w.on (fun c => c.gatherSet n ((c.gather n).map (fun (e : GbEntry) => if e.line == lk then put e else e)))).on
        (fun c => c.bump F.cnpGbMergeCount 1)
    | none =>
      let w := if 8 ≤ (w.ctl.gather n).length then
          w.flushWhere n (fun e => (w.ctl.gather n).head?.map (fun (g : GbEntry) => g.line) == some e.line) else w
      w.on (fun c => c.gatherSet n (c.gather n ++ [put ⟨lk, [], []⟩]))
  w.flushWhere n (fun e => e.line == lk && e.bytes.length == 256)

/-- Banks of the line cache: 2 × LCB, LCB above 4 acting as 4 (R154). -/
def Ctl.lcBanks (c : Ctl) : Nat := 2 * min 4 (c.get F.cnpCfgLcb)

/-- Canopy physical space [bytes] (R154). -/
def Ctl.canopySpace (c : Ctl) : Nat := (64 - c.lcBanks) * 0x400000

/-- Installed DRAM [bytes] (Table 5.10: DENSITY). -/
def Ctl.dramSize (c : Ctl) : Nat := 0x100000000 * 2 ^ min 2 (c.get F.drcCfgDensity)

/-- A DRAM line touched through the line-cache tags (R157, R158): a hit moves to the front; a miss is filled, replacing
the least recently used line of its set of 16 and writing it back if dirty. -/
def Ctl.lcTouch (c : Ctl) (addr : Nat) (core dirty : Bool) : Ctl :=
  let ln := addr / 256
  if c.lcBanks = 0 then c
  else match c.cnp.lc.find? (fun l => l.addr == ln) with
  | some l =>
    let c := if core then c.bump F.cnpLcHitCount 1 else c
    { c with cnp := { c.cnp with lc := (c.cnp.lc.filter (fun l => l.addr != ln)) ++ [{ l with dirty := l.dirty || dirty }] } }
  | none =>
    let c := if core then c.bump F.cnpLcMissCount 1 else c
    let st := Config.lineCacheSet (c.lcBanks * 1024) ln
    let old := c.cnp.lc.filter (fun l => l.set == st)
    let c := if 16 ≤ old.length then
        match old.head? with
        | some v =>
          let c := if v.dirty then c.bump F.cnpLcWbCount 1 else c
          { c with cnp := { c.cnp with lc := c.cnp.lc.filter (fun l => l.addr != v.addr) } }
        | none => c
      else c
    { c with cnp := { c.cnp with lc := c.cnp.lc ++ [⟨ln, st, dirty⟩] } }

/-- The lines of n bytes from a DRAM address touched in address order. -/
def Ctl.lcSpan (c : Ctl) (addr n : Nat) (core dirty : Bool) : Ctl :=
  if n = 0 then c
  else forN ((addr + n - 1) / 256 - addr / 256 + 1) (fun i c => c.lcTouch (256 * (addr / 256 + i)) core dirty) c

/-- A DRAM access of a unit that is no tile core, n bytes from a key, passes the line-cache tags (R158). -/
def Ctl.lcUnit (c : Ctl) (key n : Nat) (dirty : Bool) : Ctl := if isDram key then c.lcSpan (key - dramKey 0) n false dirty else c

/-- The channel of a DRAM address: bits [11:8] (R160). -/
def dramChannel (addr : Nat) : Nat := addr / 256 % 16

end Sys2Proof.Machine
end

