-- ==== Sys2Proof/Machine/Operands.lean ====
section
/-! DEFINITION. Operand forms of the bundle's operations (Tables 4.4 … 4.6), the translation of logical addresses (Table
5.2, R147 … R153), loads and stores at a translated address, and every issue check of Table 4.8. -/

namespace Sys2Proof.Machine

/-! Operand forms. -/

/-- The register files of Table 4.2. -/
inductive RFile where
  | s | v | a | p
deriving DecidableEq, Repr

/-- Registers of a file. -/
def RFile.size : RFile → Nat
  | .s => 64
  | .v => 32
  | .a => 8
  | .p => 16

/-- Which fields of the slot an operation uses: the files D, A, B and C name, the largest row or selector C may hold,
whether IMM is used (Table 4.6). -/
structure OpForm where
  d : Option RFile
  a : Option RFile
  b : Option RFile
  c : Option RFile
  row : Option Nat
  imm : Bool
deriving DecidableEq, Repr

/-- The operand form of each operation (Table 4.6, R133). -/
def Op.form : Op → OpForm
  | .nop | .fence | .halt | .ret => ⟨none, none, none, none, none, false⟩
  | .ldS => ⟨some .s, some .s, none, none, none, true⟩
  | .stS => ⟨none, some .s, some .s, none, none, true⟩
  | .ldV | .ldVb => ⟨some .v, some .s, none, none, none, true⟩
  | .stV => ⟨none, some .s, some .v, none, none, true⟩
  | .ldVx => ⟨some .v, some .s, some .s, none, none, true⟩
  | .ldAr => ⟨some .a, some .s, none, none, some 15, true⟩
  | .stAr | .stAh | .stAcc => ⟨none, some .s, some .a, none, some 15, true⟩
  | .mma | .mmaz => ⟨some .a, some .v, some .v, none, some 7, false⟩
  | .azero => ⟨some .a, none, none, none, none, false⟩
  | .amov | .aadd => ⟨some .a, some .a, none, none, none, false⟩
  | .ard => ⟨some .v, some .a, none, none, some 7, false⟩
  | .awr => ⟨some .a, some .v, none, none, some 7, false⟩
  | .vadd | .vsub | .vmul | .vmax | .vmin => ⟨some .v, some .v, some .v, none, none, false⟩
  | .vfma => ⟨some .v, some .v, some .v, some .v, none, false⟩
  | .vmov => ⟨some .v, some .v, none, none, none, false⟩
  | .vbcst => ⟨some .v, some .s, none, none, none, false⟩
  | .vsel => ⟨some .v, some .v, some .v, some .p, none, false⟩
  | .vcmplt | .vcmpeq => ⟨some .p, some .v, some .v, none, none, false⟩
  | .vshift | .vcvti | .vcvtp => ⟨some .v, some .v, none, none, none, true⟩
  | .vsum => ⟨some .s, some .v, none, none, none, false⟩
  | .add | .sub | .mul | .and | .or | .xor | .shl | .shr | .sra | .min | .max => ⟨some .s, some .s, some .s, none, none, false⟩
  | .addi => ⟨some .s, some .s, none, none, none, true⟩
  | .li => ⟨some .s, none, none, none, none, true⟩
  | .cmplt | .cmpeq => ⟨some .p, some .s, some .s, none, none, false⟩
  | .pand | .por => ⟨some .p, some .p, some .p, none, none, false⟩
  | .pnot => ⟨some .p, some .p, none, none, none, false⟩
  | .ptail => ⟨some .p, some .s, none, none, none, false⟩
  | .rdsr => ⟨some .s, none, none, none, some 4, false⟩
  | .sendV => ⟨some .p, some .v, none, none, none, true⟩
  | .sendS => ⟨some .p, some .s, none, none, none, true⟩
  | .recvV => ⟨some .v, none, none, none, none, true⟩
  | .recvS => ⟨some .s, none, none, none, none, true⟩
  | .trecvV => ⟨some .v, none, none, some .p, none, true⟩
  | .br | .call | .hint | .swait | .ssig | .crget | .crput | .trap => ⟨none, none, none, none, none, true⟩
  | .jmp => ⟨none, some .s, none, none, none, false⟩
  | .stry => ⟨some .p, none, none, none, none, true⟩
  | .tagw => ⟨none, some .s, some .s, none, none, true⟩

/-- The slots that accept an operation (Table 4.4). -/
def Op.slots : Op → List Nat
  | .nop => [0, 1, 2, 3, 4, 5, 6, 7]
  | .ldS | .stS | .ldV | .stV | .ldVb | .ldVx | .ldAr | .stAr | .stAh | .stAcc => [0, 1]
  | .mma | .mmaz | .azero | .amov | .aadd | .ard | .awr => [2]
  | .vadd | .vsub | .vmul | .vfma | .vmax | .vmin | .vmov | .vbcst | .vsel | .vcmplt | .vcmpeq | .vshift | .vcvti | .vcvtp
  | .vsum => [3, 4]
  | .add | .sub | .mul | .and | .or | .xor | .shl | .shr | .sra | .min | .max | .addi | .li | .cmplt | .cmpeq | .pand | .por
  | .pnot | .ptail | .rdsr => [5]
  | .sendV | .sendS | .recvV | .recvS | .trecvV => [6]
  | .br | .jmp | .call | .ret | .hint | .swait | .ssig | .stry | .crget | .crput | .fence | .tagw | .halt | .trap => [7]

/-- Whether an operation applies its guard per lane (R130): vector operations and vector loads and stores; VSUM writes one
scalar and uses guard bit 0 (DESIGN CHOICE, log entry 22). -/
def Op.perLane : Op → Bool
  | .ldV | .stV | .ldVb | .ldVx | .vadd | .vsub | .vmul | .vfma | .vmax | .vmin | .vmov | .vbcst | .vsel | .vcmplt | .vcmpeq
  | .vshift | .vcvti | .vcvtp => true
  | _ => false

/-- Whether a slot acts at all: some lane, or guard bit 0 (R130). -/
def Ctl.active (c : Ctl) (q : Nat) (i : Issued) : Bool :=
  if i.op.perLane then c.guard q i.sl != 0 else c.guard0 q i.sl

/-- The registers a slot names as destinations; writes to s0 and p0 are exempt (R137). -/
def Issued.dests (i : Issued) : List (RFile × Nat) :=
  let d := match i.op.form.d with
    | some f => [(f, i.sl.d.val)]
    | none => []
  let c := if i.op = .trecvV then [(RFile.p, i.sl.c.val)] else []
  let l := if i.op = .call then [(RFile.s, 63)] else []
  (d ++ c ++ l).filter (fun x => !(x.2 == 0 && (x.1 == .s || x.1 == .p)))

/-! Effective addresses. -/

/-- ea = sA + IMM; ST.ACC has the 29-bit offset IMM[28:0], sign-extended (Table 4.6). -/
def Ctl.ea (c : Ctl) (q : Nat) (i : Issued) : Nat :=
  let off : Word := if i.op = .stAcc then (i.sl.imm.setWidth 29).signExtend 32 else i.sl.imm
  (c.sreg q i.sl.a.val + off).toNat

/-- How an access uses the place it names. -/
inductive Acc where
  | load | store | acc | tag
deriving DecidableEq, Repr

/-- A translated address: the key of its first byte, its level (Table 5.10: 0 operand buffer, 1 core memory, 2 Canopy),
whether it lies in DRAM, the handle and the offset in it, the physical core whose memory it is. -/
structure Tgt where
  key : Nat
  level : Nat
  dram : Bool
  handle : Option Nat
  off : Nat
  remote : Option Nat
deriving DecidableEq, Repr

/-- End of the code region of every core memory [bytes] (R148). -/
def Ctl.codeEnd (c : Ctl) : Nat := match c.img.cur with
  | some i => i.codeSz * 4096
  | none => 0

/-- End of the resident region, where the scratch region begins (R148). -/
def Ctl.scratchAt (c : Ctl) : Nat := match c.img.cur with
  | some i => (i.codeSz + i.resSz) * 4096
  | none => 0

/-- Translation through handle h (R153, R159), with the credit a guarded handle asks of a writer (R202). -/
def Ctl.viaHandle (c : Ctl) (k : Nat) (t : Task) (how : Acc) (h off n : Nat) : Option Tgt :=
  let dram := c.on (F.cnpHtW0Target h)
  let own := c.get (F.cnpHtW0Owner h)
  let write := how == .store || how == .acc
  if c.on (F.cnpHtW0Valid h) && decide (off + n ≤ c.hSize h) && own != 0 &&
      (own == t.owner || (own == 0xF0 && how == .load)) && (!write || c.on (F.cnpHtW0Wr h)) &&
      (!(write && t.spec) || c.on (F.cnpHtW0Spec h)) && !(how == .acc && dram) && !(dram && c.lcBanks == 0) &&
      (!write || c.mayWriteHandle h k) then
    some ⟨c.hKey h off, 2, dram, some h, off, none⟩
  else none

/-- Translation of an access of n bytes at ea by task t of logical core k on physical core q (Table 5.2); none faults with
ADDR (R147). -/
def Ctl.xlate (c : Ctl) (q k : Nat) (t : Task) (how : Acc) (ea n : Nat) : Option Tgt :=
  if ea < 0x8000 then
    if ea + n ≤ 0x8000 ∧ (how = .load ∨ how = .store) then some ⟨opbufKey q ea, 0, false, none, ea, none⟩ else none
  else if 0x100000 ≤ ea ∧ ea < 0x180000 then
    let off := ea - 0x100000
    if ea + n ≤ 0x180000 ∧ (how = .load ∨ (how = .store ∧ c.scratchAt ≤ off)) then
      some ⟨cmemKey q off, 1, false, none, off, none⟩
    else none
  else if 0x20000000 ≤ ea ∧ ea < 0x24000000 then
    let j := (ea - 0x20000000) / 0x80000
    let off := ea % 0x80000
    match c.physOf j with
    | none => none
    | some r =>
      let owner := match (c.core r).task with
        | some u => u.owner
        | none => (c.core r).prevOwner
      if how = .store ∧ off + n ≤ 0x80000 ∧ c.scratchAt ≤ off ∧ owner = t.owner ∧ c.mayWriteCore j k then
        some ⟨cmemKey r off, 1, false, none, off, some r⟩
      else none
  else if 0x40000000 ≤ ea ∧ ea < 0x80000000 then
    let x := ea - 0x40000000
    if t.tmode ∧ x + n ≤ t.bbBound * 256 then c.viaHandle k t how t.bbHandle (t.bbBase * 256 + x) n else none
  else if 0x80000000 ≤ ea then
    if t.tmode then none else c.viaHandle k t how (fieldGet (w32 ea) 23 8) (ea % 2 ^ 23) n
  else none

/-- The accesses of a load or store slot: address, bytes and kind; none where no lane is enabled (R130). -/
def Ctl.accesses (c : Ctl) (q : Nat) (i : Issued) : List (Nat × Nat × Acc) :=
  if !c.active q i then []
  else
    let ea := c.ea q i
    match i.op with
    | .ldS => [(ea, 4, .load)]
    | .stS => [(ea, 4, .store)]
    | .ldV => [(ea, 128, .load)]
    | .stV => [(ea, 128, .store)]
    | .ldVb => [(ea, 2, .load)]
    | .ldVx => ((List.range 64).filter (fun l => (c.guard q i.sl).getLsbD l)).map
        (fun l => ((ea + l * (c.sreg q i.sl.b.val).toNat) % 2 ^ 32, 2, .load))
    | .ldAr => [(ea, 128, .load)]
    | .stAr => [(ea, 128, .store)]
    | .stAh => [(ea, 64, .store)]
    | .stAcc => [(ea, if fieldGet i.sl.imm 29 3 = 3 then 64 else 128, .acc)]
    | .tagw => [(ea, 1, .tag)]
    | _ => []

/-- The alignment a load or store needs (R132, Table 4.6, Table 5.9); Table 4.6 gives ST.S none (log entry 23). -/
def Issued.align (i : Issued) (ea : Nat) : Nat :=
  match i.op with
  | .ldS => 4
  | .ldVb => 2
  | .ldV | .stV | .ldVx => if ea < 0x8000 then 2 else 128
  | .ldAr | .stAr => 128
  | .stAh => 64
  | .stAcc => if fieldGet i.sl.imm 29 3 = 3 then 64 else 128
  | _ => 1

/-- The output-ring slot a TAGW names, if its ea lies in one of an armed output context (R134). -/
def Ctl.tagSlot (c : Ctl) (q k : Nat) (t : Task) (i : Issued) : Option (Nat × Nat) :=
  match c.xlate q k t .tag (c.ea q i) 1 with
  | some x => match x.handle with
    | some h => match c.slotRef h x.off with
      | some (.out s j) => some (s, j)
      | _ => none
    | none => none
  | none => none

/-! Issue checks (R142). -/

/-- The value of a used field must name a register of its file. -/
def inFile (f : Option RFile) (x : Nat) : Bool := match f with
  | some f => decide (x < f.size)
  | none => true

/-- Cause 1: an OP value not listed, the operation outside its slot, a nonzero reserved or unused field (DEDUCED, log entry 24), an
undefined accumulate-on-write code. -/
def Issued.illegal (i : Issued) : Bool :=
  let f := i.op.form
  i.sl.badOp.isSome || !i.op.slots.contains i.sl.slot.val || i.sl.resv != 0 || (f.d.isNone && i.sl.d != 0) || (f.a.isNone && i.sl.a != 0) ||
    (f.b.isNone && i.sl.b != 0) || (f.c.isNone && f.row.isNone && i.sl.c != 0) || (!f.imm && i.sl.imm != 0) ||
    (i.op == .stAcc && decide (4 < fieldGet i.sl.imm 29 3))

/-- Cause 3: a register or row outside its file or tile. -/
def Issued.badReg (i : Issued) : Bool :=
  let f := i.op.form
  !(inFile f.d i.sl.d.val && inFile f.a i.sl.a.val && inFile f.b i.sl.b.val && inFile f.c i.sl.c.val) ||
    (match f.row with
    | some m => decide (m < i.sl.c.val)
    | none => false)

/-- The channel of a SEND or RECV, IMM[9:0]. -/
def Issued.chan (i : Issued) : Nat := i.sl.imm.toNat % 1024
/-- The semaphore or pool of a sync operation, IMM[7:0]. -/
def Issued.sem (i : Issued) : Nat := i.sl.imm.toNat % 256
/-- The count of a sync operation, IMM[23:8]. -/
def Issued.count (i : Issued) : Nat := fieldGet i.sl.imm 8 16

/-- Cause 6 (R190): the channel not valid, the core not its sender or receiver, the width, the speculation rule. -/
def Ctl.badRoute (c : Ctl) (k : Nat) (t : Task) (i : Issued) : Bool :=
  let ch := i.chan
  let ok (wide send : Bool) : Bool :=
    c.on (F.chnRouteValid ch) && c.on (F.chnRouteWidth ch) == wide && (!t.spec || c.on (F.chnRouteSpec ch)) &&
      (if send then c.get (F.chnRouteSrc ch) == k else (c.receivers ch).contains k)
  match i.op with
  | .sendV => !ok true true
  | .sendS => !ok false true
  | .recvV | .trecvV => !ok true false
  | .recvS => !ok false false
  | _ => false

/-- The ADDR faults that are not translations: a speculative task's semaphore or pool (R212), a TAGW outside an output ring
(R134). -/
def Ctl.badSync (c : Ctl) (q k : Nat) (t : Task) (i : Issued) : Bool :=
  match i.op with
  | .swait | .ssig | .stry => t.spec && !c.on (F.semCountSpec i.sem)
  | .crget | .crput => t.spec && !c.on (F.chnCpGuardSpec i.sem)
  | .tagw => (c.tagSlot q k t i).isNone
  | _ => false

/-- Cause 7 (R200): a CRPUT of more than the count it draws from. -/
def Ctl.badCredit (c : Ctl) (k : Nat) (i : Issued) : Bool :=
  i.op == .crput && decide ((if c.get (F.chnCpGuardConsumer i.sem) = k then c.get (F.chnCpLodgedLodged i.sem)
    else c.held i.sem k) < i.count)

/-- The first cause of Table 4.8 a slot fails, given the destinations of the slots before it; 0 for none. Of two slots that name
one destination the later fails (R137 names no slot: DESIGN CHOICE, log entry 151). -/
def Ctl.slotCause (c : Ctl) (q k : Nat) (t : Task) (before : List (RFile × Nat)) (i : Issued) : Nat :=
  if i.illegal then 1
  else if i.dests.any (fun d => before.contains d) then 2
  else if i.badReg then 3
  else if !c.active q i then 0
  else
    let acs := c.accesses q i
    if i.op != .tagw && (acs != [] && c.ea q i % i.align (c.ea q i) != 0 ||
        i.op == .ldVx && (c.sreg q i.sl.b.val).toNat % 2 == 1) then 4
    else if i.op != .tagw && acs.any (fun x => (c.xlate q k t x.2.2 x.1 x.2.1).isNone) || c.badSync q k t i then 5
    else if c.badRoute k t i then 6
    else if c.badCredit k i then 7
    else if i.op == .trap then 9
    else 0

/-- The first failing slot of a bundle in slot order, with its cause (R142); PC_RANGE is found with slot 0. -/
def Ctl.bundleCause (c : Ctl) (q k : Nat) (t : Task) (pc : Nat) (b : List Issued) : Option (Nat × Nat) :=
  if c.codeEnd ≤ 128 * pc then some (0, 8)
  else
    (b.foldl (fun (acc : Option (Nat × Nat) × List (RFile × Nat)) i =>
      match acc.1 with
      | some x => (some x, acc.2)
      | none => let r := c.slotCause q k t acc.2 i
        (if r = 0 then none else some (i.sl.slot.val, r), acc.2 ++ i.dests)) (none, [])).1

/-- Whether a bundle waits because one of its handles is BUSY (R167). -/
def Ctl.bundleBusy (c : Ctl) (q k : Nat) (t : Task) (b : List Issued) : Bool :=
  b.any (fun i => (c.accesses q i).any (fun x => match c.xlate q k t x.2.2 x.1 x.2.1 with
    | some y => match y.handle with
      | some h => c.on (F.cnpHtW0Busy h)
      | none => false
    | none => false))

/-! Loads and stores at a translated address. -/

/-- Whether a ring's slot at the address is not filled (R206). -/
def Ctl.unfilled (c : Ctl) (x : Tgt) : Option SlotRef :=
  match x.handle with
  | some h => match c.slotRef h x.off with
    | some r => if c.filled r then none else some r
    | none => none
  | none => none

/-- n bytes loaded by logical core k of stand nd: gather entries of the stand that the load touches are flushed first
(R170), an unfilled slot reads zeros and counts (R206), DRAM goes through the line cache (R158). -/
def W.load (w : W) (nd k : Nat) (x : Tgt) (n : Nat) : W × List Byte :=
  match w.ctl.unfilled x with
  | some r => (w.on (fun c => c.slotUnder r k), List.replicate n 0)
  | none =>
    let w := if x.level = 2 ∧ !x.dram then
        w.flushWhere nd (fun e => lineKey x.key ≤ e.line && e.line ≤ lineKey (x.key + n - 1)) else w
    let w := if x.dram then w.on (fun c => c.lcTouch (x.key - dramKey 0) true false) else w
    (w, w.mem.rdN x.key n)

/-- The ring slot that holds the byte at offset o of a translated address. -/
def Ctl.refAt (c : Ctl) (x : Tgt) (o : Nat) : Option SlotRef := x.handle.bind (fun h => c.slotRef h (x.off + o))

/-- Whether a task's own output line has already been drained, so that its stores into output rings are discarded (R208). -/
def Ctl.lateTask (c : Ctl) (t : Task) (s : Nat) : Bool := c.drained s 32 t.frame.toNat t.line

/-- Bytes at offsets from a translated address written where no ring slot discards them: Canopy through the gather buffer, DRAM
through the line cache, the rest directly. -/
def W.storeKept (w : W) (nd k : Nat) (x : Tgt) (bs : List (Nat × Byte)) : W :=
  if bs.isEmpty then w
  else if x.dram then
    bs.foldl (fun w b => w.act (.put (x.key + b.1) [b.2]))
      (w.on (fun c => c.lcSpan (x.key - dramKey 0) (bs.foldl (fun m b => max m b.1) 0 + 1) true true))
  else if x.level = 2 then
    let l0 := lineKey x.key
    let first := bs.filter (fun b => x.key + b.1 < l0 + 256)
    let rest := bs.filter (fun b => l0 + 256 ≤ x.key + b.1)
    let one (w : W) (lk : Nat) (l : List (Nat × Byte)) : W :=
      if l.isEmpty then w else w.gatherStore nd k lk (l.map (fun b => (x.key + b.1 - lk, b.2)))
    one (one w l0 first) (l0 + 256) rest
  else bs.foldl (fun w b => w.act (.put (x.key + b.1) [b.2])) w

/-- Bytes at offsets from a translated address stored by logical core k of stand nd: a drained line's store is discarded
(R208), the bytes in a filled slot are discarded and the slot counted (R206), Canopy goes through the gather buffer, DRAM through
the line cache, the rest directly. -/
def W.store (w : W) (nd k : Nat) (t : Task) (x : Tgt) (bs : List (Nat × Byte)) : W :=
  let late (r : SlotRef) : Bool := match r with
    | .out s _ => w.ctl.lateTask t s
    | _ => false
  let refs := (bs.filterMap (fun b => w.ctl.refAt x b.1)).eraseDups
  let kept := bs.filter (fun b => match w.ctl.refAt x b.1 with
    | some r => !late r && !w.ctl.filled r
    | none => true)
  let w := (refs.filter (fun r => !late r && w.ctl.filled r)).foldl (fun w r => w.on (fun c => c.slotOver r k)) w
  w.storeKept nd k x kept

end Sys2Proof.Machine
end

