-- ==== Sys2Proof/Machine/Tasks.lean ====
section
/-! DEFINITION. Tasks: descriptors (Table 6.1), start and end, core faults (R143), detections with rerun and second
detection (R175 … R181), stand failure (R122, R491). -/

namespace Sys2Proof.Machine

/-! Descriptors. -/

/-- Whether a 32-word descriptor has a nonzero reserved bit (R183, Table 6.1). -/
def descReserved (ws : List Word) : Bool :=
  let w (i : Nat) := nth 0 ws i
  fieldGet (w 0) 21 3 != 0 || fieldGet (w 3) 13 3 != 0 || fieldGet (w 3) 24 8 != 0 || fieldGet (w 4) 15 1 != 0 ||
    fieldGet (w 5) 25 7 != 0 || fieldGet (w 6) 25 7 != 0 || fieldGet (w 7) 25 7 != 0 ||
    (List.range 9).any (fun i => w (23 + i) != 0) || ws.length != 32

/-- The task a descriptor describes (Table 6.1). -/
def taskOf (ws : List Word) (template item phase : Nat) (recurrent : Bool) : Task :=
  let w (i : Nat) := nth 0 ws i
  { entry := fieldGet (w 0) 0 12, core := fieldGet (w 0) 12 7, tmode := (w 0).getLsbD 19, spec := (w 0).getLsbD 20
    owner := fieldGet (w 0) 24 8, task := w 1, frame := w 2, line := fieldGet (w 3) 0 13, bbHandle := fieldGet (w 3) 16 8
    bbBase := fieldGet (w 4) 0 15, bbBound := fieldGet (w 4) 16 16, startSem := fieldGet (w 5) 0 8
    startN := fieldGet (w 5) 8 16, startEn := (w 5).getLsbD 24
    done := [6, 7].map (fun j => (fieldGet (w j) 0 8, fieldGet (w j) 8 16, (w j).getLsbD 24))
    args := (List.range 15).map (fun i => w (8 + i)), template := template, phase := phase, item := item
    inCommit := false, recurrent := recurrent }

/-- Whether a task belongs to a host job (Table 5.5). -/
def Task.isJob (t : Task) : Bool := decide (0x40 ≤ t.owner ∧ t.owner < 0x80)

/-- The stream context of a task with a stream owner. -/
def Task.ctx (t : Task) : Nat := t.owner - 1

/-- The line, or host job item, whose one rerun a task shares (R178). -/
def Task.lineKey (t : Task) : Nat × Nat × Nat :=
  if t.isJob then (t.owner, t.item, 0) else (t.ctx, t.frame.toNat, t.line)

/-- Host job j. -/
def Ctl.job (c : Ctl) (j : Nat) : Option Job := mget none c.host.jobs j
/-- Host job j set. -/
def Ctl.jobSet (c : Ctl) (j : Nat) (v : Option Job) : Ctl := { c with host := { c.host with jobs := mset none c.host.jobs j v } }

/-- How an item of a host job came to its end. -/
inductive ItemEnd where
  | completed | fault | exhausted
deriving DecidableEq, Repr

/-- An item of a host job completed or ended (R121, R179, R233). -/
def Ctl.itemEnd (c : Ctl) (t : Task) (e : ItemEnd) : Ctl :=
  if !t.isJob then c
  else match c.job (t.owner - 0x40) with
  | none => c
  | some j => c.jobSet (t.owner - 0x40) (some (match e with
    | .completed => { j with doneItems := j.doneItems + 1 }
    | .fault => { j with ended := j.ended + 1, failed := true }
    | .exhausted => { j with ended := j.ended + 1, exhausted := true }))

/-! Ends of a task. -/

/-- The task leaves physical core q: no bundle, the owner remembered for the next start (R162); with the line's rerun no rerun of
it is in progress any more (Table 1.4). -/
def Ctl.leaveCore (c : Ctl) (q : Nat) (stopped : Bool) : Ctl :=
  match (c.core q).task with
  | none => c
  | some t =>
    let c := if t.rerun then { c with fab := { c.fab with rerunBusy := c.fab.rerunBusy.filter (fun x => x != t.lineKey) } } else c
    c.coreSet q { CoreSt.idle with prevOwner := t.owner, stopped := stopped }

/-- The completion signals of a descriptor, word 6 then word 7 (R185). -/
def Ctl.doneSignals (c : Ctl) (t : Task) (k : Nat) : Ctl :=
  t.done.foldl (fun c d => if d.2.2 then c.signal d.1 d.2.1 k else c) c

/-- HALT: after its FENCE the task signals, completion is reported, and the core is free (R185). -/
def Ctl.taskDone (c : Ctl) (q k : Nat) (t : Task) : Ctl :=
  (((c.doneSignals t k).itemEnd t .completed)).leaveCore q false

/-- Words 2 … 5 of a core-fault record (Table 16.4). -/
def faultWords (pc cause slot k : Nat) (task frame : Word) (line : Nat) (desc : Bool) (code : Nat) : List Word :=
  [w32 (pc + 4096 * cause + 65536 * slot + 2 ^ 20 * k), task, frame, w32 (line + 8192 * bit desc + 65536 * code)]

/-- A core fault (R143): STD_n_Cc_FAULT and STD_n_FAULT, the task ended without signals and its stand's gather entries
flushed (R170), the record posted (R489). -/
def W.coreFault (w : W) (q k : Nat) (t : Task) (slot cause code : Nat) : W :=
  let n := q / 8
  let pc := w.ctl.get (F.stdCorePcPc n (q % 8))
  let w := w.on (fun c => c.wr (R.stdCoreFault n (q % 8)) (w32 (pc + 4096 * cause + 65536 * slot)))
  let w := w.on (fun c => c.put (F.stdFaultCore n) (setBit (c.get (F.stdFaultCore n)) (q % 8)))
  let w := w.flushWhere n (fun _ => true)
  w.on (fun c => ((c.itemEnd t .fault).leaveCore q true).postNormal
    (statusRec 4 (0x0100 + n) stOk (faultWords pc cause slot k t.task t.frame t.line false code)))

/-! Stand failure. -/

/-! Answers of Warden commands (10_warden_commands.md). -/

/-- The command mailbox m has had taken, if any. -/
def Ctl.taken (c : Ctl) (m : Nat) : Option Taken := mget none c.host.taken m

/-- The answer of a taken command decided: status, detail, epoch of its object, results; COMMAND_COMPLETE publishes it. -/
def Ctl.answer (c : Ctl) (m st detail epoch : Nat) (res : List Word) : Ctl :=
  match c.taken m with
  | none => c
  | some t => { c with host := { c.host with taken := mset none c.host.taken m (some { t with answer := some (st, detail, epoch, res) }) } }

/-- A BIST_RUN ends with an answer to its mailbox. -/
def Ctl.bistEnd (c : Ctl) (st detail : Nat) (res : List Word) : Ctl :=
  match c.pwr.bist with
  | none => c
  | some (_, target, m) =>
    let c := { c with pwr := { c.pwr with bist := none, bistOn := none } }
    match m with
    | some m => c.answer m st detail (c.epochOf target) res
    | none => c

/-- A BIST_RUN whose target is stand n, which has failed otherwise, can run no more: a target that reads FAILED (R496). -/
def Ctl.bistGone (c : Ctl) (n : Nat) : Ctl :=
  match c.pwr.bist with
  | some (_, target, _) => if target = 0x0100 + n then c.bistEnd stBadArg 3 [] else c
  | none => c

/-! Rotation's view of a failure. -/

/-- The stand in SERVICE that leaves next: one whose HOLD_OFF waits (R425), else the one that has served longest, of equals the
lowest (R427). -/
def Ctl.nextLeaving (c : Ctl) : Option Nat :=
  let serving := (List.range 17).filter (fun n => c.get (F.stdStateState n) == 3)
  match serving.find? (fun n => c.pwr.holdPend.contains n) with
  | some n => some n
  | none => serving.foldl (fun b n => match b with
    | none => some n
    | some m => if mget 0 c.pwr.serveSince n < mget 0 c.pwr.serveSince m then some n else some m) none

/-- Output frames, or ticks while no output is enabled, from one rotation to the next due one (R426, R432). -/
def Ctl.rotInterval (c : Ctl) : Nat := if c.anyOut then c.get F.phcRotCfgInterval else 3000

/-- PHC_ROT_STATUS brought up to date. -/
def Ctl.rotRegs (c : Ctl) : Ctl :=
  let spare := ((List.range 17).find? (fun n => c.get (F.stdStateState n) == 1)).getD 31
  ((c.put F.phcRotStatusSpare spare).put F.phcRotStatusNext (c.nextLeaving.getD 0)).put F.phcRotStatusRemain
    (c.rotInterval - c.pwr.rotCount)

/-- A failure of stand n between the naming and the commit: with it the leaving or entering stand, or before B any stand in
SERVICE; the rotation is abandoned, which counts as a skip, and the other stand goes back (R427; after B DEDUCED, log entry 45). -/
def Ctl.rotFail (c : Ctl) (n st : Nat) : Ctl :=
  match c.pwr.rotPair with
  | none => c
  | some (l, e) =>
    if n ≠ l ∧ n ≠ e ∧ (c.pwr.leavingNow ∨ st ≠ 3) then c
    else
      let c := if n ≠ e ∧ c.get (F.stdStateState e) = 2 then c.setStand e 1 0 else c
      let c := if n = e ∧ c.get (F.stdStateState l) = 4 then c.setStand l 3 (c.get (F.stdStateLogical l)) else c
      { c with pwr := { c.pwr with rotPair := none, leavingNow := false, copyDone := false, quietDone := false } }

/-- Stand n enters FAILED (R122, R491): its tasks, running and queued, are abandoned, what its gather buffer holds is blocked, and it
leaves rotation, remapping, tests and holds; the failure record and, for causes 1 and 2, the stand record. -/
def Ctl.failStand (c : Ctl) (n cause detail : Nat) : Ctl :=
  let st := c.get (F.stdStateState n)
  let served := if st = 3 ∨ st = 4 then c.get (F.stdStateLogical n) else 0xF
  let frame := c.frameNow
  let c := forN 8 (fun i c => c.leaveCore (8 * n + i) false) c
  let c := { c with fab := { c.fab with queues := mdrop (fun k => k / 8 == served) c.fab.queues } }
  let c := (c.gatherSet n []).setStand n 5 0
  let c := c.wr (R.dbgStdFail n) (w32 (cause + 256 * (frame.toNat % 2 ^ 24)))
  let c := c.rotFail n st
  let c := c.bistGone n
  let p := c.pwr
  let c := { c with pwr := { p with routine := mset 0 p.routine n 0, routineOk := mset false p.routineOk n false,
                                    remaps := p.remaps.filter (fun r => r.2.1 != n), holdPend := p.holdPend.filter (· != n),
                                    relPend := p.relPend.filter (· != n), bistOn := if p.bistOn = some n then none else p.bistOn } }
  let c := c.rotRegs
  if cause ≤ 2 then
    c.postNormal (statusRec 9 (0x0100 + n) stOk [w32 (cause + 256 * served), frame, w32 detail, 0])
  else c

/-- The instant of a memory detection in output frames, or in 64ths of 0.5 s while no output is enabled (Table 16.5). -/
def Ctl.detInstant (c : Ctl) : Nat := if c.anyOut then c.frameNow.toNat else c.now / 7812500

/-- The detections of stand n within the last 64 frames, this one with them (R491). -/
def Ctl.memDets (c : Ctl) (n : Nat) : List Nat :=
  ((mget [] c.fab.memDet n).filter (fun d => c.detInstant < d + 64)) ++ [c.detInstant]

/-! Start. -/

/-- A task set running on physical core q (R126): registers zero but for the arguments, PC at the entry. -/
def Ctl.runTask (c : Ctl) (q : Nat) (t : Task) : Ctl :=
  let c := c.clearRegs q
  let c := (List.range 15).foldl (fun c i => c.sregSet q (i + 1) (nth 0 t.args i)) c
  let c := c.put (F.stdCorePcPc (q / 8) (q % 8)) t.entry
  c.coreSet q { CoreSt.idle with task := some { t with inCommit := false }, prevOwner := t.owner }

/-- Whether the head descriptor of logical core k is ready (R184). -/
def Ctl.headReady (c : Ctl) (k : Nat) (t : Task) : Bool :=
  !t.startEn || (decide (t.startN ≤ c.get (F.semCountCount t.startSem)) && c.semTurn k t.startSem)

/-- Whether stand n starts tasks it holds: it is powered, nothing is shed (R413) and no trip is latched (R421). -/
def Ctl.mayRun (c : Ctl) (n : Nat) : Bool :=
  mget 0 c.pwr.standOff n == 0 && !c.on F.phcCurStatusShed && !c.on F.phcThermStatusTrip

/-! Power of a stand (R424). -/

/-- Stand n powered off: 1 with retention, 2 without; 3 and 4 are the same powering up. -/
def Ctl.standPowerOff (c : Ctl) (n : Nat) (retain : Bool) : Ctl :=
  let now := mget 0 c.pwr.standOff n
  { c with pwr := { c.pwr with standOff := mset 0 c.pwr.standOff n (if retain && now != 2 && now != 4 then 1 else 2) } }

/-- Under a shed, each stand in service that holds no running task flushes its gather buffer and is powered off with
retention (R413). -/
def W.shedQuiet (w : W) : W :=
  if !w.ctl.on F.phcCurStatusShed then w
  else (List.range 17).foldl (fun w n =>
    let st := w.ctl.get (F.stdStateState n)
    if (st = 3 ∨ st = 4) ∧ mget 0 w.ctl.pwr.standOff n = 0 ∧ (List.range 8).all (fun i => (w.ctl.core (8 * n + i)).task == none) then
      (w.flushWhere n (fun _ => true)).on (fun c => c.standPowerOff n true)
    else w) w

/-- The dispatcher of logical core k takes a ready head while its core is idle (R184); a core whose previous task had
another owner has its operand buffer and scratch region marked (R162). -/
def W.taskStart (w : W) (k : Nat) : W :=
  match w.ctl.physOf k, mget [] w.ctl.fab.queues k with
  | some q, t :: rest =>
    let cs := w.ctl.core q
    if cs.task = none ∧ w.ctl.mayRun (q / 8) ∧ w.ctl.headReady k t then
      let w := w.on (fun c => { c with fab := { c.fab with queues := mset [] c.fab.queues k rest } })
      let w := if t.startEn then w.on (fun c => c.semTake t.startSem t.startN k) else w
      let w := if cs.prevOwner = t.owner then w
        else (w.act (.mark (opbufKey q 0) Config.opbufBytes)).act
          (.mark (cmemKey q w.ctl.scratchAt) (Config.coreMemBytes - w.ctl.scratchAt))
      let w := if t.isJob then w.on (fun c => match c.job (t.owner - 0x40) with
          | some j => c.jobSet (t.owner - 0x40) (some { j with started := j.started + 1 })
          | none => c) else w
      w.on (fun c => c.runTask q t)
    else w
  | _, _ => w

/-! Detections. -/

/-- Whether a detected word lies in a range of R180: code, resident, or a handle of owner 0xF0. -/
def Ctl.residentAt (c : Ctl) (x : Tgt) : Bool :=
  (x.level == 1 && decide (x.off < c.scratchAt)) || (match x.handle with
    | some h => c.get (F.cnpHtW0Owner h) == 0xF0
    | none => false)

/-- The recurrent ranges of the image that hold an offset of a handle (Table 7.2, R181). -/
def Ctl.recurAt (c : Ctl) (x : Tgt) : List HRange :=
  match c.img.cur, x.handle with
  | some im, some h => (im.models.flatMap (·.recur)).filter
      (fun r => r.handle == h && decide (r.off ≤ x.off ∧ x.off < r.off + r.len))
  | _, _ => []

/-- CNP_DET_ADDR of a detected word (Table 5.10): in Canopy its physical address, below it the offset in the core's
memory. -/
def Ctl.detAddr (c : Ctl) (x : Tgt) : Word :=
  let a := if x.dram then (x.key - dramKey 0) % 2 ^ 28 else if x.level = 2 then x.key - canopyKey 0 else x.off
  w32 (a / 32 * 32 + x.level * 2 ^ 28 + bit (c.residentAt x) * 2 ^ 31)

/-- The lines a task feeds by the dependency table (R179): by the entry of the schedule in force for a context that feeds the task's
output, else by any entry of its template, its own where the table has no entry for its template (DESIGN CHOICE, log entry 152). -/
def Ctl.depLines (c : Ctl) (t : Task) : List Nat :=
  let ruled (d : DepRec) : Bool := (List.range 24).any (fun i =>
    (i == t.ctx || c.get (F.stcCtrlLink i) == t.ctx) && c.armedAs i 0 && c.get (F.stcSchedActModel i) == d.slot &&
      nth 0 [720, 1080, 1440, 2160, 4320] (c.get (F.stcSchedActBucket i)) == d.bucket)
  match c.img.cur with
  | some im =>
    let l := im.deps.filter (fun d => d.template == t.template)
    match (l.find? ruled).or l.head? with
    | some d => d.lines.map (· + t.line)
    | none => [t.line]
  | none => [t.line]

/-- The tags of the lines a second detection spoils: VALID, BAD and RERUN 1 with FRAME, LINE and STAND (R179); a line
already drained keeps its tag (R32). -/
def Ctl.badTags (c : Ctl) (t : Task) (n : Nat) : Ctl :=
  if t.owner = 0 ∨ 24 < t.owner then c
  else (c.depLines t).foldl (fun c m =>
    if c.drained t.ctx 32 t.frame.toNat m then c
    else c.tagSet t.ctx (c.slotOfLine t.ctx m) (w32 (7 * 2 ^ 29 + n * 2 ^ 24 + t.frame.toNat % 256 * 2 ^ 13 + m))) c

/-- A detection stops logical core k at its bundle (R175): the count, CNP_DET_ADDR and CNP_DET_SRC, then the fourth of a
stand fails it (R491), the first of a line or item reruns the task (R178), any other is a second detection (R179). -/
def W.detect (w : W) (q k : Nat) (t : Task) (x : Tgt) (poison : Bool) : W :=
  let n := q / 8
  let a := w.ctl.detAddr x
  let src := w32 (k + 256 * (x.handle.getD 0))
  let w := w.on (fun c => c.bump (if x.level = 2 then F.cnpDetCountCanopy else if x.level = 1 then F.cnpDetCountCoremem
    else F.cnpDetCountOpbuf) 1)
  let w := w.on (fun c => (c.wr R.cnpDetAddr a).wr R.cnpDetSrc src)
  let ev (c : Ctl) (st : Nat) : Ctl := Ctl.eventN 4 c evDetErr (0x0100 + n) a src st
  let w := w.on (fun c => if c.residentAt x then
      c.repairLater x.level x.key a k else c)
  let dets := w.ctl.memDets n
  let w := if x.level < 2 then w.on (fun c => { c with fab := { c.fab with memDet := mset [] c.fab.memDet n dets } }) else w
  if x.level < 2 ∧ 4 ≤ dets.length then w.on (fun c => (ev c stOk).failStand n 2 dets.length)
  else if !poison ∧ !t.inCommit ∧ !w.ctl.fab.reruns.contains t.lineKey then
    w.on (fun c =>
      let c := (ev c stOk).bump F.dbgRerunStarted 1
      let c := { c with fab := { c.fab with reruns := t.lineKey :: c.fab.reruns, rerunBusy := t.lineKey :: c.fab.rerunBusy } }
      c.runTask q { t with rerun := true })
  else
    let w := w.on (fun c => (ev c stRerunExhausted).bump F.dbgRerunExhausted 1)
    let w := w.flushWhere n (fun _ => true)
    w.on (fun c =>
      let c := { c with fab := { c.fab with recurClear := c.fab.recurClear ++ c.recurAt x } }
      ((((c.doneSignals t k).badTags t n)).itemEnd t .exhausted).leaveCore q false)

end Sys2Proof.Machine
end

