-- ==== Sys2Proof/Machine/Sched.lean ====
section
/-! DEFINITION. Schedules (07_schedules_and_tiling.md): the choice of R223, tiles (R228, R229), shape words (R231), the stream
start's clearing (R91, R199, R205), and the placing of descriptors in dispatch queues (R183, R231, R233). -/

namespace Sys2Proof.Machine

/-- The output context that input context i feeds (R86). -/
def Ctl.outOf (c : Ctl) (i : Nat) : Option Nat :=
  let l := c.get (F.stcCtrlLink i)
  if l < 24 && c.get (F.stcCtrlDir l) == 1 then some l else none

/-- The video input context that output context s draws on. -/
def Ctl.inOf (c : Ctl) (s : Nat) : Option Nat :=
  let l := c.get (F.stcCtrlLink s)
  if l < 24 && c.get (F.stcCtrlDir l) == 0 && c.get (F.stcCtrlSrc l) != 3 then some l else none

/-- Steps of one output line at the schedule corner (R222); FRATE is in mHz. -/
def Ctl.bline (c : Ctl) (o : Nat) : Nat := 620000000000 / max 1 (c.lineRate o)

/-- Input lines of the buckets 0 … 4 (R221). -/
def bucketLines : List Nat := [720, 1080, 1440, 2160, 4320]

/-- Tiles of a variant for an output width (R228). -/
def tvTiles (v : TileVariant) (hact : Nat) : Nat := (hact + v.tileW - 1) / max 1 v.tileW

/-- The variant of a schedule for an output width: the first in image order that qualifies (R228). -/
def schedVariant (sc : Schedule) (hact : Nat) : Option TileVariant :=
  sc.variants.find? (fun v => decide (0 < v.tileW ∧ v.hmin ≤ hact ∧ hact ≤ v.hmax ∧ tvTiles v hact ≤ v.tmax))

/-- The width that the tiles of input context i cover: its output's HACT, its own where it feeds none (log entry 30). -/
def Ctl.tileHact (c : Ctl) (i : Nat) : Nat :=
  match c.outOf i with
  | some o => c.get (F.stcGeomHact o)
  | none => c.get (F.stcGeomHact i)

/-- Whether a schedule fits a line rate and width (R222, R228). -/
def fitsMode (sc : Schedule) (bline hact : Nat) : Bool :=
  (schedVariant sc hact).isSome && sc.steps.all (fun r => decide (r.budget ≤ bline)) && decide (sc.crit ≤ 7 * bline)

/-- Whether a schedule fits the stream of input context i (R221, R222): for one that feeds no output R221 alone. -/
def Ctl.schedFits (c : Ctl) (i : Nat) (sc : Schedule) : Bool :=
  decide (c.get (F.stcGeomVact i) ≤ sc.bucket) &&
  match c.outOf i with
  | some o => fitsMode sc (c.bline o) (c.get (F.stcGeomHact o))
  | none => true

/-- The model slot of the image in force. -/
def Ctl.modelRec (c : Ctl) (slot : Nat) : Option ModelRec := match c.img.cur with
  | some im => im.models.find? (fun m => m.slot == slot)
  | none => none

/-- The schedule of a model slot for a bucket index. -/
def Ctl.schedule (c : Ctl) (slot b : Nat) : Option Schedule :=
  match c.modelRec slot with
  | some m => m.scheds.find? (fun sc => sc.bucket == nth 0 bucketLines b && decide (b < 5))
  | none => none

/-- The bucket R223 chooses for a model and a BUCKET field: the smallest that fits for 5 … 7, else that one if it fits. -/
def Ctl.chooseBucket (c : Ctl) (i slot bucket : Nat) : Option Nat :=
  let ok (b : Nat) : Bool := match c.schedule slot b with
    | some sc => c.schedFits i sc
    | none => false
  if 5 ≤ bucket then (List.range 5).find? ok else if ok bucket then some bucket else none

/-- The look-ahead R42 allows stream i: its model's in force, 3 where none is (R44). Before the first stream start ACT_MODEL holds its
reset value 0, and slot 0 counts as the model in force (DESIGN CHOICE, log entry 148). -/
def Ctl.lookAhead (c : Ctl) (i : Nat) : Nat :=
  if c.get (F.stcSchedActModel i) = 0xFF then 3 else match c.modelRec (c.get (F.stcSchedActModel i)) with
  | some m => m.look
  | none => 3

/-- A stream-status record: STC_i_SCHED (Table 9.6, SUBKIND 2). -/
def Ctl.streamStatus (c : Ctl) (i st : Nat) : Ctl := c.postReport i (statusRec 2 (0x0200 + i) st [c.rd (R.stcSched i)])

/-- A model and bucket chosen for input context i, shown in ACT_MODEL and ACT_BUCKET (R223), and with them the tiles, kept until the
next choice (R228, R230). -/
def Ctl.schedTake (c : Ctl) (i slot b : Nat) : Ctl :=
  let h := c.tileHact i
  let c := (c.put (F.stcSchedActModel i) slot).put (F.stcSchedActBucket i) b
  c.vcSet i { c.vc i with variant := (c.schedule slot b).bind (fun sc => schedVariant sc h), hactSel := h }

/-- Firmware's choice at a stream start (R223, R224). -/
def Ctl.chooseAtStart (c : Ctl) (i : Nat) : Ctl :=
  match c.chooseBucket i (c.get (F.stcSchedModel i)) (c.get (F.stcSchedBucket i)) with
  | some b => c.schedTake i (c.get (F.stcSchedModel i)) b
  | none =>
    let c := c.put (F.stcSchedActModel i) 0xFF
    let c := match c.outOf i with
      | some o => c.put (F.rasPolicyForceLintel o) 1
      | none => c
    c.streamStatus i stBadArg

/-- The acts that mark a range of a handle for Clearing (R162). -/
def Ctl.markRange (c : Ctl) (r : HRange) : MAct := .mark (c.hKey r.handle r.off) r.len

/-- The recurrent ranges of a model slot marked for Clearing (Table 5.8); a lost memory detection's ranges wait no longer. -/
def W.clearRecur (w : W) (slot : Nat) : W :=
  match w.ctl.modelRec slot with
  | some m => (m.recur.foldl (fun w r => w.act (w.ctl.markRange r)) w).clrCount
  | none => w

/-- The recurrent state of the stream of input context i marked for Clearing as at a stream start (Table 5.8). -/
def W.clearStream (w : W) (i : Nat) : W := w.clearRecur (w.ctl.get (F.stcSchedActModel i))

/-- Firmware's choice at a written MODEL or BUCKET (R223, R225); a change of the model in force clears the recurrent state of
the new one (R226), at which SYNC may set (R386). -/
def W.chooseAtChange (w : W) (i : Nat) : W :=
  match w.ctl.chooseBucket i (w.ctl.get (F.stcSchedModel i)) (w.ctl.get (F.stcSchedBucket i)) with
  | some b =>
    let same := w.ctl.get (F.stcSchedActModel i) == w.ctl.get (F.stcSchedModel i)
    let w := w.on (fun c => c.schedTake i (c.get (F.stcSchedModel i)) b)
    if same then w
    else (w.clearStream i).on (fun c => match c.outOf i with
      | some o => c.vcSet o { c.vc o with syncPend := true }
      | none => c)
  | none => w.on (fun c => c.streamStatus i stBadArg)

/-- Every semaphore of the image at its INIT value (R199). -/
def Ctl.semInitAll (c : Ctl) : Ctl := match c.img.cur with
  | some im => im.sems.foldl (fun c r => c.semInit r.sem) c
  | none => c

/-- Every slot ring empty (R205). -/
def Ctl.ringsEmpty (c : Ctl) : Ctl :=
  (List.range 128).foldl (fun c r => ((c.put (F.chnSrStateHead r) 0).put (F.chnSrStateTail r) 0).put (F.chnSrStateFill r) 0) c

/-- The line ring of input context i empty. -/
def Ctl.lineRingEmpty (c : Ctl) (i : Nat) : Ctl := c.vcSet i { c.vc i with ringHead := 0, ringTail := 0, ringFill := 0 }

/-- The VALID bits of the output ring of context s cleared. -/
def Ctl.outRingEmpty (c : Ctl) (s : Nat) : Ctl :=
  (List.range 32).foldl (fun c i => c.tagSet s i (c.tag s i &&& 0x7FFFFFFF)) c

/-- A stream start (R91): recurrent state to Clearing, semaphores at INIT (R199), slot and line rings empty (R205), and
firmware's choice (R223, R224). -/
def W.streamStart (w : W) (i : Nat) : W :=
  let w := w.on (fun c => (((c.chooseAtStart i).semInitAll).ringsEmpty).lineRingEmpty i)
  let w := w.on (fun c => match c.outOf i with
    | some o => c.outRingEmpty o
    | none => c)
  let w := w.on (fun c => c.vcSet i { c.vc i with started := true, startPend := false, fresh := true })
  w.clearStream i

/-! Placing tasks. -/

/-- A descriptor at the tail of the dispatch queue of logical core k. -/
def Ctl.enqueue (c : Ctl) (k : Nat) (t : Task) : Ctl :=
  { c with fab := { c.fab with queues := mset [] c.fab.queues k (mget [] c.fab.queues k ++ [t]) } }

/-- Raw descriptor words for logical core k: a nonzero reserved bit is refused and posted as a core fault with cause
ILLEGAL_OP (R183, R489). -/
def Ctl.enqueueRaw (c : Ctl) (k : Nat) (ws : List Word) : Ctl :=
  let t := taskOf ws 65536 0 0 false
  if descReserved ws then
    c.postNormal (statusRec 4 (0x0100 + (c.standOf (k / 8)).getD 31) stOk
      (faultWords t.entry 1 0 k t.task t.frame t.line true 0))
  else c.enqueue k t

/-- The logical core of split j of tile t of record r under a variant (Table 7.5, R229). -/
def tvCore (v : TileVariant) (r t j : Nat) : Nat :=
  if j = 0 then (nth 0 v.cores r + t / 8) * 8 + t % 8
  else (nth 0 v.splits r + (j - 1) * (if v.tmax ≤ 8 then 1 else 2) + t / 8) * 8 + t % 8

/-- The shape words of Table 7.6, for the width that the tiles were chosen for. -/
def Ctl.shapeWords (c : Ctl) (i o : Nat) (v : TileVariant) (t : Nat) : List Word :=
  let h := (c.vc i).hactSel
  let n := tvTiles v h
  let w := if t + 1 = n then h - t * v.tileW else v.tileW
  [w32 (t + 65536 * n), w32 (w + 65536 * (t * v.tileW)),
   w32 (c.get (F.stcGeomHact i) + 65536 * c.get (F.stcGeomVact i)),
   w32 (c.get (F.stcGeomHact o) + 65536 * c.get (F.stcGeomVact o))]

/-- The descriptor of a line step: the template with CORE, OWNER, FRAME, LINE and the shape words (R231). -/
def lineWords (tmpl : List Word) (core owner : Nat) (frame : Word) (m : Nat) (shape : List Word) : List Word :=
  let w0 := fieldPut (fieldPut (nth 0 tmpl 0) 12 7 core) 24 8 owner
  w0 :: nth 0 tmpl 1 :: frame :: fieldPut (nth 0 tmpl 3) 0 13 m :: (List.range 4).map (fun i => nth 0 tmpl (4 + i)) ++
    shape ++ (List.range 20).map (fun i => nth 0 tmpl (12 + i))

/-- Whether line steps of the stream of input context i are placed: its stream has started, a schedule is in force, nothing
is shed (R413), and no BLACK or LINTEL policy is in force (R112). -/
def Ctl.stepsOn (c : Ctl) (i : Nat) : Bool :=
  let v := c.vc i
  v.started && c.get (F.stcSchedActModel i) != 0xFF && !c.on F.phcCurStatusShed && !c.on F.phcThermStatusTrip &&
    (v.lossMode != 2 || (v.back && v.fresh) || c.get (F.stcCtrlLossPol i) == 2)

/-- Whether firmware places tasks for logical core k: its logical stand is mapped and its stand in SERVICE (R123, R429). -/
def Ctl.placeable (c : Ctl) (k : Nat) : Bool := match c.standOf (k / 8) with
  | some n => c.get (F.stdStateState n) == 3
  | none => false

/-- A line step of the stream of input context i, for record r, tile t, split j of line m of output o, by the tiles chosen with its
schedule (R229 … R231). -/
def Ctl.enqueueLine (c : Ctl) (i o r t j m : Nat) : Ctl :=
  let ok := c.armedAs i 0 && (c.outOf i == some o || ((c.outOf i).isNone && o == i)) && c.stepsOn i
  match c.schedule (c.get (F.stcSchedActModel i)) (c.get (F.stcSchedActBucket i)) with
  | none => c
  | some sc => match (c.vc i).variant, sc.steps[r]?, c.img.cur with
    | some v, some st, some im =>
      let k := tvCore v r t j
      if ok ∧ t < tvTiles v (c.vc i).hactSel ∧ j < st.split ∧ c.placeable k then
        let frame := if c.outOf i = some o then (c.vc o).frame else w32 (c.vc i).inFrame
        let ph := match (c.vc i).pair with
          | some p => p.2.2
          | none => 0
        let ws := lineWords (nth [] im.templates st.template) k (1 + o) frame m (c.shapeWords i o v t)
        c.enqueue k (taskOf ws st.template 0 ph st.recurrent)
      else c
    | _, _, _ => c

/-- The next item of host job j enters its core's queue (R232, R233). -/
def Ctl.enqueueItem (c : Ctl) (j : Nat) : Ctl :=
  match c.job j with
  | some jb => match jb.items with
    | t :: rest => if c.placeable t.core then (c.jobSet j (some { jb with items := rest })).enqueue t.core t else c
    | [] => c
  | none => c

/-- A task placed from what firmware places it from. -/
def Ctl.place (c : Ctl) (src : TaskSrc) : Ctl :=
  match src with
  | .raw k ws => if c.placeable k.val then c.enqueueRaw k.val ws else c
  | .line i o r t j m => c.enqueueLine i.val o.val r t j m
  | .item j => c.enqueueItem j.val

end Sys2Proof.Machine
end

