-- ==== Sys2Proof/Machine/Codec.lean ====
section
/-! DEFINITION. The HC8 link code (08_formats_and_link_codec.md R248 … R265): scales, element codes, records, the transmit
and receive sides of a link channel, histograms. -/

namespace Sys2Proof.Machine

/-! Exact comparisons of m × 2^e. -/

/-- A number times 2^(e − e0), for e0 ≤ e. -/
def scaleTo (m : Nat) (e e0 : Int) : Nat := m * 2 ^ (e - e0).toNat

/-- a × 2^ea ≤ b × 2^eb. -/
def leScaled (a : Nat) (ea : Int) (b : Nat) (eb : Int) : Bool :=
  let e0 := min ea eb
  decide (scaleTo a ea e0 ≤ scaleTo b eb e0)

/-! The grid and the scales. -/

/-- g(k) as G × 2^sh (R251). -/
def hc8Grid (k : Nat) : Nat × Int := if k / 16 % 8 = 0 then (k % 16, -11) else (16 + k % 16, (k / 16 % 8 : Nat) - 12)

/-- The line scale S of code Q under FE, as m × 2^e (R252). -/
def hc8Scale (q : Nat) (fe : Int) : Nat × Int := (16 + q % 16, (q / 16 : Nat) - 12 + fe)

/-- |x| of a finite binary16 as m × 2^e, none for NaN and infinities. -/
def absFin (x : BitVec 16) : Option (Nat × Int) := match f16.decode x.toNat with
  | .fin _ m e => some (m, e)
  | _ => none

/-- |x| widened, NaN and infinities taken as 0 (R254). -/
def absWide (x : BitVec 16) : Word := match absFin x with
  | some _ => widen (x &&& 0x7FFF)
  | none => 0

/-- The FP32 sum A of a line's magnitudes: blocks of 64 in tree order, added in ascending order (R254). -/
def hc8Sum (xs : List (BitVec 16)) : Word :=
  let blk (b : Nat) : Word := treeSum ((List.range 64).map (fun i => absWide (nth 0 xs (64 * b + i))))
  (List.range (xs.length / 64 - 1)).foldl (fun a b => add32 a (blk (b + 1))) (blk 0)

/-- Q: the smallest code with S × n ≥ ρ × A exactly, 0xFF where none meets it (R255). -/
def hc8Q (a : Word) (rho : BitVec 16) (n : Nat) (fe : Int) : Nat :=
  match f32.decode a.toNat, f16.decode rho.toNat with
  | .fin _ ma ea, .fin _ mr er =>
    ((List.range 256).find? (fun q => let s := hc8Scale q fe; leScaled (mr * ma) (er + ea) (s.1 * n) s.2)).getD 0xFF
  | _, _ => 0xFF

/-- The index whose g(k) × S is nearest to m × 2^e, the larger of two equally near (R256). -/
def hc8Nearest (m : Nat) (e : Int) (s : Nat × Int) : Nat :=
  let e0 := min e (s.2 - 11)
  let x : Int := scaleTo m e e0
  let dist (k : Nat) : Nat := (x - (scaleTo ((hc8Grid k).1 * s.1) ((hc8Grid k).2 + s.2) e0 : Nat)).natAbs
  (List.range 128).foldl (fun b k => if dist k ≤ dist b then k else b) 0

/-- The code of an element within the scale; none where it is out of range (R256). -/
def hc8Code (x : BitVec 16) (s : Nat × Int) : Option Nat := match absFin x with
  | none => none
  | some (m, e) =>
    if !leScaled m e s.1 s.2 then none
    else let k := hc8Nearest m e s; some (if k = 0 then 0 else k + 128 * bit (x.getLsbD 15))

/-- A saturated element (R257). -/
def hc8Sat (x : BitVec 16) : Nat := if (f16.decode x.toNat).isNan then 0 else if x.getLsbD 15 then 0xFF else 0x7F

/-- The codes of a line, its side list and its saturated elements (R256, R257). -/
def hc8Line (s : Nat × Int) : List (BitVec 16) → Nat → List Nat × List (BitVec 16) × Nat
  | [], _ => ([], [], 0)
  | x :: t, esc =>
    match hc8Code x s with
    | some c => let (cs, es, n) := hc8Line s t esc; (c :: cs, es, n)
    | none =>
      if esc < 64 then let (cs, es, n) := hc8Line s t (esc + 1); (0x80 :: cs, x :: es, n)
      else let (cs, es, n) := hc8Line s t esc; (hc8Sat x :: cs, es, n + 1)

/-- Bytes padded with zeros to a multiple of 8. -/
def pad8 (bs : List Byte) : List Byte := bs ++ List.replicate ((8 - bs.length % 8) % 8) 0

/-- A line record (R258, Table 8.5). -/
def hc8Record (tensor q line nblk : Nat) (codes : List Nat) (esc : List (BitVec 16)) : List Byte :=
  pad8 (toBytes 8 (tensor + 2 ^ 8 * q + 2 ^ 16 * esc.length + 2 ^ 24 * line + 2 ^ 48 * nblk) ++
    codes.map (BitVec.ofNat 8) ++ esc.flatMap (fun x => toBytes 2 x.toNat))

/-- A frame record (R259). -/
def hc8FrameRecord (tensor : Nat) (fe : Int) (frame : Word) : List Byte :=
  toBytes 8 (tensor + 2 ^ 8 * ofSigned 8 fe + 2 ^ 32 * frame.toNat)

/-- The value of a code other than the escape (R260). -/
def hc8Value (c q : Nat) (fe : Int) : BitVec 16 :=
  let g := hc8Grid (c % 128)
  let s := hc8Scale q fe
  if c = 0 then 0 else BitVec.ofNat 16 (f16.encode (.fin (tbit c 7) (g.1 * s.1) (g.2 + s.2)))

/-- The elements of a line's codes, escapes from the side list (R260). -/
def hc8Expand (q : Nat) (fe : Int) : List Nat → List (BitVec 16) → List (BitVec 16)
  | [], _ => []
  | c :: t, es =>
    if c = 0x80 then es.headD 0 :: hc8Expand q fe t es.tail else hc8Value c q fe :: hc8Expand q fe t es

/-! Link channels. -/

/-- Link channel l outside its registers. -/
def Ctl.lc (c : Ctl) (l : Nat) : LcSt := mget LcSt.init c.hng.lcs l
/-- Link channel l set. -/
def Ctl.lcSet (c : Ctl) (l : Nat) (v : LcSt) : Ctl := { c with hng := { c.hng with lcs := mset LcSt.init c.hng.lcs l v } }

/-- Whether an entry of an image's HC8 parameters keeps the limits of Table 8.3. -/
def hc8EntryOk (l : List Hc8Entry) (e : Hc8Entry) : Bool :=
  decide (e.tensor ≤ 255 ∧ (l.filter (fun x => x.tensor == e.tensor)).length = 1 ∧ -14 ≤ e.fe0 ∧ e.fe0 ≤ 15 ∧ 0x3800 ≤ e.rho.toNat ∧
    e.rho.toNat ≤ 0x5400 ∧ e.nblk ≤ 127) && e.resvZero

/-- A link channel bound to an entry (R250, R253, R266). -/
def Ctl.lcBind (c : Ctl) (e : Hc8Entry) : Ctl :=
  let l := e.chan
  (c.wr (R.hngLcCfg l) (w32 (1 + 2 * bit e.recv + 4 * (e.port % 4) + 16 * bit e.probe + 32 * bit e.spec + 2 ^ 8 * e.tensor +
    2 ^ 16 * ofSigned 8 e.fe0 + 2 ^ 24 * (e.ring % 128)))).lcSet l { LcSt.init with rho := e.rho, nblk := e.nblk, fe0 := e.fe0 }

/-- No link channel bound. -/
def Ctl.lcUnbind (c : Ctl) : Ctl :=
  let c := forN 64 (fun l c => c.wr (R.hngLcCfg l) 0) c
  { c with hng := { c.hng with lcs := [] } }

/-- The entries that a start of split or wall mode binds link channels to: those of the image in force (R250). -/
def Ctl.lcEntries (c : Ctl) (mode : Nat) : List Hc8Entry :=
  match c.img.cur with
  | some im => if mode = 2 ∨ mode = 3 then im.hc8.filter (fun e => decide (e.chan < 64)) else []
  | none => []

/-- Whether every one of them may be bound. -/
def Ctl.lcEntriesOk (c : Ctl) (mode : Nat) : Bool := (c.lcEntries mode).all (hc8EntryOk (c.lcEntries mode))

/-- The link channels of a mode: none but those of the image's entries in split and wall mode (R250, R266; log entry 159). -/
def Ctl.lcStart (c : Ctl) (mode : Nat) : Ctl := (c.lcEntries mode).foldl Ctl.lcBind c.lcUnbind

/-- The frame exponent in force. -/
def Ctl.lcFe (c : Ctl) (l : Nat) : Int := toSigned 8 (c.get (F.hngLcCfgFe l))

/-- The output context of the stream a link channel serves: that of its slot ring's handle owner, else the output with the
shortest t_out (DEDUCED, log entry 31). -/
def Ctl.lcStream (c : Ctl) (l : Nat) : Option Nat :=
  let o := c.get (F.cnpHtW0Owner (c.get (F.chnSrCfgHandle (c.get (F.hngLcCfgRing l)))))
  if 1 ≤ o ∧ o ≤ 24 then some (o - 1) else c.shortOut

/-- The transmit channels that serve output context s. -/
def Ctl.txLcs (c : Ctl) (s : Nat) : List Nat :=
  (List.range 64).filter (fun l => c.on (F.hngLcCfgValid l) && !c.on (F.hngLcCfgDir l) && c.lcStream l == some s)

/-- FE at FE0 at a stream start (R253). -/
def Ctl.feStart (c : Ctl) (s : Nat) : Ctl :=
  (c.txLcs s).foldl (fun c l => (c.put (F.hngLcCfgFe l) (ofSigned 8 (c.lc l).fe0)).lcSet l
    { c.lc l with maxQ := none, frameSent := false, line := 0 }) c

/-- FE after a frame whose largest counted Q was given (R253). -/
def feNext (fe : Int) : Option Nat → Int
  | some q => if 0xF0 ≤ q ∧ fe < 15 then fe + 1 else if q ≤ 0x6F ∧ -14 < fe then fe - 1 else fe
  | none => fe

/-- FE_UPDATE at the boundary of output s (R253). -/
def Ctl.feUpdate (c : Ctl) (s : Nat) : Ctl :=
  (c.txLcs s).foldl (fun c l => (c.put (F.hngLcCfgFe l) (ofSigned 8 (feNext (c.lcFe l) (c.lc l).maxQ))).lcSet l
    { c.lc l with maxQ := none, frameSent := false, line := 0 }) c

/-- Codes counted in a bank of 256 bins, saturating (R262). -/
def binsAdd (m : SMap Nat) (l : Nat) (cs : List Nat) : SMap Nat :=
  cs.foldl (fun m x => mset 0 m (256 * l + x) (min 0xFFFFFFFF (mget 0 m (256 * l + x) + 1))) m

/-- The codes of a line counted: in the speculative bank for a probe channel with SPEC = 1 (R264). -/
def Ctl.countBins (c : Ctl) (l : Nat) (cs : List Nat) : Ctl :=
  if c.on (F.hngLcCfgSpec l) && c.on (F.hngLcCfgProbe l) then
    { c with hng := { c.hng with specBins := binsAdd c.hng.specBins l cs } }
  else { c with hng := { c.hng with live := binsAdd c.hng.live l cs } }

/-- The key of a byte of a slot of slot ring r. -/
def Ctl.slotKey (c : Ctl) (r i off : Nat) : Nat := c.hKey (c.get (F.chnSrCfgHandle r)) (i * c.get (F.chnSrCfgSlotSize r) * 256 + off)

/-- Bytes written to a handle by a unit that is no tile core; a DRAM range passes the line-cache tags (R158). -/
def W.putKey (w : W) (k : Nat) (bs : List Byte) : W :=
  (w.actC (.put k bs)).on (fun c => c.lcUnit k bs.length true)

/-- The first poisoned word among n bytes from a key, in a line that is not pending. -/
def Mem.poisonFirst (m : Mem) (k n : Nat) : Option Nat :=
  if n = 0 then none
  else ((List.range ((wordKey (k + n - 1) - wordKey k) / 32 + 1)).map (fun i => wordKey k + 32 * i)).find?
    (fun j => m.poisonAt j && !m.pendingAt j)

/-- n bytes from a key read by a unit that is no tile core: DET_ERR of the first poisoned word (R176, Table 16.3), DRAM through the
line-cache tags (R158). -/
def W.unitRead (w : W) (k n : Nat) : W × List Byte :=
  let w := match isCanopy k, w.mem.poisonFirst k n with
    | true, some j => w.on (fun c => c.detWord false j 0 0)
    | _, _ => w
  (w.on (fun c => c.lcUnit k n false), w.mem.rdN k n)

/-- The memory energy estimated for n bytes at a key that ingress or egress of output context o moves in its present frame (R415, R416;
log entry 9): DRAM by the byte, Canopy by the line. -/
def Ctl.ioEnergy (c : Ctl) (o key n : Nat) : Ctl :=
  let e := if isDram key then n * Config.energyDram else (n + 255) / 256 * Config.energyCanopy
  let k := (1 + o) * 2 ^ 32 + (c.vc o).frame.toNat
  { c with fab := { c.fab with enMem := mset 0 c.fab.enMem k (mget 0 c.fab.enMem k + e) } }

/-- The same for the ingress of input context s, on the output it feeds. -/
def Ctl.ingressEnergy (c : Ctl) (s key n : Nat) : Ctl :=
  let l := c.get (F.stcCtrlLink s)
  if l < 24 && c.get (F.stcCtrlDir l) == 1 then c.ioEnergy l key n else c

/-- The 16-bit elements of little-endian bytes. -/
def elems16 : List Byte → List (BitVec 16)
  | a :: b :: t => BitVec.ofNat 16 (a.toNat + 256 * b.toNat) :: elems16 t
  | _ => []

/-- A transmit link channel encodes the next filled slot (R249): the slot at HEAD, its zeros where unfilled (R206), its
record to the Hinge port unless PROBE, and the empty semaphore; it waits for a range that is being cleared (R167). A handle with SPEC = 1 never leaves (R213). -/
def W.linkEncode (w : W) (l : Nat) : W :=
  let c := w.ctl
  let r := c.get (F.hngLcCfgRing l)
  let sem := c.get (F.chnSrCfgFullSem r)
  let spec := c.on (F.cnpHtW0Spec (c.get (F.chnSrCfgHandle r)))
  if !(c.running && c.on (F.hngLcCfgValid l) && !c.on (F.hngLcCfgDir l) && c.on (F.chnSrStateValid r) &&
      decide (1 ≤ c.get (F.semCountCount sem)) && (c.on (F.hngLcCfgProbe l) || !spec) &&
      !c.on (F.cnpHtW0Busy (c.get (F.chnSrCfgHandle r)))) then w
  else
    let st := c.lc l
    let n := 64 * (st.nblk + 1)
    let i := c.get (F.chnSrStateHead r)
    let full := tbit (c.get (F.chnSrStateFill r)) i
    let (w, bs) := if full then w.unitRead (c.slotKey r i 0) (2 * n)
      else (w.on (fun c => c.slotUnder (.ring r i) 0xFF), List.replicate (2 * n) 0)
    let xs := elems16 bs
    let fe := c.lcFe l
    let a := hc8Sum xs
    let q := hc8Q a st.rho n fe
    let (cs, es, sat) := hc8Line (hc8Scale q fe) xs 0
    w.on (fun c =>
      let c := c.put (F.semCountCount sem) (c.get (F.semCountCount sem) - 1)
      let c := ((c.bump (F.hngLcEscCount l) es.length).bump (F.hngLcSatCount l) sat).countBins l cs
      let t := c.get (F.hngLcCfgTensor l)
      let port := c.linkOf (c.get (F.hngLcCfgPort l))
      let frame := match c.lcStream l with
        | some s => (c.vc s).frame
        | none => 0
      let c := if c.on (F.hngLcCfgProbe l) then c
        else
          let c := if st.frameSent then c else c.hngSend port (.data l (hc8FrameRecord t fe frame))
          c.hngSend port (.data l (hc8Record t q st.line st.nblk cs es))
      let c := c.lcSet l { st with frameSent := true, line := (st.line + 1) % 8192
                                   maxQ := if (f32.decode a.toNat).isZero then st.maxQ else some (max q (st.maxQ.getD 0)) }
      c.signalHw ((sem + 1) % 256) 1)

/-- A line of elements put into the next slot of a receive channel's ring, and its full semaphore (R249, R206). -/
def W.linkPut (w : W) (l : Nat) (xs : List (BitVec 16)) : W :=
  let r := w.ctl.get (F.hngLcCfgRing l)
  let i := w.ctl.get (F.chnSrStateTail r)
  let w := if tbit (w.ctl.get (F.chnSrStateFill r)) i then w.on (fun c => c.slotOver (.ring r i) 0xFF)
    else w.putKey (w.ctl.slotKey r i 0) (xs.flatMap (fun x => toBytes 2 x.toNat))
  w.on (fun c => c.signalHw (c.get (F.chnSrCfgFullSem r)) 1)

/-- A DATA frame's record reaches receive channel l (R260, R261): a frame record of 8 bytes, or a line record; a LINE that
does not rise shows a frame whose frame record has not arrived (DEDUCED, log entry 32). -/
def W.linkReceive (w : W) (l : Nat) (bs : List Byte) : W :=
  let c := w.ctl
  let st := c.lc l
  let tensor := c.get (F.hngLcCfgTensor l)
  let h := ofBytes (bs.take 8)
  if !(c.on (F.hngLcCfgValid l) && c.on (F.hngLcCfgDir l)) then w
  else if bs.length = 8 then
    if h % 256 = tensor then w.on (fun c =>
      (c.put (F.hngLcCfgFe l) (h / 256 % 256)).lcSet l { st with rxFe := some (toSigned 8 (h / 256)), line := 0 })
    else w
  else
    let q := h / 2 ^ 8 % 256
    let nesc := h / 2 ^ 16 % 128
    let line := h / 2 ^ 24 % 8192
    let n := 64 * (st.nblk + 1)
    let cs := ((bs.drop 8).take n).map BitVec.toNat
    let es := elems16 ((bs.drop (8 + n)).take (2 * nesc))
    let bad := h % 256 != tensor || h / 2 ^ 48 % 256 != st.nblk || cs.count 0x80 != nesc || decide (64 < nesc) ||
      decide (line < st.line)
    match bad, st.rxFe with
    | false, some fe =>
      let w := w.on (fun c => (c.lcSet l { st with line := line + 1 }).countBins l cs)
      w.linkPut l (hc8Expand q fe cs es)
    | _, _ =>
      let w := w.on (fun c => (c.bump (F.hngLcBadCount l) 1).lcSet l
        (if line < st.line then { st with rxFe := none } else st))
      w.linkPut l (List.replicate n 0)

/-- LINK_LINE_ENCODE (R249). -/
def execLinkLineEncode (l : Fin 64) (s : State) : Host.Outcome State Fault Refusal := onHw s (fun w => w.linkEncode l.val)

/-! Histograms. -/

/-- A write of HNG_HIST_CTRL (R263): SEL; SNAP = 1 sets BUSY for the channel named, ignored while BUSY. -/
def Ctl.histWrite (c : Ctl) (v : Word) : Ctl :=
  let c := c.put F.hngHistCtrlSel (v.toNat % 64)
  if v.getLsbD 8 && !c.on F.hngHistCtrlBusy then
    { (c.put F.hngHistCtrlBusy 1) with hng := { c.hng with snapCh := v.toNat % 64 } }
  else c

/-- SNAP (R263). -/
def execSnap (v : Word) (s : State) : Host.Outcome State Fault Refusal := onCtl s (fun c => if c.running then c.histWrite v else c)

/-- HIST_SNAP_COPY (R263): between two lines the live bins are copied and zeroed in one instant. -/
def execHistSnapCopy (s : State) : Host.Outcome State Fault Refusal := onCtl s (fun c =>
  if !c.on F.hngHistCtrlBusy then c
  else
    let l := c.hng.snapCh
    let c := forN 256 (fun b c => c.put (F.hngHistBinCount b) (mget 0 c.hng.live (256 * l + b))) c
    { (c.put F.hngHistCtrlBusy 0) with hng := { c.hng with live := mdrop (inRange (256 * l) 256) c.hng.live } })

/-- The speculative banks added into the live banks and zeroed (R264, confirmation). -/
def Ctl.specBinsConfirm (c : Ctl) : Ctl :=
  { c with hng := { c.hng with live := c.hng.specBins.foldl (fun m p => mset 0 m p.1 (min 0xFFFFFFFF (mget 0 m p.1 + p.2))) c.hng.live
                               specBins := [] } }

/-- The speculative banks zeroed (R264, cancellation). -/
def Ctl.specBinsDrop (c : Ctl) : Ctl := { c with hng := { c.hng with specBins := [] } }

end Sys2Proof.Machine
end

