-- ==== Sys2Proof/Machine/Canopy.lean ====
section
/-! DEFINITION. Canopy and DRAM (05_memory_hierarchy.md): handle commits, partition, Clearing, DRAM clearing, line-cache fills
and cleaning, refresh and retraining, the BAR2 aperture. -/

namespace Sys2Proof.Machine

/-! Handles (R152, R162, R163, R167, R173). -/

/-- Whether a number is a code of Table 5.5. -/
def ownerOk (o : Nat) : Bool :=
  decide (o ≤ 0x18) || decide (0x40 ≤ o ∧ o ≤ 0x80) || o == 0xF0 || o == 0xF1 || o == 0xFF

/-- Word 0 of a handle entry as a commit names it. -/
def htWord (valid dram wr spec : Bool) (owner : Nat) : Word :=
  w32 (bit valid + 2 * bit dram + 4 * bit wr + 8 * bit spec + 256 * owner)

/-- Whether a commit passes the checks of R152, with the staged base and length in units of 256 bytes. -/
def Ctl.htOk (c : Ctl) (w0 : Word) (base size : Nat) : Bool :=
  let owner := fieldGet w0 8 8
  let limit := if w0.getLsbD 1 then c.dramSize else c.canopySpace
  decide ((base + size) * 256 ≤ limit) && !(w0.getLsbD 3 && (w0.getLsbD 1 || owner == 0x80)) && ownerOk owner

/-- Whether a commit marks the handle's range for Clearing (Table 5.8). -/
def Ctl.htMarks (c : Ctl) (e : Nat) (w0 : Word) : Bool :=
  let old := c.get (F.cnpHtW0Owner e)
  let new := fieldGet w0 8 8
  (!c.on (F.cnpHtW0Valid e) && w0.getLsbD 0) || (old != new && !(old == 0xF1 && new == 0xF0))

/-- A handle commit (R152): refused with HT_REJ, or the entry becomes the staged words with EPOCH raised; a trigger of Table
5.8 marks the range, after a revocation only once REVOKE_CLEAR finds the accepted requests done (R173); a DRAM range holds BUSY
until the clearing engine is done, also over later commits (R167). -/
def W.htCommit (w : W) (e : Nat) (w0 : Word) (base size : Nat) : W × Bool :=
  let c := w.ctl
  if !c.htOk w0 base size then (w.on (fun c => c.put F.cnpStatusHtRej 1), false)
  else
    let marks := c.htMarks e w0
    let revoked := c.get (F.cnpHtW0Owner e) == 0x80 && fieldGet w0 8 8 != 0x80
    let ep := c.get (F.cnpHtW0Epoch e) + 1
    let busy := bit (w0.getLsbD 1 && (marks || c.on (F.cnpHtW0Busy e)))
    let w := w.on (fun c =>
      let c := (c.put (F.cnpHtW1Base e) base).put (F.cnpHtW2SizeM1 e) (size - 1)
      (c.wr (R.cnpHtW0 e) ((w0 &&& 0xFF0F) ||| w32 (16 * busy))).put (F.cnpHtW0Epoch e) ep)
    let key := w.ctl.hKey e 0
    if !marks then (w, true)
    else if revoked then (w.on (fun c => { c with cnp := { c.cnp with revoked := c.cnp.revoked ++ [(key, size * 256)] } }), true)
    else ((w.actC (.mark key (size * 256))).on (fun c => c.lcUnit key (size * 256) true), true)

/-- The entry's words kept with VALID, OWNER or SPEC changed. -/
def W.htChange (w : W) (e : Nat) (valid : Bool) (owner : Nat) (spec : Bool) : W :=
  let c := w.ctl
  (w.htCommit e (htWord valid (c.on (F.cnpHtW0Target e)) (c.on (F.cnpHtW0Wr e)) spec owner)
    (c.get (F.cnpHtW1Base e)) (c.get (F.cnpHtW2SizeM1 e) + 1)).1

/-- The handle released: not valid, owner none (its range marked for Clearing, Table 5.8). -/
def W.htFree (w : W) (e : Nat) : W := w.htChange e false 0 false

/-- Whether n units of 256 bytes from a base lie within ranges that an owner already holds in Canopy or in DRAM (R163). -/
def Ctl.ownerHolds (c : Ctl) (owner : Nat) (dram : Bool) (base size : Nat) : Bool :=
  (List.range size).all (fun i => (List.range 256).any (fun h => c.on (F.cnpHtW0Valid h) && c.get (F.cnpHtW0Owner h) == owner &&
    c.on (F.cnpHtW0Target h) == dram && decide (c.get (F.cnpHtW1Base h) ≤ base + i ∧
      base + i < c.get (F.cnpHtW1Base h) + c.get (F.cnpHtW2SizeM1 h) + 1)))

/-- A re-arm (R163, R210): BASE and SIZE of a valid handle change without its OWNER, within ranges that the owner holds, which marks no
lines. Firmware makes no other one. -/
def W.rearm (w : W) (r : Rearm) : W :=
  let c := w.ctl
  let h := r.handle.val
  let (owner, dram) := (c.get (F.cnpHtW0Owner h), c.on (F.cnpHtW0Target h))
  if c.on (F.cnpHtW0Valid h) && decide (1 ≤ r.size ∧ r.size ≤ 32768) && c.ownerHolds owner dram r.base r.size then
    (w.htCommit h (htWord true dram (c.on (F.cnpHtW0Wr h)) (c.on (F.cnpHtW0Spec h)) owner) r.base r.size).1
  else w

/-- TASK_ENQUEUE (R183, R231, R233): the re-arms of the task's frame are committed before it is placed (R210). -/
def execTaskEnqueue (src : TaskSrc) (rearms : List Rearm) (s : State) : Host.Outcome State Fault Refusal := onHw s (fun w =>
  if !w.ctl.running then w else (rearms.foldl W.rearm w).on (fun c => c.place src))

/-- REVOKE_CLEAR (R173): the oldest revoked range, its accepted requests done, is marked for Clearing. -/
def execRevokeClear (s : State) : Host.Outcome State Fault Refusal := onHw s (fun w =>
  match w.ctl.cnp.revoked with
  | [] => w
  | (k, n) :: t => ((w.on (fun c => { c with cnp := { c.cnp with revoked := t } })).actC (.mark k n)).on (fun c => c.lcUnit k n true))

/-- DRAM_CLEAR_DONE (R167). -/
def execDramClearDone (h : Fin 256) (s : State) : Host.Outcome State Fault Refusal := onCtl s (fun c =>
  if c.running then c.put (F.cnpHtW0Busy h.val) 0 else c)

/-! Partition (R154, R155). -/

/-- Whether a partitioned layout is possible. -/
def partOk (v : Word) : Bool :=
  let lcb := min 4 (fieldGet v 1 3)
  let (wb, ab) := (fieldGet v 4 6, fieldGet v 10 6)
  !v.getLsbD 0 || (wb != 0 && ab != 0 && decide (2 * lcb + wb + ab < 64))

/-- A write of CNP_CFG: ignored with CFG_IGN while a Canopy handle is valid or the layout is impossible. A new line-cache size
starts the line cache anew, its dirty lines written back (log entry 42). -/
def Ctl.cnpCfgWrite (c : Ctl) (v : Word) : Ctl :=
  if (List.range 256).any (fun h => c.on (F.cnpHtW0Valid h) && !c.on (F.cnpHtW0Target h)) || !partOk v then
    c.put F.cnpStatusCfgIgn 1
  else
    let old := c.lcBanks
    let c := c.wr R.cnpCfg (v &&& 0xFFFF)
    if c.lcBanks = old then c
    else { (c.bump F.cnpLcWbCount (c.cnp.lc.filter (·.dirty)).length) with cnp := { c.cnp with lc := [] } }

/-- CNP_CFG_WRITE (R155). -/
def execCnpCfgWrite (v : Word) (s : State) : Host.Outcome State Fault Refusal := onCtl s (fun c =>
  if c.running then c.cnpCfgWrite v else c)

/-! Clearing (R166). -/

/-- The first line from a key that is not listed as written; entries rise by key. -/
def firstPending (line : Nat) : SMap Bool → Nat → Nat
  | [], k => k
  | (j, _) :: t, k => if j < k then firstPending line t k else if j = k then firstPending line t (k + line) else k

/-- The lowest pending line: of Canopy, else of the operand buffers, else of the core memories (log entry 43). -/
def Mem.nextPending (m : Mem) : Option Nat :=
  let a := firstPending 256 m.written (canopyKey 0)
  let b := firstPending 128 m.written (opbufKey 0 0)
  let d := firstPending 128 m.written (cmemKey 0 0)
  if a < canopyKey Config.canopyBytes then some a else if b < opbufKey 136 0 then some b
  else if d < cmemKey 136 0 then some d else none

/-- The banks at which an access waited at least one slot (R156, Table 5.10), as the arbitration of the moment has it: each counts
once (the arbitration is timing: log entry 154). -/
def Ctl.conflicts (c : Ctl) (waits : List (Fin 64)) : Ctl := waits.foldl (fun c b => c.bump (F.cnpConflictCount b.val) 1) c

/-- CLEARING_WRITE (R166): the engine writes zeros to the lowest pending line and clears its bit. -/
def execClearingWrite (waits : List (Fin 64)) (s : State) : Host.Outcome State Fault Refusal := onHw s (fun w =>
  match w.ctl.running, w.mem.nextPending with
  | true, some k => (w.actC (.clear k)).on (fun c => c.conflicts waits)
  | _, _ => w)

/-! Line cache and DRAM. -/

/-- A line goes over its channel, address bits [11:8], whose link ECC may have corrected it: DRC_LECC counts that (R160). -/
def Ctl.dramLine (c : Ctl) (write : Bool) (addr : Nat) (lecc : Bool) : Ctl :=
  (if lecc then c.bump F.drcLeccCount 1 else c).emit (.dramLine write (dramChannel addr) (addr / 256 * 256))

/-- LINE_CACHE_FILL (R157): a DRAM line comes into the line cache, evicting the least recently used of its set. -/
def execLineCacheFill (addr : Fin 17179869184) (core lecc : Bool) (s : State) : Host.Outcome State Fault Refusal := onCtl s (fun c =>
  if c.running ∧ addr.val < c.dramSize then (c.lcTouch addr.val core false).dramLine false addr.val lecc else c)

/-- LINE_CACHE_CLEAN (R157): a dirty line is written back in the background. -/
def execLineCacheClean (addr : Fin 17179869184) (lecc : Bool) (waits : List (Fin 64)) (s : State) : Host.Outcome State Fault Refusal := onCtl s (fun c =>
  if c.running && c.cnp.lc.any (fun l => l.addr == addr.val / 256 && l.dirty) then
    ((({ c with cnp := { c.cnp with lc := c.cnp.lc.map (fun (l : LcLine) => if l.addr = addr.val / 256 then { l with dirty := false } else l) } }).bump
      F.cnpLcWbCount 1).dramLine true addr.val lecc).conflicts waits
  else c)

/-- DRAM_REFRESH (R160): a per-bank refresh is issued, or postponed while fewer than 8 of the bank are. -/
def execDramRefresh (ch : Fin 16) (bank : Fin 32) (postpone : Bool) (s : State) : Host.Outcome State Fault Refusal := onCtl s (fun c =>
  let k := 32 * ch.val + bank.val
  let n := mget 0 c.cnp.refresh k
  if !c.running then c
  else if postpone ∧ n < 8 then { c with cnp := { c.cnp with refresh := mset 0 c.cnp.refresh k (n + 1) } }
  else
    ({ c with cnp := { c.cnp with refresh := mset 0 c.cnp.refresh k (if postpone then n else n - 1)
                                  refreshes := c.cnp.refreshes + 1 } }).emit (.dram 0 ch.val bank.val))

/-- DRAM_RETRAIN (Table 5.7): one channel's WCK-to-DQ timing is retuned. -/
def execDramRetrain (ch : Fin 16) (s : State) : Host.Outcome State Fault Refusal := onCtl s (fun c =>
  if c.running && c.on F.drcStatusTrained then
    ({ c with cnp := { c.cnp with retrainNext := (ch.val + 1) % 16 } }).emit (.dram 1 ch.val 0)
  else c)

/-! The BAR2 aperture (R172). -/

/-- Whether Canopy byte x may be accessed through the aperture. -/
def Ctl.apertureOk (c : Ctl) (x : Nat) (write : Bool) : Bool :=
  (List.range 256).any (fun h => c.on (F.cnpHtW0Valid h) && c.get (F.cnpHtW0Owner h) == 0x80 && !c.on (F.cnpHtW0Target h) &&
    decide (c.hBase h ≤ x ∧ x < c.hBase h + c.hSize h) && (!write || c.on (F.cnpHtW0Wr h)))

/-- APERTURE_ACCESS (R172): a request is checked whole; one that fails reads zeros or is discarded, and is counted. -/
def execApertureAccess (write : Bool) (addr : BitVec 28) (len : Fin 513) (data : List Byte) (waits : List (Fin 64)) (s : State) :
    Host.Outcome State Fault Refusal := onHw s (fun w =>
  let c := w.ctl
  if !(c.running && c.host.linkUp) then w
  else
    let w := w.on (fun c => c.conflicts waits)
    if (List.range len.val).all (fun i => c.apertureOk (addr.toNat + i) write) then
      if write then w.actC (.put (canopyKey addr.toNat) ((List.range len.val).map (nth 0 data)))
      else let (w, bs) := w.unitRead (canopyKey addr.toNat) len.val; w.on (fun c => c.emit (.aperture bs))
    else
      let w := w.on (fun c => (c.bump F.cnpApViolCount 1).put F.cnpApLastAddr addr.toNat)
      if write then w else w.on (fun c => c.emit (.aperture (List.replicate len.val 0))))

end Sys2Proof.Machine
end

