-- ==== Sys2Proof/Machine/Governor.lean ====
section
/-! DEFINITION. The deadline governor (02_clockless_timing.md) and the AVSBus master (13_power_thermal_spare.md R405 … R408):
effective bounds, the control law of R72, VCORE requests, retries, failure and recovery. -/

namespace Sys2Proof.Machine

/-! Bounds. -/

/-- A host bound as it acts: held between 600 and 900 mV (R79). -/
def hostMv (v : Nat) : Nat := clampN 600 900 v

/-- The effective floor (R79, R80). -/
def Ctl.floorEff (c : Ctl) : Nat :=
  if c.anyOut then clampN 600 900 (max (max (hostMv (c.get F.phcGovFloorHostMv)) (c.get F.phcGovCalCalMv)) 700) else 600

/-- The effective ceiling (R79). -/
def Ctl.ceilEff (c : Ctl) : Nat :=
  clampN 600 900 (min (min (hostMv (c.get F.phcGovCeilHostMv)) (c.get F.phcGovCeilMgmtMv)) 900)

/-- A setpoint held in the bounds, the ceiling last, on the grid of 5 mV of Table 13.2; a bound off the grid is taken
inward (DEDUCED, log entry 28). -/
def Ctl.clampMv (c : Ctl) (t : Nat) : Nat :=
  let f := (c.floorEff + 4) / 5 * 5
  let g := c.ceilEff / 5 * 5
  min (max (t / 5 * 5) f) g

/-- The setpoint last acknowledged. -/
def Ctl.setMv (c : Ctl) : Nat := c.get F.phcGovStatusSetMv

/-- The step size (Table 2.6). -/
def Ctl.stepMv (c : Ctl) : Nat := (c.get F.phcGovCtrlStep + 1) * 5

/-- Whether a VCORE request is in flight (R76). -/
def Ctl.inFlight (c : Ctl) : Bool := c.on F.phcGovStatusInFlight

/-- Whether Warden firmware has reached RUN. -/
def Ctl.fwRun (c : Ctl) : Bool := c.get F.wktFwFwstate == 1

/-- The governor operates: firmware has reached RUN (R78), and VCORE requests are not stopped (R407). -/
def Ctl.govLive (c : Ctl) : Bool := c.fwRun && !c.on F.phcAvsStatusFail

/-- The law applies: EN is 1, HOLD 0, an output enabled (R73, R74, R80). -/
def Ctl.lawOn (c : Ctl) : Bool :=
  c.govLive && c.anyOut && c.on F.phcGovCtrlEn && !c.on F.phcGovCtrlHold

/-- The fields of PHC_GOV_ that show the bounds and the setpoint's place in them (Table 2.6). -/
def Ctl.govRegs (c : Ctl) : Ctl :=
  (((c.put F.phcGovFloorEffMv c.floorEff).put F.phcGovStatusCeilEff c.ceilEff).put F.phcGovStatusAtFloor
    (bit (c.setMv == c.floorEff))).put F.phcGovStatusAtCeil (bit (c.setMv == c.ceilEff))

/-! Requests. -/

/-- The next AVSBus write towards the target, which the bounds now in force hold (R79, R83): at most 80 mV, one in flight (R76,
R78); an up step under level 1 is not sent and sets CUR_VETO (R82). -/
def Ctl.govPump (c : Ctl) : Ctl :=
  match c.pwr.target with
  | none => c
  | some t =>
    let t := c.clampMv t
    let s := c.setMv
    if !c.govLive || c.inFlight then c
    else if t = s then { c with pwr := { c.pwr with target := none } }
    else if s < t ∧ c.on F.phcCurStatusVeto then
      { (c.put F.phcGovStatusCurVeto 1) with pwr := { c.pwr with target := none } }
    else
      let v := if s < t then min t (s + 80) else max t (s - 80)
      ({ (c.put F.phcGovStatusInFlight 1) with pwr := { c.pwr with inFlight := some v, avsTries := 0 } }).emit (.avsWrite v)

/-- A request for a setpoint, held in the bounds; none while requests are stopped (R407). -/
def Ctl.govRequest (c : Ctl) (t : Nat) : Ctl :=
  if c.govLive then ({ c with pwr := { c.pwr with target := some (c.clampMv t) } }).govPump else c

/-- The governor interval begins anew (R72, R74), with no slack recorded in it (R71); the counts quiet and hold stay (DESIGN
CHOICE, log entry 141). -/
def Ctl.startInterval (c : Ctl) : Ctl :=
  let c := c.outputs.foldl (fun c o => c.rcSet o { c.rc o with runMin := none }) c
  { c with pwr := { c.pwr with lines := 0, running := true, startIval := false } }

/-- The first interval starts once no request of R81 is left to acknowledge (R78, R81). -/
def Ctl.firstInterval (c : Ctl) : Ctl :=
  if c.pwr.startIval && c.pwr.inFlight.isNone && (c.pwr.target.isNone || c.pwr.target == some c.setMv) then c.startInterval else c

/-- Whether the bounds exclude the setpoint in force (R74). -/
def Ctl.excluded (c : Ctl) : Bool := decide (c.setMv < c.floorEff ∨ c.ceilEff < c.setMv)

/-- The bounds, EN, HOLD, TARGET or IDLE changed (R73, R74, R79, R80): with EN 0 only a setpoint now excluded moves; with HOLD
the setpoint follows TARGET; with no output it goes to the idle setpoint; else the law clamps it at its next evaluation. -/
def Ctl.govBounds (c : Ctl) : Ctl :=
  let c := if c.ceilEff < c.floorEff then c.put F.phcGovStatusFloorClamp 1 else c
  let c := c.govRegs
  if !c.fwRun then c
  else if !c.on F.phcGovCtrlEn then
    if c.excluded then c.govRequest c.setMv else c
  else if c.on F.phcGovCtrlHold then c.govRequest (c.get F.phcGovTargetMv)
  else if !c.anyOut then c.govRequest (hostMv (c.get F.phcGovIdleMv))
  else c

/-- The first output has been enabled (R81): the higher of the setpoint and 750 mV, then the first interval. -/
def Ctl.govFirstOutput (c : Ctl) : Ctl :=
  let c := c.govBounds
  if c.lawOn then
    (({ c with pwr := { c.pwr with startIval := true, running := false } }).govRequest (max c.setMv 750)).firstInterval
  else c.startInterval

/-- An output has been disabled; with the last one intervals end and the setpoint falls to idle (R78, R80). -/
def Ctl.govOutputGone (c : Ctl) : Ctl :=
  let c := if c.anyOut then c
    else { c with pwr := { c.pwr with running := false, startIval := false, quiet := 0, hold := 0 } }
  c.govBounds

/-! The law. -/

/-- What the law asks for, before the bounds (sketch of R72): the setpoint, quiet and hold after it. -/
def Ctl.lawStep (c : Ctl) (urgent : Bool) (smin : Int) : Nat × Nat × Nat :=
  let s := c.setMv
  let (q, h) := (c.pwr.quiet, c.pwr.hold)
  let dn := max 1 (c.get F.phcGovCtrlDownHold)
  if urgent then (s + 2 * c.stepMv, 0, c.get F.phcGovCtrlUrgentHold)
  else if smin < (c.get F.phcGovBandLo : Int) then (s + c.stepMv, 0, h - 1)
  else if (c.get F.phcGovBandHi : Int) < smin then
    let q' := min 255 (q + 1)
    if dn ≤ q' ∧ h = 0 then (s - c.stepMv, 0, 0) else (s, q', h - 1)
  else (s, 0, h - 1)

/-- One evaluation of the law: the part's own request after bounds and veto (R72, R79, R82; NEG_AT_CEIL). -/
def Ctl.lawOwn (c : Ctl) (urgent : Bool) (smin : Int) : Ctl × Nat :=
  let (t, q, h) := c.lawStep urgent smin
  let c := { c with pwr := { c.pwr with quiet := q, hold := h } }
  let c := if urgent ∧ c.ceilEff < max t c.floorEff then c.put F.phcGovStatusNegAtCeil 1 else c
  let t := c.clampMv t
  if c.setMv < t ∧ c.on F.phcCurStatusVeto then (c.put F.phcGovStatusCurVeto 1, c.setMv) else (c, t)

/-- The part's own request at an evaluation: by the law, by TARGET under HOLD, else the setpoint, or with EN 0 the nearer bound
where the bounds exclude it (R73, R74). -/
def Ctl.ownRequest (c : Ctl) (urgent : Bool) (smin : Int) : Ctl × Nat :=
  if c.lawOn then c.lawOwn urgent smin
  else if c.on F.phcGovCtrlEn && c.on F.phcGovCtrlHold then (c, c.clampMv (c.get F.phcGovTargetMv))
  else (c, if c.govLive && c.excluded then c.clampMv c.setMv else c.setMv)

/-- An evaluation's request: alone, the own request; in modes 1 … 3 the higher of it and what was received, published in GOV
frames on every port that is UP (R83, R402). -/
def Ctl.govEvaluate (c : Ctl) (urgent : Bool) (smin : Int) : Ctl :=
  let (c, own) := c.ownRequest urgent smin
  if c.mode = 0 then if own = c.setMv ∨ c.inFlight then c else c.govRequest own
  else
    let v := max own c.hng.recvGov
    let c := (c.put F.hngGovOwnMv own).put F.hngGovPubMv v
    let c := c.hngSendAll none (.gov v urgent)
    let c := if urgent then c else { c with hng := { c.hng with recvGov := 0, govUrgent := 0 } }
    if c.clampMv v = c.setMv ∨ c.inFlight then c else c.govRequest v

/-- The urgent path at the end of an output line in which an output recorded negative slack (R75). -/
def Ctl.govUrgentPath (c : Ctl) (neg : Bool) : Ctl :=
  if neg && c.lawOn && !c.inFlight && c.pwr.running then c.govEvaluate true 0 else c

/-! AVSBus. -/

/-- R407 from the fourth failed attempt on: FAIL, nothing in flight, SET_MV kept, requests stopped, cause 1. -/
def Ctl.avsFail (c : Ctl) (mv : Nat) : Ctl :=
  let c := { c with pwr := { c.pwr with inFlight := none, target := none, avsTries := 0, settleSeen := false } }
  ((c.put F.phcGovStatusInFlight 0).put F.phcAvsStatusFail 1).powerRec 1 0 mv

/-- The end of a request's flight: the next chunk, or what a down-step waits for (R78); with EN 0 the nearer bound where the
setpoint now acknowledged is excluded (R74); the first interval where nothing is left to acknowledge (R81, also where R82
dropped the rest). -/
def Ctl.flightEnd (c : Ctl) : Ctl :=
  let c := ({ c with pwr := { c.pwr with settleSeen := false } }).put F.phcGovStatusInFlight 0
  let c := if !c.on F.phcGovCtrlEn && c.excluded then c.govRequest c.setMv else c.govPump
  c.firstInterval

/-- AVS_ACK (R406): the regulator acknowledges the write; SET_MV takes it, and UP or DOWN counts every acknowledged write that
raises or lowers it (DESIGN CHOICE, log entry 142). -/
def Ctl.avsAck (c : Ctl) : Ctl :=
  match c.pwr.inFlight with
  | none => c
  | some v =>
    let s := c.setMv
    let c := { (c.put F.phcGovStatusSetMv v) with pwr := { c.pwr with inFlight := none, avsTries := 0, settleSeen := false } }
    let c := if s < v then c.bump F.phcGovCountUp 1 else if v < s then c.bump F.phcGovCountDown 1 else c
    c.govRegs.firstInterval

/-- An acknowledged write whose settling is not over: in flight with nothing left to acknowledge. -/
def Ctl.settling (c : Ctl) : Bool := c.inFlight && c.pwr.inFlight.isNone

/-- AVS_ACK (R406). -/
def execAvsAck (s : State) : Host.Outcome State Fault Refusal := onCtl s Ctl.avsAck

/-- AVS_RESPONSE_TIMEOUT (R406, R407): the write is repeated up to three times, each counted in RETRY; the fourth failure
ends it. -/
def execAvsResponseTimeout (s : State) : Host.Outcome State Fault Refusal := onCtl s (fun c =>
  match c.pwr.inFlight with
  | none => c
  | some v =>
    if c.pwr.avsTries < 3 then
      (({ c with pwr := { c.pwr with avsTries := c.pwr.avsTries + 1 } }).bump F.phcAvsStatusRetry 1).emit (.avsWrite v)
    else c.avsFail v)

/-- AVS_POLL (R407): while FAIL is 1, a read-voltage command; the first acknowledged one clears FAIL, SET_MV takes the value
rounded to a multiple of 5 mV, cause 2. The governor resumes at its next interval end; with no output enabled there are no
intervals, and it asks for the idle setpoint at once (R80). -/
def execAvsPoll (ok : Bool) (mv : BitVec 10) (s : State) : Host.Outcome State Fault Refusal := onCtl s (fun c =>
  if !c.on F.phcAvsStatusFail then c
  else
    let c := c.emit .avsRead
    if !ok then c
    else
      let c := (c.put F.phcAvsStatusFail 0).put F.phcGovStatusSetMv (5 * (roundDiv mv.toNat 5).toNat)
      let c := (c.powerRec 2 0 mv.toNat).govRegs
      let c := if c.anyOut then c else c.govBounds
      c.firstInterval)

/-- AVS_SETTLE_CHECK (R408): die VCORE within 20 mV of the setpoint ends the flight; else SLOW counts the write once. -/
def execAvsSettleCheck (dieMv : Nat) (s : State) : Host.Outcome State Fault Refusal := onCtl s (fun c =>
  if !c.settling then c
  else if dieMv ≤ c.setMv + 20 ∧ c.setMv ≤ dieMv + 20 then c.flightEnd
  else if c.pwr.settleSeen then c
  else ({ c with pwr := { c.pwr with settleSeen := true } }).bump F.phcAvsStatusSlow 1)

/-- AVS_SETTLE_TIMEOUT (R408): 1 ms after a failed settling check the request fails as R407 states. -/
def execAvsSettleTimeout (s : State) : Host.Outcome State Fault Refusal := onCtl s (fun c =>
  if c.settling && c.pwr.settleSeen then c.avsFail c.setMv else c)

/-- GOV_ENABLE (R74): a write of PHC_GOV_CTRL; EN from 0 to 1 starts a new interval from the setpoint in force; from 1 to 0 what
is left of a request is not sent. -/
def Ctl.govCtrlWrite (c : Ctl) (v : Word) : Ctl :=
  let was := c.on F.phcGovCtrlEn
  let c := c.wr R.phcGovCtrl (v &&& w32 0x00FFFF73)
  let c := if was && !c.on F.phcGovCtrlEn then { c with pwr := { c.pwr with target := none } } else c
  let c := if !was && c.on F.phcGovCtrlEn && c.anyOut && c.fwRun then c.startInterval else c
  c.govBounds

/-- GOV_ENABLE (R74). -/
def execGovEnable (v : Word) (s : State) : Host.Outcome State Fault Refusal := onCtl s (fun c =>
  if c.running then c.govCtrlWrite v else c)

/-- The lines of a governor interval: INTERVAL × 32, 0 acting as 1 (Table 2.6). -/
def Ctl.intervalLines (c : Ctl) : Nat := max 1 (c.get F.phcGovCtrlInterval) * 32

/-- RAS_s_SLACK.MIN of the interval that ends, 0x7FFF where no line was recorded (Table 2.5). -/
def Ctl.slackMin (c : Ctl) (s : Nat) : Int := (c.rc s).runMin.getD 0x7FFF

/-- GOVERNOR_INTERVAL_END (R72): after INTERVAL × 32 lines of the shortest output, each output's MIN, the step rates of the
interval, and the law at the lowest MIN. -/
def execGovernorIntervalEnd (minRate maxRate : BitVec 16) (s : State) : Host.Outcome State Fault Refusal := onCtl s (fun c =>
  if !(c.fwRun && c.pwr.running && decide (c.intervalLines ≤ c.pwr.lines)) then c
  else
    let smin := (c.outputs.map c.slackMin).foldl min 0x7FFF
    let c := c.outputs.foldl (fun c o =>
      (c.put (F.rasSlackMin o) (ofSigned 16 (c.slackMin o))).rcSet o { c.rc o with runMin := none }) c
    let c := (c.put F.phcGovRateMin minRate.toNat).put F.phcGovRateMax maxRate.toNat
    let c := { c with pwr := { c.pwr with lines := c.pwr.lines - c.intervalLines } }
    c.govEvaluate false smin)

end Sys2Proof.Machine
end

