-- ==== Sys2Proof/Machine/Und.lean ====
section
/-! DEFINITION. Understorey (11_understorey_and_glade.md R330 … R352): banks and rewrites, feature vectors, evaluations,
decision units and the applied words. -/

namespace Sys2Proof.Machine

/-! Evaluation. -/

/-- The weight of row r on output j of a bank (R330, R336). -/
def Ctl.weight (c : Ctl) (a bank r j : Nat) : Int :=
  let b := mget 0 c.und.cells ((2 * a + bank) * 131072 + 128 * r + j)
  ((b % 16 : Nat) : Int) - ((b / 16 % 16 : Nat) : Int)

/-- ADC bits of R active rows (Table 11.1). -/
def adcBits (r : Nat) : Nat :=
  if r = 0 then 0 else if r ≤ 8 then 4 else if r ≤ 16 then 5 else if r ≤ 32 then 6 else if r ≤ 64 then 7
  else if r ≤ 128 then 8 else if r ≤ 256 then 9 else 10

/-- The active rows of an input (R331). -/
def activeRows (x : List Int) : Nat := (x.filter (· != 0)).length

/-- The code of one output aligned to 10 bits: its nominal value (R332) with the analog error of this evaluation (R334). -/
def outCode (y : Int) (r range : Nat) (err : Int) : Int :=
  let b := adcBits r
  let top : Int := 2 ^ (b - 1) - 1
  if r = 0 then 0
  else clampI (-top) top (roundDiv (y * top * 2 ^ range) (105 * r) + err) * 2 ^ (10 - b)

/-- The 128 outputs of array a for an input. -/
def Ctl.arrayEval (c : Ctl) (a : Nat) (x : List Int) (range : Nat) (err : List Int) : List Int :=
  let bank := c.get (F.undStatusActive a)
  (List.range 128).map (fun j =>
    outCode ((List.range 1024).foldl (fun s r => s + nth 0 x r * c.weight a bank r j) 0) (activeRows x) range (nth 0 err j))

/-- A layer's configuration (Table 11.5, UND_NET_n_L_j). -/
structure LayerCfg where
  first : Nat
  count : Nat
  out : Nat
  relu : Bool
  shift : Nat
  range : Nat
deriving DecidableEq, Repr

/-- The layer a configuration word describes. -/
def layerOf (w : Word) : LayerCfg :=
  ⟨fieldGet w 0 6, fieldGet w 6 2 + 1, fieldGet w 8 9 + 1, w.getLsbD 17, fieldGet w 18 4, fieldGet w 22 3⟩

/-- The rows of the layer after the first from the outputs before it (R344). -/
def nextRows (l : LayerCfg) (z : List Int) : List Int :=
  z.map (fun v => clampI (if l.relu then 0 else -7) 7 (roundDiv v (2 ^ l.shift)))

/-- The outputs a layer keeps. -/
def Ctl.layerEval (c : Ctl) (l : LayerCfg) (x : List Int) (err : List Int) : List Int :=
  ((List.range l.count).flatMap (fun i => c.arrayEval (l.first + i) x l.range (err.drop (128 * i)))).take l.out

/-- Registers of the arrays of a layer after an evaluation (UND_a_EVAL, UND_a_ADC). -/
def Ctl.layerRegs (c : Ctl) (l : LayerCfg) (r : Nat) : Ctl :=
  (List.range l.count).foldl (fun c i =>
    ((c.bump (F.undEvalCount (l.first + i)) 1).put (F.undAdcBits (l.first + i)) (adcBits r)).put (F.undAdcRows (l.first + i)) r) c

/-- The layers in order: the outputs of the last, the registers updated on the way. -/
def Ctl.netEval : List LayerCfg → List (List Int) → Bool → List Int → Ctl → Ctl × List Int
  | [], _, _, z, c => (c, z)
  | l :: ls, errs, first, z, c =>
    let x := if first then z else nextRows l z
    Ctl.netEval ls errs.tail false (c.layerEval l x (errs.headD [])) (c.layerRegs l (activeRows x))

/-- The layers of network n. -/
def Ctl.netLayers (c : Ctl) (n : Nat) : List LayerCfg :=
  (List.range (c.get (F.undNetCfgLayersM1 n) + 1)).map (fun j => layerOf (c.rd (R.undNetL n j)))

/-- The arrays of layers. -/
def arraysOf (ls : List LayerCfg) : List Nat := ls.flatMap (fun l => (List.range l.count).map (l.first + ·))

/-- The layers of the Glade network. -/
def Ctl.gldLayers (c : Ctl) : List LayerCfg :=
  (List.range (c.get F.gldNetCfgLayersM1 + 1)).map (fun j => layerOf (c.rd (R.gldNetL j)))

/-! Banks. -/

/-- Whether an enabled network, or Glade while it listens, uses array a. -/
def Ctl.arrayUsed (c : Ctl) (a : Nat) : Bool :=
  if 60 ≤ a then c.get F.gldStateState == 2 && (arraysOf c.gldLayers).contains a
  else (List.range 8).any (fun n => c.on (F.undNetCfgEn n) && (arraysOf (c.netLayers n)).contains a)

/-- The active bank of array a swapped, the request done. -/
def Ctl.swapNow (c : Ctl) (a : Nat) : Ctl :=
  (c.put (F.undStatusActive a) (1 - c.get (F.undStatusActive a))).put (F.undStatusSwapPend a) 0

/-- The pending swaps of arrays executed together (R340). -/
def Ctl.swapPending (c : Ctl) (as : List Nat) : Ctl :=
  as.foldl (fun c a => if c.on (F.undStatusSwapPend a) then c.swapNow a else c) c

/-- A refused request of array a. -/
def Ctl.undRej (c : Ctl) (a cause : Nat) : Ctl := (c.put (F.undStatusRej a) 1).put (F.undStatusRejCause a) cause

/-- Whether the inactive bank of array a is BAD. -/
def Ctl.inactiveBad (c : Ctl) (a : Nat) : Bool :=
  if c.on (F.undStatusActive a) then c.on (F.undStatusBad0 a) else c.on (F.undStatusBad1 a)

/-- Whether the active bank of array a is BAD. -/
def Ctl.activeBad (c : Ctl) (a : Nat) : Bool :=
  if c.on (F.undStatusActive a) then c.on (F.undStatusBad1 a) else c.on (F.undStatusBad0 a)

/-- SWAP = 1 (R340). -/
def Ctl.swapReq (c : Ctl) (a : Nat) : Ctl :=
  if c.inactiveBad a then c.undRej a 3
  else if c.get (F.undStatusRw a) = 1 then c.undRej a 4
  else if c.arrayUsed a then c.put (F.undStatusSwapPend a) 1 else c.swapNow a

/-- RW_GO = 1 (R337). -/
def Ctl.rwGo (c : Ctl) (a : Nat) : Ctl :=
  let h := c.get (F.undRwsrcHandle a)
  let off := c.get (F.undRwsrcOffset a) * 256
  let own := c.get (F.cnpHtW0Owner h)
  if c.get (F.undStatusRw a) = 1 then c.undRej a 1
  else if !c.on (F.cnpHtW0Valid h) ∨ own < 0x40 ∨ 0x80 ≤ own ∨ c.hSize h < off + 131072 then c.undRej a 2
  else
    { (c.put (F.undStatusRw a) 1) with und :=
      { c.und with rewrite := mset none c.und.rewrite a (some (c.hKey h off, 1 - c.get (F.undStatusActive a))) } }

/-- Whether the registers of array a can be reached: those of Glade's arrays not while Glade is isolated (R356). -/
def Ctl.undReach (c : Ctl) (a : Nat) : Bool := decide (a < 60) || !(c.gld.isolated || c.gld.off)

/-- A write of UND_a_CTRL: SWAP, then RW_GO. -/
def Ctl.undCtrlWrite (c : Ctl) (a : Nat) (v : Word) : Ctl :=
  if !c.undReach a then c
  else
    let c := if v.getLsbD 0 then c.swapReq a else c
    if v.getLsbD 1 then c.rwGo a else c

/-- RW_GO (R337). -/
def execRwGo (a : Fin 64) (v : Word) (s : State) : Host.Outcome State Fault Refusal := onCtl s (fun c =>
  if c.running then c.undCtrlWrite a.val v else c)

/-- SWAP (R340). -/
def execSwap (a : Fin 64) (v : Word) (s : State) : Host.Outcome State Fault Refusal := onCtl s (fun c =>
  if c.running then c.undCtrlWrite a.val v else c)

/-- REWRITE_DONE (R338): after the last row the target bank holds the image, and VFAIL against LIMIT decides BAD and RW. -/
def execRewriteDone (a : Fin 64) (vfail : BitVec 18) (s : State) : Host.Outcome State Fault Refusal := onHw s (fun w =>
  match mget none w.ctl.und.rewrite a.val with
  | none => w
  | some (key, bank) =>
    let (w, bs) := w.unitRead key 131072
    w.on (fun c =>
      let base := (2 * a.val + bank) * 131072
      let cells := (List.range 131072).foldl (fun m i => mset 0 m (base + i) (nth 0 bs i).toNat) c.und.cells
      let c := { c with und := { c.und with cells := cells, rewrite := mset none c.und.rewrite a.val none } }
      let bad := decide (c.get F.undVlimitLimit < vfail.toNat)
      let c := (c.put (F.undVfailCells a.val) vfail.toNat).put (F.undStatusRw a.val) (if bad then 3 else 2)
      c.put (if bank = 0 then F.undStatusBad0 a.val else F.undStatusBad1 a.val) (bit bad)))

/-! Features. -/

/-- The first column or line of block i of n over x (R342). -/
def blockAt (i x n : Nat) : Nat := i * x / n

/-- The sum of a quantity over the pixels of block (i, k) of an nx × ny grid. -/
def blockSum (f : Nat → Nat → Nat) (hact vact nx ny i k : Nat) : Nat :=
  (List.range (blockAt (k + 1) vact ny - blockAt k vact ny)).foldl (fun s y =>
    (List.range (blockAt (i + 1) hact nx - blockAt i hact nx)).foldl (fun s x =>
      s + f (blockAt k vact ny + y) (blockAt i hact nx + x)) s) 0

/-- The pixels of a block; those with x ≥ 1 where a difference is taken. -/
def blockCount (hact vact nx ny i k : Nat) (diff : Bool) : Nat :=
  let w := blockAt (i + 1) hact nx - blockAt i hact nx
  (blockAt (k + 1) vact ny - blockAt k vact ny) * (if diff && i == 0 then w - 1 else w)

/-- An entry: 7 × 2^G × num / den rounded and held in −7 … 7. -/
def featEntry (g : Nat) (num : Int) (den : Nat) : Int := clampI (-7) 7 (roundDiv (7 * 2 ^ g * num) (max 1 den))

/-- The feature vector of a luma plane and the one before it (Table 11.2). -/
def features (cur prev : List (List Nat)) (hact vact bpc gDiff gMean gHf : Nat) : List Int :=
  let at' (p : List (List Nat)) (y x : Nat) : Nat := nth 0 (nth [] p y) x
  let top := 2 ^ bpc - 1
  let hf (y x : Nat) : Nat := if x = 0 then 0 else (at' cur y x : Int) - (at' cur y (x - 1) : Int) |>.natAbs
  (List.range 512).map (fun e =>
    let (i, k) := (e % 32, e / 32)
    featEntry gDiff ((blockSum (at' cur) hact vact 32 16 i k : Int) - blockSum (at' prev) hact vact 32 16 i k)
      (blockCount hact vact 32 16 i k false * top)) ++
  (List.range 256).map (fun e =>
    let (i, k) := (e % 16, e / 16)
    featEntry gMean (blockSum (at' cur) hact vact 16 16 i k) (blockCount hact vact 16 16 i k false * top)) ++
  (List.range 256).map (fun e =>
    let (i, k) := (e % 16, e / 16)
    featEntry gHf (blockSum hf hact vact 16 16 i k) (blockCount hact vact 16 16 i k true * top))

/-- Bits per component of a context: BPC 0, 1, 2 are 8, 10, 12. -/
def Ctl.bpc (c : Ctl) (s : Nat) : Nat := 8 + 2 * min 2 (c.get (F.stcFmtBpc s))

/-- A whole frame of input context i received in RUN starts the evaluations of its networks (R346): pending swaps first
(R340); a network still busy skips the frame. -/
def Ctl.undFrame (c : Ctl) (i : Nat) : Ctl :=
  if c.on F.phcThermStatusTrip then c
  else (List.range 8).foldl (fun c n =>
    if !(c.on (F.undNetCfgEn n) && c.get (F.undNetCfgCtx n) == i) then c
    else if c.und.evalBusy.contains n then c.bump (F.undNetSkipCount n) 1
    else
      let v := c.vc i
      let prev := if v.prevLuma.isEmpty then v.luma else v.prevLuma
      let x := features v.luma prev (c.get (F.stcGeomHact i)) (c.get (F.stcGeomVact i)) (c.bpc i)
        (c.get (F.undNetCfgGDiff n)) (c.get (F.undNetCfgGMean n)) (c.get (F.undNetCfgGHf n))
      let c := c.swapPending (arraysOf (c.netLayers n))
      { c with und := { c.und with evalBusy := n :: c.und.evalBusy, evalFrame := mset 0 c.und.evalFrame n v.inFrame
                                   features := mset [] c.und.features n x } }) c

/-! Decision units. -/

/-- Score of index k of network n, signed. -/
def Ctl.score (c : Ctl) (n k : Nat) : Int := toSigned 16 (fieldGet (c.rd (R.undNetSc n (k / 2))) (16 * (k % 2)) 16)

/-- PENDING bit d of network n set to b. -/
def Ctl.pendBit (c : Ctl) (n d : Nat) (b : Bool) : Ctl :=
  let p := c.get (F.undNetDwordPending n)
  c.put (F.undNetDwordPending n) (if b then setBit p d else clrBit p d)

/-- One unit after an evaluation (Table 11.3): the condition of its present state counted, and its transition. -/
def Ctl.unitUpdate (c : Ctl) (n d : Nat) : Ctl :=
  if !c.on (F.undNetDAEn n d) then c
  else
    let key := 8 * n + d
    let s := c.score n (c.get (F.undNetDAScore n d))
    let on := decide (toSigned 10 (c.get (F.undNetDBOn n d)) ≤ s)
    let off := decide (s ≤ toSigned 10 (c.get (F.undNetDBOff n d)))
    let event := c.on (F.undNetDAKind n d)
    let high := if event then mget false c.und.disarmed key else tbit (c.get (F.undNetDwordPending n)) d
    let a := if on && !high then mget 0 c.und.onCount key + 1 else 0
    let b := if off && high then mget 0 c.und.offCount key + 1 else 0
    let up := !high && decide (max 1 (c.get (F.undNetDANOn n d)) ≤ a)
    let dn := high && decide (max 1 (c.get (F.undNetDANOff n d)) ≤ b)
    let turn := up || dn
    let c := { c with und := { c.und with onCount := mset 0 c.und.onCount key (if turn then 0 else a)
                                          offCount := mset 0 c.und.offCount key (if turn then 0 else b) } }
    if event then
      let c := if up then c.pendBit n d true else c
      if turn then { c with und := { c.und with disarmed := mset false c.und.disarmed key up } } else c
    else if turn then c.pendBit n d up else c

/-- The units of network n at their start: level bits 0, event units armed, counts anew (R348). -/
def Ctl.unitsReset (c : Ctl) (n : Nat) : Ctl :=
  (List.range 8).foldl (fun c d =>
    let c := if c.on (F.undNetDAKind n d) then c else c.pendBit n d false
    { c with und := { c.und with onCount := merase c.und.onCount (8 * n + d), offCount := merase c.und.offCount (8 * n + d)
                                 disarmed := merase c.und.disarmed (8 * n + d) } }) c

/-- A stream start of input context i resets the units of its networks (R348) and the feature tap (R342). -/
def Ctl.undStreamStart (c : Ctl) (i : Nat) : Ctl :=
  let c := c.vcSet i { c.vc i with luma := [], prevLuma := [] }
  (List.range 8).foldl (fun c n => if c.on (F.undNetCfgEn n) && c.get (F.undNetCfgCtx n) == i then c.unitsReset n else c) c

/-- EVALUATION_END (R345): the layers with the analog errors of this evaluation (R334), the scores, FRAME, the units. -/
def execEvaluationEnd (n : Fin 8) (errs : List (List Int)) (s : State) : Host.Outcome State Fault Refusal := onCtl s (fun c =>
  if !c.und.evalBusy.contains n.val then c
  else
    let (c, z) := Ctl.netEval (c.netLayers n.val) errs true (mget [] c.und.features n.val) c
    let c := (List.range 8).foldl (fun c k =>
      (c.put (F.undNetScLo n.val k) (ofSigned 16 (nth 0 z (2 * k)))).put (F.undNetScHi n.val k) (ofSigned 16 (nth 0 z (2 * k + 1)))) c
    let c := c.put (F.undNetFrameFrame n.val) (mget 0 c.und.evalFrame n.val)
    let c := { c with und := { c.und with evalBusy := c.und.evalBusy.filter (· != n.val) } }
    (List.range 8).foldl (fun c d => c.unitUpdate n.val d) c)

/-! Network configuration. -/

/-- Whether network n with configuration word v may be enabled (R347). -/
def Ctl.netOk (c : Ctl) (n : Nat) (v : Word) : Bool :=
  let ctx := fieldGet v 2 5
  let ls := (List.range (fieldGet v 7 3 + 1)).map (fun j => layerOf (c.rd (R.undNetL n j)))
  let as := arraysOf ls
  decide (ctx < 24) && c.get (F.stcCtrlDir ctx) == 0 && decide (c.get (F.stcCtrlSrc ctx) ≤ 2) &&
    as.all (fun a => decide (a < 60)) && decide as.Nodup &&
    (List.range 8).all (fun m => m == n || !c.on (F.undNetCfgEn m) || (arraysOf (c.netLayers m)).all (fun a => !as.contains a)) &&
    ls.all (fun l => decide (l.out ≤ 128 * l.count)) &&
    (List.range 8).all (fun d => !c.on (F.undNetDAEn n d) ||
      decide (toSigned 10 (c.get (F.undNetDBOff n d)) < toSigned 10 (c.get (F.undNetDBOn n d))))

/-- The writable bits of UND_NET_n_CFG other than EN. -/
def netCfgMask : Word := 0x0007FFFC

/-- A write of UND_NET_n_CFG (R347, R348): CFG_REJ clears where written 1; while EN is 1 only EN may change; EN = 1 needs the
checks; with EN 0 an array's pending swap is done at once (R340). -/
def Ctl.netCfgWrite (c : Ctl) (n : Nat) (v : Word) : Ctl :=
  let c := if v.getLsbD 1 then c.put (F.undNetCfgCfgRej n) 0 else c
  let old := c.rd (R.undNetCfg n)
  if c.on (F.undNetCfgEn n) then
    let c := if (v ^^^ old) &&& netCfgMask = 0 then c else c.put (F.undNetCfgCfgRej n) 1
    if v.getLsbD 0 then c else (c.put (F.undNetCfgEn n) 0).swapPending (arraysOf (c.netLayers n))
  else if v.getLsbD 0 && !c.netOk n v then c.put (F.undNetCfgCfgRej n) 1
  else
    let c := c.wr (R.undNetCfg n) ((old &&& 2) ||| (v &&& (netCfgMask ||| 1)))
    if v.getLsbD 0 then c.unitsReset n else c

/-- NETWORK_ENABLE (R347). -/
def execNetworkEnable (n : Fin 8) (v : Word) (s : State) : Host.Outcome State Fault Refusal := onCtl s (fun c =>
  if c.running then c.netCfgWrite n.val v else c)

/-! Application. -/

/-- The event bits of PENDING of network n (units of KIND 1). -/
def Ctl.eventMask (c : Ctl) (n : Nat) : Nat :=
  (List.range 8).foldl (fun m d => if c.on (F.undNetDAKind n d) then setBit m d else m) 0

/-- PENDING taken, its event bits cleared (R349). -/
def Ctl.takePending (c : Ctl) (n : Nat) : Ctl × Nat :=
  let p := c.get (F.undNetDwordPending n)
  (c.put (F.undNetDwordPending n) (p - (p &&& c.eventMask n)), p)

/-- The lowest unit of a set of bits. -/
def lowBit (x : Nat) : Option Nat := (List.range 8).find? (fun d => tbit x d)

/-- What a decision record says of the evaluations folded into a word: UND_NET_n_FRAME and the score of each unit (Table 11.4). -/
def Ctl.evalInfo (c : Ctl) (n : Nat) : Nat × List Nat :=
  (c.get (F.undNetFrameFrame n), (List.range 8).map (fun d => ofSigned 16 (c.score n (c.get (F.undNetDAScore n d)))))

/-- Those of the word that applies next: in a pair they were taken when the word was staged; a word that came from the partner is
reported with those of the own word staged beside it (DESIGN CHOICE, log entry 160). -/
def Ctl.wordInfo (c : Ctl) (n : Nat) : Nat × List Nat :=
  if c.paired then (mget none c.und.stagedAt n).getD (c.evalInfo n) else c.evalInfo n

/-- The decision record of an applied word (R351, Table 11.4). -/
def Ctl.decisionRec (c : Ctl) (i n : Nat) (frame : Word) (word prev : Nat) (mirrored : Bool) (info : Nat × List Nat) : Ctl :=
  let ev := word &&& c.eventMask n
  if word = prev ∧ ev = 0 then c
  else
    let unit := match lowBit (word ^^^ prev) with
      | some d => some d
      | none => lowBit ev
    let sc := match unit with
      | some d => nth 0 info.2 d
      | none => 0
    c.postReport i [13, frame, w32 info.1,
      w32 (word + 2 ^ 8 * prev + 2 ^ 16 * i + 2 ^ 21 * n + 2 ^ 24 * bit mirrored), w32 sc, 0]

/-- The word that applies at the boundary of frame k for network n, and whether the partner sent it (R349, R352, R385): alone
PENDING itself; in a pair the staging word of the boundary before, a secondary's the primary's; none: the last word stays. -/
def Ctl.applyWord (c : Ctl) (n : Nat) (k : Word) : Ctl × Option Nat × Bool :=
  if !c.paired then let (c, p) := c.takePending n; (c, some p, false)
  else
    let own := mget none c.und.staging n
    let (c, p) := c.takePending n
    let c := { c with und := { c.und with staging := mset none c.und.staging n (some p)
                                          stagedAt := mset none c.und.stagedAt n (some (c.evalInfo n)) } }
    if c.isSecondary then
      match mget none c.und.peerWord n with
      | some (f, x) => if f = k then (c, some x, true) else (c, none, true)
      | none => (c, none, true)
    else (c, own, false)

/-- DECISION_APPLY and DECISION_RECORD at the boundary of output s at which frame k starts (R349, R351); the input contexts
with an applied CUT event (R350). -/
def Ctl.applyDecisions (c : Ctl) (s : Nat) (k : Word) : Ctl × List Nat :=
  (List.range 8).foldl (fun (c, cuts) n =>
    let i := c.get (F.undNetCfgCtx n)
    if !(c.on (F.undNetCfgEn n) && decide (i < 24) && c.get (F.stcCtrlLink i) == s) then (c, cuts)
    else
      let prev := c.get (F.undNetDwordApplied n)
      let info := c.wordInfo n
      let (c, x, mir) := c.applyWord n k
      let word := x.getD prev
      let c := (c.put (F.undNetDwordApplied n) word).decisionRec i n k word prev mir info
      let cut := x.isSome && (List.range 8).any (fun d => tbit word d && c.on (F.undNetDAKind n d) && c.on (F.undNetDACut n d))
      (c, if cut then i :: cuts else cuts)) (c, [])

/-- The staging words of input context i's networks, as the primary sends them (R384, R385). -/
def Ctl.stagedWords (c : Ctl) (i : Nat) : List (Fin 8 × BitVec 8) :=
  (List.finRange 8).filterMap (fun n => if c.on (F.undNetCfgEn n.val) && c.get (F.undNetCfgCtx n.val) == i then
    (mget none c.und.staging n.val).map (fun p => (n, BitVec.ofNat 8 p)) else none)

end Sys2Proof.Machine
end

