-- ==== Sys2Proof/Machine/Glade.lean ====
section
/-! DEFINITION. The Glade island (11_understorey_and_glade.md R353 … R364): its registers as the main domain reaches them,
audio, features, the keyword network, detection, the result FIFO and isolation. -/

namespace Sys2Proof.Machine

/-- Whether the GLD_ registers are reachable: the main domain runs, FWSTATE reads RUN, Glade is powered and not isolated
(R356, R512). -/
def Ctl.gldReach (c : Ctl) : Bool := c.running && c.fwRun && !c.gld.isolated && !c.gld.off

/-- Whether Glade listens (Table 11.6). -/
def Ctl.gldListens (c : Ctl) : Bool := !c.gld.off && c.get F.gldStateState == 2

/-- Glade time in ms: from the VGLADE power-on (log entry 48). -/
def Ctl.gldMs (c : Ctl) : Nat := (c.now - c.gld.base) / 1000000 % 2 ^ 32

/-- A change of Glade outside its registers. -/
def Ctl.gldMod (c : Ctl) (f : Gld → Gld) : Ctl := { c with gld := f c.gld }

/-- GLD_RESULT and GLD_RESULT_T show the oldest entry, word 127 when the FIFO is empty (R362). -/
def Ctl.gldResultRegs (c : Ctl) : Ctl :=
  let h := c.gld.fifo.headD (127, 0)
  ((c.put F.gldResultWord h.1).put F.gldResultLevel c.gld.fifo.length).put F.gldResultTMs h.2

/-- Whether LISTEN_EN = 1 is accepted (R355). -/
def Ctl.gldMayListen (c : Ctl) : Bool :=
  c.on F.gldStateProg && (c.on F.gldMicMic1 || c.on F.gldMicMic2) &&
    (arraysOf c.gldLayers).all (fun a => decide (60 ≤ a ∧ a < 64) && !c.activeBad a)

/-- The write of LISTEN_EN (R354, R355); leaving LISTEN ends the evaluation in progress and does pending swaps at once. -/
def Ctl.gldListen (c : Ctl) (en : Bool) : Ctl :=
  if en then
    if c.on F.gldCtrlListenEn then c
    else if c.gldMayListen then (c.put F.gldCtrlListenEn 1).put F.gldStateState 2
    else c.put F.gldStateCfgRej 1
  else if c.on F.gldCtrlListenEn then
    let as := arraysOf c.gldLayers
    let c := (c.put F.gldCtrlListenEn 0).put F.gldStateState 1
    (c.gldMod (fun g => { g with evalIn := none })).swapPending as
  else c

/-- The write of ACK = 1: the oldest result removed, WAKE_N released when the FIFO empties (R363). -/
def Ctl.gldAck (c : Ctl) : Ctl :=
  if c.gld.fifo.isEmpty then c
  else
    let c := (c.gldMod (fun g => { g with fifo := g.fifo.tail })).gldResultRegs
    if c.gld.fifo.isEmpty then c.put F.gldStateWake 0 else c

/-- A write of GLD_CTRL. -/
def Ctl.gldCtrlWrite (c : Ctl) (v : Word) : Ctl :=
  let c := if v.getLsbD 1 then c.gldAck else c
  c.gldListen (v.getLsbD 0)

/-- A write of another GLD_ register, given the bits that take the written value: while LISTEN_EN is 1 only GLD_WIN
changes, and a write to the others sets CFG_REJ (Table 11.8). -/
def Ctl.gldRegWrite (c : Ctl) (a : Nat) (mask v : Word) : Ctl :=
  if a = R.gldState then (if v.getLsbD 5 then c.put F.gldStateCfgRej 0 else c)
  else if mask = 0 then c
  else if c.on F.gldCtrlListenEn && a != R.gldWin then c.put F.gldStateCfgRej 1
  else c.wr a ((c.rd a &&& ~~~mask) ||| (v &&& mask))

/-- A write of GLD_CTRL by the host; where it is not reachable the offset is unoccupied (R273, R512). -/
def Ctl.gldHostCtrl (c : Ctl) (v : Word) : Ctl :=
  if c.gldReach then c.gldCtrlWrite v else if c.running then c.bump F.glbBar0ErrCount 1 else c

/-- LISTEN_EN (R355): a write of GLD_CTRL. -/
def execListenEn (v : Word) (s : State) : Host.Outcome State Fault Refusal := onCtl s (fun c => c.gldHostCtrl v)

/-- ACK (R363): a write of GLD_CTRL. -/
def execAck (v : Word) (s : State) : Host.Outcome State Fault Refusal := onCtl s (fun c => c.gldHostCtrl v)

/-! Audio and features. -/

/-- A sample enters the ring of 32 768 (R358, R364). -/
def Ctl.audioPut (c : Ctl) (x : Nat) : Ctl :=
  let p := c.get F.gldAudioPosPos
  let a := R.gldAudio (p / 2)
  (c.wr a (fieldPut (c.rd a) (16 * (p % 2)) 16 x)).put F.gldAudioPosPos (p + 1)

/-- AUDIO_SAMPLE (R358): the enabled microphone's sample, or the mean of the two rounded under R244. -/
def execAudioSample (mic1 mic2 : BitVec 16) (s : State) : Host.Outcome State Fault Refusal := onCtl s (fun c =>
  if !c.gldListens then c
  else if c.on F.gldMicMic1 && c.on F.gldMicMic2 then c.audioPut (ofSigned 16 (roundDiv (mic1.toInt + mic2.toInt) 2))
  else c.audioPut (if c.on F.gldMicMic1 then mic1.toNat else mic2.toNat))

/-- The network input of the latest vectors: row 40 × age + band, rows 960 … 1023 zero (R359). -/
def gldInput (vs : List (List Int)) : List Int :=
  let rows := (List.range 24).flatMap (fun a => (List.range 40).map (fun b => nth 0 (nth [] vs a) b))
  rows ++ List.replicate 64 0

/-- The last 400 samples of GLD_AUDIO, the oldest first (R359). -/
def Ctl.gldSamples (c : Ctl) : List (BitVec 16) :=
  (List.range 400).map (fun i =>
    let p := (c.get F.gldAudioPosPos + 32768 - 400 + i) % 32768
    BitVec.ofNat 16 (fieldGet (c.rd (R.gldAudio (p / 2))) (16 * (p % 2)) 16))

/-- A band's quantised value from its distance to the running mean, with the gain (R359). -/
def gldQuant (gain : Nat) (d : Int) : Int := clampI (-7) 7 (roundDiv (7 * 2 ^ gain * d) 65536)

/-- A vector of forty bands formed, each band's running mean brought up to date (R359; log entry 49). -/
def Ctl.gldVector (c : Ctl) : Ctl × List Int :=
  let xs := c.gldSamples
  let bands := (List.range 40).map (fun b => (b, Config.melBand b xs))
  let means := bands.foldl (fun m p => mset 0 m p.1 (Config.melMean p.1 (mget 0 m p.1) p.2)) c.gld.means
  (c.gldMod (fun g => { g with means := means }),
   bands.map (fun p => gldQuant (c.get F.gldMicGAud) (p.2 - mget 0 means p.1)))

/-- GLADE_FEATURE_VECTOR (R359, R360): a vector is formed and enters; an evaluation starts, with the pending swaps of its arrays executed,
unless one still runs, which skips the vector and counts in DROP. -/
def execGladeFeatureVector (s : State) : Host.Outcome State Fault Refusal := onCtl s (fun c =>
  if !c.gldListens then c
  else
    let (c, v) := c.gldVector
    let c := c.gldMod (fun g => { g with vectors := (v :: g.vectors).take 24 })
    if c.gld.evalIn.isSome then c.bump F.gldCntDrop 1
    else (c.swapPending (arraysOf c.gldLayers)).gldMod (fun g => { g with evalIn := some (gldInput g.vectors) }))

/-! Detection (R361 … R363). -/

/-- A firing: counted, pushed where the FIFO has room, dropped and counted otherwise; WAKE_N asserted by a wake phrase that
enters; the refractory period begins. -/
def Ctl.gldFire (c : Ctl) (word : Nat) : Ctl :=
  let c := c.bump F.gldCntDetect 1
  let c :=
    if c.gld.fifo.length < 4 then
      let t := c.gldMs
      let c := (c.gldMod (fun g => { g with fifo := g.fifo ++ [(word, t)] })).gldResultRegs
      if word = 0 then c.put F.gldStateWake 1 else c
    else c.bump F.gldCntDrop 1
  let r := decide (c.get F.gldWinRefract ≠ 0)
  c.gldMod (fun g => { g with refract := r, wakeRun := 0, cmdRun := (0, 0) })

/-- The command window opened or closed. -/
def Ctl.gldWindow (c : Ctl) (on : Bool) : Ctl := (c.gldMod (fun g => { g with window := on })).put F.gldStateWindow (bit on)

/-- The lowest command 1 … 64 whose score is the largest. -/
def gldBest (z : List Int) : Nat :=
  (List.range 64).foldl (fun b i => if nth 0 z b < nth 0 z (i + 1) then i + 1 else b) 1

/-- The scores judged (R361): the wake phrase first. -/
def Ctl.gldJudge (c : Ctl) (z : List Int) : Ctl :=
  let n := max 1 (c.get F.gldThrNWake)
  let wake := decide (toSigned 10 (c.get F.gldThrWakeOn) ≤ nth 0 z 0)
  let k := gldBest z
  let cmd := c.gld.window && decide (toSigned 10 (c.get F.gldThrCmdOn) ≤ nth 0 z k)
  let c := c.gldMod (fun g =>
    { g with wakeRun := if wake then g.wakeRun + 1 else 0
             cmdRun := if cmd then (k, if g.cmdRun.1 = k then g.cmdRun.2 + 1 else 1) else (0, 0) })
  if c.gld.refract then c
  else if n ≤ c.gld.wakeRun then (c.gldFire 0).gldWindow (decide (c.get F.gldWinCmdWindow ≠ 0))
  else if cmd && decide (n ≤ c.gld.cmdRun.2) then (c.gldFire k).gldWindow false
  else c

/-- GLADE_EVALUATION_END (R360, R361): the layers with the analog errors of this evaluation, then the judgement. While Glade is isolated,
or the main domain is in reset, nothing of it reaches main-domain registers (R356, Table 17.3). -/
def execGladeEvaluationEnd (errs : List (List Int)) (s : State) : Host.Outcome State Fault Refusal := onCtl s (fun c =>
  match c.gld.evalIn with
  | none => c
  | some x =>
    let (d, z) := Ctl.netEval c.gldLayers errs true x c
    let c := if c.running && !c.gld.isolated then d else { c with free := d.free }
    (c.gldMod (fun g => { g with evalIn := none })).gldJudge z)

/-- COMMAND_WINDOW_END (R361). -/
def execCommandWindowEnd (s : State) : Host.Outcome State Fault Refusal := onCtl s (fun c =>
  if c.gld.window then (c.gldWindow false).gldMod (fun g => { g with cmdRun := (0, 0) }) else c)

/-- REFRACT_END (R361). -/
def execRefractEnd (s : State) : Host.Outcome State Fault Refusal := onCtl s (fun c => c.gldMod (fun g => { g with refract := false }))

/-! Isolation (R356). -/

/-- STBY_REQ read at a level: Glade isolated or reachable again. -/
def Ctl.stbyReq (c : Ctl) (asserted : Bool) : Ctl :=
  let c := c.gldMod (fun g => { g with isolated := asserted })
  if c.gld.off then c else c.put F.gldStateIsolated (bit asserted)

/-- STBY_REQ_ASSERT (R356). -/
def execStbyReqAssert (s : State) : Host.Outcome State Fault Refusal := onCtl s (fun c => c.stbyReq true)

/-- STBY_REQ_DEASSERT (R356). -/
def execStbyReqDeassert (s : State) : Host.Outcome State Fault Refusal := onCtl s (fun c => c.stbyReq false)

end Sys2Proof.Machine
end

