-- ==== Sys2Proof/Machine/Pins.lean ====
section
/-! DEFINITION. The ambient-light comparator, the strap monitor and the live pin register (15_pins_and_electrical.md R474 …
R479). -/

namespace Sys2Proof.Machine

/-- The consecutive samples counted for the next change of level. -/
def Ctl.ambCountSet (c : Ctl) (n : Nat) : Ctl := { c with boot := { c.boot with ambCount := n } }

/-- A change of level: CHG, the counter, and with REP_EN the status record of SUBKIND 8 (R477; log entry 26). -/
def Ctl.ambChange (c : Ctl) (mv : Nat) : Ctl :=
  let lv := 1 - c.get F.phcAmbStatusLevel
  let c := ((c.ambCountSet 0).put F.phcAmbStatusLevel lv).put F.phcAmbStatusChg 1
  let c := c.bump F.phcAmbCntCount 1
  if c.on F.phcAmbCfgRepEn then c.postFreeSrc 8 stOk [w32 lv, w32 mv] else c

/-- A converted sample (R474, R475): voltages above 1800 mV read 1800 and those below 0 mV read 0; in reset the level stays DIM. -/
def Ctl.ambSample (c : Ctl) (v : Nat) : Ctl :=
  let mv := min 1800 v
  let c := c.put F.phcAmbStatusMv mv
  if !c.running then c
  else
    let meets := if c.on F.phcAmbStatusLevel then decide (mv ≤ c.get F.phcAmbCfgLoMv) else decide (c.get F.phcAmbCfgHiMv ≤ mv)
    if !meets then c.ambCountSet 0
    else if max 1 (c.get F.phcAmbCfgDeb) ≤ c.boot.ambCount + 1 then c.ambChange mv
    else c.ambCountSet (c.boot.ambCount + 1)

/-- AMB_SAMPLE (R475). -/
def execAmbSample (mv : Int) (s : State) : Host.Outcome State Fault Refusal := onCtl s (fun c => c.ambSample mv.toNat)

/-- A write of PHC_AMB_CFG (R476): ignored whole with CFG_IGN where HI_MV − LO_MV < 20 or HI_MV > 1800; else the thresholds,
and the count restarts. -/
def Ctl.ambCfgWrite (c : Ctl) (v : Word) : Ctl :=
  if fieldGet v 16 11 < fieldGet v 0 11 + 20 ∨ 1800 < fieldGet v 16 11 then c.put F.phcAmbStatusCfgIgn 1
  else (c.wr R.phcAmbCfg (v &&& 0xF7FF87FF)).ambCountSet 0

/-- AMB_CFG_WRITE (R476). -/
def execAmbCfgWrite (v : Word) (s : State) : Host.Outcome State Fault Refusal := onCtl s (fun c =>
  if c.running then c.ambCfgWrite v else c)

/-- STRAP_SAMPLE (R478): the strap balls, compared with the values sampled at the last reset exit. -/
def execStrapSample (st : Straps) (s : State) : Host.Outcome State Fault Refusal := onCtl s (fun c =>
  let c := { c with boot := { c.boot with live := st } }
  let h := c.boot.straps
  if c.running && !(st.pairId == h.pairId && st.mgmtAddr == h.mgmtAddr && st.bootRec == h.bootRec) then
    c.put F.phcPinStatusStrapChg 1
  else c)

/-- PHC_PIN_STATUS as it reads: the live balls and STRAP_CHG (Table 15.6). -/
def Ctl.pinStatus (c : Ctl) : Word :=
  let l := c.boot.live
  w32 (bit (!c.hng.peerN) + 2 * bit c.hng.fsyncOut + 4 * bit (c.pwr.trip || c.on F.phcThermStatusTrip) + 8 * bit c.gld.isolated +
    256 * bit l.pairId + 512 * l.mgmtAddr.toNat + 2048 * bit l.bootRec) ||| (c.rd R.phcPinStatus &&& 0x1000)

end Sys2Proof.Machine
end

