-- ==== Sys2Proof/Machine/Video.lean ====
section
/-! DEFINITION. Video ports and streams (03_video_ports.md): stream-context registers, arming, receivers, ingress, the frame
store, input loss and its recovery, replay, planes, CSI-2, hot-plug. -/

namespace Sys2Proof.Machine

/-! Contexts. -/

/-- A change of stream context s. -/
def Ctl.vcMod (c : Ctl) (s : Nat) (f : VCtx → VCtx) : Ctl := c.vcSet s (f (c.vc s))
/-- A change of the raster engine of output s. -/
def Ctl.rcMod (c : Ctl) (s : Nat) (f : RCtx → RCtx) : Ctl := c.rcSet s (f (c.rc s))

/-- What a context is by DIR and SRC of a CTRL word: 0 an input, 1 an output, 2 a plane (R87; log entry 33). -/
def ctrlKind (v : Word) : Nat := if v.getLsbD 1 then 1 else if fieldGet v 2 3 = 3 then 2 else 0

/-- What context s is. -/
def Ctl.kind (c : Ctl) (s : Nat) : Nat := ctrlKind (c.rd (R.stcCtrl s))

/-- The bits of the register at an offset that apply to a kind of context; the others read 0 (R87, Table 3.1). -/
def stcMask (kind off : Nat) : Word :=
  match off, kind with
  | 0x00, 0 => 0xFF1F1FFF
  | 0x00, _ => 0x001F00FF
  | 0x08, 2 => 0
  | 0x0C, 2 => 0
  | 0x10, 0 => 0x000000FF
  | 0x10, 1 => 0x0000007F
  | 0x10, _ => 0x00000F7F
  | 0x14, 0 => 0x07FFFF07
  | 0x14, _ => 0
  | 0x18, 2 => 0
  | 0x1C, 0 => 0x000FFFFF
  | 0x1C, 1 => 0
  | 0x1C, _ => 0x0003FFFF
  | 0x20, 2 => 0x1FFF1FFF
  | 0x20, _ => 0
  | 0x2C, 0 => 0x00FFFFFF
  | 0x2C, _ => 0
  | _, _ => 0xFFFFFFFF

/-- The bits of a register that a host write may change (Table 3.1). -/
def stcWrMask (kind off : Nat) : Word :=
  match off, kind with
  | 0x00, 0 => 0xFF1F1FFF
  | 0x00, _ => 0x001F00FF
  | 0x04, _ => 0x1FFF1FFF
  | 0x08, 1 => 0x3FFF3FFF
  | 0x0C, 0 => 0xFF000000
  | 0x0C, 1 => 0xFFFFFFFF
  | 0x10, 2 => 0x00000F7F
  | 0x10, _ => 0x0000007F
  | 0x14, 0 => 0x0000FF07
  | 0x18, 2 => 0
  | 0x18, _ => 0x00FF3FFF
  | 0x1C, 1 => 0
  | 0x1C, _ => 0x0003FFFF
  | 0x20, 2 => 0x1FFF1FFF
  | 0x24, _ => 0x000003FF
  | _, _ => 0

/-- The masked bits of a register written. -/
def Ctl.maskPut (c : Ctl) (a : Nat) (m v : Word) : Ctl := c.wr a ((c.rd a &&& ~~~m) ||| (v &&& m))

/-- The deferred writes of context s applied (R88). -/
def Ctl.applyDeferred (c : Ctl) (s : Nat) : Ctl :=
  let v := c.vc s
  let put (off : Nat) (m : Word) (d : Option Word) (c : Ctl) : Ctl := match d with
    | some x => c.maskPut (R.stcCtrl s + off) m x
    | none => c
  let c := put 0x00 0xFF001C00 v.dCtrl c
  let c := put 0x14 0x0000FF07 v.dSched c
  let c := put 0x1C 0x0003FFFF v.dFstore c
  let c := put 0x20 0x1FFF1FFF v.dPos c
  let c := put 0x24 0x000003FF v.dReport c
  c.vcMod s (fun v => { v with dCtrl := none, dSched := none, dFstore := none, dPos := none, dReport := none })

/-! The frame store (R105). -/

/-- Whether context s exchanges halos (R398, R400). -/
def Ctl.haloed (c : Ctl) (s : Nat) : Bool := c.mode == 3 && decide (c.get (F.stcCtrlSrc s) ≤ 1)

/-- Pixels and lines of a stored frame. -/
def Ctl.storeW (c : Ctl) (s : Nat) : Nat := c.get (F.stcGeomHact s) + if c.haloed s then 64 else 0
/-- Lines of a stored frame. -/
def Ctl.storeH (c : Ctl) (s : Nat) : Nat := c.get (F.stcGeomVact s) + if c.haloed s then 6 else 0

/-- Samples of a chroma plane of n pixels. -/
def Ctl.chromaOf (c : Ctl) (s n : Nat) : Nat := if c.get (F.stcFmtSamp s) ≤ 1 then n else n / 2

/-- Bytes of a stored line: BPC × components per pixel, padded to a multiple of 64 bytes. -/
def Ctl.storePitch (c : Ctl) (s : Nat) : Nat :=
  ((c.bpc s * (c.storeW s + 2 * c.chromaOf s (c.storeW s)) + 7) / 8 + 63) / 64 * 64

/-- Bytes of a stored frame. -/
def Ctl.storeFrame (c : Ctl) (s : Nat) : Nat := c.storePitch s * c.storeH s

/-- Key of row r of buffer b. -/
def Ctl.storeKey (c : Ctl) (s b r : Nat) : Nat :=
  dramKey (c.get (F.stcFstoreBase s) * 65536 + b * c.storeFrame s + r * c.storePitch s)

/-- Values packed from bit 0 up (DEDUCED, log entry 34). -/
def packVals (bpc : Nat) (vals : List Nat) : Nat := vals.foldr (fun v a => v % 2 ^ bpc + 2 ^ bpc * a) 0

/-- n values unpacked. -/
def unpackVals (bpc n x : Nat) : List Nat := (List.range n).map (fun i => (x >>> (bpc * i)) % 2 ^ bpc)

/-- A list's n elements from position i replaced. -/
def splice (l : List Nat) (i : Nat) (new : List Nat) : List Nat := l.take i ++ new ++ l.drop (i + new.length)

/-- Row r of buffer b as three planes. -/
def W.storeRow (w : W) (s b r : Nat) : Line :=
  let c := w.ctl
  let n := c.storeW s
  let k := c.chromaOf s n
  let vals := unpackVals (c.bpc s) (n + 2 * k) (ofBytes (w.mem.rdN (c.storeKey s b r) (c.storePitch s)))
  [vals.take n, (vals.drop n).take k, vals.drop (n + k)]

/-- Row r of buffer b written from column x on: planes of any width (a halo or a line). -/
def W.storePut (w : W) (s b r x : Nat) (px : Line) : W :=
  let c := w.ctl
  let old := w.storeRow s b r
  let row := [splice (nth [] old 0) x (nth [] px 0), splice (nth [] old 1) (c.chromaOf s x) (nth [] px 1),
    splice (nth [] old 2) (c.chromaOf s x) (nth [] px 2)]
  (w.putKey (c.storeKey s b r) (toBytes (c.storePitch s) (packVals (c.bpc s) (row.flatMap id)))).on (fun c =>
    c.ingressEnergy s (c.storeKey s b r) (c.storePitch s))

/-- Own line y of buffer b. -/
def W.storeLine (w : W) (s b y : Nat) : Line :=
  let c := w.ctl
  if c.haloed s then
    let row := w.storeRow s b (y + 3)
    let n := c.get (F.stcGeomHact s)
    let k := c.chromaOf s n
    [((nth [] row 0).drop 32).take n, ((nth [] row 1).drop (c.chromaOf s 32)).take k, ((nth [] row 2).drop (c.chromaOf s 32)).take k]
  else w.storeRow s b y

/-- The read of own line y of buffer b passes the line-cache tags (R158). -/
def W.storeTouch (w : W) (s b y : Nat) : W :=
  w.on (fun c =>
    let k := c.storeKey s b (if c.haloed s then y + 3 else y)
    (c.lcUnit k (c.storePitch s) false).ingressEnergy s k (c.storePitch s))

/-- Own line y written into the present buffer. -/
def W.storeOwn (w : W) (s y : Nat) (px : Line) : W :=
  let b := (w.ctl.vc s).buf
  if w.ctl.haloed s then w.storePut s b (y + 3) 32 px else w.storePut s b y 0 px

/-- The stored frame of a number. -/
def VCtx.frameOf (v : VCtx) (f : Nat) : Option FrameRec := v.frames.find? (fun r => r.num == f)

/-- The last complete frame (R105: last good). -/
def VCtx.lastGood (v : VCtx) : Option FrameRec := v.frames.head?

/-- The buffer a new frame is written to: the lowest that holds none of the latest whole frames that stay beside it (two of three
buffers, one of two; frames that wait for halos are the latest), so that A and B of the next output frame are always there (R105,
R107, R108; DESIGN CHOICE, log entry 35). -/
def Ctl.pickBuf (c : Ctl) (s : Nat) : Nat :=
  let v := c.vc s
  let n := max 2 (c.get (F.stcFstoreFrames s))
  let keep := (v.ownDone.map (·.2) ++ v.frames.map (·.buf)).take (n - 1)
  ((List.range n).find? (fun b => !keep.contains b)).getD 0

/-! Input loss (R110 … R113). -/

/-- An input-status record (Table 9.6, SUBKIND 1). -/
def Ctl.inputStatus (c : Ctl) (s cause : Nat) : Ctl :=
  c.postReport s (statusRec 1 (0x0200 + s) stOk [w32 (c.get (F.stcStatusState s) + 256 * cause)])

/-- The loss state of input s mirrored by a primary on a change (Table 12.7); a secondary whose own input is lost while the
primary's is not loses SYNC (R386). -/
def Ctl.lossMirror (c : Ctl) (s : Nat) : Ctl :=
  if !c.paired || 24 ≤ s then c
  else if c.isPrimary then c.hngSend 0 (.state (.loss (Fin.ofNat 24 s) (c.get (F.stcStatusState s))))
  else match c.outOf s with
    | some o => if (c.vc s).lossMode ≠ 0 ∧ (c.vc s).peerLoss ≤ 3 then
        c.put F.hngMirSyncSync (clrBit (c.get F.hngMirSyncSync) o) else c
    | none => c

/-- An input declared lost (R110); an input whose timing was never measured, or that is lost already, is not. -/
def Ctl.lossDeclare (c : Ctl) (s cause : Nat) : Ctl :=
  let v := c.vc s
  if !v.measured || (v.lossMode != 0 && !v.back) then c
  else
    let y := if v.nextLine < c.get (F.stcGeomVact s) then v.nextLine else 0
    let c := c.vcSet s { v with lossMode := 1, lossCause := cause, goodFrames := 0, back := false, fresh := false, repCount := 0
                                newTiming := none, whole := false, startPend := false, lockIn := none, replayFrame := v.inFrame, replayLine := y }
    let c := match c.outOf s with
      | some o => c.vcMod o (fun x => { x with lockPend := false })
      | none => c
    (((c.bump (F.stcLossCntCount s) 1).setStc s 4).inputStatus s cause).lossMirror s

/-- HPD of both receivers (R114, R115): EN, an armed input context, no pulse. A fall loses the receiver's inputs (R110). -/
def Ctl.hpdUpdate (c : Ctl) : Ctl :=
  [0, 1].foldl (fun c n =>
    let uses (s : Nat) : Bool := c.armedAs s 0 && c.get (F.stcCtrlSrc s) == n
    let hpd := c.on (F.vidRxCtrlEn n) && !c.ports.hpdPulse.contains n && (List.range 24).any uses
    if hpd = c.on (F.vidRxStatusHpd n) then c
    else
      let c := c.put (F.vidRxStatusHpd n) (bit hpd)
      if hpd then c
      else ((List.range 24).filter uses).foldl (fun c s => c.lossDeclare s 2) (c.put (F.vidRxStatusTrained n) 0)) c

/-! Arming (R89, Table 3.2). -/

/-- Transmitters of an output's SRC. -/
def txsOf (src : Nat) : List Nat := if src = 4 then [0] else if src = 5 then [1] else if src = 6 then [0, 1] else []

/-- The transmitters an output drives: in split mode an output with SRC = 6 drives transmitter 0 alone (R97, R394). -/
def Ctl.outTxs (c : Ctl) (s : Nat) : List Nat :=
  if c.mode = 2 ∧ c.get (F.stcCtrlSrc s) = 6 then [0] else txsOf (c.get (F.stcCtrlSrc s))

/-- Whether a scale from a to b is within 1 … 6. -/
def scaleOk (a b : Nat) : Bool := decide (a ≤ b ∧ b ≤ 6 * a)

/-- Check 1: the format. -/
def Ctl.armFmt (c : Ctl) (s : Nat) : Bool :=
  let (src, samp, bpc) := (c.get (F.stcCtrlSrc s), c.get (F.stcFmtSamp s), c.get (F.stcFmtBpc s))
  decide (bpc ≤ 2) && match c.kind s with
    | 1 => !(txsOf src).isEmpty && decide (samp ≤ 1)
    | 0 => decide (src ≤ 2) && (src != 2 || [(2, 0), (2, 1), (0, 0)].contains (samp, bpc))
    | _ => true

/-- Check 2: the geometry (R97, R98, Table 3.5); totals that leave no blanking fail it too (DESIGN CHOICE, log entry 144). -/
def Ctl.armGeom (c : Ctl) (s : Nat) : Bool :=
  let (h, v, l) := (c.get (F.stcGeomHact s), c.get (F.stcGeomVact s), c.get (F.stcCtrlLink s))
  let (ph, pv) := (c.get (F.stcGeomHact l), c.get (F.stcGeomVact l))
  match c.kind s with
  | 1 =>
    let (ht, vt, fr, src) := (c.get (F.stcTotalHtotal s), c.get (F.stcTotalVtotal s), c.get (F.stcRateFrate s), c.get (F.stcCtrlSrc s))
    decide (640 ≤ h ∧ h ≤ 7680 ∧ 480 ≤ v ∧ v ≤ 4320 ∧ h < ht ∧ v < vt ∧ 23976 ≤ fr ∧ fr ≤ 240000) &&
    decide (fr * ht * vt ≤ 2160000000000 * (if src = 6 then 2 else 1)) && (src != 6 || h % 2 == 0) &&
    (24 ≤ l || c.kind l != 0 || (scaleOk ph h && scaleOk pv v))
  | 0 => decide (320 ≤ h ∧ h ≤ 7680 ∧ 240 ≤ v ∧ v ≤ 4320) && (24 ≤ l || c.kind l != 1 || (scaleOk h ph && scaleOk v pv))
  | _ => true

/-- Check 3: LINK (R86). -/
def Ctl.armLink (c : Ctl) (s : Nat) : Bool :=
  let l := c.get (F.stcCtrlLink s)
  match c.kind s with
  | 1 => decide (l < 24) && c.kind l == 0 && c.get (F.stcCtrlLink l) == s
  | 0 => l == 31 || (decide (l < 24) && c.kind l == 1 && c.get (F.stcCtrlLink l) == s)
  | _ => decide (l < 24) && c.kind l == 1

/-- Check 4: the source and SUB, or the transmitters, of another armed context. -/
def Ctl.armFree (c : Ctl) (s : Nat) : Bool :=
  let (src, sub) := (c.get (F.stcCtrlSrc s), c.get (F.stcCtrlSub s))
  (List.range 24).all (fun o => o == s || !c.on (F.stcCtrlArm o) || c.kind o != c.kind s ||
    (if c.kind s = 1 then (txsOf src).all (fun t => !(txsOf (c.get (F.stcCtrlSrc o))).contains t)
     else c.get (F.stcCtrlSrc o) != src || c.get (F.stcCtrlSub o) != sub))

/-- Check 5: the ring. -/
def Ctl.armRing (c : Ctl) (s : Nat) : Bool :=
  let d := c.get (F.stcRingDepth s)
  match c.kind s with
  | 2 => true
  | 1 => decide (10 ≤ d ∧ d ≤ 32) && c.on (F.cnpHtW0Valid (c.get (F.stcRingHandle s)))
  | _ => decide (8 ≤ d ∧ d ≤ 63) && c.on (F.cnpHtW0Valid (c.get (F.stcRingHandle s)))

/-- Pitch of a plane buffer (R101). -/
def Ctl.planePitch (c : Ctl) (s : Nat) : Nat := (c.get (F.stcGeomHact s) * 4 + 63) / 64 * 64

/-- Frames of the frame store of an input: 2 in direct mode, 3 in re-timing mode (R105). -/
def Ctl.storeFrames (c : Ctl) (s : Nat) : Nat := if c.on (F.stcCtrlMode s) then 3 else 2

/-- Check 6: the frame store or plane buffer within installed DRAM. -/
def Ctl.armStore (c : Ctl) (s : Nat) : Bool :=
  let base := c.get (F.stcFstoreBase s) * 65536
  match c.kind s with
  | 1 => true
  | 0 => decide (base + c.storeFrames s * c.storeFrame s ≤ c.dramSize)
  | _ => decide (base + c.planePitch s * c.get (F.stcGeomVact s) ≤ c.dramSize)

/-- Check 7: CSI-2 and wall mode (R398). -/
def Ctl.armMode (c : Ctl) (s : Nat) : Bool :=
  c.kind s != 0 ||
    (if c.get (F.stcCtrlSrc s) = 2 then c.on (F.stcCtrlMode s) && c.on (F.stcCtrlLock s)
     else c.mode != 3 || (c.on (F.stcCtrlMode s) && !c.on (F.stcCtrlLock s)))

/-- ARM_ERR: the code of the first failing check, 0 if all pass. -/
def Ctl.armErr (c : Ctl) (s : Nat) : Nat :=
  if !c.armFmt s then 1 else if !c.armGeom s then 2 else if !c.armLink s then 3 else if !c.armFree s then 4
  else if !c.armRing s then 5 else if !c.armStore s then 6 else if !c.armMode s then 7 else 0

/-- An armed output starts: ARMED, then LOCKING (R106); the first output enabled starts the governor (R81). -/
def Ctl.armOut (c : Ctl) (s : Nat) : Ctl :=
  let first := !c.anyOut
  let c := (c.vcSet s { VCtx.init with outOn := true, frame := (c.vc s).frame, energyOn := (c.vc s).energyOn }).rcSet s RCtx.init
  let c := (c.setStc s 1).setStc s 2
  if first then c.govFirstOutput else c.govBounds

/-- An armed input: ARMED, FRAMES; a running output of it locks anew and carries black meanwhile (R106). -/
def Ctl.armIn (c : Ctl) (s : Nat) : Ctl :=
  let c := ((c.vcSet s { VCtx.init with startPend := (c.outOf s).isNone, scenePlan := (c.vc s).scenePlan, energyOn := (c.vc s).energyOn }).setStc s 1).put (F.stcFstoreFrames s) (c.storeFrames s)
  match c.outOf s with
  | some o => if (c.vc o).outOn && (c.vc o).locked then (c.vcMod o (fun v => { v with locked := false, lockPend := false })).setStc o 2
      else c
  | none => c

/-- ARM written from 0 to 1 (R89). -/
def Ctl.arm (c : Ctl) (s : Nat) : Ctl :=
  let e := c.armErr s
  if e ≠ 0 then (c.put (F.stcCtrlArm s) 0).put (F.stcStatusArmErr s) e
  else
    let c := c.put (F.stcStatusArmErr s) 0
    match c.kind s with
    | 1 => c.armOut s
    | 0 => (c.armIn s).hpdUpdate
    | _ => (c.vcSet s VCtx.init).setStc s 1

/-- ARM written from 1 to 0 (R90): an input's output enters input-loss handling at once; an output ends with its frame. -/
def Ctl.disarm (c : Ctl) (s : Nat) : Ctl :=
  let c := c.put (F.stcCtrlArm s) 0
  match c.kind s with
  | 1 => (c.vcMod s (fun v => { v with offPend := true })).setStc s 0
  | 0 => (((c.lossDeclare s 0).setStc s 0).vcMod s (fun v => { v with ringHead := 0, ringTail := 0, ringFill := 0 })).hpdUpdate
  | _ => c.setStc s 0

/-- A write of STC_s_CTRL (R87 … R90). -/
def Ctl.stcCtrlWrite (c : Ctl) (s : Nat) (v : Word) : Ctl :=
  if c.on (F.stcCtrlArm s) then
    let k := c.kind s
    let diff := (v ^^^ c.rd (R.stcCtrl s)) &&& stcWrMask k 0
    let c := if diff &&& 0x001F03FE = 0 then c else c.put (F.stcStatusWrIgn s) 1
    let c := if k = 0 then c.vcMod s (fun x => { x with dCtrl := some v }) else c
    if v.getLsbD 0 then c else c.disarm s
  else
    let c := (c.maskPut (R.stcCtrl s) (stcWrMask (ctrlKind v) 0) v).vcMod s (fun x => { x with dCtrl := none })
    if v.getLsbD 0 then c.arm s else c

/-- A write of another register of Table 3.1 (R87, R88). -/
def Ctl.stcRegWrite (c : Ctl) (s off : Nat) (v : Word) : Ctl :=
  let k := c.kind s
  let armed := c.on (F.stcCtrlArm s)
  let put (c : Ctl) : Ctl := c.maskPut (R.stcCtrl s + off) (stcWrMask k off) v
  let ign := c.put (F.stcStatusWrIgn s) 1
  if off = 0x28 then (if v.getLsbD 3 then c.put (F.stcStatusWrIgn s) 0 else c)
  else if !armed then
    (put c).vcMod s (fun x => match off with
      | 0x14 => { x with dSched := none }
      | 0x1C => { x with dFstore := none }
      | 0x20 => { x with dPos := none }
      | 0x24 => { x with dReport := none }
      | _ => x)
  else match off, k with
    | 0x04, _ => ign
    | 0x08, _ => ign
    | 0x0C, _ => ign
    | 0x10, _ => ign
    | 0x18, _ => ign
    | 0x1C, 0 => ign
    | 0x1C, 2 => c.vcMod s (fun x => { x with dFstore := some v })
    | 0x20, 2 => c.vcMod s (fun x => { x with dPos := some v })
    | 0x14, 0 => c.vcMod s (fun x => { x with dSched := some v })
    | 0x24, _ => c.vcMod s (fun x => { x with dReport := some v })
    | _, _ => c

/-- The bit that notes a write of CTRL, GEOM, FMT or RING of a context (R319). -/
def stcNote (off : Nat) : Nat := if off = 0x00 then 1 else if off = 0x04 then 2 else if off = 0x10 then 4 else if off = 0x18 then 8 else 0

/-- A register of context s has been written since reset. -/
def Ctl.stcMark (c : Ctl) (s off : Nat) : Ctl :=
  { c with ports := { c.ports with stcWritten := mset 0 c.ports.stcWritten s (mget 0 c.ports.stcWritten s ||| stcNote off) } }

/-- A write of a stream-context register takes effect (R87, R88). -/
def Ctl.stcApply (c : Ctl) (s off : Nat) (v : Word) : Ctl :=
  let c := c.stcMark s off
  if off = 0 then c.stcCtrlWrite s v else c.stcRegWrite s off v

/-- A host write of a stream-context register: a secondary ignores it and sets WR_IGN (R379); a primary in mirror or split
mode mirrors it (Table 12.7). -/
def Ctl.stcWrite (c : Ctl) (s off : Nat) (v : Word) : Ctl :=
  if c.isSecondary then c.put (F.stcStatusWrIgn s) 1
  else
    let c := c.stcApply s off v
    if c.paired && c.isPrimary then c.hngSend 0 (.state (.regWrite (R.stcCtrl s + off) v)) else c

/-- STREAM_ARM (R89): a write of STC_s_CTRL. -/
def execStreamArm (s : Fin 24) (v : Word) (st : State) : Host.Outcome State Fault Refusal := onCtl st (fun c =>
  if c.running then c.stcWrite s.val 0 v else c)

/-- STREAM_DISARM (R90): a write of STC_s_CTRL. -/
def execStreamDisarm (s : Fin 24) (v : Word) (st : State) : Host.Outcome State Fault Refusal := onCtl st (fun c =>
  if c.running then c.stcWrite s.val 0 v else c)

/-! Ingress (R103 … R105). -/

/-- An input line as ingress converts it: values of BPC bits, zero chroma in an odd line of 4:2:0 (R103, R238). -/
def Ctl.ingLine (c : Ctl) (s y : Nat) (px : Line) : Line :=
  let v := px.map (fun p => p.map (fun x => x % 2 ^ c.bpc s))
  if c.get (F.stcFmtSamp s) = 3 ∧ y % 2 = 1 then [nth [] v 0, (nth [] v 1).map (fun _ => 0), (nth [] v 2).map (fun _ => 0)] else v

/-- Whether a line has the shape STC_s_GEOM and FMT give. -/
def Ctl.lineOk (c : Ctl) (s y : Nat) (px : Line) : Bool :=
  decide (y < c.get (F.stcGeomVact s)) && px.map List.length == [c.get (F.stcGeomHact s), c.chromaN s, c.chromaN s]

/-- The containers of a line (R238). -/
def lineBytesOf (px : Line) : List Byte := px.flatMap (fun p => p.flatMap (fun x => toBytes 2 x))

/-- A line put into the next slot of the line ring with its fill tag and the full semaphore; into an undrained slot it is
discarded, SLOT_OVER posts and LINE_OVER counts (R103, R104, R207; the position advances, log entry 36). -/
def W.ringLine (w : W) (s : Nat) (bs : List Byte) : W :=
  let c := w.ctl
  let v := c.vc s
  let i := v.ringTail
  let next := (i + 1) % max 1 (c.get (F.stcRingDepth s))
  if tbit v.ringFill i then w.on (fun c =>
    ((c.vcSet s { v with ringTail := next }).slotOver (.line s i) 0xFF).bump (F.stcMissLineOver s) 1)
  else
    (w.putKey (c.hKey (c.get (F.stcRingHandle s)) (i * c.lineSlot s)) bs).on (fun c =>
      ((c.ingressEnergy s (c.hKey (c.get (F.stcRingHandle s)) 0) bs.length).vcSet s { v with ringTail := next, ringFill := setBit v.ringFill i }).signalHw (c.get (F.stcRingSem s)) 1)

/-- Lintel's line store of input s takes a line: 8 lines at most (R39). -/
def Ctl.lintelLine (c : Ctl) (s y : Nat) (px : Line) : Ctl :=
  let l := mget [] c.ras.lintelStore s ++ [(y, px)]
  { c with ras := { c.ras with lintelStore := mset [] c.ras.lintelStore s (l.drop (l.length - 8)) } }

/-- A stream start of input s (R91, R199, R205, R223, R253, R348). -/
def W.inputStart (w : W) (s : Nat) : W :=
  (w.streamStart s).on (fun c =>
    let c := c.undStreamStart s
    match c.outOf s with
    | some o => (c.feStart o).vcMod o (fun v => { v with splitDown := v.splitDown && c.mode == 2 && !c.linkIsUp 0 })
    | none => c)

/-- The recovery of input s done: RUN with a recovery record, or plain RUN (R113). -/
def Ctl.inputRun (c : Ctl) (s : Nat) : Ctl :=
  let lost := (c.vc s).lossMode != 0
  let c := (c.vcMod s (fun v => { v with lossMode := 0, back := false, fresh := false, goodFrames := 0 })).setStc s 3
  if lost then (c.inputStatus s 0).lossMirror s else c

/-- The timing a returned frame of context s must match: STC_s_GEOM, STC_s_TOTAL and STC_s_RATE (R113). -/
def Ctl.regTiming (c : Ctl) (s : Nat) : InTiming :=
  { htotal := BitVec.ofNat 14 (c.get (F.stcTotalHtotal s)), vtotal := BitVec.ofNat 14 (c.get (F.stcTotalVtotal s))
    frate := BitVec.ofNat 24 (c.get (F.stcRateFrate s)), hact := BitVec.ofNat 13 (c.get (F.stcGeomHact s))
    vact := BitVec.ofNat 13 (c.get (F.stcGeomVact s)) }

/-- Returned frames with different timing, stable for two frames, set MODE_CHG (R113, corner "Mode change without blanking");
judged at each frame start, before it takes the new frame's timing. -/
def Ctl.timingSeen (c : Ctl) (s : Nat) (t : InTiming) : Ctl :=
  let v := c.vc s
  if v.lossMode = 0 ∨ v.modeChg ∨ v.back then c
  else if t = c.regTiming s then c.vcMod s (fun v => { v with newTiming := none })
  else
    let n := match v.newTiming with
      | some (n, k) => if k = t then n + 1 else 1
      | none => 1
    let c := c.vcMod s (fun v => { v with newTiming := some (n, t), goodFrames := 0, modeChg := decide (3 ≤ n) })
    if 3 ≤ n then (c.setStc s 6).lossMirror s else c

/-- Whether a wall's DisplayPort input departs by more than 0.5 % from the rate that FRAME_SYNC and RATIO ask of it (R399). -/
def Ctl.wallOff (c : Ctl) (s : Nat) (t : InTiming) : Bool :=
  match c.outOf s with
  | none => false
  | some o =>
    let a := t.frate.toNat * (c.get (F.stcRateRatioN s) + 1)
    let b := c.get (F.stcRateFrate o) * (c.get (F.stcRateRatioM s) + 1)
    c.haloed s && !(decide (200 * a ≤ 201 * b) && decide (199 * b ≤ 200 * a))

/-- An input frame starts on context s (R91, R113): measured timing (a frame of another size than STC_s_GEOM gives measures nothing;
DESIGN CHOICE, log entry 145), in a wall the loss of an input whose rate
departs (R399; its cause DESIGN CHOICE, log entry 161), deferred writes with the schedule choice of R223 where no output paces them, the
stream start that waits for it, a buffer for the frame. -/
def W.frameStart (w : W) (s : Nat) (t : InTiming) : W :=
  let w := w.on (fun c =>
    let c := if (c.vc s).measured && c.wallOff s t then c.lossDeclare s 3 else c
    let c := if (c.vc s).measured then c.timingSeen s t
      else if t.hact.toNat ≠ c.get (F.stcGeomHact s) ∨ t.vact.toNat ≠ c.get (F.stcGeomVact s) then c
      else
        let c := ((c.put (F.stcTotalHtotal s) t.htotal.toNat).put (F.stcTotalVtotal s) t.vtotal.toNat).put (F.stcRateFrate s) t.frate.toNat
        (c.vcMod s (fun v => { v with measured := true })).setStc s 2
    let b := c.pickBuf s
    c.vcMod s (fun v => { v with inFrame := v.inFrame + 1, nextLine := 0, whole := true, buf := b, luma := [], curTiming := t
                                 frames := v.frames.filter (fun r => r.buf != b), ownDone := v.ownDone.filter (fun d => d.2 != b) }))
  let v := w.ctl.vc s
  if !v.measured || v.modeChg then w
  else match w.ctl.outOf s with
  | none =>
    let sched := v.dSched.isSome
    let w := w.on (fun c => c.applyDeferred s)
    if v.startPend then (w.inputStart s).on (fun c => c.inputRun s) else if sched then w.chooseAtChange s else w
  | some _ => if v.startPend then w.inputStart s else w

/-- A frame of context s is complete (R105); while the input is lost, the second complete frame of matching timing counts as
returned: LOCKING of the context and its output, and a stream start to come (R113). -/
def Ctl.frameComplete (c : Ctl) (s f b : Nat) : Ctl :=
  let v := c.vc s
  let reg := c.regTiming s
  let rest := v.frames.filter (fun (r : FrameRec) => r.buf != b)
  let rec' : FrameRec := ⟨f, c.now, b⟩
  let c := c.vcSet s { v with frames := (rest.filter (fun (r : FrameRec) => decide (f < r.num)) ++ [rec'] ++
                                rest.filter (fun (r : FrameRec) => decide (r.num < f))).take 3
                              sinceB := v.sinceB + 1, ownDone := v.ownDone.filter (fun d => d.1 != f) }
  if v.lossMode = 0 ∨ v.modeChg ∨ v.back ∨ v.curTiming ≠ reg ∨ !c.on (F.stcCtrlArm s) then c
  else if v.goodFrames + 1 < 2 then c.vcMod s (fun v => { v with goodFrames := v.goodFrames + 1 })
  else
    let c := (c.vcMod s (fun v => { v with goodFrames := 2, back := true, fresh := false, startPend := (c.outOf s).isNone })).setStc s 2
    match c.outOf s with
    | some o => (c.vcMod o (fun x => { x with lockPend := false })).setStc o 2
    | none => c

/-! Halos of a wall (R400). -/

/-- A number for each halo a part may expect: the port it comes from and its line there; on ports 2 and 3 lines 0 … 2 of the
neighbour itself, 3 … 5 of its west corner, 6 … 8 of its east corner (log entry 37). -/
def haloId (port y : Nat) : Nat := port * 8192 + y

/-- The halos an input frame of context s expects: those of ports that are UP. -/
def Ctl.haloIds (c : Ctl) (s : Nat) : List Nat :=
  let up (n : Nat) : Bool := c.portUsed n && c.linkIsUp n
  let side (n : Nat) : List Nat := if up n then (List.range (c.get (F.stcGeomVact s))).map (haloId n) else []
  let band (n : Nat) : List Nat := if up n then
    ((List.range 3) ++ (if c.portUsed 0 then [3, 4, 5] else []) ++ (if c.portUsed 1 then [6, 7, 8] else [])).map (haloId n) else []
  side 0 ++ side 1 ++ band 2 ++ band 3

/-- Where the arrival of halo id of frame f is noted: four frames at a time. -/
def haloKey (f id : Nat) : Nat := f % 4 * 65536 + id

/-- Whether halo id of frame f has arrived. -/
def VCtx.haloHas (v : VCtx) (f id : Nat) : Bool := mget 0 v.halos (haloKey f id) == f

/-- n pixels of a line from column x. -/
def Ctl.cutPx (c : Ctl) (s : Nat) (px : Line) (x n : Nat) : Line :=
  [((nth [] px 0).drop x).take n, ((nth [] px 1).drop (c.chromaOf s x)).take (c.chromaOf s n),
   ((nth [] px 2).drop (c.chromaOf s x)).take (c.chromaOf s n)]

/-- A pixel column repeated over n columns. -/
def Ctl.repPx (c : Ctl) (s : Nat) (px : Line) (x n : Nat) : Line :=
  [List.replicate n (nth 0 (nth [] px 0) x), List.replicate (c.chromaOf s n) (nth 0 (nth [] px 1) (c.chromaOf s x)),
   List.replicate (c.chromaOf s n) (nth 0 (nth [] px 2) (c.chromaOf s x))]

/-- A halo's place in the stored frame: row and first column. -/
def Ctl.haloAt (c : Ctl) (s port y : Nat) : Nat × Nat :=
  let (h, v) := (c.get (F.stcGeomHact s), c.get (F.stcGeomVact s))
  let row := (if port = 2 then 0 else v + 3) + y % 3
  match port with
  | 0 => (y + 3, 0)
  | 1 => (y + 3, h + 32)
  | _ => (row, if y < 3 then 32 else if y < 6 then 0 else h + 32)

/-- A missing halo filled from the part's own nearest edge pixels (R400). -/
def W.haloFill (w : W) (s b port y : Nat) : W :=
  let c := w.ctl
  let (h, v) := (c.get (F.stcGeomHact s), c.get (F.stcGeomVact s))
  let (row, x) := c.haloAt s port y
  let edge := w.storeLine s b (if port = 2 then 0 else if port = 3 then v - 1 else y)
  let px := match port with
    | 0 => c.repPx s edge 0 32
    | 1 => c.repPx s edge (h - 1) 32
    | _ => if y < 3 then edge else if y < 6 then c.repPx s edge 0 32 else c.repPx s edge (h - 1) 32
  (w.storeTouch s b (if port = 2 then 0 else if port = 3 then v - 1 else y)).storePut s b row x px

/-- Every halo place of an input frame. -/
def Ctl.haloAll (c : Ctl) (s : Nat) : List (Nat × Nat) :=
  let rows (p n : Nat) : List (Nat × Nat) := (List.range n).map (fun y => (p, y))
  rows 0 (c.get (F.stcGeomVact s)) ++ rows 1 (c.get (F.stcGeomVact s)) ++ rows 2 9 ++ rows 3 9

/-- A frame whose own lines are in is completed: missing halos filled, an expected one counted in HNG_HALO_LATE (R400). -/
def W.haloComplete (w : W) (s f : Nat) : W :=
  match (w.ctl.vc s).ownDone.find? (fun d => d.1 == f) with
  | none => w
  | some (_, b) =>
    let v := w.ctl.vc s
    let miss := (w.ctl.haloAll s).filter (fun p => !v.haloHas f (haloId p.1 p.2))
    let late := (w.ctl.haloIds s).filter (fun id => !v.haloHas f id)
    (miss.foldl (fun w p => w.haloFill s b p.1 p.2) w).on (fun c =>
      (c.bump F.hngHaloLateCount late.length).frameComplete s f b)

/-- The frames that wait for halos are completed once all expected ones are there. -/
def W.haloCheck (w : W) (s : Nat) : W :=
  (w.ctl.vc s).ownDone.reverse.foldl (fun w d =>
    if (w.ctl.haloIds s).all (fun id => (w.ctl.vc s).haloHas d.1 id) then w.haloComplete s d.1 else w) w

/-- The frames up to number f that still wait for halos are needed now, and are completed (R400). -/
def W.haloNeed (w : W) (s f : Nat) : W :=
  (w.ctl.vc s).ownDone.reverse.foldl (fun w d => if d.1 ≤ f then w.haloComplete s d.1 else w) w

/-- A line of halo sent to the neighbour on port n in frames of at most 1024 pixels, which keeps each under 1041 payload words
(R371, R400). -/
def Ctl.haloOut (c : Ctl) (s n : Nat) (f : Word) (y : Nat) (px : Line) : Ctl :=
  if !c.portUsed n then c
  else forN (((nth [] px 0).length + 1023) / 1024) (fun i c => c.hngSend n (.halo s f y (1024 * i) (c.cutPx s px (1024 * i) 1024))) c

/-- The halos of own line y sent to the neighbours (R400). -/
def Ctl.haloSend (c : Ctl) (s y : Nat) (px : Line) : Ctl :=
  let (h, v) := (c.get (F.stcGeomHact s), c.get (F.stcGeomVact s))
  let f := w32 (c.vc s).inFrame
  let c := (c.haloOut s 0 f y (c.cutPx s px 0 32)).haloOut s 1 f y (c.cutPx s px (h - 32) 32)
  let c := if y < 3 then c.haloOut s 2 f y px else c
  if v ≤ y + 3 then c.haloOut s 3 f (y + 3 - v) px else c

/-- A piece of a halo put into a stored frame; with its last pixel the halo has arrived. -/
def W.haloStore (w : W) (s b port f y x : Nat) (px : Line) : W :=
  let (row, x0) := w.ctl.haloAt s port y
  let wide := if 2 ≤ port ∧ y < 3 then w.ctl.get (F.stcGeomHact s) else 32
  let w := w.storePut s b row (x0 + x) px
  if x + (nth [] px 0).length < wide then w
  else w.on (fun c => c.vcMod s (fun v => { v with halos := mset 0 v.halos (haloKey f (haloId port y)) f }))

/-- A halo arrives on a port (R400): relayed at the corners, and into the frame store; one that belongs to a frame whose own first line
has not come waits for it; the last one completes a frame that waits. -/
def W.haloReceive (w : W) (port s : Nat) (frame : Word) (y x : Nat) (px : Line) : W :=
  let c := w.ctl
  let v := c.vc s
  let vact := c.get (F.stcGeomVact s)
  let f := frame.toNat
  if !(c.haloed s && c.armedAs s 0) then w
  else
    let w := if port ≤ 1 then w.on (fun c =>
        let off := if port = 0 then 3 else 6
        let c := if y < 3 then c.haloOut s 2 frame (off + y) px else c
        if vact ≤ y + 3 then c.haloOut s 3 frame (off + (y + 3 - vact)) px else c) else w
    if v.inFrame < f then w.on (fun c => c.vcMod s (fun v => { v with haloWait := v.haloWait ++ [(port, frame, y, x, px)] }))
    else match (if f = v.inFrame ∧ v.ownDone.all (fun d => d.1 != f) then some v.buf
        else (v.ownDone.find? (fun d => d.1 == f)).map (·.2)) with
    | none => w
    | some b => (w.haloStore s b port f y x px).haloCheck s

/-- The halos that came before the own first line of the frame that starts now (R400). -/
def W.haloEarly (w : W) (s : Nat) : W :=
  let v := w.ctl.vc s
  let now := v.haloWait.filter (fun h => h.2.1.toNat == v.inFrame)
  let w := w.on (fun c => c.vcMod s (fun v => { v with haloWait := v.haloWait.filter (fun h => decide (v.inFrame < h.2.1.toNat)) }))
  now.foldl (fun w h => w.haloStore s v.buf h.1 v.inFrame h.2.2.1 h.2.2.2.1 h.2.2.2.2) w

/-! One input line. -/

/-- The last own line of a whole frame is in: the networks' evaluations (R346), and the frame, complete or waiting for
halos. -/
def W.frameDone (w : W) (s : Nat) : W :=
  let v := w.ctl.vc s
  let w := w.on (fun c =>
    if v.luma.length = c.get (F.stcGeomVact s) then (c.undFrame s).vcMod s (fun v => { v with prevLuma := v.luma, luma := [] })
    else c.vcMod s (fun v => { v with luma := [] }))
  if w.ctl.haloed s then
    (w.on (fun c => c.vcMod s (fun x => { x with ownDone := (v.inFrame, v.buf) :: x.ownDone }))).haloCheck s
  else w.on (fun c => c.frameComplete s v.inFrame v.buf)

/-- An active input line y of context s (R103 … R105, R113, R342). -/
def W.ingress (w : W) (s y : Nat) (px : Line) (t : InTiming) : W :=
  let w := if y = 0 then (w.frameStart s t).haloEarly s else w
  let c := w.ctl
  let v := c.vc s
  if v.inFrame = 0 then w
  else if !c.lineOk s y px || !v.measured then w.on (fun c => c.vcMod s (fun v => { v with whole := false, nextLine := y + 1 }))
  else
    let px := c.ingLine s y px
    let direct := !c.on (F.stcCtrlMode s)
    let live := v.lossMode == 0 || (v.back && v.fresh)
    let w := w.on (fun c => c.vcMod s (fun v => { v with whole := v.whole && v.nextLine == y, nextLine := y + 1 }))
    let w := if direct && live then w.on (fun c => c.lintelLine s y px) else w
    let w := w.storeOwn s y px
    let w := if direct && live then w.ringLine s (lineBytesOf px) else w
    let w := w.on (fun c =>
      let c := if c.haloed s then c.haloSend s y px else c
      if c.get (F.stcStatusState s) = 3 then c.vcMod s (fun v => { v with luma := v.luma ++ [nth [] px 0] }) else c)
    if y + 1 = c.get (F.stcGeomVact s) ∧ (w.ctl.vc s).whole then w.frameDone s else w

/-- Active pixels per 10³ seconds of an input frame's timing. -/
def pixRate (t : InTiming) : Nat := t.hact.toNat * t.vact.toNat * t.frate.toNat

/-- Whether a pixel rate keeps a limit that the spec states at a nominal frame rate, within the ±0.5 % of R106 (DEDUCED, log entry
146). -/
def rateWithin (r limit : Nat) : Bool := decide (200 * r ≤ 201 * limit)

/-- The largest stream a receiver carries uncompressed in 4:4:4 and as 4:2:0 or DSC (R98), and the decoded rate of its DSC streams
together (R93), in pixels per 10³ seconds. -/
abbrev rxPlain : Nat := 3840 * 2160 * 120000
/-- As 4:2:0 or DSC coded. -/
abbrev rxDense : Nat := 7680 * 4320 * 60000
/-- All DSC streams of a receiver. -/
abbrev rxDsc : Nat := 2400000000000

/-- Whether the receiver's DSC decoder accepts a stream of context s (R93): slices, slice width, compressed rate, and the decoded rate
summed over the receiver's coded streams. -/
def Ctl.dscOk (c : Ctl) (s : Nat) (t : InTiming) (d : DscRec) : Bool :=
  let others := (List.range 24).filter (fun o => o != s && c.armedAs o 0 && c.get (F.stcCtrlSrc o) == c.get (F.stcCtrlSrc s) &&
    c.on (F.stcFmtDsc o))
  [1, 2, 4, 8].contains d.slices && decide (t.hact.toNat ≤ 1920 * d.slices) && decide (96 ≤ d.bpp16 ∧ d.bpp16 ≤ 48 * c.bpc s) &&
    rateWithin (others.foldl (fun a o => a + pixRate (c.regTiming o)) (pixRate t)) rxDsc

/-- Whether the receiver carries a stream of context s (R93, R98). -/
def Ctl.rxCarries (c : Ctl) (s : Nat) (t : InTiming) (dsc : Option DscRec) : Bool :=
  match dsc with
  | some d => rateWithin (pixRate t) rxDense && c.dscOk s t d
  | none => rateWithin (pixRate t) (if c.get (F.stcFmtSamp s) = 3 then rxDense else rxPlain)

/-- INPUT_LINE (R103): a line of a DisplayPort stream whose receiver presents HPD and carries the stream (R93, R98) reaches its armed
context, decoded where it arrives DSC coded, which STC_s_FMT.DSC shows (R87). -/
def execInputLine (s : Fin 24) (y : Fin 8192) (px : Line) (t : InTiming) (dsc : Option DscRec) (st : State) :
    Host.Outcome State Fault Refusal := onHw st (fun w =>
  let src := w.ctl.get (F.stcCtrlSrc s.val)
  if w.ctl.running && w.ctl.armedAs s.val 0 && decide (src ≤ 1) && w.ctl.on (F.vidRxStatusHpd src) && w.ctl.rxCarries s.val t dsc then
    (w.on (fun c => c.put (F.stcFmtDsc s.val) (bit dsc.isSome))).ingress s.val y.val px t
  else w)

/-- INPUT_LOSS (R110): one of the five events, in the order of the list. A DisplayPort receiver that lost symbol lock is no
longer trained and asks for attention by IRQ_HPD (R115; DEDUCED, log entry 38). -/
def execInputLoss (s : Fin 24) (cause : Fin 5) (st : State) : Host.Outcome State Fault Refusal := onCtl st (fun c =>
  if !(c.running && c.armedAs s.val 0 && c.kind s.val == 0) then c
  else
    let src := c.get (F.stcCtrlSrc s.val)
    let c := c.lossDeclare s.val (cause.val + 1)
    if cause.val = 0 ∧ src ≤ 1 ∧ c.on (F.vidRxStatusTrained src) then (c.put (F.vidRxStatusTrained src) 0).emit (.irqHpd src) else c)

/-! Replay (R111) and the posting of re-timed lines (R103). -/

/-- The next line of the pair in force of a re-timing context: A's line and B's side by side, into ring and Lintel store
(R103, R107, R109, R111; log entry 39). -/
def W.retimeLine (w : W) (s : Nat) : W :=
  let v := w.ctl.vc s
  match v.pair with
  | none => w
  | some (_, _, ph) =>
    if w.ctl.get (F.stcGeomVact s) ≤ v.replayLine then w
    else match v.pairBuf with
    | some (ba, bb) =>
      let la := w.storeLine s ba v.replayLine
      let lb := w.storeLine s bb v.replayLine
      let w := (w.storeTouch s ba v.replayLine).storeTouch s bb v.replayLine
      let w := w.on (fun c => (c.lintelLine s v.replayLine (if ph < 128 then la else lb)).vcMod s
        (fun v => { v with replayLine := v.replayLine + 1 }))
      w.ringLine s (lineBytesOf la ++ lineBytesOf lb)
    | none => w

/-- The next line of the last good frame replayed in direct mode (R111): the frame that is last good when the line is posted, so that a
returned frame completing meanwhile gives the rest (DESIGN CHOICE, log entry 147). -/
def W.replay (w : W) (s : Nat) : W :=
  let v := w.ctl.vc s
  match v.lastGood with
  | none => w
  | some r =>
    let px := w.storeLine s r.buf v.replayLine
    let w := w.storeTouch s r.buf v.replayLine
    let last := decide (w.ctl.get (F.stcGeomVact s) ≤ v.replayLine + 1)
    let w := w.on (fun c => (c.lintelLine s v.replayLine px).vcMod s (fun v =>
      { v with replayLine := if last then 0 else v.replayLine + 1, replayFrame := if last then v.replayFrame + 1 else v.replayFrame }))
    if v.started then w.ringLine s (lineBytesOf px) else w

/-- REPLAY_LINE (R111): in direct mode, while the input is lost, the next line of the last good frame; in re-timing mode the
next line of the pair in force. -/
def execReplayLine (s : Fin 24) (st : State) : Host.Outcome State Fault Refusal := onHw st (fun w =>
  let c := w.ctl
  let v := c.vc s.val
  if !(c.running && c.kind s.val == 0) then w
  else if c.on (F.stcCtrlMode s.val) then w.retimeLine s.val
  else if v.lossMode != 0 && !(v.back && v.fresh) then w.replay s.val else w)

/-! Planes (R99 … R102). -/

/-- Output lines a plane line covers: 2 with SCALE2. -/
def Ctl.planeScale (c : Ctl) (s : Nat) : Nat := if c.on (F.stcFmtScale2 s) then 2 else 1

/-- The plane line that covers output line m. -/
def Ctl.planeRow (c : Ctl) (s m : Nat) : Option Nat :=
  let y := c.get (F.stcPosY s)
  let r := (m - y) / c.planeScale s
  if y ≤ m ∧ r < c.get (F.stcGeomVact s) then some r else none

/-- The 32-bit pixels of bytes. -/
def words32 : List Byte → List Nat
  | a :: b :: d :: e :: t => ofBytes [a, b, d, e] :: words32 t
  | _ => []

/-- PLANE_FETCH (R101, R102): the plane's line for output line m of the present frame is complete in its FIFO; one that completes after
D(m) is not shown. -/
def execPlaneFetch (s : Fin 24) (m : Fin 8192) (st : State) : Host.Outcome State Fault Refusal := onCtl st (fun c =>
  let o := c.get (F.stcCtrlLink s.val)
  if !(c.running && c.on (F.stcCtrlArm s.val) && c.kind s.val == 2 && (c.vc o).outOn) ∨
      c.drained o 32 (c.vc o).frame.toNat m.val then c
  else match c.planeRow s.val m.val with
  | none => c
  | some r =>
    let key := dramKey (c.get (F.stcFstoreBase s.val) * 65536 + r * c.planePitch s.val)
    let n := 4 * c.get (F.stcGeomHact s.val)
    let px := words32 (st.hw.mem.rdN key n)
    (c.lcUnit key n false).vcMod s.val (fun v => { v with planes := v.planes.filter (fun p => p.1 != m.val) ++ [(m.val, [px])] }))

/-! DisplayPort receivers (R92, R96, R114, R115). -/

/-- RX_LINK_TRAINING (R92): a source trains the link of a receiver that presents HPD, at a rate and lane count of Table 3.3
that the receiver advertises. -/
def execRxLinkTraining (n : Fin 2) (rate : Fin 8) (lanes : Fin 4) (ok : Bool) (st : State) : Host.Outcome State Fault Refusal :=
  onCtl st (fun c =>
  if !(c.running && c.on (F.vidRxStatusHpd n.val)) then c
  else if ok ∧ rate.val ≤ 5 ∧ rate.val ≤ c.get (F.vidRxCtrlMaxRate n.val) ∧ lanes.val ≤ 2 ∧ lanes.val ≤ c.get (F.vidRxCtrlMaxLanes n.val) then
    ((c.put (F.vidRxStatusTrained n.val) 1).put (F.vidRxStatusRate n.val) rate.val).put (F.vidRxStatusLanes n.val) lanes.val
  else c.put (F.vidRxStatusTrained n.val) 0)

/-- Whether the AUX channel of receiver n answers: it presents HPD. -/
def Ctl.auxOn (c : Ctl) (n : Nat) : Bool := c.running && c.on (F.vidRxStatusHpd n)

/-- A DPCD byte: what was written, else a free value; addresses of 20 bits (log entry 8). -/
def Ctl.dpcdRd (c : Ctl) (n a : Nat) : Byte := mget (Config.dpcdByte n (a % 2 ^ 20)) c.ports.dpcd (2 ^ 20 * n + a % 2 ^ 20)

/-- Bytes written to the DPCD from address a on. -/
def Ctl.dpcdWr (c : Ctl) (n a : Nat) (bs : List Byte) : Ctl :=
  let put (m : SMap Byte) (i : Nat) : SMap Byte :=
    let k := 2 ^ 20 * n + (a + i) % 2 ^ 20
    minsert k (nth 0 bs i) (merase m k)
  { c with ports := { c.ports with dpcd := (List.range bs.length).foldl put c.ports.dpcd } }

/-- NATIVE_AUX (R92): a read or write of the DPCD. -/
def execNativeAux (n : Fin 2) (write : Bool) (addr : BitVec 20) (len : Fin 17) (data : List Byte) (st : State) :
    Host.Outcome State Fault Refusal := onCtl st (fun c =>
  if !c.auxOn n.val then c
  else if write then (c.dpcdWr n.val addr.toNat (data.take len.val)).emit (.aux n.val [])
  else c.emit (.aux n.val ((List.range len.val).map (fun i => c.dpcdRd n.val (addr.toNat + i)))))

/-- Byte i of the published EDID of receiver n, none past its 512 bytes or before a publication (R115). -/
def Ctl.edidByte (c : Ctl) (n i : Nat) : Option Byte := match mget [] c.ports.edidPub n with
  | [] => none
  | ws => if i < 512 then some (BitVec.ofNat 8 ((nth 0 ws (i / 4)).toNat >>> (8 * (i % 4)))) else none

/-- I2C_OVER_AUX (R92): the EDID at 0x50 with the segment pointer at 0x30; any other device is not acknowledged. The first byte
written to a device sets its pointer, and a read goes on from the offset, modulo 256 (PRESUMED, log entry 170). -/
def execI2cOverAux (n : Fin 2) (write : Bool) (dev : BitVec 7) (len : Fin 17) (data : List Byte) (st : State) :
    Host.Outcome State Fault Refusal := onCtl st (fun c =>
  let seg := mget 0 c.ports.i2cSeg n.val
  let off := mget 0 c.ports.i2cOff n.val
  let first (old : Nat) : Nat := ((data.take len.val).head?.map BitVec.toNat).getD old
  if !c.auxOn n.val then c
  else if dev = 0x30 ∧ write then
    ({ c with ports := { c.ports with i2cSeg := mset 0 c.ports.i2cSeg n.val (first seg) } }).emit (.aux n.val [])
  else if dev = 0x50 ∧ write then
    ({ c with ports := { c.ports with i2cOff := mset 0 c.ports.i2cOff n.val (first off) } }).emit (.aux n.val [])
  else if dev = 0x50 then
    match (List.range len.val).mapM (fun i => c.edidByte n.val (256 * seg + (off + i) % 256)) with
    | some bs => ({ c with ports := { c.ports with i2cOff := mset 0 c.ports.i2cOff n.val ((off + len.val) % 256) } }).emit (.aux n.val bs)
    | none => c.emit (.auxNak n.val)
  else c.emit (.auxNak n.val))

/-- The MST payloads of receiver n: port, identifier, bandwidth number. -/
def Ctl.payloads (c : Ctl) (n : Nat) : List (Nat × Nat × Nat) := mget [] c.ports.payloads n
/-- The MST payloads of receiver n set, with STREAMS. -/
def Ctl.payloadsSet (c : Ctl) (n : Nat) (l : List (Nat × Nat × Nat)) : Ctl :=
  ({ c with ports := { c.ports with payloads := mset [] c.ports.payloads n l } }).put (F.vidRxStatusStreams n) l.length

/-- A sideband request of receiver n: answered while it presents HPD, with a NAK where MST is not advertised. -/
def Ctl.mstReq (c : Ctl) (n : Nat) (f : Ctl → Ctl) : Ctl :=
  if !c.auxOn n then c else if c.on (F.vidRxCtrlMstEn n) then f c else c.emit (.mstNak n)

/-- Whether a port is one of the four virtual sink ports, numbered 8 … 11 (PRESUMED, log entry 40). -/
def sinkPort (p : Nat) : Bool := decide (8 ≤ p ∧ p < 12)

/-- LINK_ADDRESS (R92): a branch device with four virtual sink ports. -/
def execLinkAddress (n : Fin 2) (st : State) : Host.Outcome State Fault Refusal := onCtl st (fun c =>
  c.mstReq n.val (fun c => c.emit (.mst n.val [4, 8, 9, 10, 11])))

/-- ENUM_PATH_RESOURCES (R92): the bandwidth numbers are free values (log entry 15). -/
def execEnumPathResources (n : Fin 2) (port : Fin 16) (st : State) : Host.Outcome State Fault Refusal := onCtl st (fun c =>
  c.mstReq n.val (fun c =>
    if !sinkPort port.val then c.emit (.mstNak n.val)
    else
      let (c, full) := c.freeWord
      let (c, avail) := c.freeWord
      c.emit (.mst n.val [port.val, full.toNat % 65536, avail.toNat % 65536])))

/-- ALLOCATE_PAYLOAD (R92): a fifth stream gets a NAK; a bandwidth number of 0 takes the payload away. -/
def execAllocatePayload (n : Fin 2) (port : Fin 16) (id : Fin 128) (pbn : BitVec 16) (st : State) : Host.Outcome State Fault Refusal :=
  onCtl st (fun c => c.mstReq n.val (fun c =>
    let rest := (c.payloads n.val).filter (fun p => p.2.1 != id.val)
    if !sinkPort port.val then c.emit (.mstNak n.val)
    else if pbn = 0 then (c.payloadsSet n.val rest).emit (.mst n.val [port.val, id.val, 0])
    else if 4 ≤ rest.length then c.emit (.mstNak n.val)
    else (c.payloadsSet n.val (rest ++ [(port.val, id.val, pbn.toNat)])).emit (.mst n.val [port.val, id.val, pbn.toNat])))

/-- QUERY_PAYLOAD (R92). -/
def execQueryPayload (n : Fin 2) (port : Fin 16) (id : Fin 128) (st : State) : Host.Outcome State Fault Refusal := onCtl st (fun c =>
  c.mstReq n.val (fun c =>
    if !sinkPort port.val then c.emit (.mstNak n.val)
    else
      let pbn := match (c.payloads n.val).find? (fun p => p.1 == port.val && p.2.1 == id.val) with
        | some p => p.2.2
        | none => 0
      c.emit (.mst n.val [port.val, pbn])))

/-- CLEAR_PAYLOAD_ID_TABLE (R92). -/
def execClearPayloadIdTable (n : Fin 2) (st : State) : Host.Outcome State Fault Refusal := onCtl st (fun c =>
  c.mstReq n.val (fun c => (c.payloadsSet n.val []).emit (.mst n.val [])))

/-- REMOTE_I2C_READ (R92): EDID bytes behind a virtual sink port. -/
def execRemoteI2cRead (n : Fin 2) (port : Fin 16) (dev : BitVec 7) (off : Fin 512) (len : Fin 256) (st : State) :
    Host.Outcome State Fault Refusal := onCtl st (fun c => c.mstReq n.val (fun c =>
  match sinkPort port.val && dev == 0x50, (List.range len.val).mapM (fun i => c.edidByte n.val (off.val + i)) with
  | true, some bs => c.emit (.mst n.val (bs.map BitVec.toNat))
  | _, _ => c.emit (.mstNak n.val)))

/-- A write of VID_RXn_CTRL (R114, R115): EDID_COMMIT publishes the buffer and, while HPD is asserted, starts the pulse. -/
def Ctl.rxCtrlWrite (c : Ctl) (n : Nat) (v : Word) : Ctl :=
  let hpd := c.on (F.vidRxStatusHpd n)
  let c := c.maskPut (R.vidRxCtrl n) 0xFF v
  let c := if v.getLsbD 8 then
      let c := { c with ports := { c.ports with edidPub := mset [] c.ports.edidPub n ((List.range 128).map (fun i => c.rd (R.vidRxEdid n i))) } }
      if hpd then { c with ports := { c.ports with hpdPulse := if c.ports.hpdPulse.contains n then c.ports.hpdPulse else n :: c.ports.hpdPulse } } else c
    else c
  c.hpdUpdate

/-- EDID_COMMIT (R115). -/
def execEdidCommit (n : Fin 2) (v : Word) (st : State) : Host.Outcome State Fault Refusal := onCtl st (fun c =>
  if c.running then c.rxCtrlWrite n.val v else c)

/-- HPD_PULSE_END (R115): after 120 ms HPD rises again. -/
def execHpdPulseEnd (n : Fin 2) (st : State) : Host.Outcome State Fault Refusal := onCtl st (fun c =>
  if c.running then ({ c with ports := { c.ports with hpdPulse := c.ports.hpdPulse.filter (· != n.val) } }).hpdUpdate else c)

/-! CSI-2 (R95). -/

/-- Whether the camera receiver is enabled. -/
def Ctl.csiOn (c : Ctl) : Bool := c.running && c.on F.vidCsiCtrlEn

/-- The armed context of a virtual channel. -/
def Ctl.csiCtx (c : Ctl) (vc : Nat) : Option Nat :=
  (List.range 24).find? (fun s => c.armedAs s 0 && c.get (F.stcCtrlSrc s) == 2 && c.get (F.stcCtrlSub s) == vc)

/-- CSI_FRAME_START (R95), with the timing the receiver has measured on the virtual channel (R87). -/
def execCsiFrameStart (vc : Fin 4) (t : InTiming) (st : State) : Host.Outcome State Fault Refusal := onCtl st (fun c =>
  if c.csiOn then { c with ports := { c.ports with csiFrame := vc.val :: c.ports.csiFrame.filter (· != vc.val)
                                                   csiTiming := mset ⟨0, 0, 0, 0, 0⟩ c.ports.csiTiming vc.val t
                                                   csiY := mset 0 c.ports.csiY vc.val 0 } } else c)

/-- CSI_FRAME_END (R95). -/
def execCsiFrameEnd (vc : Fin 4) (st : State) : Host.Outcome State Fault Refusal := onCtl st (fun c =>
  if c.csiOn then { c with ports := { c.ports with csiFrame := c.ports.csiFrame.filter (· != vc.val)
                                                   csiLine := c.ports.csiLine.filter (· != vc.val) } } else c)

/-- CSI_LINE_START (R95). -/
def execCsiLineStart (vc : Fin 4) (st : State) : Host.Outcome State Fault Refusal := onCtl st (fun c =>
  if c.csiOn then { c with ports := { c.ports with csiLine := vc.val :: c.ports.csiLine.filter (· != vc.val) } } else c)

/-- CSI_LINE_END (R95). -/
def execCsiLineEnd (vc : Fin 4) (st : State) : Host.Outcome State Fault Refusal := onCtl st (fun c =>
  if c.csiOn then { c with ports := { c.ports with csiLine := c.ports.csiLine.filter (· != vc.val) } } else c)

/-- SAMP and BPC of an accepted data type (Table 3.4). -/
def csiType (dt : Nat) : Option (Nat × Nat) :=
  if dt = 0x1E then some (2, 0) else if dt = 0x1F then some (2, 1) else if dt = 0x24 then some (0, 0) else none

/-- CSI_LONG_PACKET (R95): a CRC error is counted and the packet posted as received; other data types are dropped and
counted; a line of a frame in progress reaches its context, at the timing measured at the frame's start, if the type is the context's
(log entry 41). -/
def execCsiLongPacket (vc : Fin 4) (dt : BitVec 6) (crcOk : Bool) (px : Line) (st : State) : Host.Outcome State Fault Refusal :=
  onHw st (fun w =>
  if !w.ctl.csiOn then w
  else
    let w := if crcOk then w else w.on (fun c => c.bump F.vidCsiStatusCrcErr 1)
    match csiType dt.toNat with
    | none => w.on (fun c => c.bump F.vidCsiStatusDtDrop 1)
    | some t => match w.ctl.csiCtx vc.val with
      | none => w
      | some s =>
        let c := w.ctl
        if !(c.ports.csiFrame.contains vc.val && t == (c.get (F.stcFmtSamp s), c.get (F.stcFmtBpc s))) then w
        else
          let y := mget 0 c.ports.csiY vc.val
          (w.on (fun c => { c with ports := { c.ports with csiY := mset 0 c.ports.csiY vc.val (y + 1) } })).ingress s y px
            (mget ⟨0, 0, 0, 0, 0⟩ c.ports.csiTiming vc.val))

/-! Transmitters (R96, R116). -/

/-- The enabled output that drives transmitter n. -/
def Ctl.txOut (c : Ctl) (n : Nat) : Option Nat := c.outputs.find? (fun s => (c.outTxs s).contains n)

/-- An output-status record with LINK_DOWN (Table 9.6, SUBKIND 3). -/
def Ctl.txStatusRec (c : Ctl) (s n : Nat) : Ctl :=
  c.postReport s (statusRec 3 (0x0200 + s) stLinkDown [w32 (c.get (F.vidTxStatusTrained n) + 2 * c.get (F.vidTxStatusHpdIn n))])

/-- TX_HPD_FALL (R116): the lanes go to electrical idle; the raster goes on. -/
def execTxHpdFall (n : Fin 2) (st : State) : Host.Outcome State Fault Refusal := onCtl st (fun c =>
  if !c.running then c
  else
    let c := (c.put (F.vidTxStatusHpdIn n.val) 0).put (F.vidTxStatusTrained n.val) 0
    { c with ports := { c.ports with txRetrain := c.ports.txRetrain.filter (· != n.val) } })

/-- TX_HPD_RISE (R116): a transmitter trained before is retrained at the next vertical blanking of its output. -/
def execTxHpdRise (n : Fin 2) (st : State) : Host.Outcome State Fault Refusal := onCtl st (fun c =>
  if !c.running ∨ c.on (F.vidTxStatusHpdIn n.val) then c
  else
    let c := c.put (F.vidTxStatusHpdIn n.val) 1
    if mget 0 c.ports.txTrained n.val = 0 then c
    else { c with ports := { c.ports with txRetrain := n.val :: c.ports.txRetrain } })

/-- Whether transmitter n has the mode, rate and lane count that VID_TXn_CTRL asks for (R96). -/
def Ctl.txAble (c : Ctl) (n : Nat) : Bool :=
  decide (c.get (F.vidTxCtrlLanes n) ≤ 2 ∧ c.get (F.vidTxCtrlRate n) ≤ (if c.on (F.vidTxCtrlEdp n) then 3 else 6))

/-- TX_LINK_TRAINING (R96, R116): the outcome of a training by firmware at the parameters of VID_TXn_CTRL, or at those last
trained; a failure, as with parameters the transmitter does not have, leaves the lanes idle and posts an output-status record with
LINK_DOWN. -/
def execTxLinkTraining (n : Fin 2) (ok : Bool) (st : State) : Host.Outcome State Fault Refusal := onCtl st (fun c =>
  match c.txOut n.val with
  | none => c
  | some s =>
    if !(c.running && c.on (F.vidTxStatusHpdIn n.val) && !c.on (F.vidTxStatusTrained n.val) && !c.ports.txRetrain.contains n.val) then c
    else if ok && (mget 0 c.ports.txTrained n.val != 0 || c.txAble n.val) then
      let c := c.put (F.vidTxStatusTrained n.val) 1
      if mget 0 c.ports.txTrained n.val ≠ 0 then c
      else { c with ports := { c.ports with txTrained := mset 0 c.ports.txTrained n.val ((c.rd (R.vidTxCtrl n.val)).toNat + 2 ^ 32) } }
    else c.txStatusRec s n.val)

/-- The lanes of a disabled output go to electrical idle (R90). -/
def Ctl.txOff (c : Ctl) (s : Nat) : Ctl :=
  (txsOf (c.get (F.stcCtrlSrc s))).foldl (fun c n =>
    { (c.put (F.vidTxStatusTrained n) 0) with ports := { c.ports with txTrained := mset 0 c.ports.txTrained n 0
                                                                      txRetrain := c.ports.txRetrain.filter (· != n) } }) c

/-- The transmitters of output s whose retraining waits begin it in vertical blanking (R116). -/
def Ctl.txBlanking (c : Ctl) (s : Nat) : Ctl :=
  { c with ports := { c.ports with txRetrain := c.ports.txRetrain.filter (fun n => !(txsOf (c.get (F.stcCtrlSrc s))).contains n) } }

end Sys2Proof.Machine
end

