-- ==== Sys2Proof/Machine/Bar.lean ====
section
/-! DEFINITION. Access to the registers through BAR0 (09_host_and_management.md R273 … R279, 17_register_map.md R504 … R512):
which offsets are occupied, what a write does by access code or by the register's own rule, what a read returns and clears. -/

namespace Sys2Proof.Machine

/-! Rings as the host writes them. -/

/-- A marker for the dropped records, once the fill is SIZE − 2 or below (R281). -/
def Ctl.ringMarker (c : Ctl) (r : Nat) : Ctl :=
  let n := (c.ring r).dropsSince
  if n != 0 && c.on (F.rngCfgEn r) && c.host.linkUp && decide (c.ringFill r + 2 ≤ c.ringSize r) then
    let (c, x) := (c.ringSet r { c.ring r with dropsSince := 0 }).ringWrite r [14, w32 n]
    c.crossings x
  else c

/-- Whether a CFG word may hold EN = 1 (R276). -/
def ringCfgOk (v : Word) : Bool :=
  let kind := fieldGet v 8 3
  decide (4 ≤ fieldGet v 2 4 ∧ fieldGet v 2 4 ≤ 12) && (!v.getLsbD 22 || decide (17 ≤ fieldGet v 16 6)) &&
    (if v.getLsbD 1 then decide (2 ≤ kind ∧ kind ≤ 4) else decide (kind ≤ 1))

/-- The writable bits of RNG_r_CFG. -/
def ringCfgMask : Word := 0xFF7F073F

/-- A write of RNG_r_CFG (R276): enabling resets the indices, the marks and the interval; disabling stops the ring. -/
def Ctl.ringCfgWrite (c : Ctl) (r : Nat) (v : Word) : Ctl :=
  let old := c.rd (R.rngCfg r)
  let en := c.on (F.rngCfgEn r)
  if (en && (v ^^^ old) &&& 0x003F073E != 0) || (v.getLsbD 0 && !ringCfgOk v) then c.put (F.rngStatCfgIgn r) 1
  else
    let c := c.wr (R.rngCfg r) (v &&& ringCfgMask)
    if v.getLsbD 0 && !en then
      let c := (((c.wr (R.rngHead r) 0).wr (R.rngTail r) 0).wr (R.rngFill r) 0).wr (R.rngWmstat r) 0
      (c.wr (R.rngFillmm r) 0).ringSet r RingSt.init
    else if en && !v.getLsbD 0 then c.ringSet r { c.ring r with fetched := none, windowOpen := false, windowPosted := false }
    else c

/-- An index register of ring r moved by the host, with the fill of an enabled ring (R286). -/
def Ctl.ringIdx (c : Ctl) (r a : Nat) (v : Word) : Ctl :=
  let old := c.ringFill r
  let c := c.wr a (v &&& 0xFFF)
  if c.on (F.rngCfgEn r) then
    let (c, x) := c.moveFill r old (c.ringFill r)
    c.crossings x
  else c

/-- A write of RNG_r_TAIL, the doorbell of a DIR = 0 ring (R278). -/
def Ctl.ringTailWrite (c : Ctl) (r : Nat) (v : Word) : Ctl :=
  let i := fieldGet v 0 12
  if c.on (F.rngCfgDir r) then c
  else if c.ringSize r ≤ i ∨ (i + 4096 * c.ringSize r - c.get (F.rngHeadIdx r)) % c.ringSize r < c.ringFill r then
    c.put (F.rngStatDbRej r) 1
  else c.ringIdx r (R.rngTail r) v

/-- A write of RNG_r_HEAD of a DIR = 1 ring (R277, R281). -/
def Ctl.ringHeadWrite (c : Ctl) (r : Nat) (v : Word) : Ctl :=
  if !c.on (F.rngCfgDir r) then c else (c.ringIdx r (R.rngHead r) v).ringMarker r

/-! Mailboxes as the host writes them (R305). -/

/-- A doorbell behind those before it; of one arbitration event, the last n of the list, in ascending order (R310). -/
def bellPut (l : List Nat) (n m : Nat) : List Nat :=
  let late := l.drop (l.length - n)
  l.take (l.length - n) ++ late.filter (fun x => decide (x < m)) ++ [m] ++ late.filter (fun x => decide (m ≤ x))

/-- A write of WKT_m_DOORBELL, in the arbitration event of the doorbell before it or in one of its own (R305, R310). -/
def Ctl.doorbell (c : Ctl) (m : Nat) (v : Word) (join : Bool) : Ctl :=
  let st := c.get (F.wktStateState m)
  let n := if join then c.host.bellTail else 0
  if !v.getLsbD 0 then c
  else if st = 0 ∨ st = 3 then
    { c.put (F.wktStateState m) 1 with host := { c.host with doorbells := bellPut c.host.doorbells n m, bellTail := n + 1 } }
  else c.put (F.wktStateDbIgn m) 1

/-! Writes. -/

/-- A write by access code alone (R508): RW bits take the value, W1C bits written 1 clear, the others stay. -/
def Ctl.codeWrite (c : Ctl) (a : Nat) (v : Word) : Ctl := match regRow a with
  | some r => c.wr a (((c.rd a &&& ~~~w32 r.rw) ||| (v &&& w32 r.rw)) &&& ~~~(v &&& w32 r.w1c))
  | none => c

/-- The bits of a register that a write may set. -/
def rwMask (a : Nat) : Word := match regRow a with
  | some r => w32 r.rw
  | none => 0

/-- A write in the ring window; rings 448 … 511 are firmware's (R511). -/
def Ctl.ringRegWrite (c : Ctl) (a : Nat) (v : Word) : Ctl :=
  let r := (a - 0x20000) / 0x40
  if 448 ≤ r then c
  else match a % 0x40 with
  | 0x08 => c.ringCfgWrite r v
  | 0x0C => c.ringHeadWrite r v
  | 0x10 => c.ringTailWrite r v
  | o => if o < 8 && c.on (F.rngCfgEn r) && (v ^^^ c.rd a) &&& rwMask a != 0 then c.put (F.rngStatCfgIgn r) 1 else c.codeWrite a v

/-- A write in the Wicket window. -/
def Ctl.wktWrite (c : Ctl) (a : Nat) (v : Word) : Ctl :=
  let m := (a - 0x10000) / 0x100
  let st := c.get (F.wktStateState m)
  if 0x11000 ≤ a then c.codeWrite a v
  else if a % 0x100 < 0x40 then (if st = 1 ∨ st = 2 then c.put (F.wktStateWrIgn m) 1 else c.wr a v)
  else if a % 0x100 = 0x80 then c.doorbell m v false
  else c.codeWrite a v

/-- A write in the global window: an MSI-X entry is written from then on, and pending vectors may go (R290). -/
def Ctl.glbWrite (c : Ctl) (a : Nat) (v : Word) : Ctl :=
  if 0x8000 ≤ a ∧ a < 0x8400 then
    let e := (a - 0x8000) / 16
    let l := c.host.msixWritten
    let c := { c.wr a v with host := { c.host with msixWritten := if l.contains e then l else e :: l } }
    c.msixFlush
  else c.codeWrite a v

/-- A write of a raster register: a secondary ignores it and sets WR_IGN (R379); a primary mirrors POLICY and LINTEL (Table
12.7). -/
def Ctl.rasWrite (c : Ctl) (a : Nat) (v : Word) : Ctl :=
  let s := (a - 0x50000) / 0x40
  if c.isSecondary then c.put (F.stcStatusWrIgn s) 1
  else
    let c := c.codeWrite a v
    if c.paired && c.isPrimary && decide (a % 0x40 < 8) then c.hngSend 0 (.state (.regWrite a v)) else c

/-- A write in the Understorey window: the layer and decision registers of an enabled network are ignored, and set CFG_REJ
(R347). -/
def Ctl.undWrite (c : Ctl) (a : Nat) (v : Word) : Ctl :=
  if a < 0x140800 then (if a % 0x20 = 0 then c.undCtrlWrite ((a - 0x140000) / 0x20) v else c.codeWrite a v)
  else if a < 0x141000 then c.codeWrite a v
  else
    let n := (a - 0x141000) / 0x100
    if a % 0x100 = 0 then c.netCfgWrite n v
    else if rwMask a != 0 && c.on (F.undNetCfgEn n) then c.put (F.undNetCfgCfgRej n) 1
    else c.codeWrite a v

/-- A write in the PHC window: bounds of the governor act at once (R73, R74, R79); a band with HI ≤ LO and a WARN outside
85 … 115 are ignored. -/
def Ctl.phcWrite (c : Ctl) (a : Nat) (v : Word) : Ctl :=
  if a = R.phcGovCtrl then c.govCtrlWrite v
  else if a = R.phcGovFloor ∨ a = R.phcGovCeil ∨ a = R.phcGovTarget ∨ a = R.phcGovIdle then (c.codeWrite a v).govBounds
  else if a = R.phcGovBand then (if fieldGet v 8 8 ≤ fieldGet v 0 8 then c else c.codeWrite a v)
  else if a = R.phcThermCfg then (if fieldGet v 0 8 < 85 ∨ 115 < fieldGet v 0 8 then c else c.codeWrite a v)
  else if a = R.phcAmbCfg then c.ambCfgWrite v
  else c.codeWrite a v

/-- A write of an occupied register. -/
def Ctl.regWrite (c : Ctl) (a : Nat) (v : Word) : Ctl :=
  if a < 0x10000 then c.glbWrite a v
  else if a < 0x20000 then c.wktWrite a v
  else if a < 0x40000 then c.ringRegWrite a v
  else if a = R.vidRxCtrl 0 then c.rxCtrlWrite 0 v
  else if a = R.vidRxCtrl 1 then c.rxCtrlWrite 1 v
  else if a < 0x41000 then c.codeWrite a v
  else if a < 0x50000 then c.stcWrite ((a - 0x41000) / 0x80) ((a - 0x41000) % 0x80) v
  else if a < 0x60000 then c.rasWrite a v
  else if a = R.cnpCfg then c.cnpCfgWrite v
  else if a < 0x140000 then c.codeWrite a v
  else if a < 0x148000 then c.undWrite a v
  else if a = R.gldCtrl then c.gldCtrlWrite v
  else if a < 0x180000 then c.gldRegWrite a (rwMask a) v
  else if a = R.hngHistCtrl then c.histWrite v
  else if a < 0x1c0000 then c.codeWrite a v
  else if a < 0x200000 then c.phcWrite a v
  else c.codeWrite a v

/-- Whether a register lies at an offset now: those of Glade only while reachable (R504, R512). -/
def Ctl.occupied (c : Ctl) (a : Nat) : Bool :=
  (regRow a).isSome && (decide (a < 0x148000 ∨ 0x180000 ≤ a) || c.gldReach)

/-- A 4-byte write (R273). -/
def Ctl.barWrite4 (c : Ctl) (a : Nat) (v : Word) : Ctl :=
  if c.occupied a then c.regWrite a v else c.bump F.glbBar0ErrCount 1

/-- A write of a size (R273): 8 bytes act as two of 4, the lower address first; another size or alignment is discarded and
counted. -/
def Ctl.barWrite (c : Ctl) (a size : Nat) (v : BitVec 64) : Ctl :=
  if size = 4 ∧ a % 4 = 0 then c.barWrite4 a (v.setWidth 32)
  else if size = 8 ∧ a % 8 = 0 then (c.barWrite4 a (v.setWidth 32)).barWrite4 (a + 4) ((v >>> 32).setWidth 32)
  else c.bump F.glbBar0ErrCount 1

/-! Reads. -/

/-- A read of RNG_r_WMSTAT: it clears, re-arms the ring and closes the interval (R288, R289). -/
def Ctl.wmstatRead (c : Ctl) (r : Nat) : Ctl × Word :=
  let v := c.rd (R.rngWmstat r)
  let rs := c.ring r
  let c := ((c.wr (R.rngWmstat r) 0).put (F.rngFillmmMin r) rs.minFill).put (F.rngFillmmMax r) rs.maxFill
  let f := c.get (F.rngFillFill r)
  (c.ringSet r { rs with minFill := f, maxFill := f }, v)

/-- A register read by its rule (R493, R509, R87): RC fields clear, GLB_TIME_LO latches HI, fields that do not apply to a
context read 0, live pins read as they are. -/
def Ctl.regRead (c : Ctl) (a : Nat) : Ctl × Word :=
  if a = R.glbTimeLo then (c.wr R.glbTimeHi (w32 (c.glbTime / 2 ^ 32)), w32 c.glbTime)
  else if a = R.phcPinStatus then (c, c.pinStatus)
  else if 0x20000 ≤ a ∧ a < 0x28000 ∧ a % 0x40 = 0x1C then c.wmstatRead ((a - 0x20000) / 0x40)
  else
    let v := if 0x41000 ≤ a ∧ a < 0x41C00 then
        c.rd a &&& stcMask (c.kind ((a - 0x41000) / 0x80)) ((a - 0x41000) % 0x80) else c.rd a
    match regRow a with
    | some r => (c.wr a (c.rd a &&& ~~~w32 r.rc), v)
    | none => (c, v)

/-- A 4-byte read (R273). -/
def Ctl.barRead4 (c : Ctl) (a : Nat) : Ctl × Word :=
  if c.occupied a then c.regRead a else (c.bump F.glbBar0ErrCount 1, 0)

/-- A read of a size (R273): the words it returns leave the part. -/
def Ctl.barRead (c : Ctl) (a size : Nat) : Ctl :=
  if size = 4 ∧ a % 4 = 0 then
    let (c, v) := c.barRead4 a
    c.emit (.readData a v)
  else if size = 8 ∧ a % 8 = 0 then
    let (c, v) := c.barRead4 a
    let (c, w) := (c.emit (.readData a v)).barRead4 (a + 4)
    c.emit (.readData (a + 4) w)
  else (c.bump F.glbBar0ErrCount 1).emit (.readData a 0)

/-! The commands. -/

/-- REGISTER_WRITE (R508). -/
def execRegisterWrite (addr : BitVec 26) (size : Nat) (v : BitVec 64) (s : State) : Host.Outcome State Fault Refusal :=
  onCtl s (fun c => if c.running then c.barWrite addr.toNat size v else c)

/-- RC_READ (R493). -/
def execRcRead (addr : BitVec 26) (size : Nat) (s : State) : Host.Outcome State Fault Refusal :=
  onCtl s (fun c => if c.running then c.barRead addr.toNat size else c)

/-- GLB_TIME_READ (R509). -/
def execGlbTimeRead (size : Nat) (s : State) : Host.Outcome State Fault Refusal :=
  onCtl s (fun c => if c.running then c.barRead R.glbTimeLo size else c)

/-- WMSTAT_READ (R288). -/
def execWmstatRead (r : Fin 512) (s : State) : Host.Outcome State Fault Refusal :=
  onCtl s (fun c => if c.running then c.barRead (R.rngWmstat r.val) 4 else c)

/-- RING_ENABLE (R276): a write of RNG_r_CFG. -/
def execRingEnable (r : Fin 512) (v : Word) (s : State) : Host.Outcome State Fault Refusal :=
  onCtl s (fun c => if c.running then c.ringRegWrite (R.rngCfg r.val) v else c)

/-- RING_DISABLE (R276): a write of RNG_r_CFG. -/
def execRingDisable (r : Fin 512) (v : Word) (s : State) : Host.Outcome State Fault Refusal :=
  onCtl s (fun c => if c.running then c.ringRegWrite (R.rngCfg r.val) v else c)

/-- RING_DOORBELL (R278): a write of RNG_r_TAIL. -/
def execRingDoorbell (r : Fin 512) (v : Word) (s : State) : Host.Outcome State Fault Refusal :=
  onCtl s (fun c => if c.running then c.ringRegWrite (R.rngTail r.val) v else c)

/-- RING_HEAD_WRITE (R277): a write of RNG_r_HEAD. -/
def execRingHeadWrite (r : Fin 512) (v : Word) (s : State) : Host.Outcome State Fault Refusal :=
  onCtl s (fun c => if c.running then c.ringRegWrite (R.rngHead r.val) v else c)

/-- WICKET_DOORBELL (R305): a write of WKT_m_DOORBELL; join: in the same arbitration event as the doorbell before it (R310). -/
def execWicketDoorbell (m : Fin 16) (v : Word) (join : Bool) (s : State) : Host.Outcome State Fault Refusal :=
  onCtl s (fun c => if c.running then c.doorbell m.val v join else c)

end Sys2Proof.Machine
end

