-- ==== Sys2Proof/Machine/Egress.lean ====
section
/-! DEFINITION. Egress (01_raster_contract.md, 03_video_ports.md R97 … R101, 08 R239, R240): column halves, black, the blender
and the CRC of a line. -/

namespace Sys2Proof.Machine

/-- A rounded component in BPC bits; outside, a free value (log entry 52). -/
def fitBits (bpc : Nat) (x : Int) : Nat := if 0 ≤ x ∧ x < 2 ^ bpc then x.toNat else Config.overRange bpc x % 2 ^ bpc

/-- The first column and number of columns that transmitter t carries of output s (R97, R394). -/
def Ctl.txCols (c : Ctl) (s t : Nat) : Nat × Nat :=
  let n := c.get (F.stcGeomHact s)
  if c.get (F.stcCtrlSrc s) ≠ 6 then (0, n)
  else ((if c.mode = 2 then c.get F.hngPairStatusPairId else t) * (n / 2), n / 2)

/-- Columns of a line. -/
def cutCols (px : Line) (x n : Nat) : Line := px.map (fun p => (p.drop x).take n)

/-- Black in the output format (R106, R112; its codes PRESUMED, log entry 29). -/
def Ctl.blackLine (c : Ctl) (s : Nat) : Line :=
  let n := c.get (F.stcGeomHact s)
  let y := if c.on (F.stcFmtFull s) then 0 else 16 * 2 ^ (c.bpc s - 8)
  let ch := if c.get (F.stcFmtSamp s) = 0 then y else 2 ^ (c.bpc s - 1)
  [List.replicate n y, List.replicate n ch, List.replicate n ch]

/-! The blender (R99 … R101, R240). -/

/-- Alpha, red, green and blue of a plane word with the bits of alpha and colour (Table 3.1 PLFMT; the order of the fields in the
word PRESUMED, log entry 53). -/
def planeWord (fmt w : Nat) : List Nat × Nat × Nat :=
  match fmt with
  | 0 => ([w / 2 ^ 24 % 256, w / 2 ^ 16 % 256, w / 2 ^ 8 % 256, w % 256], 8, 8)
  | 1 => ([w / 2 ^ 30 % 4, w / 2 ^ 20 % 1024, w / 2 ^ 10 % 1024, w % 1024], 2, 10)
  | _ => ((List.range 4).map (fun i => Config.planeFormat fmt w i % 256), 8, 8)

/-- A component of b bits extended or rounded to bpc bits (R240). -/
def extendComp (b bpc v : Nat) : Nat :=
  if b ≤ bpc then v * 2 ^ (bpc - b) + v / 2 ^ (b - (bpc - b)) else fitBits bpc (roundDiv v (2 ^ (b - bpc)))

/-- The luma weights of red, green and blue in 10⁻⁴: BT.709, BT.2020 non-constant luminance, BT.601, by MATRIX (R240; the numbers are
those of the recommendations, PRESUMED, log entry 6). -/
def lumaWeights (m : Nat) : List Int :=
  match m with
  | 0 => [2126, 7152, 722]
  | 1 => [2627, 6780, 593]
  | _ => [2990, 5870, 1140]

/-- Coefficient of colour j (red, green, blue) in component i (Y′, Cb, Cr), or with j = 3 the offset of component i, from full-range
colours of bpc bits, with 16 fractional bits (R240; PRESUMED, log entry 6). -/
def colourCoef (m : Nat) (full : Bool) (bpc i j : Nat) : Int :=
  let k := lumaWeights m
  let (num, den) : Int × Nat := if full then (1, 1) else ((if i = 0 then 219 else 224) * 2 ^ (bpc - 8), 2 ^ bpc - 1)
  let own := nth 0 k (if i = 1 then 2 else 0)
  if 3 ≤ m then Config.matrixCoef m full bpc i j
  else if 3 ≤ j then (if i ≠ 0 then 2 ^ (bpc - 1) else if full then 0 else 16 * 2 ^ (bpc - 8)) * 65536
  else if i = 0 then roundDiv (65536 * nth 0 k j * num) (10000 * den)
  else if j = (if i = 1 then 2 else 0) then roundDiv (32768 * num) den
  else roundDiv (-32768 * nth 0 k j * num) ((10000 - own).toNat * den)

/-- A plane pixel as the blender uses it on output s: alpha with 16 fractional bits and the three components in the output's
plane order (R240). -/
def Ctl.planePixel (c : Ctl) (s p w : Nat) : Nat × List Nat :=
  let (q, ab, cb) := planeWord (c.get (F.stcFmtPlfmt p)) w
  let bpc := c.bpc s
  let rgb := [1, 2, 3].map (fun i => extendComp cb bpc (nth 0 q i))
  let coef (i j : Nat) : Int := colourCoef (c.get (F.stcFmtMatrix s)) (c.on (F.stcFmtFull s)) bpc i j
  let comps := if c.get (F.stcFmtSamp s) = 0 then [nth 0 rgb 1, nth 0 rgb 2, nth 0 rgb 0]
    else (List.range 3).map (fun i => fitBits bpc (roundDiv ((List.range 3).foldl (fun a j => a + coef i j * nth 0 rgb j) (coef i 3)) 65536))
  ((roundDiv (nth 0 q 0 * 65536) (2 ^ ab - 1)).toNat, comps)

/-- One component blended (R100). -/
def blendComp (bpc : Nat) (premul : Bool) (a p v : Nat) : Nat :=
  fitBits bpc (roundDiv ((if premul then 65536 * p else a * p) + (65536 - a) * v : Nat) 65536)

/-- A plane's line composited onto a line (R100, R101). -/
def Ctl.blendPlane (c : Ctl) (s : Nat) (px : Line) (p : Nat × List Nat) : Line :=
  let x0 := c.get (F.stcPosX p.1)
  let sc := c.planeScale p.1
  let conv := p.2.map (c.planePixel s p.1)
  px.mapIdx (fun k row => row.mapIdx (fun x v =>
    if x < x0 then v
    else match conv[(x - x0) / sc]? with
      | some (a, cs) => blendComp (c.bpc s) (c.on (F.stcFmtPremul p.1)) a (nth 0 cs k) v
      | none => v))

/-- The line of an egress entry after blending, before the Shutter (R99). -/
def Ctl.egressLine (c : Ctl) (s : Nat) (e : Egress) : Line := e.planes.foldl (c.blendPlane s) e.px

/-- The CRC-32 of a line as a heartbeat carries it: after blending, before the Shutter; in split mode of the own half (R380). -/
def Ctl.lineCrc (c : Ctl) (s : Nat) (e : Egress) : Word :=
  let px := c.egressLine s e
  crc32 (lineBytesOf (if c.mode = 2 then cutCols px (c.txCols s 0).1 (c.txCols s 0).2 else px))

end Sys2Proof.Machine
end

