-- ==== Sys2Proof/Machine/Image.lean ====
section
/-! DEFINITION. Criril images (07_schedules_and_tiling.md R216 … R219, 06_channels_and_semaphores.md R192 … R214): load checks,
route writes, loading, shadow images, promotion, speculation, repair. -/

namespace Sys2Proof.Machine

/-! Structural checks (Table 7.1 … Table 7.5, Table 7.3). -/

/-- Whether the sections of an image are known, each named once, the required ones present (R217). -/
def sectionsOk (l : List Nat) : Bool :=
  decide (1 ≤ l.length ∧ l.length ≤ 32) && l.all (fun t => decide (1 ≤ t ∧ t ≤ 14)) && decide l.Nodup &&
    [1, 2, 4, 6, 9, 10, 12].all l.contains

/-- Check 1: header, sections, LENGTH within the buffer and the 256 MiB of R323 (R216, R217; log entry 44). -/
def imgHead (im : Image) (buf : Nat) : Bool :=
  im.magicOk && im.format == 3 && im.resvZero && sectionsOk im.sections && im.sectionsIn && im.length % 256 == 0 &&
    decide (64 ≤ im.length ∧ im.length ≤ buf ∧ im.length ≤ 0x10000000) &&
    decide (1 ≤ im.modelsN ∧ im.modelsN ≤ 32) && im.models.length == im.modelsN

/-- Check 4: the region sizes. -/
def imgSizes (im : Image) : Bool := decide (1 ≤ im.codeSz ∧ im.codeSz ≤ 64 ∧ im.resSz ≤ 111 ∧ im.codeSz + im.resSz ≤ 112)

/-- Check 5: the Canopy layout; LCB above 4 acts as 4. -/
def Ctl.imgLayout (c : Ctl) (im : Image) : Bool :=
  decide (im.lcbMin ≤ min 4 (c.get F.cnpCfgLcb)) && (im.part == 2 || im.part == c.get F.cnpCfgPart)

/-- Check 7 for one pool: its linked semaphore is a semaphore of the image. -/
def poolOk (im : Image) (p : PoolRec) : Bool := im.sems.any (fun s => s.sem == fieldGet p.guard 24 8)

/-- Check 7 for one slot ring (R209). -/
def ringOk (im : Image) (r : RingRec) : Bool :=
  let slots := fieldGet r.cfg 8 4 + 1
  decide (3 ≤ slots ∧ slots ≤ 16) &&
    im.handles.any (fun h => h.entry == fieldGet r.cfg 0 8 && h.size == slots * fieldGet r.cfg 12 12)

/-- Check 8. -/
def pairsOk (im : Image) : Bool :=
  im.pairs.all (fun p => p.1 % 2 == 0 && p.2 == p.1 + 1) && decide (im.pairs.flatMap (fun p => [p.1, p.2])).Nodup

/-- Word 0 of a declared handle with an owner. -/
def declWord (h : HandleDecl) (owner : Nat) : Word := htWord true h.dram h.wr h.spec owner

/-- Check 9: every declaration passes R152. -/
def Ctl.declsOk (c : Ctl) (im : Image) : Bool :=
  im.handles.all (fun h => decide (h.entry < 256 ∧ 1 ≤ h.size ∧ h.size ≤ 32768) && c.htOk (declWord h h.owner) h.base h.size)

/-- A line-step record within Table 7.4, R227's price of a miss included. -/
def stepOk (im : Image) (r : LineStep) : Bool :=
  decide (r.template < im.templates.length ∧ r.stage ≤ 15 ∧ r.misses ≤ 31 ∧ r.misses * 112 ≤ r.wait ∧ r.budget = r.work + r.wait) &&
    [1, 2, 4, 8].contains r.split && r.resvZero

/-- The logical stands a record's tiles and splits use stay within 0 … 15 (R229). -/
def standsOk (v : TileVariant) (i : Nat) (r : LineStep) : Bool :=
  (List.range v.tmax).all (fun t => (List.range r.split).all (fun j => decide (tvCore v i t j < 128))) &&
    (r.split == 1 || nth 0 v.splits i != 0xFF)

/-- A tile variant within Table 7.5. -/
def variantOk (steps : List LineStep) (v : TileVariant) : Bool :=
  decide (0 < v.tileW ∧ v.tileW % 32 = 0 ∧ 1 ≤ v.tmax ∧ v.tmax ≤ 16) && v.resvZero && v.cores.length == 16 && v.splits.length == 16 &&
    (v.cores.drop steps.length).all (· == 0) && (v.splits.drop steps.length).all (· == 0xFF) &&
    (List.range steps.length).all (fun i => match steps[i]? with
      | some r => standsOk v i r && (r.split != 1 || nth 0 v.splits i == 0xFF)
      | none => true)

/-- Check 11: schedules, models and their buckets (R220, R221). -/
def schedsOk (im : Image) : Bool :=
  im.models.all (fun m => decide (m.look ≤ 3) && m.scheds.all (fun sc => bucketLines.contains sc.bucket &&
    decide (1 ≤ sc.steps.length ∧ sc.steps.length ≤ 16 ∧ 1 ≤ sc.variants.length ∧ sc.variants.length ≤ 4) &&
    sc.steps.all (stepOk im) && sc.variants.all (variantOk sc.steps)))

/-- Check 12: every dependency entry names a line-step template of its schedule. -/
def depsOk (im : Image) : Bool :=
  im.deps.all (fun d => im.models.any (fun m => m.slot == d.slot &&
    m.scheds.any (fun sc => sc.bucket == d.bucket && sc.steps.any (fun r => r.template == d.template))))

/-! Routes (R192 … R196). -/

/-- The receivers a route word names. -/
def Ctl.routeDst (c : Ctl) (route : Word) : List Nat :=
  if route.getLsbD 3 then (List.range 128).filter (fun k => c.inGroup (fieldGet route 16 7 % 32) k) else [fieldGet route 16 7]

/-- Whether a valid acyclic channel other than ch breaks the rank rule for a new acyclic route (R192). -/
def Ctl.rankBad (c : Ctl) (ch : Nat) (route order : Word) : Bool :=
  let rank := fieldGet order 0 12
  let src := fieldGet route 8 7
  let dst := c.routeDst route
  !route.getLsbD 1 && (List.range 1024).any (fun x => x != ch && c.on (F.chnRouteValid x) && !c.on (F.chnRouteMode x) &&
    (((c.receivers x).contains src && decide (rank ≤ c.get (F.chnOrderRank x))) ||
     (dst.contains (c.get (F.chnRouteSrc x)) && decide (c.get (F.chnOrderRank x) ≤ rank))))

/-- Whether a core holds an unread message of a channel (R195). -/
def Ctl.chanBusy (c : Ctl) (ch : Nat) : Bool := (List.range 128).any (fun k => !(c.fifo ch k).isEmpty)

/-- The cause a route write is refused with (CHN_STATUS), none if it passes (R192, R194, R195). The check of a shadow load, which
writes no route yet, leaves out the messages of the image in force (log entry 162). -/
def Ctl.routeCause (c : Ctl) (r : RouteRec) (id : Word) (live : Bool) : Option Nat :=
  if r.route.getLsbD 0 && c.rankBad r.chan r.route r.order then some 1
  else if fieldGet r.order 16 16 ≠ routeSig r.route r.order id then some 2
  else if r.route.getLsbD 3 && (decide (31 < fieldGet r.route 16 7) || (c.routeDst r.route).contains (fieldGet r.route 8 7)) then some 3
  else if live && c.chanBusy r.chan then some 4
  else none

/-- A route written, or refused with CHN_STATUS. -/
def Ctl.routeWrite (c : Ctl) (r : RouteRec) (id : Word) (live : Bool) : Ctl × Bool :=
  match c.routeCause r id live with
  | some k => (((c.put F.chnStatusChan r.chan).put F.chnStatusCause k).put F.chnStatusRej 1, false)
  | none => ((c.wr (R.chnRoute r.chan) (r.route &&& 0x7F7F3F)).wr (R.chnOrder r.chan) (r.order &&& 0xFFFF3FFF), true)

/-- The routes of an image written in order after the group masks, the old ones taken out first; false at a refusal. -/
def Ctl.routesWrite (c : Ctl) (im : Image) (live : Bool) : Ctl × Bool :=
  let c := (List.range 1024).foldl (fun c x => if c.on (F.chnRouteValid x) then c.put (F.chnRouteValid x) 0 else c) c
  let c := (List.range 32).foldl (fun c g => (List.range 4).foldl (fun c w => c.wr (R.chnGrpMask g w) (nth 0 (nth [] im.groups g) w)) c) c
  im.routes.foldl (fun (c, ok) r => if ok then c.routeWrite r im.id live else (c, false)) (c, true)

/-- Pools, slot rings and semaphores of an image written (R199, R200, R205). -/
def Ctl.poolsWrite (c : Ctl) (im : Image) : Ctl :=
  let c := (List.range 256).foldl (fun c p => if c.on (F.chnCpGuardValid p) then c.put (F.chnCpGuardValid p) 0 else c) c
  let c := im.pools.foldl (fun c p => ((c.wr (R.chnCpGuard p.pool) (p.guard &&& 0xFF03FFFF)).put (F.chnCpCountCap p.pool) p.cap).poolReset p.pool) c
  let c := (List.range 128).foldl (fun c r => if c.on (F.chnSrStateValid r) then c.wr (R.chnSrState r) 0 else c) c
  let c := im.rings.foldl (fun c r => (c.wr (R.chnSrCfg r.ring) r.cfg).wr (R.chnSrState r.ring) 0x100) c
  im.sems.foldl (fun c s => (((c.put (F.semInitInit s.sem) s.init).put (F.semCountSpec s.sem) (bit s.spec))).semInit s.sem) c

/-! Load checks (R218). -/

/-- The code of the first failing check of Table 7.3. -/
def Ctl.imgCheck (c : Ctl) (im : Image) (buf : Nat) : Option Nat :=
  if !imgHead im buf then some 1
  else if im.crc ≠ im.crcOf then some 2
  else if im.ident ≠ c.rd R.glbIdent then some 3
  else if !imgSizes im then some 4
  else if !c.imgLayout im then some 5
  else if !((c.routesWrite im c.img.cur.isNone).2) then some 6
  else if !(im.pools.all (poolOk im) && im.rings.all (ringOk im)) then some 7
  else if !pairsOk im then some 8
  else if !c.declsOk im then some 9
  else if im.templates.any (fun t => descReserved t) then some 10
  else if !schedsOk im then some 11
  else if !depsOk im then some 12
  else none

/-- CHN_STATUS of a refused route, the previous routes restored (R195, R218). -/
def Ctl.routeReject (c : Ctl) (im : Image) (live : Bool) : Ctl :=
  let d := (c.routesWrite im live).1
  c.wr R.chnStatus (d.rd R.chnStatus)

/-! Loading (R219, R324). -/

/-- The key of byte o of core memory of logical core k, where its stand is mapped. -/
def Ctl.coreKey (c : Ctl) (k o : Nat) : Option Nat := (c.physOf k).map (fun q => cmemKey q o)

/-- Bytes written into the core memories of logical cores from an offset. -/
def W.putCores (w : W) (cores : List Nat) (off : Nat) (bs : List Byte) : W :=
  cores.foldl (fun w k => match w.ctl.coreKey k off with
    | some key => w.act (.put key bs)
    | none => w) w

/-- Code and resident regions of every core marked for Clearing, then the image's bytes written (Table 5.8, R161). -/
def W.coreLoad (w : W) (im : Image) : W :=
  let n := (im.codeSz + im.resSz) * 4096
  let w := (List.range 136).foldl (fun w q => w.act (.mark (cmemKey q 0) n)) w
  let w := im.code.foldl (fun w r => w.putCores r.cores r.off r.bytes) w
  im.resident.foldl (fun w r => w.putCores r.cores (im.codeSz * 4096 + r.off) r.bytes) w

/-- Constants written into the handles of the image that pass a test. -/
def W.constLoad (w : W) (im : Image) (p : Nat → Bool) : W :=
  im.consts.foldl (fun w r => if p r.handle then w.putKey (w.ctl.hKey r.handle r.off) r.bytes else w) w

/-- Handles of the image that pass a test committed with one owner. -/
def W.declCommit (w : W) (im : Image) (owner : Nat) (p : Nat → Bool) : W :=
  im.handles.foldl (fun w h => if p h.entry then (w.htCommit h.entry (declWord h owner) h.base h.size).1 else w) w

/-- The owners that the image declares, where they differ from 0xF0, in a commit of their own (R219; log entry 156). -/
def W.declOwners (w : W) (im : Image) (p : Nat → Bool) : W :=
  im.handles.foldl (fun w h => if h.owner != 0xF0 && p h.entry then w.htChange h.entry true h.owner (w.ctl.on (F.cnpHtW0Spec h.entry)) else w) w

/-- The handles of the image released. -/
def W.declFree (w : W) (im : Image) : W := im.handles.foldl (fun w h => w.htFree h.entry) w

/-- Whether an image declares a handle entry. -/
def imgHas (im : Image) (e : Nat) : Bool := im.handles.any (fun h => h.entry == e)

/-- Where the image copy of a half lies: the top 512 MiB of installed DRAM, 256 MiB each (R323). -/
def Ctl.copyAt (c : Ctl) (half : Bool) : Nat := dramKey (c.dramSize - 0x20000000 + bit half * 0x10000000)

/-- The bytes of an image copied to a half (R323, R324). -/
def W.copyPut (w : W) (im : Image) (half : Bool) : W := w.putKey (w.ctl.copyAt half) (im.bytes.take im.length)

/-- The code and resident regions of logical stand l copied into stand n from the image copy (Table 13.7). -/
def W.loadStand (w : W) (n l : Nat) : W :=
  match w.ctl.img.cur with
  | none => w
  | some im =>
    let put (base : Nat) (r : ResRec) (w : W) : W := (r.cores.filter (fun k => k / 8 == l)).foldl (fun w k =>
      w.act (.put (cmemKey (8 * n + k % 8) (base + r.off)) r.bytes)) w
    let w := (List.range 8).foldl (fun w i => w.act (.mark (cmemKey (8 * n + i) 0) ((im.codeSz + im.resSz) * 4096))) w
    let w := im.code.foldl (fun w r => put 0 r w) w
    im.resident.foldl (fun w r => put (im.codeSz * 4096) r w) w

/-- The stands that hold copies of regions but serve no logical stand yet, with that logical stand (R161, R429, R431). -/
def Ctl.copiedStands (c : Ctl) : List (Nat × Nat) :=
  (match c.pwr.rotPair, c.pwr.copyDone with
   | some (l, e), true => [(e, c.get (F.stdStateLogical l))]
   | _, _ => []) ++ (c.pwr.remaps.filter (fun r => r.2.2)).map (fun r => (r.2.1, r.1))

/-- The image in force loaded into every core, also of the stands that take a logical stand's place later (R161, Table 5.8). -/
def W.regionsLoad (w : W) (im : Image) : W :=
  let w := (w.coreLoad im).on (fun c => { c with img := { c.img with cur := some im } })
  w.ctl.copiedStands.foldl (fun w p => w.loadStand p.1 p.2) w

/-- A load with no image in force (R219): owner 0xF0, then the declared owners. -/
def W.loadDirect (w : W) (im : Image) : W :=
  let w := ((w.copyPut im w.ctl.img.half).regionsLoad im).declCommit im 0xF0 (fun _ => true)
  let w := (w.constLoad im (fun _ => true)).declOwners im (fun _ => true)
  w.on (fun c => ((c.routesWrite im true).1).poolsWrite im)

/-- The promotion that waits answered (R211, R322): IMAGE_PROMOTE's object is the image, SCENE_DECIDE's its context. -/
def Ctl.promoteEnd (c : Ctl) (st detail : Nat) (res : List Word) : Ctl :=
  let c' := { c with img := { c.img with promote := none } }
  match c.img.promote with
  | some (some m, sel) => c'.answer m st detail (c'.epochOf (match sel with
      | some (x, _) => 0x0200 + x
      | none => 0x0700)) res
  | _ => c'

/-- The old shadow image's handles released (R324); a promotion that waited for it ends without one (BAD_ARG 5, Table 10.5). -/
def W.dropShadow (w : W) : W :=
  let held (w : W) (e : Nat) : Bool := w.ctl.on (F.cnpHtW0Valid e) && w.ctl.get (F.cnpHtW0Owner e) == 0xF1
  let w := match w.ctl.img.shadow with
    | some im => im.handles.foldl (fun (w : W) (h : HandleDecl) => if held w h.entry then w.htFree h.entry else w) w
    | none => w
  w.on (fun c => ({ c with img := { c.img with shadow := none, prefetched := false } }).promoteEnd 4 5 [])

/-- Whether the image in force declares a handle entry. -/
def Ctl.curHas (c : Ctl) (e : Nat) : Bool := match c.img.cur with
  | some im => imgHas im e
  | none => false

/-- A load while an image is in force: to the shadow handles (R219, R324), but for entries that the image in force holds, which follow at
promotion (log entry 156). -/
def W.loadShadow (w : W) (im : Image) : W :=
  let w := (w.dropShadow).copyPut im (!w.ctl.img.half)
  (w.declCommit im 0xF1 (fun e => !w.ctl.curHas e)).on (fun c => { c with img := { c.img with shadow := some im, prefetched := false } })

/-- An image load that passed its checks. -/
def W.imageLoad (w : W) (im : Image) : W :=
  let w := if w.ctl.img.cur.isSome then w.loadShadow im else w.loadDirect im
  w.on (fun c => { c with host := { c.host with epImage := c.host.epImage + 1 } })

/-- Resident lines of the shadow image written to the resident regions of the cores its multicast map names (R196), within the
resident region of the image in force (log entry 155). -/
def W.residentPrefetch (w : W) (im : Image) : W :=
  let (lo, hi) := match w.ctl.img.cur with
    | some o => (o.codeSz * 4096, (o.codeSz + o.resSz) * 4096)
    | none => (im.codeSz * 4096, (im.codeSz + im.resSz) * 4096)
  im.resident.foldl (fun w r =>
    let a := im.codeSz * 4096 + r.off
    w.putCores r.cores (max a lo) ((r.bytes.take (hi - a)).drop (lo - a))) w

/-- SHADOW_PREFETCH (R196, R211): the next image's constants reach the shadow handles and its resident lines the cores, in the
background. -/
def execShadowPrefetch (s : State) : Host.Outcome State Fault Refusal := onHw s (fun w =>
  match w.ctl.running && !w.ctl.img.prefetched, w.ctl.img.shadow with
  | true, some im => ((w.constLoad im (fun e => !w.ctl.curHas e)).residentPrefetch im).on (fun c =>
      { c with img := { c.img with prefetched := true } })
  | _, _ => w)

/-! Speculation (R212 … R214). -/

/-- Queued tasks of speculation cancelled, running ones stopped with no completion, the channels emptied, semaphores and pools
initialised, the speculative histogram bank discarded (R214, steps 1 … 5). -/
def Ctl.specStop (c : Ctl) : Ctl :=
  let c := { c with fab := { c.fab with queues := (c.fab.queues.map (fun (p : Nat × List Task) => (p.1, p.2.filter (fun (t : Task) => !t.spec)))).filter (fun (p : Nat × List Task) => !p.2.isEmpty)
                                        specRun := none } }
  let c := (List.range 136).foldl (fun c q => match (c.core q).task with
    | some t => if t.spec then c.leaveCore q false else c
    | none => c) c
  let c := (List.range 1024).foldl (fun c x => if c.on (F.chnRouteSpec x) then
      ({ c with fab := { c.fab with fifos := mdrop (inRange (128 * x) 128) c.fab.fifos } }).fifoRegs x else c) c
  let c := (List.range 256).foldl (fun c s => if c.on (F.semCountSpec s) then c.semInit s else c) c
  let c := (List.range 256).foldl (fun c p => if c.on (F.chnCpGuardSpec p) && c.on (F.chnCpGuardValid p) then c.poolReset p else c) c
  c.specBinsDrop

/-- Whether a core of stand n runs a speculative task. -/
def Ctl.specOnStand (c : Ctl) (n : Nat) : Bool := (List.range 8).any (fun i => match (c.core (8 * n + i)).task with
  | some t => t.spec
  | none => false)

/-- A speculation cancelled (R214): the stores its tasks gathered are flushed at their end (R170), and the speculative handles are marked
after the rest. -/
def W.specCancel (w : W) : W :=
  let w := (List.range 17).foldl (fun w n => if w.ctl.specOnStand n then w.flushWhere n (fun _ => true) else w) w
  (List.range 256).foldl (fun w h => if w.ctl.on (F.cnpHtW0Spec h) && w.ctl.on (F.cnpHtW0Valid h) then
    w.actC (.mark (w.ctl.hKey h 0) (w.ctl.hSize h)) else w) (w.on Ctl.specStop)

/-- Whether speculation runs. -/
def Ctl.specOn (c : Ctl) : Bool := c.fab.specRun.isSome

/-- A running speculation cancelled; a primary tells its mirror partner (R384). -/
def W.specEnd (w : W) : W :=
  if !w.ctl.specOn then w
  else w.specCancel.on (fun c => if c.paired && c.isPrimary then c.hngSend 0 (.state .specCancel) else c)

/-- The speculation is over and its counts become those of the frame (R214, confirmation; its handles change at the promotion). -/
def Ctl.specConfirm (c : Ctl) : Ctl := ({ c with fab := { c.fab with specRun := none } }).specBinsConfirm

/-! Promotion (R211). -/

/-- Whether the tasks of the present image are over: no core runs and no queue holds a task of a stream. -/
def Ctl.streamsQuiet (c : Ctl) : Bool :=
  let stream (t : Task) : Bool := !t.isJob && !t.spec
  c.fab.cores.all (fun p => match p.2.task with
    | some t => !stream t
    | none => true) && c.fab.queues.all (fun p => p.2.all (fun t => !stream t))

/-- Step 1 of R211: the shadow handles from 0xF1 to 0xF0; at a confirmation SPEC becomes 0 in the same commit (R214). -/
def W.shadowCommit (w : W) (im : Image) (confirm : Bool) : W :=
  im.handles.foldl (fun w h => let c := w.ctl
    if c.on (F.cnpHtW0Valid h.entry) && c.get (F.cnpHtW0Owner h.entry) == 0xF1 then
      w.htChange h.entry true 0xF0 (c.on (F.cnpHtW0Spec h.entry) && !confirm) else w) w

/-- The shadow image promoted in the order of R211, confirming a speculation or not; none where a route is refused, and then nothing has
changed. Entries that both images declare are committed after the old image's release, and the declared owners last, but for
confirmed speculative handles, whose contents stay (R214; log entry 156). -/
def W.promote (w : W) (confirm : Bool) : Option W :=
  match w.ctl.img.shadow with
  | none => none
  | some im =>
    let c := w.ctl
    let both := c.curHas
    let spec (e : Nat) : Bool := confirm && c.on (F.cnpHtW0Spec e)
    let w := (w.on (fun c => if confirm then c.specConfirm else c)).shadowCommit im confirm
    let w := match c.img.cur with
      | some o => w.declFree o
      | none => w
    let w := (w.declCommit im 0xF0 both).constLoad im both
    let w := (w.declOwners im (fun e => !spec e)).on (fun c => { c with img := { c.img with shadow := none, prefetched := false, half := !c.img.half } })
    let w := w.regionsLoad im
    let (c, ok) := w.ctl.routesWrite im true
    if ok then some (w.on (fun _ =>
      let c := c.poolsWrite im
      { c with host := { c.host with epImage := c.host.epImage + 1 } })) else none

/-! Repair (R180, R490). -/

/-- The byte of the image copy at offset o of logical core k. -/
def imgCoreByte (im : Image) (k o : Nat) : Byte :=
  let pick (l : List ResRec) (o : Nat) : Option Byte := (l.find? (fun r => r.cores.contains k && decide (r.off ≤ o ∧ o < r.off + r.bytes.length))).map
    (fun r => nth 0 r.bytes (o - r.off))
  if o < im.codeSz * 4096 then (pick im.code o).getD 0 else (pick im.resident (o - im.codeSz * 4096)).getD 0

/-- The byte of the image copy at a Canopy or DRAM key. -/
def Ctl.imgConstByte (c : Ctl) (im : Image) (key : Nat) : Byte :=
  match im.consts.find? (fun r => decide (c.hKey r.handle r.off ≤ key ∧ key < c.hKey r.handle r.off + r.bytes.length)) with
  | some r => nth 0 r.bytes (key - c.hKey r.handle r.off)
  | none => 0

/-- The output contexts whose stream runs under the image in force. -/
def Ctl.streamBits (c : Ctl) : Nat :=
  (List.range 24).foldl (fun b i => match c.outOf i with
    | some o => if c.armedAs i 0 && (c.vc i).started && c.get (F.stcSchedActModel i) != 0xFF then setBit b o else b
    | none => b) 0

/-- The line of a detection rewritten from the image copy, and its repair record (R180, R490); a line of DRAM has 256 bytes. -/
def W.repair (w : W) (im : Image) (r : Repair) : W :=
  let c := w.ctl
  let n := if r.level = 1 then 128 else 256
  let k := r.key - r.key % n
  let bs := (List.range n).map (fun i => if r.level = 1 then imgCoreByte im r.core ((k - cmemKey 0 0) % Config.coreMemBytes + i)
    else c.imgConstByte im (k + i))
  (w.putKey k bs).on (fun c => c.postNormal (statusRec 5 0x0700 stOk [r.det, c.frameNow, w32 c.streamBits]))

/-- RESIDENT_REPAIR (R180): the oldest detection's line at a vertical blanking. -/
def execResidentRepair (s : State) : Host.Outcome State Fault Refusal := onHw s (fun w =>
  match w.ctl.fab.repairs, w.ctl.img.cur with
  | r :: rest, some im => (w.on (fun c => { c with fab := { c.fab with repairs := rest } })).repair im r
  | _, _ => w)

end Sys2Proof.Machine
end

