-- ==== Sys2Proof/Machine/Power.lean ====
section
/-! DEFINITION. Power and thermal limits (13_power_thermal_spare.md R404 … R424): current windows and enforcement, shed and
restore, energy records, junction sensors, the trip, a stand's power-up. -/

namespace Sys2Proof.Machine

/-! Limits. -/

/-- The limits of Table 13.1 [mA], by rail. -/
def railMax : List Nat := [45000, 14000, 50, 400, 4000, 2000, 3000]

/-- The limit of rail r as it acts (Table 13.8). -/
def Ctl.limitMa (c : Ctl) (r : Nat) : Nat := min (c.get (F.phcRailLimitLimitMa r)) (nth 0 railMax r)

/-- The level 1 threshold of rail r as it acts (Table 13.8). -/
def Ctl.warnPct (c : Ctl) (r : Nat) : Nat :=
  let w := c.get (F.phcRailLimitWarnPct r)
  if 50 ≤ w ∧ w ≤ 100 then w else 90

/-- Whether calibration page p is bad (R457, R459). -/
def Ctl.pageBad (c : Ctl) (p : Nat) : Bool := c.boot.calBad.contains p || c.on F.phcBootStatusCalDie

/-- An enforced value (R412): its number in Table 13.6, value and limit in one unit, the level 1 percentage, the value shown. -/
structure Enforced where
  obj : Nat
  value : Nat
  limit : Nat
  pct : Nat
  shown : Nat
deriving DecidableEq, Repr

/-- Level 1 of Table 13.4. -/
def Enforced.warn (e : Enforced) : Bool := decide (e.pct * e.limit ≤ 100 * e.value)

/-- Level 2 of Table 13.4; at 90 % of the limit where calibration page 5 is bad (Table 14.10). -/
def Ctl.atLimit (c : Ctl) (e : Enforced) : Bool :=
  if c.pageBad 5 then decide (9 * e.limit ≤ 10 * e.value) else decide (e.limit ≤ e.value)

/-- Package power of the windows held, the sum in µW, and their number (R411). -/
def Ctl.pkgSum (c : Ctl) : Nat × Nat := (c.pwr.window.foldl (· + ·) 0, max 1 c.pwr.window.length)

/-- The three enforced values after a window with currents ma. -/
def Ctl.enforced (c : Ctl) (ma : List Nat) : List Enforced :=
  let (sum, n) := c.pkgSum
  [⟨0, nth 0 ma 0, c.limitMa 0, c.warnPct 0, nth 0 ma 0⟩, ⟨1, nth 0 ma 1, c.limitMa 1, c.warnPct 1, nth 0 ma 1⟩,
   ⟨7, sum, c.get F.phcPkgLimit * 100000 * n, 90, (roundDiv sum (100000 * n)).toNat⟩]

/-! One window. -/

/-- MEAS, PEAK and OVER of every rail (R410). -/
def Ctl.railMeas (c : Ctl) (mv ma : List Nat) : Ctl :=
  (List.range 7).foldl (fun c r =>
    let i := nth 0 ma r
    let c := (c.put (F.phcRailMeasMv r) (nth 0 mv r)).put (F.phcRailMeasMa r) i
    let c := c.put (F.phcRailPeakPeakMa r) (max (c.get (F.phcRailPeakPeakMa r)) i)
    if c.limitMa r ≤ i then c.bump (F.phcRailPeakOver r) 1 else c) c

/-- Package power and energy of a window of 2 µs: POWER and PHC_ENERGY, and the energy measured in the present interval (R410, R411,
R415, R417; DEDUCED, log entry 10). -/
def Ctl.packageMeas (c : Ctl) (mv ma : List Nat) : Ctl :=
  let uw := (List.range 7).foldl (fun a r => a + nth 0 mv r * nth 0 ma r) 0
  let w := c.pwr.window ++ [uw]
  let pj (r : Nat) : Nat := 2 * nth 0 mv r * nth 0 ma r
  let c := { c with pwr := { c.pwr with window := w.drop (w.length - 256), energy := c.pwr.energy + 2 * uw
                                        enCore := c.pwr.enCore + pj 0, enCanopy := c.pwr.enCanopy + pj 1
                                        enDdq := c.pwr.enDdq + pj 6, enPkg := c.pwr.enPkg + 2 * uw } }
  let (sum, n) := c.pkgSum
  (c.put F.phcPkgPower (min 4095 (roundDiv sum (100000 * n)).toNat)).wr R.phcEnergy (w32 (roundDiv c.pwr.energy 1000000000).toNat)

/-- A limit reached: LIMIT_HIT, RAIL and ALERT bit 4. -/
def Ctl.limitHit (c : Ctl) (r : Nat) : Ctl := ((c.put F.phcCurStatusLimitHit 1).put F.phcCurStatusRail r).alert 4

/-- Whether the setpoint is at the effective floor, where no down step can be requested. -/
def Ctl.atFloor (c : Ctl) : Bool := decide (c.setMv ≤ c.floorEff)

/-- The spare stand, if one reads SPARE, powered off by level 2 (Table 13.4). -/
def Ctl.spareOff (c : Ctl) : Ctl :=
  let spares := (List.range 17).filter (fun n => c.get (F.stdStateState n) == 1)
  if spares.isEmpty then c
  else (spares.foldl (fun c n => c.standPowerOff n true) c).put F.phcCurStatusSpareOff 1

/-- The down step of level 2 (Table 13.4). -/
def Ctl.enforceDown (c : Ctl) : Ctl :=
  if c.govLive && !c.inFlight && !c.atFloor then c.govRequest (c.setMv - c.stepMv) else c

/-- Levels 2 and 3 for one value (Table 13.4); its cause 3 once per output frame. -/
def Ctl.enforceLimit (c : Ctl) (e : Enforced) : Ctl :=
  if !c.atLimit e then { c with pwr := { c.pwr with lvl2Run := mset 0 c.pwr.lvl2Run e.obj 0 } }
  else
    let floor := c.atFloor
    let c := ((c.limitHit e.obj).spareOff).enforceDown
    let c := if c.pwr.limitPosted.contains e.obj then c
      else ({ c with pwr := { c.pwr with limitPosted := e.obj :: c.pwr.limitPosted } }).powerRec 3 e.obj e.shown
    let n := if floor then mget 0 c.pwr.lvl2Run e.obj + 1 else 0
    let c := { c with pwr := { c.pwr with lvl2Run := mset 0 c.pwr.lvl2Run e.obj n } }
    if decide (8 ≤ n) && c.on F.phcCurCtrlShedEn && !c.on F.phcCurStatusShed && c.pwr.shedPend.isNone then
      { c with pwr := { c.pwr with shedPend := some e.obj } }
    else c

/-- Level 1 over the enforced values: VETO until no value has been at level 1 for 8 windows. -/
def Ctl.enforceWarn (c : Ctl) (warn : Bool) : Ctl :=
  let n := if warn then 8 else c.pwr.vetoLeft - 1
  let c := { c with pwr := { c.pwr with vetoLeft := n, quietFrames := if warn then 0 else c.pwr.quietFrames } }
  c.put F.phcCurStatusVeto (bit (decide (0 < n)))

/-- The VCORE fault by the windows seen (R409, Table 13.3): it begins after two consecutive windows out of range and sheds
whatever SHED_EN holds; it ends after 1 ms in range. -/
def Ctl.vfaultCheck (c : Ctl) : Ctl :=
  if !c.on F.phcCurStatusVfault && decide (2 ≤ c.pwr.vcoreBad) then
    let c := (c.put F.phcCurStatusVfault 1).powerRec 6 0 c.pwr.dieMv
    if c.on F.phcCurStatusShed then c else { c with pwr := { c.pwr with shedPend := some 8 } }
  else if c.on F.phcCurStatusVfault && decide (500 ≤ c.pwr.vcoreOk) then c.put F.phcCurStatusVfault 0
  else c

/-- Die VCORE of a window. -/
def Ctl.vcoreWindow (c : Ctl) (mv : Nat) : Ctl :=
  let bad := decide (mv < 600 ∨ 900 < mv)
  ({ c with pwr := { c.pwr with dieMv := mv, enMv := (c.pwr.enMv.1 + mv, c.pwr.enMv.2 + 1), vcoreBad := if bad then c.pwr.vcoreBad + 1 else 0,
                                vcoreOk := if bad then 0 else c.pwr.vcoreOk + 1 } }).vfaultCheck

/-- CURRENT_WINDOW (R410 … R412): the mean voltages and currents of the window's rails, and die VCORE. -/
def Ctl.currentWindow (c : Ctl) (mv ma : List Nat) (dieMv : Nat) : Ctl :=
  let c := (c.railMeas mv ma).packageMeas mv ma
  let c := [2, 3, 4, 5, 6].foldl (fun c r => if c.limitMa r ≤ nth 0 ma r then c.limitHit r else c) c
  let es := c.enforced ma
  let c := c.enforceWarn (es.any Enforced.warn)
  (es.foldl Ctl.enforceLimit c).vcoreWindow dieMv

/-- The current of rail r [mA] from what its sense reads: offset and gain of calibration page 5 (R453, Table 14.9; log entry 171). -/
def Ctl.sensedMa (c : Ctl) (r ma : Nat) : Nat :=
  let word (o : Nat) : Nat := ofBytes ((c.boot.offsets.drop (0x40 + 4 * r + o)).take 2)
  let (off, gain) := (toSigned 16 (word 0), word 2)
  if c.boot.offsets.isEmpty ∨ (off = 0 ∧ gain = 32768) then ma else Config.senseMa off gain ma % 65536

/-- CURRENT_WINDOW (R410 … R412). -/
def execCurrentWindow (mv ma : List (BitVec 16)) (dieMv : Nat) (s : State) : Host.Outcome State Fault Refusal := onCtl s (fun c =>
  if c.running then c.currentWindow (mv.map BitVec.toNat) ((List.range 7).map (fun r => c.sensedMa r (nth 0 ma r).toNat)) dieMv else c)

/-! Shed and restore (R413, R414). -/

/-- A task of a stream: OWNER 0x01 … 0x18. -/
def Task.isStream (t : Task) : Bool := decide (1 ≤ t.owner ∧ t.owner ≤ 24)

/-- The line steps that wait in dispatch queues taken out (R413). -/
def Ctl.dropLineSteps (c : Ctl) : Ctl :=
  let kept := c.fab.queues.map (fun (p : Nat × List Task) => (p.1, p.2.filter (fun (t : Task) => !t.isStream)))
  { c with fab := { c.fab with queues := kept.filter (fun (p : Nat × List Task) => !p.2.isEmpty) } }

/-- A pending shed takes effect (R413). -/
def W.shedEnter (w : W) (frame : Word) : W :=
  match w.ctl.pwr.shedPend with
  | none => w
  | some obj =>
    (w.on (fun c =>
      let c := { c with pwr := { c.pwr with shedPend := none } }
      (((c.dropLineSteps).put F.phcCurStatusShed 1).bump F.phcCurStatusSheds 1).powerRec 4 obj frame.toNat)).shedQuiet

/-- The shed ends (R414): the stands power up, recurrent state is cleared as at a stream start, cause 5. -/
def W.shedLeave (w : W) (frame : Word) : W :=
  let w := w.on (fun c =>
    let c := (c.put F.phcCurStatusShed 0).powerRec 5 0 frame.toNat
    (List.range 17).foldl (fun c n =>
      if mget 0 c.pwr.standOff n = 1 ∧ c.get (F.stdStateState n) ≠ 1 ∧ c.get (F.stdStateState n) ≠ 0 then
        { c with pwr := { c.pwr with standOff := mset 0 c.pwr.standOff n 3 } } else c) c)
  (List.range 24).foldl (fun w i => if w.ctl.armedAs i 0 && (w.ctl.vc i).started then w.clearStream i else w) w

/-- Shed and restore at a boundary of the output with the shortest t_out: the frames that passed with every value below level
1 are counted, and a whole number RESTORE of them with no VCORE fault ends a shed. -/
def W.shedBoundary (w : W) (frame : Word) : W :=
  let q := w.ctl.pwr.quietFrames + 1
  let w := w.on (fun c => { c with pwr := { c.pwr with quietFrames := if c.pwr.vetoLeft = 8 then 0 else q, limitPosted := [] } })
  if !w.ctl.on F.phcCurStatusShed then w.shedEnter frame
  else if w.ctl.get F.phcCurCtrlRestore < w.ctl.pwr.quietFrames ∧ !w.ctl.on F.phcCurStatusVfault then w.shedLeave frame
  else w.shedQuiet

/-! Energy (R415 … R417). -/

/-- The sum of the estimates of an interval with its idle term. -/
def enTotal (idle : Nat) (m : SMap Nat) : Nat := m.foldl (fun a p => a + p.2) idle

/-- The energy [pJ] that the present interval, as measured so far, gives the tasks of a key: the fabric's and the memory's, the estimates
and an idle term scaled to the measured energy (R415). -/
def Ctl.energyShare (c : Ctl) (key : Nat) : Nat × Nat :=
  let ns := c.now - c.pwr.enStart
  (mget 0 c.fab.enFab key * c.pwr.enCore / enTotal (Config.energyIdle 0 ns) c.fab.enFab,
   mget 0 c.fab.enMem key * (c.pwr.enCanopy + c.pwr.enDdq) / enTotal (Config.energyIdle 1 ns) c.fab.enMem)

/-- The energy [pJ] assigned so far to the tasks of a key, the present interval with it (log entry 9). -/
def Ctl.energyOf (c : Ctl) (key : Nat) : Nat × Nat :=
  let (d, p) := (mget (0, 0) c.pwr.enDone key, c.energyShare key)
  (d.1 + p.1, d.2 + p.2)

/-- Whether the energy of a key may still be reported: a host job's, or of a stream with energy records the present frame's and the
last two. -/
def Ctl.energyKept (c : Ctl) (key : Nat) : Bool :=
  let o := key / 2 ^ 32
  decide (0x40 ≤ o) || (decide (1 ≤ o) && (c.vc (o - 1)).energyOn && decide ((c.vc (o - 1)).frame.toNat ≤ key % 2 ^ 32 + 2))

/-- An interval ends (R415): its energy is assigned, and the next one begins. -/
def Ctl.energyEnd (c : Ctl) : Ctl :=
  let keys := ((c.fab.enFab.map (·.1)) ++ (c.fab.enMem.map (·.1)) ++ (c.pwr.enDone.map (·.1))).dedup.filter c.energyKept
  let p := c.pwr
  { c with
    pwr := { p with
      enDone := keys.foldl (fun m k => mset (0, 0) m k (c.energyOf k)) []
      enLast := ((roundDiv p.enMv.1 (max 1 p.enMv.2)).toNat, p.enPkg), enStart := c.now
      enCore := 0, enCanopy := 0, enDdq := 0, enPkg := 0, enMv := (0, 0) }
    fab := { c.fab with enFab := [], enMem := [] } }

/-- The energy of a key reported: what the present interval holds of it stays in the interval's sums, without a task of its own. -/
def Ctl.energyTaken (c : Ctl) (key : Nat) : Ctl :=
  let move (m : SMap Nat) : SMap Nat := mset 0 (merase m key) 0 (mget 0 m 0 + mget 0 m key)
  { c with pwr := { c.pwr with enDone := merase c.pwr.enDone key }
           fab := { c.fab with enFab := move c.fab.enFab, enMem := move c.fab.enMem } }

/-- Energy in µJ (R244, R417). -/
def microJ (pj : Nat) : Nat := (roundDiv pj 1000000).toNat

/-- Whether a task of an owner and a frame runs or waits in a queue (R416). -/
def Ctl.frameOpen (c : Ctl) (owner : Nat) (frame : Word) : Bool :=
  let of := fun (t : Task) => t.owner == owner && t.frame == frame
  (c.fab.cores.any (fun p => p.2.task.any of)) || c.fab.queues.any (fun p => p.2.any of)

/-- ENERGY_RECORD (R416): once the frame's last task has completed, the TYPE 12 record of an output frame, whatever STC_s_REPORT.EN, with the energy assigned to OWNER 1 + s and that
frame, and of the last interval the mean die VCORE and the package energy. -/
def execEnergyRecord (s : Fin 24) (frame : Word) (st : State) : Host.Outcome State Fault Refusal := onCtl st (fun c =>
  let r := c.get (F.stcReportRing s.val)
  let key := (1 + s.val) * 2 ^ 32 + frame.toNat
  let (fab, mem) := c.energyOf key
  if c.running && (c.vc s.val).energyOn && c.ringKind r 4 && !c.frameOpen (1 + s.val) frame then
    (c.energyTaken key).post r
      [12, frame, w32 (microJ fab), w32 (microJ mem), w32 (c.pwr.enLast.1 % 1024), w32 (microJ c.pwr.enLast.2)] else c)

/-! Sensors and the trip (R420 … R423). -/

/-- The offset of sensor i in quarter degrees (Table 14.9, page 5). -/
def Ctl.sensorOffset (c : Ctl) (i : Nat) : Int := toSigned 16 (ofBytes ((c.boot.offsets.drop (2 * i)).take 2))

/-- The reading of sensor i in quarter degrees as Ferna reports it: its offset applied (R420), and 5 °C added where calibration page 5
is bad (Table 14.10). -/
def Ctl.reading (c : Ctl) (i : Nat) (q : BitVec 16) : Int := q.toInt + c.sensorOffset i + if c.pageBad 5 then 20 else 0

/-- SENSOR_SAMPLE (R420): the readings of the 24 sensors. -/
def Ctl.sensorSample (c : Ctl) (q : List (BitVec 16)) : Ctl :=
  let t (i : Nat) : Int := c.reading i (nth 0 q i)
  let c := (List.range 24).foldl (fun c i =>
    (c.put (F.phcTempNow i) (ofSigned 16 (t i))).put (F.phcTempMax i) (ofSigned 16 (max (toSigned 16 (c.get (F.phcTempMax i))) (t i)))) c
  let warn : Int := 4 * (c.get F.phcThermCfgWarn : Nat)
  let rearm : Int := warn - 4 * (c.get F.phcThermCfgHyst : Nat)
  let hot := (List.range 24).foldl (fun b i => if t b < t i then i else b) 0
  let c := (c.put F.phcThermStatusSensor hot).put F.phcThermStatusHottest (ofSigned 16 (t hot))
  let c := c.put F.phcThermStatusWarn (bit (decide (warn ≤ t hot)))
  match (List.range 24).find? (fun i => decide (warn ≤ t i)) with
  | some i => if c.on F.phcThermStatusArmed then
      ((c.put F.phcThermStatusArmed 0).event evThermWarn (0x4100 + i) (w32 i) (w32 (ofSigned 32 (t i)))).alert 0 else c
  | none => if t hot < rearm then c.put F.phcThermStatusArmed 1 else c

/-- SENSOR_SAMPLE (R420). -/
def execSensorSample (q : List (BitVec 16)) (s : State) : Host.Outcome State Fault Refusal := onCtl s (fun c =>
  if c.running then (c.sensorSample q).vfaultCheck else c)

/-- The trip's effect (R421): PAIR_ACT_N released, the Shutters closed and held, the stands off without retention, line steps
and main-field evaluations stopped, the event and ALERT bit 1. -/
def Ctl.thermalTrip (c : Ctl) (i : Nat) (t : Int) : Ctl :=
  let c := (({ c with pwr := { c.pwr with trip := true } }).put F.phcThermStatusTrip 1).setAct false
  let c := [0, 1].foldl (fun c k => c.shutSet k 1 1 2 (c.get (F.phcShutReason k))) c
  let c := (List.range 136).foldl (fun c q => c.leaveCore q false) c.dropLineSteps
  let c := (List.range 17).foldl (fun c n => (c.gatherSet n []).standPowerOff n false) c
  let c := { c with und := { c.und with evalBusy := [] } }
  (c.event evThermTrip (0x4100 + i) (w32 i) (w32 (ofSigned 32 t))).alert 1

/-- THERMAL_TRIP (R421): a comparator fires; one trip until a main-domain reset. In reset the comparators are active and
THERMTRIP_N alone is asserted (Table 14.2). -/
def execThermalTrip (i : Fin 24) (q : BitVec 16) (s : State) : Host.Outcome State Fault Refusal := onCtl s (fun c =>
  if !c.running then { c with pwr := { c.pwr with trip := true } }
  else if c.on F.phcThermStatusTrip then c
  else c.thermalTrip i.val (c.reading i.val q))

end Sys2Proof.Machine
end

