-- ==== Sys2Proof/Machine/HostIf.lean ====
section
/-! DEFINITION. The host interface (09_host_and_management.md R271 … R293): descriptors, jobs, DMA, moderation, the PCIe link
and function-level reset. -/

namespace Sys2Proof.Machine

/-! Completions. -/

/-- Host jobs outstanding. -/
def Ctl.jobsOut (c : Ctl) : Nat := c.host.jobs.length

/-- Completions reserved on ring r: of jobs and transfers that still run, and of records held while the link is down
(R280, R293). -/
def Ctl.reservedOn (c : Ctl) (r : Nat) : Nat :=
  (c.host.jobs.filter (fun (p : Nat × Option Job) => match p.2 with
    | some j => j.cplRing == r && !j.silent
    | none => false)).length +
  (c.host.dmas.filter (fun (d : Dma) => d.cplRing == r)).length + (c.host.queue.filter (fun (p : Nat × List Word) => p.1 == r)).length

/-- Whether a descriptor naming completion ring r may be taken (R280). -/
def Ctl.mayTake (c : Ctl) (r : Nat) : Bool :=
  decide (c.jobsOut < 64) && decide (c.reservedOn r < c.ringSize r - 1 - c.ringFill r)

/-- A completion record (Table 9.6). -/
def cplRec (status : Nat) (tag : Word) (items job : Nat) (dma : Bool) (energy : Word) (bytes : Nat) : List Word :=
  [w32 (8 + 256 * status), tag, w32 (items % 8192 + 65536 * job + 0x400000 * bit dma), energy, w32 bytes]

/-! Descriptors (R278, R280, R283). -/

/-- The completion ring a descriptor of a submission ring of a kind names. -/
def cplOf (kind : Nat) (ws : List Word) : Nat := if kind = 0 then fieldGet (nth 0 ws 2) 16 9 else fieldGet (nth 0 ws 4) 8 9

/-- The defined bits of a descriptor's words (Tables 9.4, 9.5). -/
def descMask (kind : Nat) : List Word :=
  if kind = 0 then [0x3F0F, 0xFFFFFFFF, 0x01FFFFFF, 0, 0xFFFFFFFF, 0xFFFFFFFF, 0xFFFFFFFF, 0xFFFFFFFF]
  else [0x3F3F, 0xFFFFFFFF, 0xFFFFFFFF, 0xFFFFFFFF, 0x1FFFF, 0xFFFFFFFF, 0xFFFFFFFF, 0xFFFFFF]

/-- Whether a descriptor has the TYPE of its ring and no undefined bit set (R282). -/
def descOk (kind : Nat) (ws : List Word) : Bool :=
  fieldGet (nth 0 ws 0) 0 4 == kind + 1 && (List.range 16).all (fun i => nth 0 ws i &&& ~~~nth 0 (descMask kind) i == 0)

/-- Whether the descriptor at HEAD waits: its completion ring is enabled and R280 fails. -/
def Ctl.descWaits (c : Ctl) (r : Nat) (ws : List Word) : Bool :=
  let q := cplOf (c.get (F.rngCfgKind r)) ws
  c.ringKind q 2 && !c.mayTake q

/-- DESCRIPTOR_FETCH (R278, R280): from HEAD of an enabled submission ring; HEAD advances once the 64 bytes are held; while
R280 fails it does not; a failed fetch sets ERR and stops the ring. -/
def Ctl.descFetch (c : Ctl) (r : Nat) (res : FetchResult) : Ctl :=
  let rs := c.ring r
  if !(c.running && c.host.linkUp && c.on (F.rngCfgEn r) && decide (c.get (F.rngCfgKind r) ≤ 1)) || rs.stopped || rs.fetched.isSome ||
      c.ringFill r = 0 then c
  else match res with
  | .error => (c.ringSet r { rs with stopped := true }).put (F.rngStatErr r) 1
  | .words ws =>
    if c.descWaits r ws then c
    else (c.ringSet r { rs with fetched := some ws }).ringIdx r (R.rngHead r) (w32 ((c.get (F.rngHeadIdx r) + 1) % c.ringSize r))

/-- DESCRIPTOR_FETCH. -/
def execDescriptorFetch (r : Fin 512) (res : FetchResult) (s : State) : Host.Outcome State Fault Refusal :=
  onCtl s (fun c => c.descFetch r.val res)

/-- The descriptor ring r of a kind holds is taken: discarded with ERR where its completion ring is no enabled one (R283),
waiting while R280 fails, else passed on with that ring. -/
def W.takeDesc (w : W) (r kind : Nat) (f : W → Nat → List Word → W) : W :=
  match (w.ctl.ring r).fetched with
  | none => w
  | some ws =>
    let q := cplOf kind ws
    if !(w.ctl.running && w.ctl.ringKind r kind) || w.ctl.descWaits r ws then w
    else
      let w := w.on (fun c => c.ringSet r { c.ring r with fetched := none })
      if !w.ctl.ringKind q 2 then w.on (fun c => c.put (F.rngStatErr r) 1) else f w q ws

/-! Jobs (R232, R233, R283, R285). -/

/-- The varying arguments of a FORM 1 item: ARGk moved by i × STRIDE in ascending k (R232). -/
def strided (mask : BitVec 16) (i : Nat) : List Nat → List Word → List Word → List Word
  | [], _, as => as
  | k :: ks, st, as =>
    if mask.getLsbD k then strided mask i ks st.tail (as.set k (nth 0 as k + w32 i * st.headD 0)) else strided mask i ks st as

/-- The arguments of item i of a batch, from the template's, with the list's bytes for FORM 2 (R232). -/
def itemArgs (b : BatchRec) (i : Nat) (list : List Byte) (as : List Word) : List Word :=
  if b.form = 1 then strided b.mask i (List.range 15) b.stride as
  else (List.range 15).map (fun k => if b.mask.getLsbD k then w32 (ofBytes ((list.drop (60 * i + 4 * k)).take 4)) else nth 0 as k)

/-- The items of a batch for host job j, ascending (R232). -/
def batchItems (im : Image) (b : BatchRec) (j : Nat) (args : List Word) (list : List Byte) : List Task :=
  let tmpl := nth [] im.templates b.template
  let as := (List.range 15).map (fun k => if k < 4 then nth 0 args k else nth 0 tmpl (8 + k))
  (List.range b.n).map (fun i =>
    let w0 := fieldPut (fieldPut (nth 0 tmpl 0) 12 7 (nth 0 b.cores (i % max 1 b.ncores))) 24 8 (0x40 + j)
    taskOf (w0 :: (List.range 7).map (fun x => nth 0 tmpl (x + 1)) ++ itemArgs b i list as ++ List.replicate 9 0)
      b.template i 0 false)

/-- Whether the list of a FORM 2 batch fits its handle (R232). -/
def Ctl.listFits (c : Ctl) (b : BatchRec) : Bool :=
  b.form != 2 || (c.on (F.cnpHtW0Valid b.list) && decide (60 * b.n ≤ c.hSize b.list))

/-- The epoch of host job j rises (Table 10.3). -/
def Ctl.jobTick (c : Ctl) (j : Nat) : Ctl :=
  { c with host := { c.host with jobEpoch := mset 0 c.host.jobEpoch j (mget 0 c.host.jobEpoch j + 1) } }

/-- Whether the list that a job descriptor's batch reads lies in a DRAM range that is being cleared (R167). -/
def Ctl.listBusy (c : Ctl) (ws : List Word) : Bool :=
  match c.img.cur with
  | none => false
  | some im => match im.batches[fieldGet (nth 0 ws 2) 0 16]? with
    | none => false
    | some b => descOk 0 ws && b.form == 2 && c.on (F.cnpHtW0Busy b.list)

/-- A job descriptor taken (R283): its reruns are unused (R178). -/
def W.jobTake (w : W) (q : Nat) (ws : List Word) : W :=
  let c := w.ctl
  let j := fieldGet (nth 0 ws 0) 8 6
  let bad := w.on (fun c => c.post q (cplRec stBadArg (nth 0 ws 1) 0 j false 0 0))
  match c.img.cur with
  | none => bad
  | some im => match im.batches[fieldGet (nth 0 ws 2) 0 16]? with
    | none => bad
    | some b =>
      if !descOk 0 ws || (c.job j).isSome || !c.listFits b then bad
      else
        let (w, list) := if b.form = 2 then w.unitRead (c.hKey b.list 0) (60 * b.n) else (w, [])
        let w := w.on (fun c => { c with fab := { c.fab with reruns := c.fab.reruns.filter (fun x => x.1 != 0x40 + j),
                                                             rerunBusy := c.fab.rerunBusy.filter (fun x => x.1 != 0x40 + j) } })
        let items := batchItems im b j ((List.range 4).map (fun i => nth 0 ws (4 + i))) list
        w.on (fun c => (c.jobSet j (some ⟨nth 0 ws 1, q, fieldGet (nth 0 ws 2) 0 16, items, items.length, 0, 0, 0, false,
          false, false, false⟩)).jobTick j)

/-- JOB_SUBMIT (R283): it waits for a list that is being cleared (R167). -/
def execJobSubmit (r : Fin 512) (s : State) : Host.Outcome State Fault Refusal := onHw s (fun w =>
  match (w.ctl.ring r.val).fetched with
  | some ws => if w.ctl.listBusy ws then w else w.takeDesc r.val 0 W.jobTake
  | none => w.takeDesc r.val 0 W.jobTake)

/-- The items of host job j not yet started are cancelled (R186, R233); silently at a reset of the function (R272). -/
def Ctl.jobCancel (c : Ctl) (j : Nat) (silent : Bool) : Ctl := match c.job j with
  | none => c
  | some jb =>
    let keep (l : List Task) : List Task := l.filter (fun t => t.owner != 0x40 + j)
    let c := { c with fab := { c.fab with queues := (c.fab.queues.map (fun (p : Nat × List Task) => (p.1, keep p.2))).filter (fun (p : Nat × List Task) => !p.2.isEmpty) } }
    c.jobSet j (some { jb with items := [], cancelled := true, silent := jb.silent || silent })

/-- Whether every item of a job has completed or ended, those cancelled apart. -/
def Job.over (j : Job) : Bool :=
  j.items.isEmpty && (if j.cancelled then j.doneItems + j.ended == j.started else j.doneItems + j.ended == j.total)

/-- The status of a finished job (R121, R179, R233, R285). -/
def Job.status (j : Job) : Nat :=
  if j.cancelled && j.started == 0 then stCancelled else if j.failed then stBadArg else if j.exhausted then stRerunExhausted else stOk

/-- JOB_COMPLETE (R233): its one completion, with the energy assigned to its tasks in µJ (R417, log entry 9). -/
def execJobComplete (j : Fin 64) (s : State) : Host.Outcome State Fault Refusal := onCtl s (fun c => match c.job j.val with
  | none => c
  | some jb =>
    if !(c.running && jb.over) then c
    else
      let c := (c.jobSet j.val none).jobTick j.val
      let key := (0x40 + j.val) * 2 ^ 32
      let e := c.energyOf key
      let c := c.energyTaken key
      if jb.silent then c
      else c.post jb.cplRing (cplRec jb.status jb.tag jb.doneItems j.val false (w32 (microJ (e.1 + e.2))) 0))

/-! DMA (R203, R284). -/

/-- Whether a DMA descriptor fails with BAD_ARG (R284, Table 9.5). -/
def Ctl.dmaBad (c : Ctl) (ws : List Word) : Bool :=
  let w0 := nth 0 ws 0
  let h := fieldGet (nth 0 ws 4) 0 8
  let own := c.get (F.cnpHtW0Owner h)
  let (off, len) := ((nth 0 ws 5).toNat, (nth 0 ws 6).toNat)
  !descOk 1 ws || !c.on (F.cnpHtW0Valid h) || (own != 0x40 + fieldGet w0 8 6 && own != 0x80) || c.on (F.cnpHtW0Spec h) ||
    decide (c.hSize h < off + len) || (!w0.getLsbD 4 && !c.on (F.cnpHtW0Wr h)) || decide (len < 4 ∨ 0x4000000 < len) ||
    len % 4 != 0 || off % 4 != 0 || (nth 0 ws 2).toNat % 4 != 0

/-- A DMA descriptor taken: refused, without credit (R203), or its credits taken and its transfer started. -/
def W.dmaTake (w : W) (q : Nat) (ws : List Word) : W := w.on (fun c =>
  let w0 := nth 0 ws 0
  let j := fieldGet w0 8 6
  let (p, n) := (fieldGet (nth 0 ws 7) 0 8, fieldGet (nth 0 ws 7) 8 16)
  let cr := w0.getLsbD 5
  if c.dmaBad ws then c.post q (cplRec stBadArg (nth 0 ws 1) 0 j true 0 0)
  else if cr ∧ c.get (F.chnCpCountFree p) < n then c.post q (cplRec stNoCredit (nth 0 ws 1) 0 j true 0 0)
  else
    let c := if cr then c.put (F.chnCpCountFree p) (c.get (F.chnCpCountFree p) - n) else c
    let h := fieldGet (nth 0 ws 4) 0 8
    let d : Dma := ⟨c.host.dmaNext, nth 0 ws 1, q, j, w0.getLsbD 4, (nth 0 ws 2).toNat + 2 ^ 32 * (nth 0 ws 3).toNat, h,
      c.hKey h (nth 0 ws 5).toNat, (nth 0 ws 6).toNat, if cr then some (p, n) else none⟩
    { c with host := { c.host with dmas := c.host.dmas ++ [d], dmaNext := c.host.dmaNext + 1 } })

/-- DMA_SUBMIT (R284). -/
def execDmaSubmit (r : Fin 512) (s : State) : Host.Outcome State Fault Refusal := onHw s (fun w => w.takeDesc r.val 1 W.dmaTake)

/-- A transfer ends: what was moved stays moved; after the last byte the credits are lodged and the linked semaphore is
signalled by 1; its completion. -/
def W.dmaEnd (w : W) (d : Dma) (bs : List Byte) (ok : Bool) : W :=
  let w := w.on (fun c => { c with host := { c.host with dmas := c.host.dmas.filter (fun (x : Dma) => x.id != d.id) } })
  let n := if ok then d.len else min d.len bs.length
  let w := if d.toHost then
      let (w, out) := w.unitRead d.key n
      if n = 0 then w else w.on (fun c => c.emit (.hostBytes d.haddr out))
    else if n = 0 then w else w.putKey d.key ((List.range n).map (fun i => nth 0 bs i))
  w.on (fun c =>
    let c := match ok, d.cr with
      | true, some (p, k) => (c.put (F.chnCpLodgedLodged p) (c.get (F.chnCpLodgedLodged p) + k)).signalHw (c.get (F.chnCpGuardLinksem p)) 1
      | _, _ => c
    c.post d.cplRing (cplRec (if ok then stOk else stLinkDown) d.tag 0 d.job true 0 n))

/-- DMA_COMPLETE (R284): transfer i ends, with the bytes the host gave; not while its DRAM range is being cleared (R167). -/
def execDmaComplete (i : Nat) (data : List Byte) (ok : Bool) (s : State) : Host.Outcome State Fault Refusal := onHw s (fun w =>
  match w.ctl.host.dmas.find? (fun (d : Dma) => d.id == i) with
  | some d => if w.ctl.on (F.cnpHtW0Busy d.handle) then w else w.dmaEnd d data ok
  | none => w)

/-- MOD_WINDOW_END (R291): one message if a record was posted in the window, which opens the next. -/
def execModWindowEnd (r : Fin 512) (s : State) : Host.Outcome State Fault Refusal := onCtl s (fun c =>
  let rs := c.ring r.val
  if !rs.windowOpen then c
  else
    let c := c.ringSet r.val { rs with windowOpen := false, windowPosted := false }
    if rs.windowPosted then c.ringIrq r.val else c)

/-! The link (R271, R293) and the function's resets (R272). -/

/-- Every DMA in progress ends with LINK_DOWN (R284, R293); the bytes of each, by its id, that had moved when the link fell stay moved. -/
def W.dmaAbort (w : W) (moved : List (Nat × List Byte)) : W :=
  w.ctl.host.dmas.foldl (fun w d => w.dmaEnd d (match moved.find? (fun p => p.1 == d.id) with
    | some p => p.2
    | none => []) false) w

/-- DL_DOWN (R293). -/
def W.dlDown (w : W) (moved : List (Nat × List Byte)) : W :=
  if !w.ctl.host.linkUp then w
  else (w.on (fun c => ({ c with host := { c.host with linkUp := false } }).bump F.glbLinkEvtDldown 1)).dmaAbort moved

/-- DL_DOWN (R293). -/
def execDlDown (moved : List (Nat × List Byte)) (s : State) : Host.Outcome State Fault Refusal := onHw s (fun w => w.dlDown moved)

/-- DL_UP (R293): the held records in order before any new one, then the WM_CROSS and markers they leave due, and the vectors held
pending. -/
def Ctl.dlUp (c : Ctl) (speed lanes : Nat) : Ctl :=
  let q := c.host.queue
  let c := { c with host := { c.host with linkUp := true, queue := [] } }
  let c := (c.put F.glbPcieSpeed speed).put F.glbPcieWidth lanes
  let (c, xs) := q.foldl (fun (c, xs) p =>
    let (c, _, x) := c.ringPost p.1 p.2
    (c, xs ++ x)) (c, [])
  let c := c.crossings xs
  (forN 512 (fun r c => if (c.ring r).dropsSince = 0 then c else c.ringMarker r) c).msixFlush

/-- Whether the endpoint can train to a link (Table 9.1, GLB_PCIE): 2.5, 5.0, 8.0 or 16.0 GT/s as 1 … 4; ×1, ×2 or ×4. -/
def linkOk (speed lanes : Nat) : Bool := decide (1 ≤ speed ∧ speed ≤ 4) && (lanes == 1 || lanes == 2 || lanes == 4)

/-- DL_UP: the endpoint is released, PERST_N deasserted (R454), the link one that it supports (R267). -/
def execDlUp (speed lanes : Fin 5) (s : State) : Host.Outcome State Fault Refusal := onCtl s (fun c =>
  if c.running && c.boot.epReleased && c.boot.perstN && !c.host.linkUp && linkOk speed.val lanes.val then c.dlUp speed.val lanes.val else c)

/-- LINK_RECOVERY (R293): requests are only delayed. -/
def execLinkRecovery (s : State) : Host.Outcome State Fault Refusal := onCtl s (fun c =>
  if c.host.linkUp then c.bump F.glbLinkEvtRetrain 1 else c)

/-- Registers of a half-open range back at reset. -/
def Ctl.regsReset (c : Ctl) (lo hi : Nat) : Ctl := { c with regs := mdrop (fun a => decide (lo ≤ a ∧ a < hi)) c.regs }

/-- The effects of R272, in its order. -/
def W.hostReset (w : W) : W :=
  let w := (List.range 256).foldl (fun w e =>
    if w.ctl.on (F.cnpHtW0Valid e) && w.ctl.get (F.cnpHtW0Owner e) == 0x80 then w.htFree e else w) w
  w.on (fun c =>
    let c := (List.range 64).foldl (fun c j => c.jobCancel j true) c
    let c := (c.regsReset 0x20000 (0x20000 + 0x40 * 448)).regsReset 0 0x10000
    { c with host := { c.host with rings := mdrop (fun r => decide (r < 448)) c.host.rings,
                                   queue := c.host.queue.filter (fun (p : Nat × List Word) => decide (448 ≤ p.1)),
                                   msixWritten := [], timeBase := c.now, pcie := {} } })

/-- FLR (R272). -/
def execFlr (s : State) : Host.Outcome State Fault Refusal := onHw s (fun w => if w.ctl.running then w.hostReset else w)

/-- HOT_RESET (R272). -/
def execHotReset (s : State) : Host.Outcome State Fault Refusal := onHw s (fun w => if w.ctl.running then w.hostReset else w)

end Sys2Proof.Machine
end

