-- ==== Sys2Proof/Machine/Hinge.lean ====
section
/-! DEFINITION. Pairs and walls (12_pair_and_wall.md): training and identity, acknowledgement and replay, roles and their
arbitration, heartbeats and failover, mirrored state, split lines, SYNC and GOV frames, FRAME_SYNC. -/

namespace Sys2Proof.Machine

/-! Fallback bookkeeping shared with the raster (R37, R38, R395). -/

/-- A line taken from Lintel for a cause of Table 1.4 or 6 PARTNER: its counter, RAS_s_FB_LAST, and LINE_FALLBACK where it is the
frame's first such line and FB_EVENT_EN is 1 (R37, R38). A line with cause 6 counts as such a line (DESIGN CHOICE, log entry
105). -/
def Ctl.fallback (c : Ctl) (s m : Nat) (frame : Word) (cause stand : Nat) : Ctl :=
  let c := match cause with
    | 3 => c.bump (F.rasFbDetCount s) 1
    | 4 => c.bump (F.rasFbStandCount s) 1
    | _ => c.bump (F.rasFbLateCount s) 1
  let c := (((c.put (F.rasFbLastStand s) stand).put (F.rasFbLastLine s) m).put (F.rasFbLastFrame s) frame.toNat).put (F.rasFbLastCause s) cause
  let first := !(c.rc s).fbPosted
  let c := c.rcMod s (fun r => { r with fbPosted := true })
  if c.on (F.rasPolicyFbEventEn s) && first then c.event evLineFallback (0x0200 + s) frame (w32 (m + 65536 * cause)) else c

/-- The line of Lintel's output buffer for output line m. -/
def RCtx.lintel (r : RCtx) (m : Nat) : Line := match r.lintelOut.find? (fun p => p.1 == m) with
  | some p => p.2
  | none => []

/-- A half whose own choice was neural takes the Lintel line for the partner's sake (R395). -/
def Ctl.splitTake (c : Ctl) (s m : Nat) : Ctl :=
  let r := c.rc s
  match r.egress.find? (fun e => e.m == m && e.await) with
  | none => c
  | some e =>
    let e' : Egress := { e with src := .lintel, cause := 6, px := r.lintel m, await := false }
    let c := c.rcMod s (fun r => { r with egress := r.egress.map (fun (x : Egress) => if x.m == m then e' else x)
                                          lastCrc := if r.drained = some (e.frame, m) then c.lineCrc s e' else r.lastCrc })
    c.fallback s m e.frame 6 (fieldGet (c.tag s (c.slotOfLine s m)) 24 5)

/-! Ports. -/

/-- The state fields of port n; its epoch rises at a change (R296, R403). -/
def Ctl.portState (c : Ctl) (n st cause : Nat) : Ctl :=
  c.unitState (F.hngStateEpoch n) [(F.hngStateState n, st), (F.hngStateBonded n, bit (c.paired && decide (n ≤ 1))), (F.hngStateCause n, cause)]

/-- A change of the link layer of link l. -/
def Ctl.portMod (c : Ctl) (l : Nat) (f : PortSt → PortSt) : Ctl := c.portSet l (f (c.port l))

/-- A change of the pair's and wall's internal state. -/
def Ctl.hngMod (c : Ctl) (f : Hng → Hng) : Ctl := { c with hng := f c.hng }

/-- The die identifier. -/
def Ctl.dieId (c : Ctl) : BitVec 64 := BitVec.ofNat 64 ((c.rd R.hngDieidLo).toNat + 2 ^ 32 * (c.rd R.hngDieidHi).toNat)

/-- The part's identity record (Table 12.5). -/
def Ctl.ownIdent (c : Ctl) : IdentRec :=
  { ident := c.rd R.glbIdent, digest := c.hng.fwDigest, mode := c.mode, cols := c.get F.hngGridColsM1, rows := c.get F.hngGridRowsM1,
    col := c.get F.hngGridCol, row := c.get F.hngGridRow, pairId := c.on F.hngPairStatusPairId, dieId := c.dieId,
    role := c.get F.hngPairStatusRole, act := !c.hng.pairActN,
    imageId := match c.img.cur with
      | some im => im.id
      | none => 0 }

/-- Whether the partner's record passes the items of Table 12.5 that must match, on port n. -/
def Ctl.identOk (c : Ctl) (n : Nat) (r : IdentRec) : Bool :=
  let o := c.ownIdent
  let grid := r.cols == o.cols && r.rows == o.rows && match n with
    | 0 => r.col + 1 == o.col && r.row == o.row
    | 1 => r.col == o.col + 1 && r.row == o.row
    | 2 => r.row + 1 == o.row && r.col == o.col
    | _ => r.row == o.row + 1 && r.col == o.col
  r.ident == o.ident && r.digest == o.digest && r.mode == o.mode && (o.mode != 3 || grid)

/-- Every line of both halves becomes a Lintel line (R396): HB_MISS and a pair-status record with cause 6. -/
def Ctl.splitLost (c : Ctl) (frame : Word) (line : Nat) : Ctl :=
  let c := c.outputs.foldl (fun c s => c.vcMod s (fun v => { v with splitDown := true })) c
  if c.hng.lostPosted then c
  else (((c.hngMod (fun h => { h with lostPosted := true })).event evHbMiss 0x0500 frame (w32 line)).alert 2).pairRec 6

/-- A port leaves UP (R371, R373): its link layer begins anew; in split mode R396 follows, in wall mode halos expected from it
are no longer (R400). -/
def W.portDown (w : W) (n cause : Nat) : W :=
  let up := w.ctl.get (F.hngStateState n) == 2
  let w := w.on (fun c => ((c.portState n 0 cause).portMod n (fun p => { p with identSent := false })).portMod (c.linkOf n) (fun p =>
    { PortSt.init with identSent := p.identSent }))
  if !up then w
  else if w.ctl.mode = 2 then w.on (fun c => c.splitLost c.frameNow 0)
  else if w.ctl.mode = 3 then (List.range 24).foldl W.haloCheck w else w

/-- PORT_TRAINING (R373): the outcome of a training attempt by firmware; success sends the identity record. -/
def execPortTraining (n : Fin 4) (ok : Bool) (cause : Fin 3) (s : State) : Host.Outcome State Fault Refusal := onCtl s (fun c =>
  if !(c.running && c.fwRun && c.portUsed n.val && decide (c.get (F.hngStateState n.val) ≤ 1)) then c
  else if ok then
    let c := (c.portState n.val 1 0).portMod n.val (fun p => { p with identSent := true })
    c.hngEmit n.val (.train c.ownIdent)
  else c.portState n.val 0 (max 1 cause.val))

/-- TRAINING_RETRY (R373). -/
def execTrainingRetry (n : Fin 4) (s : State) : Host.Outcome State Fault Refusal := onCtl s (fun c =>
  if c.running && c.fwRun && c.portUsed n.val && c.get (F.hngStateState n.val) == 0 then c.portState n.val 1 0 else c)

/-! Roles (R376 … R378, R391). -/

/-- A role change still to come gives way to another; the command that waits for it ends with LINK_DOWN 3 (R313; DESIGN CHOICE, log
entry 164). -/
def Ctl.roleDrop (c : Ctl) : Ctl :=
  match c.hng.roleAt with
  | none => c
  | some r =>
    let c := c.hngMod (fun h => { h with roleAt := none })
    match r.mailbox with
    | some m => c.answer m stLinkDown 3 (c.epochOf 0x0D00) []
    | none => c

/-- The part takes a role: the partner the other one, R391's hold ends, and the part acts in its role. -/
def Ctl.applyRole (c : Ctl) (role cause : Nat) : Ctl :=
  let c := c.roleDrop.hngMod (fun h => { h with hold391 := false, joined := h.joined && cause != 4 })
  let c := (c.put F.hngPairStatusPeerRole (3 - role)).setRole role cause
  let host := c.hostShut
  (c.actRole (fun t => if cause = 4 then host t else false) (cause = 4)).pairRegs

/-- Which part the first separating rule of R377 selects: true for this one. -/
def Ctl.arbWinner (c : Ctl) (pairId : Bool) (dieId : BitVec 64) (act : Bool) : Option Bool :=
  let own := !c.hng.pairActN
  if c.mode = 1 ∧ act ≠ own then some own
  else if pairId ≠ c.on F.hngPairStatusPairId then some pairId
  else if dieId ≠ c.dieId then some (decide (c.dieId.toNat < dieId.toNat))
  else none

/-- The STC_s_ and RAS_s_ state sent to a joining partner (R384, R390): every context's CTRL without ARM first, then its other registers;
ARM once all of them stand, since the checks of R89 look at the contexts that LINK names. -/
def Ctl.sendConfig (c : Ctl) : Ctl :=
  let send (c : Ctl) (a : Nat) : Ctl := c.hngSend 0 (.state (.regWrite a (c.rd a)))
  let c := (List.range 24).foldl (fun c s =>
    let c := c.hngSend 0 (.state (.regWrite (R.stcCtrl s) (c.rd (R.stcCtrl s) &&& 0xFFFFFFFE)))
    let c := [0x04, 0x08, 0x0C, 0x10, 0x14, 0x18, 0x1C, 0x20, 0x24].foldl (fun c o => send c (R.stcCtrl s + o)) c
    send (send c (R.rasPolicy s)) (R.rasLintel s)) c
  (List.range 24).foldl (fun c s => if c.on (F.stcCtrlArm s) then send c (R.stcCtrl s) else c) c

/-- ARBITRATION (R377): the winner is primary; the loser becomes secondary at its next boundary of the shortest output, at once
where no output runs. -/
def Ctl.arbitrate (c : Ctl) (pairId : Bool) (dieId : BitVec 64) (act : Bool) : Ctl :=
  match c.arbWinner pairId dieId act with
  | none => c
  | some true =>
    if c.isPrimary && !c.hng.hold391 then
      (c.roleDrop.hngMod (fun h => { h with joined := false })).put F.hngPairStatusPeerRole 2
    else c.applyRole 1 4
  | some false =>
    if c.anyOut && c.isPrimary then c.roleDrop.hngMod (fun h => { h with roleAt := some { role := 2, cause := 4 }, joined := false })
    else c.applyRole 2 4

/-- The link has come UP (R377, R383, R390): claims are exchanged, the primary is arbitrated, and the primary's state and, where
the identifiers differ, its image go to the partner. -/
def Ctl.linkUpEv (c : Ctl) (l : Nat) (r : IdentRec) : Ctl :=
  let c := c.portMod l (fun _ => { PortSt.init with identSent := true })
  if !c.paired then c
  else
    let c := c.hngMod (fun h => { h with lostPosted := false, joined := false })
    let o := c.ownIdent
    let c := c.hngSend 0 (.state (.claim o.role o.pairId o.dieId o.act))
    let c := c.arbitrate r.pairId r.dieId r.act
    if !c.isPrimary || c.hng.roleAt.isSome then c
    else
      let c := match c.img.cur with
        | some im => if c.mode = 1 ∧ im.id ≠ r.imageId then c.fwdSend im false else c
        | none => c
      c.sendConfig

/-- TRAIN_FRAME (R374, R377): the partner's identity record. -/
def execTrainFrame (n : Fin 4) (crcOk : Bool) (rec : IdentRec) (s : State) : Host.Outcome State Fault Refusal := onCtl s (fun c =>
  let i := n.val
  if !(c.running && c.portUsed i) then c
  else if !crcOk then c.bump (F.hngCrcerrCount i) 1
  else if !(c.get (F.hngStateState i) == 1 && (c.port i).identSent) then c
  else if !c.identOk i rec then (c.portState i 3 3).pairRec 7
  else
    let c := c.portState i 2 0
    if c.linkIsUp (c.linkOf i) then c.linkUpEv (c.linkOf i) rec else c)

/-- PEER_WAIT_TIMEOUT (R391): PAIR_PEER_N deasserted for 100 ms with no port UP ends the hold. -/
def execPeerWaitTimeout (peerAct : Bool) (s : State) : Host.Outcome State Fault Refusal := onCtl s (fun c =>
  if !c.running then c
  else
    let c := (c.hngMod (fun h => { h with peerN := !peerAct })).pairRegs
    if c.mode = 1 ∧ c.hng.hold391 ∧ !peerAct ∧ (List.range 4).all (fun n => c.get (F.hngStateState n) != 2) then
      let c := c.hngMod (fun h => { h with hold391 := false })
      let host := c.hostShut
      c.actRole host true
    else c)

/-! Sequenced frames (R371). -/

/-- A sequenced frame on a link that is up: CRC, SEQ, then what it carries. -/
def W.hngAccept (w : W) (h : HngHdr) (f : W → W) : W :=
  let c := w.ctl
  let l := c.linkOf h.port.val
  if !(c.running && c.portUsed h.port.val && c.linkIsUp l) then w
  else if !h.crcOk then w.on (fun c => (c.bump (F.hngCrcerrCount h.port.val) 1).hngSend l (.nak (c.port l).rxSeq))
  else if h.seq.toNat ≠ (c.port l).rxSeq then w.on (fun c => c.hngSend l (.nak (c.port l).rxSeq))
  else f (w.on (fun c => (c.portMod l (fun p => { p with rxSeq := (p.rxSeq + 1) % 4096, pendAck := true })).bump (F.hngFramesCount h.port.val) 1))

/-- Frames kept from a SEQ on. -/
def fromSeq (seq : Nat) : List (Nat × HngOut) → List (Nat × HngOut)
  | [] => []
  | p :: t => if p.1 = seq then p :: t else fromSeq seq t

/-- ACK_FRAME (R371): the replay buffer is freed up to the acknowledged frame, and frames that waited for room leave. -/
def execAckFrame (n : Fin 4) (crcOk : Bool) (seq : BitVec 12) (s : State) : Host.Outcome State Fault Refusal := onCtl s (fun c =>
  let l := c.linkOf n.val
  if !(c.running && c.portUsed n.val && c.linkIsUp l) then c
  else if !crcOk then c.bump (F.hngCrcerrCount n.val) 1
  else if (c.port l).unacked.any (fun p => p.1 == seq.toNat) then
    (c.portMod l (fun p => { p with unacked := (fromSeq seq.toNat p.unacked).tail, replays := 0 })).hngPump l
  else c)

/-- NAK_FRAME (R371): replay from the SEQ asked for; a frame replayed four times without acceptance puts the port in DOWN with
cause 4. -/
def execNakFrame (n : Fin 4) (crcOk : Bool) (seq : BitVec 12) (s : State) : Host.Outcome State Fault Refusal := onHw s (fun w =>
  let c := w.ctl
  let l := c.linkOf n.val
  let p := c.port l
  let q := fromSeq seq.toNat p.unacked
  let k := if p.replaySeq = seq.toNat then p.replays + 1 else 1
  if !(c.running && c.portUsed n.val && c.linkIsUp l) then w
  else if !crcOk then w.on (fun c => c.bump (F.hngCrcerrCount n.val) 1)
  else if q.isEmpty then w
  else if 4 < k then w.portDown n.val 4
  else w.on (fun c =>
    let c := (c.portSet l { p with unacked := q, replaySeq := seq.toNat, replays := k }).bump (F.hngReplayCount n.val) 1
    q.foldl (fun c e => c.emit (.hinge l e.1 e.2 (e.2.frame e.1))) c))

/-- HINGE_ACK_SEND (R371): the acknowledgement due every 0.5 µs while frames remain unacknowledged. -/
def execHingeAckSend (n : Fin 4) (s : State) : Host.Outcome State Fault Refusal := onCtl s (fun c =>
  let l := c.linkOf n.val
  if c.running && c.portUsed n.val && (c.port l).pendAck then
    (c.hngSend l (.ack (((c.port l).rxSeq + 4095) % 4096))).portMod l (fun p => { p with pendAck := false })
  else c)

/-- HINGE_PORT_DOWN (R373): the port loses signal or lock. -/
def execHingePortDown (n : Fin 4) (cause : Fin 3) (s : State) : Host.Outcome State Fault Refusal := onHw s (fun w =>
  if w.ctl.running && w.ctl.portUsed n.val && w.ctl.get (F.hngStateState n.val) != 3 then w.portDown n.val (max 1 cause.val) else w)

/-! Heartbeats (R380 … R382, R388, R389, R395, R396). -/

/-- The entry of a line in a list of heartbeats. -/
def hbFind (l : List (Nat × Nat × Nat × Word)) (frame line : Nat) : Option (Nat × Word) :=
  (l.find? (fun e => e.1 == frame && e.2.1 == line)).map (fun e => (e.2.2.1, e.2.2.2))

/-- A list of heartbeats with a new one at its end, the latest eight kept. -/
def hbAdd (l : List (Nat × Nat × Nat × Word)) (e : Nat × Nat × Nat × Word) : List (Nat × Nat × Nat × Word) :=
  (l ++ [e]).drop ((l ++ [e]).length - 8)

/-- SYNC bit s cleared (R386). -/
def Ctl.syncClear (c : Ctl) (s : Nat) : Ctl := (c.put F.hngMirSyncSync (clrBit (c.get F.hngMirSyncSync) s)).pairRegs

/-- The check of R382 once the heartbeat of line m is here: the partner's LCRC and SRC of the line before against the own. -/
def Ctl.hbCompare (c : Ctl) (s frame m : Nat) (lcrc : Word) : Ctl :=
  let (f, l) := if m = 0 then ((frame + 2 ^ 32 - 1) % 2 ^ 32, c.get (F.stcGeomVact s) - 1) else (frame, m - 1)
  let r := c.rc s
  match hbFind r.peer f l, hbFind r.own f l with
  | some (ps, _), some (os, crc) =>
    if ps ≠ os then c.bump F.hngMirSrcDiff 1
    else if crc = lcrc then c
    else
      let c := (c.bump F.hngMirDiff 1).syncClear s
      if r.crcPosted then c else (c.rcMod s (fun r => { r with crcPosted := true })).pairRec 5
  | _, _ => c

/-- A heartbeat delivered (R381, R382, R395). -/
def Ctl.heartbeat (c : Ctl) (s frame m src : Nat) (closed : Bool) (lcrc : Word) : Ctl :=
  if !c.paired then c
  else
    let c := c.rcMod s (fun r => { r with peer := hbAdd r.peer (frame, m, src, lcrc), peerClosed := closed })
    let c := c.hngMod (fun h => { h with lostPosted := false, joined := h.joined || c.isPrimary })
    if c.mode = 1 then c.hbCompare s frame m lcrc
    else if src ≠ 0 then c.splitTake s m
    else c.rcMod s (fun r => { r with egress := r.egress.map (fun (e : Egress) => if e.m == m then { e with await := false } else e) })

/-- HEARTBEAT_FRAME (R380 … R382). -/
def execHeartbeatFrame (h : HngHdr) (frame : Word) (line : Fin 8192) (src : Fin 4) (closed : Bool) (ctx : Fin 24) (lcrc : Word)
    (s : State) : Host.Outcome State Fault Refusal := onHw s (fun w =>
  w.hngAccept h (fun w => w.on (fun c => c.heartbeat ctx.val frame.toNat line.val src.val closed lcrc)))

/-- The secondary's takeover (R388): HB_MISS with bit 16 and the first line missed, FAILOVER, primary with cause 3, and every
output's Shutter as the last heartbeat said. -/
def Ctl.takeover (c : Ctl) (frame : Word) (first : Nat) : Ctl :=
  let c := ((c.event evHbMiss 0x0500 frame (w32 (first + 65536))).alert 2).bump F.hngHbFailover 1
  let c := c.roleDrop.put F.hngPairStatusPeerRole 0
  let c := if c.mayAct then c.setAct true else c
  let c := c.setRole 1 3
  let closed := fun t => match c.txOut t with
    | some o => (c.rc o).peerClosed
    | none => true
  c.actRole closed false

/-- The partner is lost for one that does not take over: a pair-status record with cause 6, once (R388, R389). -/
def Ctl.peerLost (c : Ctl) : Ctl :=
  if c.hng.lostPosted then c else (c.hngMod (fun h => { h with lostPosted := true })).pairRec 6

/-- A heartbeat missed (R381): MISS, the frame's first HB_MISS, and what a second consecutive miss brings. A part that joins a mirror
pair is not expected to send them before its lock (R390). -/
def Ctl.hbMiss (c : Ctl) (s m : Nat) : Ctl :=
  let r := c.rc s
  let frame := match (r.own.reverse.find? (fun e => e.2.1 == m)) with
    | some e => e.1
    | none => (c.vc s).frame.toNat
  if !(c.paired && (c.vc s).outOn && (c.hng.joined || c.mode == 2)) || (hbFind r.peer frame m).isSome then c
  else
    let c := c.bump F.hngHbMiss 1
    let c := if r.hbPosted then c
      else ((c.rcMod s (fun r => { r with hbPosted := true })).event evHbMiss 0x0500 (w32 frame) (w32 m)).alert 2
    let prev := if m = 0 then ((frame + 2 ^ 32 - 1) % 2 ^ 32, c.get (F.stcGeomVact s) - 1) else (frame, m - 1)
    let second := r.hbMissed == some prev
    let c := c.rcMod s (fun r => { r with hbMissed := some (frame, m) })
    if c.isPrimary && c.mode == 1 then c.peerLost
    else if !second then c
    else if c.mode = 2 then c.splitLost (w32 frame) m
    else if !c.isShort s then c
    else if c.hng.peerN then c.takeover (w32 frame) prev.2
    else c.peerLost

/-- HEARTBEAT_MISS (R381): not delivered by D(m + 1); peerAct is PAIR_PEER_N at that instant. -/
def execHeartbeatMiss (s : Fin 24) (m : Fin 8192) (peerAct : Bool) (st : State) : Host.Outcome State Fault Refusal := onCtl st (fun c =>
  if !c.running then c
  else ((c.hngMod (fun h => { h with peerN := !peerAct })).pairRegs).hbMiss s.val m.val)

/-- SPLIT_HEARTBEAT_WAIT (R395): D(m) + 1.0 µs has come. -/
def execSplitHeartbeatWait (s : Fin 24) (m : Fin 8192) (st : State) : Host.Outcome State Fault Refusal := onCtl st (fun c =>
  if c.running && c.mode == 2 then c.splitTake s.val m.val else c)

/-! Mirrored state (R383 … R386). -/

/-- A mirrored item that arrives after its boundary (R386). -/
def Ctl.mirLost (c : Ctl) (o : Nat) : Ctl := (c.bump F.hngMirLostCount 1).syncClear o

/-- Whether frame f of output o has begun already. -/
def Ctl.begun (c : Ctl) (o : Nat) (f : Word) : Bool := (c.vc o).outOn && decide (f.toNat ≤ (c.vc o).frame.toNat)

/-- Every output takes the master's number for its next frame (R397). -/
def Ctl.numberNext (c : Ctl) (f : Word) : Ctl := c.outputs.foldl (fun c o => c.vcMod o (fun v => { v with numNext := some f })) c

/-- The primary's input-loss state taken by a secondary whose own input is not lost (R384); LOSS_CNT and records are of own
losses. -/
def Ctl.lossAdopt (c : Ctl) (x st : Nat) : Ctl :=
  let v := c.vc x
  let adopted := v.lossMode != 0 && v.lossCause == 255
  let c := c.vcMod x (fun v => { v with peerLoss := st })
  if (st = 4 ∨ st = 5) ∧ v.measured ∧ (v.lossMode = 0 ∨ adopted) then
    (c.vcMod x (fun v => { v with lossMode := st - 3, lossCause := 255 })).setStc x st
  else if st = 3 ∧ adopted then (c.vcMod x (fun v => { v with lossMode := 0, lossCause := 0 })).setStc x 3
  else c

/-- A mirrored item takes effect on the secondary (Table 12.7). -/
def W.mirApply (w : W) (i : MirrorItem) : W := match i with
  | .regWrite a v => w.on (fun c =>
    if 0x41000 ≤ a ∧ a < 0x41000 + 0x80 * 24 then
      c.stcApply ((a - 0x41000) / 0x80) (a % 0x80) v
    else if 0x50000 ≤ a ∧ a < 0x50000 + 0x40 * 24 then c.codeWrite a v else c)
  | .model x slot =>
    if w.ctl.get (F.stcSchedModel x.val) = slot then w
    else (w.on (fun c => c.put (F.stcSchedModel x.val) slot)).chooseAtChange x.val
  | .specStart x slot => w.on (fun c => { c with fab := { c.fab with specRun := some (x.val, slot) } })
  | .specConfirm _ => (w.promote w.ctl.specOn).getD w
  | .specCancel => w.specCancel
  | .loss x st => w.on (fun c => (c.lossAdopt x.val st).lossMirror x.val)
  | _ => w

/-- The number of output o's next frame and its lock frame received (R384); one that comes after its boundary is lost. The primary's
stream started at its lock, which the first such item after it says (R386). -/
def Ctl.mirNumber (c : Ctl) (o : Nat) (f l : Word) : Ctl :=
  if (c.vc o).locked && (c.vc o).frame == f then c.mirLost o
  else c.vcMod o (fun v => { v with numNext := some f, lockAt := some l, syncPend := v.syncPend || f == l + 1 })

/-- An item the secondary receives (R384, R386). -/
def W.mirReceive (w : W) (i : MirrorItem) : W :=
  let c := w.ctl
  match i with
  | .frameNo o f l => w.on (fun c => c.mirNumber o.val f l)
  | .decision x f ws => w.on (fun c =>
    let c := match c.outOf x.val with
      | some o => if c.begun o f then c.mirLost o else c
      | none => c
    ws.foldl (fun c p => { c with und := { c.und with peerWord := mset none c.und.peerWord p.1.val (some (f, p.2.toNat)) } }) c)
  | .phase x f a b ph => w.on (fun c =>
    let c := match c.outOf x.val with
      | some o => if c.begun o f then c.mirLost o else c
      | none => c
    c.vcMod x.val (fun v => { v with nextPair := some (a.toNat, b.toNat, ph.toNat) }))
  | .specConfirm f => if c.anyOut then w.on (fun c => c.hngMod (fun h => { h with promAt := some f })) else w.mirApply i
  | .claim _ _ _ _ => w
  | .roleChange _ _ _ => w
  | i => if c.anyOut then w.on (fun c => c.hngMod (fun h => { h with mirPend := h.mirPend ++ [i] })) else w.mirApply i

/-- STATE_FRAME (R384): claims are judged by either part (R377), a commanded role waits for the boundary (R378), the other items
by the secondary. -/
def execStateFrame (h : HngHdr) (item : MirrorItem) (s : State) : Host.Outcome State Fault Refusal := onHw s (fun w =>
  w.hngAccept h (fun w => match item with
    | .claim role pid die act => w.on (fun c =>
      if c.paired && c.get F.hngPairStatusRole == role then
        let c := c.arbitrate pid die act
        if c.isPrimary && c.hng.roleAt.isNone then c.sendConfig else c
      else c)
    | .roleChange role cause frame => w.on (fun c =>
      if !c.paired then c
      else if c.anyOut then c.roleDrop.hngMod (fun h => { h with roleAt := some { role := role, cause := cause, frame := frame } })
      else c.applyRole role cause)
    | i => if w.ctl.isSecondary then w.mirReceive i else w))

/-! Wall numbering, operating point, data, halos, images. -/

/-- SYNC_FRAME (R397): the first copy goes on once to every other port that is UP, and the numbering waits for the boundary; that of the
lock frame itself makes the last FRAME_SYNC edge the one that the inputs' first A follows (R398). -/
def execSyncFrame (h : HngHdr) (frame lock : Word) (s : State) : Host.Outcome State Fault Refusal := onHw s (fun w =>
  w.hngAccept h (fun w => w.on (fun c =>
    let master := c.get F.hngGridCol == 0 && c.get F.hngGridRow == 0
    if c.mode ≠ 3 ∨ master ∨ c.hng.syncSeen = some (frame, lock) then c
    else
      let c := if frame = lock + 1 then
          (List.range 24).foldl (fun c i => if c.armedAs i 0 then c.vcMod i (fun v => { v with lockIn := some v.edgeIn }) else c) c
        else c
      ((c.numberNext frame).hngMod (fun x => { x with syncSeen := some (frame, lock), lockFrame := lock })).hngSendAll
      (some h.port.val) (.sync frame lock))))

/-- GOV_FRAME (R402): the highest value received in the interval is kept; a higher urgent value goes on at once and raises
VCORE at once. -/
def execGovFrame (h : HngHdr) (mv : BitVec 10) (urgent : Bool) (s : State) : Host.Outcome State Fault Refusal := onHw s (fun w =>
  w.hngAccept h (fun w => w.on (fun c =>
    let v := mv.toNat
    let c := c.hngMod (fun x => { x with recvGov := max x.recvGov v })
    if !urgent ∨ v ≤ c.hng.govUrgent ∨ v ≤ c.get F.hngGovPubMv then c
    else
      let c := (c.hngMod (fun x => { x with govUrgent := v })).hngSendAll (some (c.linkOf h.port.val)) (.gov v true)
      let c := c.put F.hngGovPubMv v
      if c.pwr.running && decide (c.setMv < c.clampMv v) then
        (if c.lawOn then { c with pwr := { c.pwr with quiet := 0, hold := c.get F.phcGovCtrlUrgentHold } } else c).govRequest v
      else c)))

/-- DATA_FRAME (R249 … R252, R393). -/
def execDataFrame (h : HngHdr) (lch : Fin 64) (bytes : List Byte) (s : State) : Host.Outcome State Fault Refusal := onHw s (fun w =>
  w.hngAccept h (fun w => w.linkReceive lch.val bytes))

/-- HALO_FRAME (R400). -/
def execHaloFrame (h : HngHdr) (ctx : Fin 24) (frame : Word) (y x : Nat) (px : Line) (s : State) :
    Host.Outcome State Fault Refusal := onHw s (fun w => w.hngAccept h (fun w => w.haloReceive h.port.val ctx.val frame y x px))

/-- An image that has arrived whole (R383): a load on the primary is one here; one that joins takes it in place of its own. -/
def W.fwdTake (w : W) (img : Image) (load : Bool) : W :=
  if load then
    if (w.ctl.imgCheck img img.length).isSome then w
    else (if w.ctl.img.cur.isSome && w.ctl.specOn then w.specCancel else w).imageLoad img
  else
    let free (w : W) : W := match w.ctl.img.cur with
      | some im => (w.declFree im).on (fun c => { c with img := { c.img with cur := none } })
      | none => w
    if (({ w.ctl with img := { w.ctl.img with cur := none } } : Ctl).imgCheck img img.length).isSome then w
    else ((free w).loadDirect img).on (fun c => { c with host := { c.host with epImage := c.host.epImage + 1 } })

/-- FWD_FRAME (R371, R383): a secondary in mirror mode takes the parts of an image in order. -/
def execFwdFrame (h : HngHdr) (img : Image) (part : Nat) (load : Bool) (s : State) : Host.Outcome State Fault Refusal := onHw s (fun w =>
  w.hngAccept h (fun w =>
    if !(w.ctl.isSecondary && w.ctl.mode == 1) then w
    else if part ≠ 0 ∧ part ≠ w.ctl.hng.fwdGot then w
    else
      let last := decide (fwdParts img ≤ part + 1)
      let w := w.on (fun c => c.hngMod (fun h => { h with fwdGot := if last then 0 else part + 1 }))
      if last then w.fwdTake img load else w))

/-! FRAME_SYNC (R368, R369). -/

/-- Whether the part is the timing master of its pair or wall (R368). -/
def Ctl.timingMaster (c : Ctl) : Bool :=
  if c.mode = 3 then c.get F.hngGridCol == 0 && c.get F.hngGridRow == 0 else c.paired && c.isPrimary

/-- Whether the frame starts of the outputs lie within 20 ns of the latest FRAME_SYNC edge in a pair, 100 ns in a wall (R368). -/
def Ctl.fsyncAligned (c : Ctl) : Bool :=
  match c.hng.fsyncAt with
  | none => false
  | some t => c.outputs.all (fun o =>
      let b := (c.vc o).lastB
      decide (b ≤ t + (if c.mode = 3 then 100 else 20) ∧ t ≤ b + (if c.mode = 3 then 100 else 20)))

/-- FRAME_SYNC has returned and the alignment of R368 holds again: cause 9 (R369; log entry 167). -/
def Ctl.fsyncBack (c : Ctl) : Ctl :=
  if c.hng.fsyncLost && c.outputs.all (fun o => (c.vc o).fsyncLock) && c.fsyncAligned then
    (c.hngMod (fun h => { h with fsyncLost := false })).pairRec 9
  else c

/-- FRAME_SYNC_EDGE (R368, R369): an edge that stays high for 100 ns locks the outputs of a slave, also again after a loss; what input
frame each input was in is noted for the cadence of a wall (R398). -/
def execFrameSyncEdge (highNs : Nat) (s : State) : Host.Outcome State Fault Refusal := onCtl s (fun c =>
  if !(c.running && c.mode != 0 && !c.timingMaster && decide (100 ≤ highNs)) then c
  else
    let c := c.outputs.foldl (fun c o => c.vcMod o (fun v => { v with fsyncLock := true })) c
    let c := (List.range 24).foldl (fun c i => if c.armedAs i 0 then c.vcMod i (fun v => { v with edgeIn := v.inFrame }) else c) c
    (c.hngMod (fun h => { h with fsyncAt := some c.now })).fsyncBack)

/-- FRAME_SYNC_PULSE_END (R368): the master's pulse of 1 µs ends. -/
def execFrameSyncPulseEnd (s : State) : Host.Outcome State Fault Refusal := onCtl s (fun c =>
  c.hngMod (fun h => { h with fsyncOut := false }))

/-- FRAME_SYNC_LOST (R369): no accepted edge within 1.5 output frame times; a pair-status record with cause 8. -/
def execFrameSyncLost (s : State) : Host.Outcome State Fault Refusal := onCtl s (fun c =>
  if !(c.running && c.mode != 0 && !c.timingMaster && c.anyOut) || c.hng.fsyncLost then c
  else
    let c := c.outputs.foldl (fun c o => c.vcMod o (fun v => { v with fsyncLock := false })) c
    (c.hngMod (fun h => { h with fsyncLost := true })).pairRec 8)

/-! MODE_SET (R373, R375, R376, R391, R397). -/

/-- A topology taken: roles from PAIR_ID, the grid, the ports of the mode in training and the others idle; mirror mode holds
PAIR_ACT_N released and the Shutters closed with CAUSE 3. -/
def Ctl.modeSet (c : Ctl) (mode : Nat) (grid : Word) : Ctl :=
  let c := c.put F.hngPairStatusMode mode
  let c := c.wr R.hngGrid (if mode = 3 then grid &&& 0x7F7F7F7F else 0)
  let c := c.roleDrop.hngMod (fun h =>
    { h with ports := [], joined := false, lostPosted := false, mirPend := [], syncSeen := none, fsyncAt := none, fwdGot := 0
             promAt := none, fsyncLost := false, recvGov := 0, govUrgent := 0, hold391 := mode == 1, lockFrame := 0 })
  let c := c.put F.hngPairStatusPeerRole 0
  let c := (List.range 4).foldl (fun c n => if c.portUsed n then c.portState n 1 0 else c.portState n 0 5) c
  let c := c.setRole (if mode = 1 ∨ mode = 2 then (if c.on F.hngPairStatusPairId then 2 else 1) else 0) 1
  let c := c.setAct false
  if mode = 1 then [0, 1].foldl (fun c t => c.shutClose t 3) c else c

end Sys2Proof.Machine
end

