-- ==== Sys2Proof/Machine/Rotation.lean ====
section
/-! DEFINITION. Stands between boot and reset (13_power_thermal_spare.md R424 … R436, 16 R496, R497): power-up, tests, the
ageing measurement, remapping after a failure and the rotation of the spare. -/

namespace Sys2Proof.Machine

/-! Regions of a stand. -/

/-- The operand buffers and scratch regions of stand n marked for Clearing (R424). -/
def W.markStand (w : W) (n : Nat) : W :=
  (List.range 8).foldl (fun w i =>
    (w.act (.mark (opbufKey (8 * n + i) 0) Config.opbufBytes)).act
      (.mark (cmemKey (8 * n + i) w.ctl.scratchAt) (Config.coreMemBytes - w.ctl.scratchAt))) w

/-- Every region of stand n marked for Clearing (R424, Table 16.6). -/
def W.markAll (w : W) (n : Nat) : W :=
  (List.range 8).foldl (fun w i =>
    (w.act (.mark (opbufKey (8 * n + i) 0) Config.opbufBytes)).act (.mark (cmemKey (8 * n + i) 0) Config.coreMemBytes)) w

/-! Tests (R329, R496, R497). -/

/-- The stand that reads SPARE, powered and past its routine self-test. -/
def Ctl.readySpare (c : Ctl) : Option Nat :=
  (List.range 17).find? (fun n => c.get (F.stdStateState n) == 1 && mget 0 c.pwr.standOff n == 0 && mget 0 c.pwr.routine n == 0)

/-- A commanded test starts once its stand is ready in SPARE; one that needs another unit too, at a rotation or a vertical blanking
(R329, Table 16.6; while no output is enabled, at a tick of R432). -/
def Ctl.bistStart (c : Ctl) (blank : Bool) : Ctl :=
  match c.pwr.bist, c.pwr.bistOn, c.readySpare with
  | some (test, target, _), none, some p =>
    if (if test ≤ 5 then target == 0x0100 + p else blank) then { c with pwr := { c.pwr with bistOn := some p } } else c
  | _, _, _ => c

/-- The routine of stand n at a step: 0 none, 1 the ageing measurement, 2 … 5 tests 1 … 4 (R496). -/
def Ctl.routineSet (c : Ctl) (n step : Nat) : Ctl := { c with pwr := { c.pwr with routine := mset 0 c.pwr.routine n step } }

/-- Stand n becomes spare, or is released: its routine begins with the ageing measurement (Table 13.7, R425). -/
def Ctl.routineStart (c : Ctl) (n : Nat) : Ctl :=
  { c.routineSet n 1 with pwr := { (c.routineSet n 1).pwr with routineOk := mset false c.pwr.routineOk n false } }

/-- The routine of stand n has passed; a released stand enters SPARE (R425). -/
def Ctl.routinePass (c : Ctl) (n : Nat) : Ctl :=
  let c := c.routineSet n 0
  let rel := c.pwr.relPend.contains n
  let c := { c with pwr := { c.pwr with routineOk := mset false c.pwr.routineOk n true, relPend := c.pwr.relPend.filter (· != n) } }
  ((if rel then c.setStand n 1 0 else c).bistStart false).rotRegs

/-- The result of a test of a stand kept for BIST_RESULTS. -/
def Ctl.bistKeep (c : Ctl) (n test : Nat) (pass : Bool) (detail : Nat) : Ctl :=
  { c with pwr := { c.pwr with bistLast := mset (0, false, 0, 0) c.pwr.bistLast n (test, pass, detail, c.frameNow) } }

/-- A stand that fails a test enters FAILED, cause 7 (R436). -/
def Ctl.testFail (c : Ctl) (n test : Nat) : Ctl := (c.failStand n 3 test).powerRec 7 n test

/-- The commanded test on stand n ends (R496): PASS, the detail, the physical stand used. -/
def W.bistDone (w : W) (n test : Nat) (pass : Bool) (detail : Word) : W :=
  let w := if 1 ≤ test ∧ test ≤ 4 then w.markAll n else w
  w.on (fun c =>
    let c := c.bistEnd stOk 0 [w32 (bit pass), detail, w32 n]
    if test ≤ 5 then
      let c := c.bistKeep n test pass detail.toNat
      if pass || c.get (F.stdStateState n) == 5 then c else c.testFail n test
    else c)

/-- The bank of a Canopy physical address, and the row within it (R154): in partitioned mode of the group that holds the line. -/
def Ctl.canopyPlace (c : Ctl) (a : Nat) : Nat × Nat :=
  let k := a / 256
  let n := 64 - c.lcBanks
  let group (first b m : Nat) : Nat × Nat := (b + (k - first) % max 1 m, (k - first) / max 1 m)
  if !c.on F.cnpCfgPart then group 0 0 n
  else
    let (wb, ab) := (c.get F.cnpCfgWb, c.get F.cnpCfgAb)
    if k < wb * 16384 then group 0 0 wb
    else if k < (wb + ab) * 16384 then group (wb * 16384) wb ab
    else group ((wb + ab) * 16384) (wb + ab) (n - wb - ab)

/-- The bank of a Canopy physical address. -/
def Ctl.canopyBank (c : Ctl) (a : Nat) : Nat := (c.canopyPlace a).1

/-- CANOPY_SCRUB on a bank posts DET_ERR for every poisoned word of a line that is not pending (Table 16.6); the core of
ARG1 is a free value. -/
def W.scrub (w : W) (b : Nat) : W :=
  (w.mem.poison.filter (fun p => isCanopy p.1 && !w.mem.pendingAt p.1 && w.ctl.canopyBank (p.1 - canopyKey 0) == b)).foldl (fun w p =>
    w.on (fun c =>
      let (c, x) := c.freeWord
      c.detAcc p.1 (x.toNat % 128) 0)) w

/-- BIST_COMPLETE (R496, R436): a test on physical stand n ends, the routine's while it runs, else the commanded one. -/
def W.bistComplete (w : W) (n : Nat) (pass : Bool) (detail : Word) : W :=
  let c := w.ctl
  let step := mget 0 c.pwr.routine n
  if mget 0 c.pwr.standOff n ≠ 0 then w
  else if 2 ≤ step then
    let w := (w.markAll n).on (fun c => c.bistKeep n (step - 1) pass detail.toNat)
    w.on (fun c => if !pass then c.testFail n (step - 1) else if step = 5 then c.routinePass n else c.routineSet n (step + 1))
  else match c.pwr.bist with
    | some (test, target, _) =>
      if c.pwr.bistOn ≠ some n ∨ test = 5 then w
      else (if test = 16 then w.scrub (target % 256) else w).bistDone n test pass detail
    | none => w

/-- BIST_COMPLETE (R496). -/
def execBistComplete (n : Fin 17) (pass : Bool) (detail : Word) (s : State) : Host.Outcome State Fault Refusal := onHw s (fun w =>
  if w.ctl.running then w.bistComplete n.val pass detail else w)

/-! Ageing (R433 … R435). -/

/-- VCORE rows of Table 2.2 [mV]. -/
def rateRows : List Nat := [600, 650, 680, 700, 750, 800, 850, 900]
/-- Temperature columns [°C]. -/
def rateCols : List Nat := [25, 60, 85, 105]
/-- Beginning-of-life rates of Table 2.2 [M steps/s]. -/
def rateBol : List (List Nat) :=
  [[620, 580, 550, 520], [740, 700, 660, 630], [800, 760, 710, 670], [850, 810, 760, 720], [1050, 1000, 950, 900],
   [1200, 1150, 1100, 1050], [1320, 1280, 1230, 1180], [1420, 1380, 1330, 1280]]
/-- End-of-life rates of Table 2.2 [M steps/s]. -/
def rateEol : List Nat := [480, 580, 620, 660, 830, 970, 1090, 1180]

/-- A byte of the calibration store. -/
def Ctl.calByte (c : Ctl) (a : Nat) : Nat := (mget 0 c.boot.cal a).toNat

/-- The fresh rates of page 1 by stand, as boot loads them; none where that page is bad (R328, R433, Table 14.10). -/
def Ctl.freshLoad (c : Ctl) : Option (List (List Nat)) :=
  if c.pageBad 1 then none
  else some ((List.range 17).map (fun n => (List.range 32).map (fun i =>
    let a := 4096 + 0x20 + 0x40 * n + 2 * i
    c.calByte a + 256 * c.calByte (a + 1))))

/-- The fresh rate of stand n at a listed row and column, as loaded at boot; Table 2.2 where page 1 was bad (Table 14.10). -/
def Ctl.freshAt (c : Ctl) (n row col : Nat) : Nat :=
  match c.boot.fresh with
  | none => nth 0 (nth [] rateBol row) col
  | some t => nth 0 (nth [] t n) (4 * row + col)

/-- The interval of a rising list that holds x: its lower index. -/
def seg (l : List Nat) (x : Nat) : Option Nat :=
  (List.range (l.length - 1)).find? (fun i => decide (nth 0 l i ≤ x ∧ x ≤ nth 0 l (i + 1)))

/-- RATIO of a measured rate (R433): the fresh rate interpolated linearly in both; none outside the table or with no fresh
rate, where the spec states no value. -/
def Ctl.ageRatio (c : Ctl) (n rate mv degC : Nat) : Option Nat :=
  match seg rateRows mv, seg rateCols degC with
  | some i, some j =>
    let (x0, x1, y0, y1) := (nth 0 rateRows i, nth 0 rateRows (i + 1), nth 0 rateCols j, nth 0 rateCols (j + 1))
    let num := (c.freshAt n i j * (x1 - mv) + c.freshAt n (i + 1) j * (mv - x0)) * (y1 - degC) +
      (c.freshAt n i (j + 1) * (x1 - mv) + c.freshAt n (i + 1) (j + 1) * (mv - x0)) * (degC - y0)
    if num = 0 then none else some (roundDiv (4096 * rate * ((x1 - x0) * (y1 - y0))) num).toNat
  | _, _ => none

/-- The end-of-life entry of R435: the lower of the adjacent listed values. -/
def eolRate (mv : Nat) : Nat :=
  match (List.range 8).reverse.find? (fun i => decide (nth 0 rateRows i ≤ mv)) with
  | some i => nth 0 rateEol i
  | none => nth 0 rateEol 0

/-- A measurement of stand n: RATE and RATIO, DRIVE raised while RATIO is below 0.970 (R434). The Bool says whether it is the
last one; RATIO is a free value where the spec states none or it does not fit (log entry 46). -/
def Ctl.ageMeasure (c : Ctl) (n rate mv degC : Nat) : Ctl × Bool :=
  let (c, ratio) := match c.ageRatio n rate mv degC with
    | some r => (c, r)
    | none => let (c, x) := c.freeWord; (c, x.toNat % 4096)
  let c := (c.put (F.phcAgeRate n) rate).put (F.phcAgeRatio n) (ratio % 4096)
  let c := if ratio < 4096 then c else let (c, x) := c.freeWord; c.put (F.phcAgeRatio n) (x.toNat % 4096)
  if ratio < 3973 ∧ c.get (F.phcAgeDrive n) < 7 then (c.put (F.phcAgeDrive n) (c.get (F.phcAgeDrive n) + 1), false) else (c, true)

/-- A stand below its end-of-life rate enters FAILED, cause 8 (R435). -/
def Ctl.ageFail (c : Ctl) (n rate : Nat) : Ctl := (c.failStand n 4 rate).powerRec 8 n rate

/-- AGEING_MEASUREMENT (R433 … R435) of a stand that has become spare, or as commanded test 5. -/
def W.ageing (w : W) (n rate mv degC : Nat) : W :=
  let routine := decide (mget 0 w.ctl.pwr.routine n = 1)
  let test := w.ctl.pwr.bistOn == some n && (match w.ctl.pwr.bist with
    | some b => b.1 == 5
    | none => false)
  if !(routine || test) || mget 0 w.ctl.pwr.standOff n != 0 then w
  else
    let (c, last) := w.ctl.ageMeasure n rate mv degC
    let w := w.on (fun _ => c)
    if !last then w
    else
      let ok := decide (eolRate mv ≤ rate)
      let w := if routine then w else w.bistDone n 5 ok (w32 (c.get (F.phcAgeRatio n)))
      w.on (fun c => if ok then (if routine then c.routineSet n 2 else c)
        else if c.get (F.stdStateState n) = 5 then c else c.ageFail n rate)

/-- AGEING_MEASUREMENT (R433). -/
def execAgeingMeasurement (n : Fin 17) (rate : BitVec 12) (mv degC : Nat) (s : State) : Host.Outcome State Fault Refusal :=
  onHw s (fun w => if w.ctl.running then w.ageing n.val rate.toNat mv degC else w)

/-! Power-up (R424). -/

/-- STAND_POWER_UP: stand n is powered again. With retention the operand buffers and scratch regions are marked; without it
every region, and code and resident regions are reloaded for the logical stand it carries. The spare that level 2 powered off
comes back once no enforced value is at level 1 (DESIGN CHOICE, log entry 47); a released stand begins its routine. -/
def W.standPowerUp (w : W) (n : Nat) : W :=
  let c := w.ctl
  let off := mget 0 c.pwr.standOff n
  let st := c.get (F.stdStateState n)
  let spare := off == 1 && st == 1 && !c.on F.phcCurStatusVeto && !c.on F.phcCurStatusShed
  if !(off == 3 || off == 4 || spare) then w
  else
    let w := if off = 4 then (if 2 ≤ st ∧ st ≤ 4 then (w.markAll n).loadStand n (c.get (F.stdStateLogical n)) else w.markAll n)
      else w.markStand n
    w.on (fun c =>
      let c := { c with pwr := { c.pwr with standOff := mset 0 c.pwr.standOff n 0 } }
      let c := if st = 1 then c.put F.phcCurStatusSpareOff 0 else c
      let c := if c.pwr.relPend.contains n && mget 0 c.pwr.routine n == 0 then c.routineStart n else c
      c.bistStart false)

/-- STAND_POWER_UP (R424). -/
def execStandPowerUp (n : Fin 17) (s : State) : Host.Outcome State Fault Refusal := onHw s (fun w =>
  if w.ctl.running then w.standPowerUp n.val else w)

/-! Remapping after a failure (R123, R204, R431). -/

/-- Stand n enters SERVICE for logical stand l. -/
def Ctl.enterService (c : Ctl) (n l : Nat) : Ctl :=
  let c := c.setStand n 3 l
  { c with pwr := { c.pwr with serveNext := c.pwr.serveNext + 1, serveSince := mset 0 c.pwr.serveSince n (c.pwr.serveNext + 1) } }

/-- Pools whose consumer, or a core that holds their credits, lies in logical stand l, and their semaphore pairs (R204). -/
def Ctl.poolsOfStand (c : Ctl) (l : Nat) : Ctl :=
  (List.range 256).foldl (fun c p =>
    let near := c.get (F.chnCpGuardConsumer p) / 8 == l || c.fab.crWriters.any (fun w => w.1 == p && w.2 / 8 == l)
    if c.on (F.chnCpGuardValid p) && near then
      let sem := c.get (F.chnCpGuardLinksem p)
      ((c.poolReset p).semInit (sem / 2 * 2)).semInit (sem / 2 * 2 + 1)
    else c) c

/-- The logical stands that no stand serves and none is about to. -/
def Ctl.unmapped (c : Ctl) : List Nat :=
  if c.get F.wktFwFwstate ≠ 1 then []
  else (List.range 16).filter (fun l => (c.standOf l).isNone && c.pwr.remaps.all (fun r => r.1 != l))

/-- A stand in SPARE that is powered: one that level 2 powered off still reads SPARE and is passed over (DESIGN CHOICE, log entry
149). -/
def Ctl.anySpare (c : Ctl) : Option Nat :=
  (List.range 17).find? (fun n => c.get (F.stdStateState n) == 1 && mget 0 c.pwr.standOff n == 0)

/-- Remapping at a boundary of the output with the shortest t_out, or at a tick (R431, R432): copied stands enter SERVICE, and
the spare enters ENTERING for a logical stand left unmapped. -/
def Ctl.remapStep (c : Ctl) : Ctl :=
  let (done, rest) := c.pwr.remaps.partition (fun r => r.2.2)
  let c := { c with pwr := { c.pwr with remaps := rest } }
  let c := done.foldl (fun c r => (c.enterService r.2.1 r.1).poolsOfStand r.1) c
  let c := c.unmapped.foldl (fun c l => match c.anySpare with
    | some n =>
      let c := (c.setStand n 2 l).routineSet n 0
      { c with pwr := { c.pwr with remaps := c.pwr.remaps ++ [(l, n, false)] } }
    | none => c) c
  c.rotRegs

/-! Rotation (R426 … R432). -/

/-- The entering stand of R427: in SPARE, powered, its last routine self-test and ageing check passed. -/
def Ctl.nextEntering (c : Ctl) : Option Nat :=
  (List.range 17).find? (fun n => c.get (F.stdStateState n) == 1 && mget 0 c.pwr.standOff n == 0 && mget false c.pwr.routineOk n)

/-- The naming, sixteen boundaries before B (R427): the entering stand starts the first step of Table 13.7. -/
def Ctl.rotName (c : Ctl) : Ctl :=
  let c := { c with pwr := { c.pwr with rotDue := true } }
  match c.nextLeaving, c.nextEntering with
  | some l, some e =>
    let c := c.setStand e 2 (c.get (F.stdStateLogical l))
    { c with pwr := { c.pwr with rotPair := some (l, e), copyDone := false, quietDone := false, leavingNow := false } }
  | _, _ => c

/-- The rotation's count begins anew. -/
def Ctl.rotRestart (c : Ctl) : Ctl :=
  { c with pwr := { c.pwr with rotCount := 0, rotDue := false, rotPair := none, leavingNow := false, copyDone := false, quietDone := false } }

/-- Whether the next lines of every enabled output leave 32 × t_min before their steps may be placed (R428, first condition).
The last boundary of each output is kept in ns; t_out is 10^12 / lineRate ns. -/
def Ctl.placeRoom (c : Ctl) (last : Nat → Nat) : Bool :=
  match c.shortOut with
  | none => true
  | some b => c.outputs.all (fun o =>
      let (r, rb) := (max 1 (c.lineRate o), max 1 (c.lineRate b))
      let blank := c.get (F.stcTotalVtotal o) - c.get (F.stcGeomVact o)
      let since : Int := (c.now : Int) - last o
      let start : Int := blank * 10 ^ 12 - since * r
      let start := if start ≤ 0 then start + c.get (F.stcTotalVtotal o) * 10 ^ 12 else start
      decide (32 * 10 ^ 12 * (r : Int) ≤ (start - 10 * 10 ^ 12 - 1400 * r) * rb))

/-- Whether a boundary is eligible (R428); after a trip nothing moves (R421). -/
def Ctl.eligible (c : Ctl) (e : Nat) (last : Nat → Nat) : Bool :=
  c.placeRoom last && c.pwr.copyDone && !c.on F.phcCurStatusShed && !c.on F.phcThermStatusTrip && c.pwr.bistOn != some e

/-- One boundary of the output with the shortest t_out, or one tick (R426 … R429, R432). -/
def Ctl.rotStep (c : Ctl) (last : Nat → Nat) (frame : Word) : Ctl :=
  if c.get F.wktFwFwstate ≠ 1 then c
  else if c.pwr.leavingNow then c
  else
    let c := { c with pwr := { c.pwr with rotCount := c.pwr.rotCount + 1 } }
    let n := c.rotInterval
    let c := if n ≤ c.pwr.rotCount + 16 && !c.pwr.rotDue then c.rotName else c
    let c := if c.pwr.rotCount < n then c
      else match c.pwr.rotPair with
        | none => ((c.powerRec 9 0 frame.toNat).bump F.phcRotCntPostpone 1).rotRestart
        | some (l, e) =>
          if !c.eligible e last then c.bump F.phcRotCntPostpone 1
          else
            let lg := c.get (F.stdStateLogical l)
            let c := if c.get (F.stdStateState e) = 1 then c.setStand e 2 lg else c
            let c := c.setStand l 4 lg
            { c with pwr := { c.pwr with leavingNow := true, quietDone := false } }
    c.rotRegs

/-- ROTATION_COPY_DONE (Table 13.7, R431): the code and resident regions of the named entering stand, else those of the stand
that is to serve an unmapped logical stand, whose scratch regions are marked. -/
def W.copyDone (w : W) : W :=
  let c := w.ctl
  match c.pwr.rotPair, c.pwr.copyDone with
  | some (l, e), false =>
    if c.pwr.bistOn = some e then w
    else (w.loadStand e (c.get (F.stdStateLogical l))).on (fun c => { c with pwr := { c.pwr with copyDone := true } })
  | _, _ => match c.pwr.remaps.find? (fun r => !r.2.2) with
    | some (l, n, _) => ((w.markStand n).loadStand n l).on (fun c =>
        { c with pwr := { c.pwr with remaps := c.pwr.remaps.map (fun r => if r.2.1 = n then (r.1, n, true) else r) } })
    | none => w

/-- ROTATION_COPY_DONE (R429, R431). -/
def execRotationCopyDone (s : State) : Host.Outcome State Fault Refusal := onHw s (fun w =>
  if w.ctl.running then w.copyDone else w)

/-- QUIET_POINT (Table 13.7): the leaving stand holds no task, running or queued, its gather buffers are flushed, and every
channel FIFO at the cores of its logical stand is empty. -/
def execQuietPoint (s : State) : Host.Outcome State Fault Refusal := onHw s (fun w =>
  let c := w.ctl
  match c.pwr.rotPair with
  | some (l, _) =>
    let lg := c.get (F.stdStateLogical l)
    let idle := (List.range 8).all (fun i => (c.core (8 * l + i)).task == none && (mget [] c.fab.queues (8 * lg + i)).isEmpty)
    let dry := c.fab.fifos.all (fun p => p.1 % 128 / 8 != lg || p.2.isEmpty)
    if c.running && c.pwr.leavingNow && idle && dry then
      (w.flushWhere l (fun _ => true)).on (fun c => { c with pwr := { c.pwr with quietDone := true } })
    else w
  | none => w)

/-- The commit of Table 13.7: scratch regions and operand buffers have been copied; the map, states and epochs change in one
step, and the new spare begins its routine; under a HOLD_OFF the leaving stand enters OFF (R425). -/
def W.rotCommit (w : W) (l e : Nat) : W :=
  let lg := w.ctl.get (F.stdStateLogical l)
  let w := (List.range 8).foldl (fun w i =>
    let at' := w.ctl.scratchAt
    (w.act (.copy (opbufKey (8 * l + i) 0) (opbufKey (8 * e + i) 0) Config.opbufBytes)).act
      (.copy (cmemKey (8 * l + i) at') (cmemKey (8 * e + i) at') (Config.coreMemBytes - at'))) w
  w.on (fun c =>
    let c := (List.range 8).foldl (fun c i => c.coreSet (8 * e + i) { CoreSt.idle with prevOwner := (c.core (8 * l + i)).prevOwner }) c
    let c := c.enterService e lg
    let c := if c.pwr.holdPend.contains l then
        let c := ({ c with pwr := { c.pwr with holdPend := c.pwr.holdPend.filter (· != l) } }).setStand l 0 0
        (c.put F.phcStdHoldStand (setBit (c.get F.phcStdHoldStand) l)).standPowerOff l true
      else (c.setStand l 1 0).routineStart l
    ((c.bump F.phcRotCntDone 1).rotRestart).rotRegs)

/-- ROTATION_COMMIT (R429). -/
def execRotationCommit (s : State) : Host.Outcome State Fault Refusal := onHw s (fun w =>
  match w.ctl.pwr.rotPair with
  | some (l, e) => if w.ctl.running && w.ctl.pwr.leavingNow && w.ctl.pwr.quietDone then w.rotCommit l e else w
  | none => w)

/-- ROTATION_ABORT (R429): no commit by B + 32 × t_min; the stands go back, cause 10, and the rotation is tried again. -/
def execRotationAbort (s : State) : Host.Outcome State Fault Refusal := onCtl s (fun c =>
  match c.pwr.rotPair with
  | some (l, e) =>
    if c.running && c.pwr.leavingNow then
      let c := (c.setStand l 3 (c.get (F.stdStateLogical l))).setStand e 1 0
      let c := { c with pwr := { c.pwr with leavingNow := false, quietDone := false } }
      ((c.powerRec 10 l c.frameNow.toNat).bump F.phcRotCntAbort 1).rotRegs
    else c
  | none => c)

/-- ROTATION_TICK (R432, R487): while no output is enabled, 10 ms of host time take the place of an output frame, also for the energy
intervals (R415). -/
def execRotationTick (s : State) : Host.Outcome State Fault Refusal := onCtl s (fun c =>
  if !c.running || c.anyOut then c
  else
    let c := c.stormRecords 0
    let c := { c with fab := { c.fab with stormPosted := [] } }
    let c := ({ c with pwr := { c.pwr with ticks := c.pwr.ticks + 1, limitPosted := [] } }).energyEnd
    ((c.remapStep).rotStep (fun _ => 0) 0).bistStart true)

end Sys2Proof.Machine
end

