-- ==== Sys2Proof/Machine/Boot.lean ====
section
/-! DEFINITION. Reset and boot (14_boot_and_calibration.md, with R341, R464 and R473): what resets the main domain and what
survives, the boot path of Table 14.8, recovery, the endpoint's release, VGLADE. -/

namespace Sys2Proof.Machine

/-! Main-domain reset (R440 … R443). -/

/-- Whether a register lies in the Glade domain, or is PHC_BOOT_CAUSE, and so survives a main-domain reset (R442, Table 14.2). -/
def surviving (a : Nat) : Bool :=
  a == R.phcBootCause || decide (0x148000 ≤ a ∧ a < 0x148044) || decide (0x150000 ≤ a ∧ a < 0x160000)

/-- The controllers while the main domain is held in reset (Table 14.2): reset values but for Glade, the non-volatile cells and
stores, the pins' readings and the JTAG port; the trip latch is cleared at reset exit. -/
def Ctl.mainReset (c : Ctl) : Ctl :=
  let d := c.diag
  let b := c.boot
  let r : Ctl := { Ctl.reset with
    regs := mdrop (fun a => !surviving a) c.regs, now := c.now, und := Und.reset c.und.cells, gld := c.gld,
    pwr := { Pwr.reset with trip := c.pwr.trip }, hng := { Hng.reset with peerN := c.hng.peerN },
    host := { HostSt.reset with timeBase := c.now },
    boot := { BootSt.reset with inReset := true, pwrOk := b.pwrOk, rstHigh := b.rstHigh, wdog := b.wdog, cfg := b.cfg, slots := b.slots,
                                cal := b.cal, keyDigest := b.keyDigest, perstN := b.perstN, straps := b.straps, live := b.live },
    diag := { Diag.reset with jtag := d.jtag, jtagDrive := d.jtagDrive, jtagHighz := d.jtagHighz, boundary := d.boundary },
    free := c.free, out := c.out }
  [60, 61, 62, 63].foldl (fun r a =>
    ((r.put (F.undStatusActive a) (c.get (F.undStatusActive a))).put (F.undStatusBad0 a) (c.get (F.undStatusBad0 a))).put
      (F.undStatusBad1 a) (c.get (F.undStatusBad1 a))) r

/-- The main domain enters reset, its cause counted (R442): operand buffers, core memory and Canopy are all pending clear, and
DRAM does not keep its contents (Table 14.2; log entry 16). -/
def W.enterReset (w : W) (cause : Fld) : W :=
  let w := if w.ctl.boot.inReset then w
    else ((w.on Ctl.mainReset).act (.mark 0 0x50000000)).act (.mark 0x1000000000 0x400000000)
  w.on (fun c => c.put cause 1)

/-- A change of what boot keeps. -/
def Ctl.bootMod (c : Ctl) (f : BootSt → BootSt) : Ctl := { c with boot := f c.boot }

/-- PWR_OK_FALL (R439, R440). -/
def execPwrOkFall (s : State) : Host.Outcome State Fault Refusal := onHw s (fun w =>
  (w.on (fun c => c.bootMod (fun b => { b with pwrOk := false }))).enterReset F.phcBootCausePwr)

/-- PWR_OK_RISE (R438, R440): a power-up that did not follow Table 14.1 is not defined. -/
def execPwrOkRise (ordered : Bool) (s : State) : Host.Outcome State Fault Refusal :=
  if ordered then onCtl s (fun c => c.bootMod (fun b => { b with pwrOk := true })) else .fault .powerUpUndefined

/-- RESET_N_ASSERT (R440). -/
def execResetNAssert (s : State) : Host.Outcome State Fault Refusal := onHw s (fun w =>
  (w.on (fun c => c.bootMod (fun b => { b with rstHigh := false }))).enterReset F.phcBootCausePin)

/-- RESET_N_RELEASE (R440). -/
def execResetNRelease (s : State) : Host.Outcome State Fault Refusal := onCtl s (fun c =>
  c.bootMod (fun b => { b with rstHigh := true }))

/-- WARDEN_WATCHDOG (R441, R442): firmware that has started and was not serviced for 1 s; a reset before RUN counts in
WDOG_SEQ. The boot ROM and the recovery monitor run no watchdog. -/
def execWardenWatchdog (s : State) : Host.Outcome State Fault Refusal := onHw s (fun w =>
  let c := w.ctl
  let st := c.get F.wktFwFwstate
  if !c.running ∨ st = 2 ∨ (st = 0 ∧ (c.boot.straps.testEn ∨ c.boot.straps.bootRec)) then w
  else
    let seq := c.get F.phcBootCauseWdogSeq
    ((w.on (fun c => c.bootMod (fun b => { b with wdog := true }))).enterReset F.phcBootCauseWdog).on (fun c =>
      if st = 1 then c else c.put F.phcBootCauseWdogSeq (min 15 (seq + 1))))

/-- RESET_EXIT (R440, R443, R446): 1.0 ms after the later of PWR_OK and RESET_N, or at the end of the watchdog's reset; the
straps are sampled, and the trip latch clears. -/
def execResetExit (st : Straps) (s : State) : Host.Outcome State Fault Refusal := onCtl s (fun c =>
  if !(c.boot.inReset && c.boot.pwrOk && c.boot.rstHigh) then c
  else
    let c := c.bootMod (fun b => { b with inReset := false, wdog := false, straps := st, live := st })
    let c := { c with host := { c.host with timeBase := c.now }, pwr := { c.pwr with trip := false, enStart := c.now } }
    ((((c.put F.phcStrapsPairId (bit st.pairId)).put F.phcStrapsMgmtAddr st.mgmtAddr.toNat).put F.phcStrapsBootRec (bit st.bootRec)).put
      F.hngPairStatusPairId (bit st.pairId)).pairRegs)

/-! The boot path (R445, R447 … R459, Table 14.8). -/

/-- Bytes of a page of the calibration store from an offset. -/
def Ctl.calBytes (c : Ctl) (a n : Nat) : List Byte := (List.range n).map (fun i => mget 0 c.boot.cal (a + i))

/-- Whether the CRC of calibration page p matches (R457). -/
def Ctl.calPageOk (c : Ctl) (p : Nat) : Bool :=
  ofBytes (c.calBytes (4096 * p + 4092) 4) == (crc32 (c.calBytes (4096 * p) 4092)).toNat

/-- Whether page 0 names this part (R459, R460). -/
def Ctl.calMine (c : Ctl) (page : List Byte) : Bool :=
  ofBytes ((page.drop 8).take 4) == (c.rd R.glbIdent).toNat && ofBytes ((page.drop 12).take 8) == c.dieId.toNat

/-- Step 3: every page checked, the part's identity compared (R457, R459). -/
def Ctl.calCheck (c : Ctl) : Ctl :=
  let bad := (List.range 64).filter (fun p => !c.calPageOk p)
  let word (base : Nat) : Word := w32 ((bad.filter (fun p => decide (base ≤ p ∧ p < base + 32))).foldl (fun x p => x + 2 ^ (p - base)) 0)
  let c := ((c.wr R.phcCalBadLo (word 0)).wr R.phcCalBadHi (word 32)).bootMod (fun b => { b with calBad := bad })
  if bad.contains 0 ∨ !c.calMine (c.calBytes 0 32) then c.put F.phcBootStatusCalDie 1 else c

/-- Step 5: what firmware applies of page 1 (R84, R434, Table 14.10), the fresh rates among it, and the offsets of page 5; they stay
until the next boot (R328). -/
def Ctl.calApply (c : Ctl) : Ctl :=
  let bad := c.pageBad 1
  let c := c.bootMod (fun b => { b with fresh := c.freshLoad, offsets := if c.pageBad 5 then [] else c.calBytes (4096 * 5) 0x5C })
  let c := c.put F.phcGovCalCalMv (if bad then 750 else c.calByte 4096 + 256 * c.calByte 4097)
  (List.range 17).foldl (fun c n => c.put (F.phcAgeDrive n) (if bad then 0 else c.calByte (4100 + n))) c

/-- The copy the ROM uses: the valid one with the higher SEQ (R449). -/
def pickCfg (l : List BootCfg) : Option BootCfg :=
  l.foldl (fun best b => if !BootCfg.valid b then best else match best with
    | none => some b
    | some x => if x.seq < b.seq then some b else best) none

/-- The recovery monitor (R456): the endpoint released, FWSTATE RECOVERY with release 0.0. -/
def Ctl.recovery (c : Ctl) (ms : Nat) : Ctl :=
  ((c.bootMod (fun b => { b with epReleased := true })).wr R.wktFw 0x00020000).put F.phcBootStatusBootMs ms

/-- Step 7 for one stand: measurements until DRIVE settles, then the end-of-life check (R433 … R435). -/
def Ctl.bootStand (n mv degC : Nat) : List Nat → Ctl → Ctl
  | [], c => c
  | r :: t, c =>
    let (c, last) := c.ageMeasure n r mv degC
    if last ∨ t.isEmpty then (if r < eolRate mv then c.ageFail n r else c) else Ctl.bootStand n mv degC t c

/-- Step 8: sixteen stands in ascending order carry logical stands 0 … 15, the next is the spare (R119). -/
def Ctl.bootMap (c : Ctl) : Ctl :=
  let good := (List.range 17).filter (fun n => c.get (F.stdStateState n) != 5)
  let c := (List.range 16).foldl (fun c l => if l < good.length then c.enterService (nth 0 good l) l else c) c
  if 16 < good.length then (c.setStand (nth 0 good 16) 1 0).routineStart (nth 0 good 16) else c

/-- Steps 5 … 9 with an authentic image. -/
def Ctl.bootFirmware (c : Ctl) (f : FwImage) (slot : Nat) (dram : Nat) (ms : BootMeas) : Ctl :=
  let c := c.calApply
  let c := (c.put F.drcCfgRate dram).put F.drcCfgDensity (dram / 4)
  if !(ms.mr8Agree && ms.trainOk) then (c.put F.phcBootStatusDramFail 1).recovery ms.msToRelease
  else
    let c := c.put F.drcStatusTrained 1
    let c := (List.range 17).foldl (fun c n => Ctl.bootStand n ms.dieMv ms.degC (nth [] ms.rates n) c) c
    let c := (c.bootMap).rotRegs
    let c := if c.gld.isolated || c.gld.off then c else c.put F.gldStateProg 1
    let c := c.bootMod (fun b => { b with epReleased := true })
    let c := (c.put F.phcBootStatusSlot slot).put F.phcBootStatusBootMs ms.msToRelease
    let c := (c.wr R.wktFw (w32 (0x10000 + f.release % 65536))).put F.phcBootCauseWdogSeq 0
    (c.hngMod (fun h => { h with fwDigest := f.digest / 2 ^ 128 })).govBounds

/-- Steps 2 … 9. -/
def Ctl.bootSlots (c : Ctl) (a b : FwImage) (ms : BootMeas) : Ctl :=
  let cfg := pickCfg c.boot.cfg
  let c := if cfg.isNone then c.put F.phcBootStatusBcbDef 1 else c
  let c := c.calCheck
  let (slot, dram) := match cfg with
    | some x => (bit x.slot, x.dram.toNat)
    | none => (0, 4 * ms.mr8Density.toNat)
  let img (k : Nat) : FwImage := if k = 0 then a else b
  let bad (k : Nat) (c : Ctl) : Ctl := if k = 0 then c.put F.phcBootStatusAuthA 1 else c.put F.phcBootStatusAuthB 1
  if 3 ≤ c.get F.phcBootCauseWdogSeq then c.recovery ms.msToRelease
  else if FwImage.authentic c.boot.keyDigest (img slot) then c.bootFirmware (img slot) slot dram ms
  else
    let c := bad slot c
    if FwImage.authentic c.boot.keyDigest (img (1 - slot)) then (c.put F.phcBootStatusFallback 1).bootFirmware (img (1 - slot)) (1 - slot) dram ms
    else ((bad (1 - slot) c).alert 5).recovery ms.msToRelease

/-- BOOT_PATH (R445, R453, R456): c0, c1, slotA and slotB are the flash as it reads where firmware has not written it. -/
def execBootPath (c0 c1 : BootCfg) (slotA slotB : FwImage) (ms : BootMeas) (s : State) : Host.Outcome State Fault Refusal := onCtl s (fun c =>
  if !c.running ∨ c.get F.wktFwFwstate ≠ 0 ∨ ms.tripFiring ∨ c.boot.straps.testEn then c
  else
    let a := (mget none c.boot.slots 0).getD slotA
    let b := (mget none c.boot.slots 1).getD slotB
    let c := c.bootMod (fun x => { x with cfg := if x.cfg.isEmpty then [c0, c1] else x.cfg })
    if c.boot.straps.bootRec then (c.put F.phcBootStatusRecStrap 1).recovery ms.msToRelease
    else c.bootSlots a b ms)

/-! PERST_N (R454, R455). -/

/-- PERST_N_ASSERT (R455): the effects of R272, and the endpoint in electrical idle. -/
def execPerstNAssert (moved : List (Nat × List Byte)) (s : State) : Host.Outcome State Fault Refusal := onHw s (fun w =>
  let w := w.on (fun c => c.bootMod (fun b => { b with perstN := false }))
  if w.ctl.running && w.ctl.boot.epReleased then (w.dlDown moved).hostReset else w)

/-- PERST_N_DEASSERT (R454, R455). -/
def execPerstNDeassert (s : State) : Host.Outcome State Fault Refusal := onCtl s (fun c =>
  c.bootMod (fun b => { b with perstN := true }))

/-! VGLADE (R341, R354, R461, R473). -/

/-- VGLADE_POWER_ON: Glade at reset in IDLE, arrays 60 … 63 with bank 0 active, POR alone in PHC_BOOT_CAUSE; an input that does
not read clearly takes its conservative reading. -/
def execVgladePowerOn (pwrOk rstHigh stbyLow : Bool) (s : State) : Host.Outcome State Fault Refusal := onHw s (fun w =>
  let w := w.on (fun c => c.bootMod (fun b => { b with pwrOk := pwrOk, rstHigh := rstHigh }))
  let w := if pwrOk && rstHigh then w else w.enterReset F.phcBootCausePor
  w.on (fun c =>
    let c := { c with regs := mdrop surviving c.regs, gld := { Gld.reset with base := c.now } }
    let c := [60, 61, 62, 63].foldl (fun c a => ((c.put (F.undStatusActive a) 0).put (F.undStatusBad0 a) 0).put (F.undStatusBad1 a) 0) c
    (c.put F.gldStateState 1).stbyReq (!stbyLow)))

/-- VGLADE_LOSS (R341, R354): Glade is off; its registers, SRAM and results are lost, cell levels stay. -/
def execVgladeLoss (s : State) : Host.Outcome State Fault Refusal := onCtl s (fun c =>
  let c := c.regsReset 0x148000 0x148044
  let c := (c.regsReset 0x150000 0x160000).put F.gldStateState 0
  { c with gld := { Gld.reset with off := true, base := c.gld.base } })

end Sys2Proof.Machine
end

