-- ==== Sys2Proof/Machine/Diag.lean ====
section
/-! DEFINITION. Diagnostics (16_errors_and_diagnostics.md): the counter snapshot (R495), the debug snapshot (R498) and the
JTAG port (R500 … R502). -/

namespace Sys2Proof.Machine

/-! Snapshots. -/

/-- Every register address, ascending. -/
def regAddrs : List Nat := ((List.range 0x100000).map (4 * ·)).filter (fun a => (regRow a).isSome)

/-- The RC bits of the register at an address. -/
def rcMask (a : Nat) : Word := match regRow a with
  | some r => w32 r.rc
  | none => 0

/-- The registers COUNTER_SNAP copies for a block mask (R495): those with an RC field, PHC_ENERGY and CNP_CLR_PENDING. -/
def snapRegs (mask : Nat) : List Nat :=
  regAddrs.filter (fun a => tbit mask (blockOf a) && (rcMask a != 0 || a == R.phcEnergy || a == R.cnpClrPending))

/-- The value a register reads as, nothing cleared. -/
def Ctl.peek (c : Ctl) (a : Nat) : Word := (c.regRead a).2

/-- Snapshot entries of registers: offset and value (Table 16.7). -/
def Ctl.snapEntries (c : Ctl) (as : List Nat) : List Byte := as.flatMap (fun a => toBytes 4 a ++ toBytes 4 (c.peek a).toNat)

/-- A counter snapshot (Table 16.7). -/
def Ctl.counterBytes (c : Ctl) (mask : Nat) (clear : Bool) : List Byte :=
  let as := snapRegs mask
  [0x43, 0x53, 0x4E, 0x50] ++ toBytes 4 (c.rd R.glbIdent).toNat ++ toBytes 4 (c.rd R.wktFw).toNat ++ toBytes 4 c.frameNow.toNat ++
    toBytes 8 c.glbTime ++ toBytes 4 mask ++ toBytes 4 as.length ++ toBytes 4 (bit clear) ++ List.replicate 28 0 ++ c.snapEntries as

/-- The RC fields of the registers a snapshot copied cleared, as reads would (R493). -/
def Ctl.snapClear (c : Ctl) (mask : Nat) : Ctl := (snapRegs mask).foldl (fun c a => c.wr a (c.rd a &&& ~~~rcMask a)) c

/-- Whether DBG_SNAPSHOT copies the register at an address: a readable one, but for the MSI-X table and pending bits, the
Wicket words and GLD_AUDIO (Table 16.8). -/
def Ctl.snapReg (c : Ctl) (a : Nat) : Bool :=
  let readable := match regRow a with
    | some r => r.wo == 0 || r.rw != 0
    | none => false
  c.occupied a && readable && !(decide (0x8000 ≤ a ∧ a < 0x10000) || (decide (0x10000 ≤ a ∧ a < 0x11000) && decide (a % 0x100 < 0x80)) ||
    decide (0x150000 ≤ a ∧ a < 0x160000))

/-- The record of a physical core (Table 16.8, section 2). -/
def Ctl.coreRecord (c : Ctl) (q : Nat) : List Byte :=
  let (n, i) := (q / 8, q % 8)
  let regs := (c.core q).stopped
  let head := toBytes 4 (n + 256 * i + 65536 * bit regs) ++ toBytes 4 (c.rd (R.stdCorePc n i)).toNat ++ toBytes 4 (c.rd (R.stdCoreFault n i)).toNat
  let s := if regs then (List.range 64).flatMap (fun j => toBytes 4 (c.sreg q j).toNat) else List.replicate 256 0
  let p := if regs then (List.range 16).flatMap (fun j => toBytes 8 (c.preg q j).toNat) else List.replicate 128 0
  head ++ List.replicate 52 0 ++ s ++ p ++ List.replicate 64 0

/-- A debug snapshot with the firmware's trace (Table 16.8). -/
def Ctl.debugBytes (c : Ctl) (trace : List Byte) : List Byte :=
  let s1 := c.snapEntries (regAddrs.filter c.snapReg)
  let s2 := (List.range 136).flatMap c.coreRecord
  let s3 := c.diag.log.flatMap (fun r => r.flatMap (fun w => toBytes 4 w.toNat))
  let s4 := trace.take 262144
  let dir (t off len : Nat) : List Byte := toBytes 4 t ++ toBytes 4 off ++ toBytes 4 len ++ toBytes 4 0
  let o2 := 128 + s1.length
  let o3 := o2 + s2.length
  [0x44, 0x53, 0x4E, 0x50] ++ toBytes 4 1 ++ toBytes 4 (c.rd R.glbIdent).toNat ++ toBytes 4 (c.rd R.wktFw).toNat ++
    toBytes 8 c.frameNow.toNat ++ toBytes 8 c.glbTime ++ toBytes 4 4 ++ List.replicate 28 0 ++
    dir 1 128 s1.length ++ dir 2 o2 s2.length ++ dir 3 o3 s3.length ++ dir 4 (o3 + s3.length) s4.length ++ s1 ++ s2 ++ s3 ++ s4

/-- A snapshot that a mailbox waits for is taken: the bytes go to host memory, or the transfer fails (R495, R498). -/
def Ctl.snapTake (c : Ctl) (m : Nat) (linkOk : Bool) (trace : Option (List Byte)) : Ctl :=
  match c.taken m with
  | none => c
  | some t =>
    let addr := (nth 0 t.words 2).toNat + 2 ^ 32 * (nth 0 t.words 3).toNat
    if !(linkOk && c.host.linkUp) then c.answer m stLinkDown 1 0 []
    else
      let mask := (nth 0 t.words 4).toNat
      let clear := (nth 0 t.words 5).getLsbD 0
      let bs := match trace with
        | none => c.counterBytes mask clear
        | some tr => c.debugBytes tr
      let frame := c.frameNow
      let c := c.emit (.hostBytes addr bs)
      match trace with
      | none => (if clear then c.snapClear mask else c).answer m stOk 0 0 [w32 bs.length, frame]
      | some _ => c.answer m stOk 0 0 [w32 bs.length]

/-- The snapshots that wait are taken at a boundary of the output with the shortest t_out. -/
def Ctl.snapBoundary (c : Ctl) : Ctl :=
  let l := c.diag.snaps
  l.foldl (fun c p => c.snapTake p.1 p.2.1 p.2.2) { c with diag := { c.diag with snaps := [] } }

/-- A snapshot command starts: at once while no output is enabled, else at the next boundary. -/
def Ctl.snapStart (c : Ctl) (m : Nat) (linkOk : Bool) (trace : Option (List Byte)) : Ctl :=
  if c.anyOut then { c with diag := { c.diag with snaps := c.diag.snaps ++ [(m, linkOk, trace)] } } else c.snapTake m linkOk trace

/-! JTAG. -/

/-- A data register selected by an instruction, with its drive of the balls (Table 16.9). -/
def Ctl.tapSelect (c : Ctl) (r : JtagReg) (drive highz : Bool) : Ctl :=
  { c with diag := { c.diag with jtag := r, jtagDrive := drive, jtagHighz := highz } }

/-- Whether RESET_N holds the main domain in reset (R501). -/
def Ctl.pinReset (c : Ctl) : Bool := c.boot.inReset && !c.boot.rstHigh

/-- The n low bits of a number, the least significant first, as TDO shifts them. -/
def bitsOf (n x : Nat) : List Bool := (List.range n).map (tbit x)

/-- BYPASS: one bit that captures 0. -/
def Ctl.tapBypass (c : Ctl) : Ctl := (c.tapSelect .bypass false false).emit (.tdo [false])

/-- IDCODE (R500). -/
def execIdcode (s : State) : Host.Outcome State Fault Refusal := onCtl s (fun c =>
  (c.tapSelect .idcode false false).emit (.tdo (bitsOf 32 0x172006D7)))

/-- SAMPLE/PRELOAD (R500, R501): the boundary register captures the balls. -/
def execSamplePreload (balls : List Bool) (s : State) : Host.Outcome State Fault Refusal := onCtl s (fun c =>
  let c := c.tapSelect .boundary false false
  ({ c with diag := { c.diag with boundary := balls } }).emit (.tdo balls))

/-- EXTEST (R501): the boundary register drives the balls, only while RESET_N holds the main domain in reset. -/
def execExtest (s : State) : Host.Outcome State Fault Refusal := onCtl s (fun c =>
  if c.pinReset then (c.tapSelect .boundary true false).emit (.tdo c.diag.boundary) else c.tapBypass)

/-- HIGHZ (R501): the chained outputs high-Z, BYPASS selected. -/
def execHighz (s : State) : Host.Outcome State Fault Refusal := onCtl s (fun c =>
  if c.pinReset then (c.tapSelect .bypass false true).emit (.tdo [false]) else c.tapBypass)

/-- CLAMP (R501): the chained outputs from the boundary register, BYPASS selected. -/
def execClamp (s : State) : Host.Outcome State Fault Refusal := onCtl s (fun c =>
  if c.pinReset then (c.tapSelect .bypass true false).emit (.tdo [false]) else c.tapBypass)

/-- DBG_ACCESS (R500, R502): Capture-DR shows the last access, and Update-DR performs one 4-byte BAR0 access while
DBG_CTRL.JTAG_EN is 1, and otherwise sets DENIED. The captured bits the spec gives no value are free (log entry 14). -/
def execDbgAccess (data : Word) (addr : BitVec 26) (write : Bool) (s : State) : Host.Outcome State Fault Refusal := onCtl s (fun c =>
  let d := c.diag
  let cap := bitsOf 32 d.dbgData.toNat ++ (List.range 32).map (fun i => Config.jtagBit (32 + i)) ++ [d.dbgDone, d.dbgDenied] ++
    (List.range 6).map (fun i => Config.jtagBit (66 + i))
  let c := (c.tapSelect .dbg false false).emit (.tdo cap)
  if !(c.running && c.on F.dbgCtrlJtagEn) then { c with diag := { c.diag with dbgDone := false, dbgDenied := true } }
  else if addr.toNat % 4 ≠ 0 then
    let c := c.bump F.glbBar0ErrCount 1
    { c with diag := { c.diag with dbgDone := true, dbgDenied := false, dbgData := if write then data else 0 } }
  else if write then
    let c := c.barWrite4 addr.toNat data
    { c with diag := { c.diag with dbgDone := true, dbgDenied := false, dbgData := data } }
  else
    let (c, v) := c.barRead4 addr.toNat
    { c with diag := { c.diag with dbgDone := true, dbgDenied := false, dbgData := v } })

/-- BYPASS (R500). -/
def execBypass (s : State) : Host.Outcome State Fault Refusal := onCtl s Ctl.tapBypass

/-- TAP_RESET (R500): IDCODE selected. -/
def execTapReset (s : State) : Host.Outcome State Fault Refusal := onCtl s (fun c => c.tapSelect .idcode false false)

end Sys2Proof.Machine
end

