-- ==== Sys2Proof/Machine/Mgmt.lean ====
section
/-! DEFINITION. The SMBus management port and the authority rules of its requests (09_host_and_management.md R294 … R302,
13 R425). Responses leave with their PEC. -/

namespace Sys2Proof.Machine

/-- The port's 7-bit address (R294). -/
def Ctl.smbusAddr (c : Ctl) : Nat := 0x58 + c.get F.phcStrapsMgmtAddr

/-- A response of the port to a request, the bytes of a process call or none of a Block Read, with its PEC (R294, Table 9.8a; which
bytes the PEC covers is SMBus's, PRESUMED, log entry 119). -/
def Ctl.smbus (c : Ctl) (code : Nat) (req : Option (List Byte)) (bs : List Byte) : Ctl :=
  let a : Byte := BitVec.ofNat 8 (2 * c.smbusAddr)
  let sent : List Byte := match req with
    | some l => BitVec.ofNat 8 l.length :: l
    | none => []
  c.emit (.smbus (bs ++ [crc8 ([a, BitVec.ofNat 8 code] ++ sent ++ [a + 1, BitVec.ofNat 8 bs.length] ++ bs)]))

/-- A Block Read (R295). -/
def Ctl.mgmtRead (c : Ctl) (code : Nat) (bs : List Byte) : Ctl := c.smbus code none bs

/-- A process call (R295) with its request bytes: a wrong PEC is answered with a NACK and has no effect. -/
def Ctl.mgmtCall (c : Ctl) (pecOk : Bool) (code : Nat) (req : List Byte) (f : Ctl → Ctl × List Byte) : Ctl :=
  if !c.running then c
  else if !pecOk then c.emit .smbusNack
  else
    let r := f c
    r.1.smbus code (some req) r.2

/-- A byte of a number. -/
def byteOf (x : Nat) : Byte := BitVec.ofNat 8 x

/-! Readings. -/

/-- The command codes of Table 9.9. -/
def mgmtCodes : List Nat := [0x01, 0x02, 0x03, 0x04, 0x10, 0x20, 0x21, 0x22, 0x30, 0x31]

/-- IDENT (R295): a read with a command code that the table does not have is answered with a NACK; another address is not the port's,
and the other codes are commands of their own. -/
def execIdent (addr : BitVec 7) (code : Byte) (s : State) : Host.Outcome State Fault Refusal := onCtl s (fun c =>
  if !c.running ∨ addr.toNat ≠ c.smbusAddr then c
  else if code = 1 then c.mgmtRead 0x01 (toBytes 4 (c.rd R.glbIdent).toNat)
  else if mgmtCodes.contains code.toNat then c else c.emit .smbusNack)

/-- Whether any unit is held by the management port: a Shutter's hold with CAUSE 2 is the trip's. -/
def Ctl.mgmtHold (c : Ctl) : Bool :=
  [0, 1].any (fun t => c.on (F.phcShutHold t) && c.get (F.phcShutCause t) != 2) || c.on F.phcCeilAuthHold || c.get F.phcStdHoldStand != 0

/-- HEALTH (R295): where the hottest reading is no whole number of degrees, which neighbour is shown is a free value (log entry
50). -/
def execHealth (s : State) : Host.Outcome State Fault Refusal := onCtl s (fun c =>
  if !c.running then c
  else
    let flags := bit (c.on F.phcThermStatusTrip) + 2 * bit ([0, 1].any (fun t => c.on (F.phcShutClosed t))) +
      4 * bit (c.get F.wktFwFwstate == 1) + 8 * bit c.anyOut + 16 * bit c.mgmtHold
    let q := toSigned 16 (c.get F.phcThermStatusHottest)
    let (c, x) := if q % 4 = 0 then (c, 0) else c.freeWord
    let hot := q / 4 + (x.toNat % 2 : Nat)
    c.mgmtRead 0x02 ([byteOf flags, byteOf (ofSigned 8 hot)] ++ toBytes 2 (c.get F.phcGovStatusSetMv) ++ toBytes 2 (c.get F.phcPkgPower) ++
      toBytes 2 c.diag.alert.toNat))

/-- TEMP (R295): sensor 0 … 23, or 0xFF for the hottest, which the response names. -/
def execTemp (pecOk : Bool) (sensor : Byte) (s : State) : Host.Outcome State Fault Refusal := onCtl s (fun c =>
  c.mgmtCall pecOk 0x03 [sensor] (fun c =>
    let i := sensor.toNat
    (c, if i = 255 then byteOf stOk :: byteOf (c.get F.phcThermStatusSensor) :: toBytes 2 (c.get F.phcThermStatusHottest)
      else if i < 24 then byteOf stOk :: sensor :: toBytes 2 (c.get (F.phcTempNow i))
      else [byteOf stBadArg, sensor, 0, 0])))

/-- RAIL (R295): rails 0 … 6. -/
def execRail (pecOk : Bool) (rail : Byte) (s : State) : Host.Outcome State Fault Refusal := onCtl s (fun c =>
  c.mgmtCall pecOk 0x04 [rail] (fun c =>
    let r := rail.toNat
    (c, if r < 7 then byteOf stOk :: toBytes 2 (c.get (F.phcRailMeasMv r)) ++ toBytes 2 (c.get (F.phcRailMeasMa r))
      else [byteOf stBadArg, 0, 0, 0, 0])))

/-- BOOT (R295): in every firmware state. -/
def execBoot (s : State) : Host.Outcome State Fault Refusal := onCtl s (fun c =>
  if c.running then c.mgmtRead 0x22 ([R.phcBootCause, R.phcBootStatus, R.wktFw].flatMap (fun a => toBytes 4 (c.rd a).toNat)) else c)

/-- ALERT (R295): the bits, cleared by the read. -/
def execAlert (s : State) : Host.Outcome State Fault Refusal := onCtl s (fun c =>
  if c.running then { (c.mgmtRead 0x30 (toBytes 4 c.diag.alert.toNat)) with diag := { c.diag with alert := 0 } } else c)

/-- ALERT_MASK (R295): a Block Write, which has no response. -/
def execAlertMask (pecOk : Bool) (mask : Word) (s : State) : Host.Outcome State Fault Refusal := onCtl s (fun c =>
  if !c.running then c else if pecOk then { c with diag := { c.diag with alertMask := mask } } else c.emit .smbusNack)

/-- Whether MGMT_ALERT_N is asserted: an unmasked bit is 1 (R295). -/
def Ctl.alertPin (c : Ctl) : Bool := c.diag.alert &&& c.diag.alertMask != 0

/-- ALERT_RESPONSE (R294): a read at 0x0C, which the port answers with its own address while MGMT_ALERT_N is asserted. -/
def execAlertResponse (addr : BitVec 7) (s : State) : Host.Outcome State Fault Refusal := onCtl s (fun c =>
  let b := byteOf (2 * c.smbusAddr)
  if c.running && c.alertPin && addr == 0x0C then c.emit (.smbus [b, crc8 [0x19, b]]) else c)

/-! Authority (R296 … R301). -/

/-- The state register of a unit of Table 9.10. -/
def unitReg (u : Nat) : Option Nat :=
  let i := u % 256
  match u / 256 with
  | 1 => if i < 17 then some (R.stdState i) else none
  | 2 => if i < 24 then some (R.stcStatus i) else none
  | 3 => if i < 2 then some (R.phcShut i) else none
  | 4 => if i = 0 then some R.phcCeilAuth else none
  | 5 => if i < 4 then some (R.hngState i) else none
  | _ => none

/-- UNIT_READ (R296). -/
def execUnitRead (pecOk : Bool) (unit : BitVec 16) (s : State) : Host.Outcome State Fault Refusal := onCtl s (fun c =>
  c.mgmtCall pecOk 0x20 (toBytes 2 unit.toNat) (fun c => (c, match unitReg unit.toNat with
    | some a => byteOf stOk :: toBytes 4 (c.rd a).toNat
    | none => [byteOf stBadArg, 0, 0, 0, 0])))

/-- The answer to a request: STATUS and the unit's EPOCH. -/
def Ctl.mgmtAnswer (c : Ctl) (u st : Nat) : Ctl × List Byte := (c, byteOf st :: toBytes 2 (c.epochOf u))

/-- A refused request counted and answered (R301). -/
def Ctl.mgmtRefuse (c : Ctl) (u st : Nat) : Ctl × List Byte := (c.bump F.phcMgmtCntRefused 1).mgmtAnswer u st

/-- An applied request logged, counted, signalled on vector 16 and answered (R301). -/
def Ctl.mgmtApplied (c : Ctl) (u act reason : Nat) : Ctl × List Byte :=
  let c := ((c.put F.phcAuthLogUnit u).put F.phcAuthLogAction act).put F.phcAuthLogReason reason
  ((c.bump F.phcMgmtCntApplied 1).msix 16).mgmtAnswer u stOk

/-- The epoch comparison of a request (R298): a mismatch is refused with EPOCH_STALE. -/
def Ctl.mgmtCheck (c : Ctl) (u : Nat) (check : Bool) (exp : Nat) (f : Ctl → Ctl × List Byte) : Ctl × List Byte :=
  if check ∧ exp ≠ c.epochOf u then (c.epochStale u exp 1).mgmtRefuse u stRevoked else f c

/-- MGMT_MV set, in PHC_GOV_CEIL and PHC_CEIL_AUTH, with the fields of the unit (R84, R296). -/
def Ctl.ceilSet (c : Ctl) (mv hold reason : Nat) : Ctl :=
  ((c.unitState F.phcCeilAuthEpoch [(F.phcCeilAuthMv, mv), (F.phcCeilAuthHold, hold), (F.phcCeilAuthReason, reason)]).put
    F.phcGovCeilMgmtMv mv).govBounds

/-- CEIL (R84, R297 … R301): the management ceiling held between 600 and 900 mV. The ACTION that PHC_AUTH_LOG shows is a free
value (log entry 50). -/
def execCeil (pecOk : Bool) (mv : BitVec 16) (reason : Byte) (exp : BitVec 16) (check : Byte) (s : State) :
    Host.Outcome State Fault Refusal := onCtl s (fun c =>
  c.mgmtCall pecOk 0x10 (toBytes 2 mv.toNat ++ [reason] ++ toBytes 2 exp.toNat ++ [check]) (fun c =>
    if 2 < reason.toNat then c.mgmtRefuse 0x0400 stBadArg
    else c.mgmtCheck 0x0400 (check.getLsbD 0) exp.toNat (fun c =>
      let hold := if reason.toNat = 0 then c.get F.phcCeilAuthHold else 1
      let (c, x) := (c.ceilSet (clampN 600 900 mv.toNat) hold reason.toNat).freeWord
      c.mgmtApplied 0x0400 (x.toNat % 128) reason.toNat)))

/-- HOLD_OFF of stand n (R425): none where it is refused. A test on the stand ends with it, and a rotation that names it is
abandoned. A stand that reads OFF stays so; one that reads ENTERING, LEAVING or
FAILED is refused (DESIGN CHOICE, log entry 51). -/
def Ctl.holdOff (c : Ctl) (n : Nat) : Option Ctl :=
  match c.get (F.stdStateState n) with
  | 0 => some (c.put F.phcStdHoldStand (setBit (c.get F.phcStdHoldStand) n))
  | 1 =>
    let c := (((c.standPowerOff n true).setStand n 0 0).put F.phcStdHoldStand (setBit (c.get F.phcStdHoldStand) n)).rotFail n 1
    let p := c.pwr
    some ({ c with pwr := { p with routine := mset 0 p.routine n 0, routineOk := mset false p.routineOk n false,
                                   bistOn := if p.bistOn = some n then none else p.bistOn } }).rotRegs
  | 3 => if (List.range 17).any (fun i => i != n && c.get (F.stdStateState i) == 1) then
      some (({ c with pwr := { c.pwr with holdPend := if c.pwr.holdPend.contains n then c.pwr.holdPend else c.pwr.holdPend ++ [n] } }).rotRegs)
    else none
  | _ => none

/-- RELEASE of stand n (R300, R425): it powers up, and its routine self-test follows (STAND_POWER_UP); not while the trip holds
every stand off (R423). -/
def Ctl.standRelease (c : Ctl) (n : Nat) : Ctl :=
  let c := { c with pwr := { c.pwr with holdPend := c.pwr.holdPend.filter (· != n) } }
  if !tbit (c.get F.phcStdHoldStand) n then c
  else
    let c := c.put F.phcStdHoldStand (clrBit (c.get F.phcStdHoldStand) n)
    let off := mget 0 c.pwr.standOff n
    if c.on F.phcThermStatusTrip ∨ c.get (F.stdStateState n) ≠ 0 then c
    else
      let up := if off = 1 then 3 else if off = 2 then 4 else off
      { c with pwr := { c.pwr with relPend := if c.pwr.relPend.contains n then c.pwr.relPend else c.pwr.relPend ++ [n]
                                   standOff := mset 0 c.pwr.standOff n up } }

/-- Action 1 of a unit of Table 9.10: HOLD_OFF of a stand, CLOSE of a Shutter; the change, the refusal's status otherwise. A CLOSE
of a closed Shutter is no closing: CAUSE stays. -/
def Ctl.unitAct1 (c : Ctl) (u reason : Nat) : Ctl ⊕ Nat :=
  let i := u % 256
  match u / 256 with
  | 1 => if 17 ≤ i then .inr stBadArg else match c.holdOff i with
    | some c => .inl c
    | none => .inr stBusyRaster
  | 3 => if 2 ≤ i then .inr stBadArg else
      .inl (c.shutSet i 1 (if reason = 0 then c.get (F.phcShutHold i) else 1)
        (if c.on (F.phcShutClosed i) then c.get (F.phcShutCause i) else 1) reason)
  | _ => .inr stBadArg

/-- Action 2, RELEASE (R300, R423): a Shutter that the trip holds is refused. -/
def Ctl.unitAct2 (c : Ctl) (u : Nat) : Ctl ⊕ Nat :=
  let i := u % 256
  match u / 256 with
  | 1 => if 17 ≤ i then .inr stBadArg else .inl (c.standRelease i)
  | 3 => if 2 ≤ i then .inr stBadArg
      else if c.on (F.phcThermStatusTrip) && c.get (F.phcShutCause i) == 2 then .inr stRevoked
      else .inl (c.shutSet i (c.get (F.phcShutClosed i)) 0 (c.get (F.phcShutCause i)) (c.get (F.phcShutReason i)))
  | 4 => if i ≠ 0 then .inr stBadArg else .inl (c.ceilSet 900 0 (c.get F.phcCeilAuthReason))
  | _ => .inr stBadArg

/-- Whether Table 9.10 has an action for a unit. -/
def hasAct (u act : Nat) : Bool :=
  (act == 1 || act == 2) && ((u / 256 == 1 && decide (u % 256 < 17)) || (u / 256 == 3 && decide (u % 256 < 2)) || (act == 2 && u == 0x0400))

/-- A UNIT_REQ (R297 … R301). A REASON above 2 is BAD_ARG (DESIGN CHOICE, log entry 51). -/
def Ctl.unitReq (c : Ctl) (pecOk : Bool) (u act : Nat) (check : Bool) (reason exp : Nat) : Ctl :=
  c.mgmtCall pecOk 0x21 (toBytes 2 u ++ [byteOf (act + 128 * bit check), byteOf reason] ++ toBytes 2 exp) (fun c =>
    if !hasAct u act || decide (2 < reason) then c.mgmtRefuse u stBadArg
    else c.mgmtCheck u check exp (fun c =>
      match (if act = 1 then c.unitAct1 u reason else c.unitAct2 u) with
      | .inl c => c.mgmtApplied u act reason
      | .inr st => c.mgmtRefuse u st))

/-- UNIT_REQ_HOLD_OFF (R425): ACTION 1 of a stand; the row carries ACTION, since one that Table 9.10 does not have is BAD_ARG
(R295). -/
def execUnitReqHoldOff (pecOk : Bool) (unit : BitVec 16) (action : BitVec 7) (check : Bool) (reason : Byte) (exp : BitVec 16) (s : State) :
    Host.Outcome State Fault Refusal := onCtl s (fun c => c.unitReq pecOk unit.toNat action.toNat check reason.toNat exp.toNat)

/-- UNIT_REQ_CLOSE (R299): ACTION 1 of a Shutter. -/
def execUnitReqClose (pecOk : Bool) (unit : BitVec 16) (check : Bool) (reason : Byte) (exp : BitVec 16) (s : State) :
    Host.Outcome State Fault Refusal := onCtl s (fun c => c.unitReq pecOk unit.toNat 1 check reason.toNat exp.toNat)

/-- UNIT_REQ_RELEASE (R300): ACTION 2. -/
def execUnitReqRelease (pecOk : Bool) (unit : BitVec 16) (check : Bool) (reason : Byte) (exp : BitVec 16) (s : State) :
    Host.Outcome State Fault Refusal := onCtl s (fun c => c.unitReq pecOk unit.toNat 2 check reason.toNat exp.toNat)

end Sys2Proof.Machine
end

