-- ==== Sys2Proof/Machine/Warden.lean ====
section
/-! DEFINITION. The Warden command set (10_warden_commands.md): how a mailbox is taken and answered, and every command of
firmware release 3.4. -/

namespace Sys2Proof.Machine

/-! Commands, their objects and defined bits (Table 10.2, Table 10.7). -/

/-- OPCODE of a request. -/
def reqOp (ws : List Word) : Nat := fieldGet (nth 0 ws 0) 0 16
/-- ARGi of a request. -/
def reqArg (ws : List Word) (i : Nat) : Word := nth 0 ws (2 + i)

/-- Every bit of a word. -/
abbrev allW : Word := 0xFFFFFFFF

/-- The defined bits of ARG0 … of a command, given its arguments; none for an OPCODE not in Table 10.7. -/
def argMasks (ws : List Word) : Option (List Word) :=
  match reqOp ws with
  | 0x0001 => some []
  | 0x0002 => some [allW, allW, allW]
  | 0x0003 => some []
  | 0x0101 => some [0x3F1F]
  | 0x0102 => some [0x1F]
  | 0x0103 => some [0x1F]
  | 0x0104 => some [0x301]
  | 0x0105 => some [0x1FF1F]
  | 0x0106 => some [0x31F]
  | 0x0201 => some [allW, allW, allW]
  | 0x0202 => some []
  | 0x0203 => some [1]
  | 0x0204 => some [1]
  | 0x0301 => some [0x3FF, allW, if (reqArg ws 0).getLsbD 8 then allW else 0]
  | 0x0302 => some [0xFF]
  | 0x0303 => some [0x3F]
  | 0x0304 => some [0x107FF, 0x1FFF1FFF, 0x1FFF1FFF, allW, 0x3FFF]
  | 0x0401 => some [3, if fieldGet (reqArg ws 0) 0 2 = 3 then 0x7F7F7F7F else 0]
  | 0x0402 => some []
  | 0x0501 => some [0xFFF, 0x03FF03FF]
  | 0x0502 => some []
  | 0x0503 => some [0x11F]
  | 0x0601 => some [0x3F3F, allW, allW]
  | 0x0602 => some [0x3F3F, allW, allW, allW]
  | 0x0603 => some []
  | 0x0701 => some [0xFFFF00FF]
  | 0x0702 => some [0x1F]
  | 0x0703 => some [0xFFFF]
  | 0x0801 => some [3]
  | 0x0802 => some []
  | 0x0803 => some []
  | 0x0901 => some [allW, allW, allW, 1]
  | 0x0A01 => some [allW, allW, allW]
  | 0x0A02 => some [3]
  | _ => none

/-- Whether every undefined bit of a request is zero (R307). -/
def reqDefined (ws : List Word) (masks : List Word) : Bool :=
  (nth 0 ws 0) &&& 0xFE000000 == 0 && (nth 0 ws 1) &&& 0xFFFF0000 == 0 &&
    (List.range 14).all (fun i => reqArg ws i &&& ~~~(nth 0 masks i) == 0)

/-- The object of a command, 0 where it has none or, for HANDLE_ALLOC, where it is not known before (Table 10.7). -/
def reqObj (ws : List Word) : Nat :=
  let a := reqArg ws 0
  match reqOp ws with
  | 0x0002 => 0x0900
  | 0x0003 => 0x0900
  | 0x0101 => 0x0200 + fieldGet a 0 5
  | 0x0102 => 0x0200 + fieldGet a 0 5
  | 0x0103 => 0x0200 + fieldGet a 0 5
  | 0x0104 => 0x0300 + fieldGet a 0 1
  | 0x0105 => 0x0200 + fieldGet a 0 5
  | 0x0106 => 0x0200 + fieldGet a 0 5
  | 0x0201 => 0x0700
  | 0x0202 => 0x0700
  | 0x0203 => 0x0700
  | 0x0204 => 0x0700
  | 0x0302 => 0x0600 + fieldGet a 0 8
  | 0x0303 => 0x0A00 + fieldGet a 0 6
  | 0x0304 => 0x0700
  | 0x0401 => 0x0B00
  | 0x0402 => 0x0B00
  | 0x0501 => 0x0C00
  | 0x0502 => 0x0C00
  | 0x0503 => 0x0200 + fieldGet a 0 5
  | 0x0601 => 0x0800
  | 0x0602 => 0x0800
  | 0x0603 => 0x0800
  | 0x0701 => fieldGet a 16 16
  | 0x0702 => 0x0100 + fieldGet a 0 5
  | 0x0703 => 0x0E00
  | 0x0801 => 0x0D00
  | 0x0802 => 0x0D00
  | 0x0803 => 0x0D00
  | _ => 0

/-- Whether a code names an object with an epoch. -/
def hasEpoch (o : Nat) : Bool := decide (0x0100 ≤ o ∧ o < 0x0F00)

/-- The commands of recovery mode (R318). -/
def recoveryOps : List Nat := [0x0001, 0x0002, 0x0003, 0x0601, 0x0603, 0x0A01]

/-- The commands a secondary refuses (R379, R315); IMAGE_LOAD in mirror mode only. -/
def Ctl.secRefuses (c : Ctl) (op : Nat) : Bool :=
  c.isSecondary && ([0x0101, 0x0102, 0x0103, 0x0104, 0x0105, 0x0106, 0x0202, 0x0203, 0x0204].contains op || (op == 0x0201 && c.mode == 1))

/-! Taking and completing (R303, R306, R310, R311). -/

/-- MAILBOX_TAKE (R306, R308, R310, R318): the mailbox whose doorbell came first; an OPCODE not in Table 10.7 is answered at
once. -/
def Ctl.mailboxTake (c : Ctl) (m : Nat) : Ctl :=
  if !(c.running && c.get F.wktFwFwstate != 0 && c.host.doorbells.head? == some m) then c
  else
    let ws := (List.range 16).map (fun i => c.rd (R.wktReq m i))
    let c := (c.put (F.wktStateState m) 2).put (F.wktStateSeq m) (fieldGet (nth 0 ws 0) 16 8)
    let h := c.host
    let c := { c with host := { h with doorbells := h.doorbells.tail, bellTail := min h.bellTail h.doorbells.tail.length, taken := mset none h.taken m (some ⟨ws, none, false⟩),
                                       takeOrder := h.takeOrder ++ [m] } }
    if (argMasks ws).isNone then c.answer m stBadArg 1 0 [] else c

/-- MAILBOX_TAKE (R310). -/
def execMailboxTake (m : Fin 16) (s : State) : Host.Outcome State Fault Refusal := onCtl s (fun c => c.mailboxTake m.val)

/-- Whether the completion of a taken command still waits for the partner: a primary's IMAGE_LOAD in mirror mode completes once
both parts hold the image (R383). -/
def Ctl.fwdPending (c : Ctl) (ws : List Word) : Bool :=
  reqOp ws == 0x0201 && c.mode == 1 && c.isPrimary && c.linkIsUp 0 && ((c.port 0).txq.any (fun f => f.type == 9) || (c.port 0).unacked.any (fun p => p.2.type == 9))

/-- COMMAND_COMPLETE (R303, R306, R307): the 16 response words, then DONE, then the vector. -/
def Ctl.commandComplete (c : Ctl) (m : Nat) : Ctl :=
  match c.taken m with
  | some ⟨ws, some (st, detail, epoch, res), _⟩ =>
    if !c.running || c.fwdPending ws then c
    else
      let w0 := (nth 0 ws 0 &&& 0x00FFFFFF) ||| w32 (2 ^ 24 * st)
      let rsp := w0 :: w32 (epoch % 65536 + 65536 * detail) :: (List.range 14).map (fun i => nth 0 res i)
      let c := (List.range 16).foldl (fun c i => c.wr (R.wktRsp m i) (nth 0 rsp i)) c
      let c := c.put (F.wktStateState m) 3
      let h := c.host
      let c := { c with host := { h with taken := mset none h.taken m none, takeOrder := h.takeOrder.filter (· != m) } }
      if c.on (F.wktCtrlIrqEn m) then c.msix m else c
  | _ => c

/-- COMMAND_COMPLETE (R306). -/
def execCommandComplete (m : Fin 16) (s : State) : Host.Outcome State Fault Refusal := onCtl s (fun c => c.commandComplete m.val)

/-- The object of a command that a mailbox has had taken: of a HANDLE_ALLOC, once it is answered, the entry it names (Table 10.7). -/
def Taken.obj (t : Taken) : Nat :=
  match reqOp t.words, t.answer with
  | 0x0301, some (st, _, _, r) => if st = stOk then 0x0600 + fieldGet (nth 0 r 0) 0 8 else 0
  | _, _ => reqObj t.words

/-- Whether no command taken before that of mailbox m is left on an object (R311). -/
def Ctl.objFree (c : Ctl) (m o : Nat) : Bool :=
  o == 0 || (c.host.takeOrder.takeWhile (· != m)).all (fun x => match c.taken x with
    | some u => u.obj != o
    | none => true)

/-- Whether the command that mailbox m has had taken may start (R311): it has not, and no command taken before it on the same
object is left. -/
def Ctl.mayStart (c : Ctl) (m : Nat) (t : Taken) : Bool :=
  !t.started && t.answer.isNone && c.objFree m (reqObj t.words)

/-- An answer with the present EPOCH of an object. -/
def Ctl.reply (c : Ctl) (m obj st detail : Nat) (res : List Word) : Ctl := c.answer m st detail (c.epochOf obj) res

/-- An answer with the present EPOCH of an object, in a work area. -/
def W.reply (w : W) (m obj st detail : Nat) (res : List Word) : W := w.on (fun c => c.reply m obj st detail res)

/-- A command of an OPCODE starts from mailbox m (R308, R309, R311, R318, R379): the checks every command shares, in this order:
recovery, undefined bits, the command's own check before the epoch (a pair of status and detail), the epoch, the secondary's
refusals; then its effect on the request's words and object. -/
def W.command (w : W) (m op : Nat) (pre : Ctl → List Word → Option (Nat × Nat)) (f : W → List Word → Nat → W) : W :=
  match w.ctl.taken m with
  | none => w
  | some t =>
    let c := w.ctl
    let ws := t.words
    let obj := reqObj ws
    if !(c.running && c.get F.wktFwFwstate != 0 && reqOp ws == op && c.mayStart m t) then w
    else
      let w := w.on (fun c => { c with host := { c.host with taken := mset none c.host.taken m (some { t with started := true }) } })
      let exp := fieldGet (nth 0 ws 1) 0 16
      if c.get F.wktFwFwstate = 2 ∧ !recoveryOps.contains op then w.reply m obj stAuthFail 3 []
      else if !reqDefined ws ((argMasks ws).getD []) then w.reply m obj stBadArg 2 []
      else match pre c ws with
      | some (st, d) => w.reply m obj st d []
      | none =>
        if (nth 0 ws 0).getLsbD 24 ∧ hasEpoch obj ∧ exp ≠ c.epochOf obj then
          (w.on (fun c => c.epochStale obj exp 0)).reply m obj stRevoked 1 []
        else if c.secRefuses op then w.reply m obj stBadArg 8 []
        else f w ws obj

/-- No check before the epoch. -/
def noPre (_ : Ctl) (_ : List Word) : Option (Nat × Nat) := none

/-- A stream context within 0 … 23. -/
def preCtx (_ : Ctl) (ws : List Word) : Option (Nat × Nat) := if fieldGet (reqArg ws 0) 0 5 < 24 then none else some (stBadArg, 3)

/-- The host address of ARGi, ARGi+1. -/
def hostAddr (ws : List Word) (i : Nat) : Nat := (reqArg ws i).toNat + 2 ^ 32 * (reqArg ws (i + 1)).toNat

/-- Whether the transfer of a command can be made. -/
def Ctl.xferOk (c : Ctl) (linkOk : Bool) : Bool := linkOk && c.host.linkUp

/-! System and firmware group (R316, R317). -/

/-- GET_INFO (Table 10.7). -/
def execGetInfo (m : Fin 16) (s : State) : Host.Outcome State Fault Refusal := onHw s (fun w =>
  w.command m.val 0x0001 noPre (fun w _ o =>
    let c := w.ctl
    let id (im : Option Image) : Word := match im with
      | some x => x.id
      | none => 0
    w.reply m.val o stOk 0 [w32 (fieldGet (c.rd R.wktFw) 0 16), c.rd R.glbIdent,
      w32 (c.get F.wktFwFwstate + 4 * bit c.boot.staged.isSome), id c.img.cur, id c.img.shadow]))

/-- An empty firmware slot: it holds no authentic image. -/
def noFw : FwImage := ⟨[]⟩

/-- The flash slot that did not boot; in recovery the one that is not BOOT_SLOT (R316, R456). -/
def Ctl.otherSlot (c : Ctl) : Nat :=
  if c.get F.wktFwFwstate = 2 then (match pickCfg c.boot.cfg with
    | some b => 1 - bit b.slot
    | none => 1)
  else 1 - c.get F.phcBootStatusSlot

/-- FW_STAGE (R316, R451, R456). -/
def execFwStage (m : Fin 16) (img : FwImage) (linkOk : Bool) (s : State) : Host.Outcome State Fault Refusal := onHw s (fun w =>
  w.command m.val 0x0002 noPre (fun w ws o =>
    let c := w.ctl
    let k := c.otherSlot
    let put (f : FwImage) (st : Option Nat) (w : W) : W := w.on (fun c => c.bootMod (fun b =>
      { b with slots := mset none b.slots k (some f), staged := st }))
    let len := (reqArg ws 2).toNat
    let keep := if c.boot.staged = some k then none else c.boot.staged
    if hostAddr ws 0 % 64 ≠ 0 ∨ 0x00400000 < len then w.reply m.val o stBadArg 3 []
    else if !c.xferOk linkOk then w.reply m.val o stLinkDown 1 []
    else if !FwImage.authentic c.boot.keyDigest img ∨ len < 256 + img.length then (put noFw keep w).reply m.val o stAuthFail 1 []
    else if c.get F.wktFwFwstate = 1 ∧ img.release < fieldGet (c.rd R.wktFw) 0 16 then (put noFw keep w).reply m.val o stAuthFail 2 []
    else ((put img (some k) w).on (fun c => { c with host := { c.host with epFw := c.host.epFw + 1 } })).reply m.val o stOk 0 [w32 img.release]))

/-- The boot configuration with the slot that boots next: the copy not in force takes SEQ + 1 (R449, R317), or is left without a valid
content where a reset tears the write. -/
def Ctl.cfgActivate (c : Ctl) (slot : Nat) (torn : Bool) : List BootCfg :=
  let (c0, c1) := (nth ⟨[]⟩ c.boot.cfg 0, nth ⟨[]⟩ c.boot.cfg 1)
  match pickCfg c.boot.cfg with
  | none => [if torn then ⟨[]⟩ else BootCfg.make 1 slot (c.get F.drcCfgRate + 4 * c.get F.drcCfgDensity) 0, c1]
  | some u =>
    let n := if torn then ⟨[]⟩ else BootCfg.make (u.seq + 1) slot (u.field 0x009 1) (u.field 0x00A 1)
    if BootCfg.valid c0 && decide (c0 = u) then [c0, n] else [n, c1]

/-- FW_ACTIVATE (R317, R449). torn: a reset falls in the write, and no answer comes. -/
def execFwActivate (m : Fin 16) (torn : Bool) (s : State) : Host.Outcome State Fault Refusal := onHw s (fun w =>
  w.command m.val 0x0003 noPre (fun w _ o => match w.ctl.boot.staged with
    | none => w.reply m.val o stBadArg 4 []
    | some k =>
      let rel := ((mget none w.ctl.boot.slots k).getD noFw).release
      if torn then w.on (fun c => c.bootMod (fun b => { b with cfg := c.cfgActivate k true }))
      else (w.on (fun c => { (c.bootMod (fun b => { b with cfg := c.cfgActivate k false })) with host := { c.host with epFw := c.host.epFw + 1 } })).reply
        m.val o stOk 0 [w32 rel]))

/-! Stream group (R319 … R322). -/

/-- Whether a range of Canopy in units of 256 bytes is free of every valid handle. -/
def Ctl.canopyFree (c : Ctl) (base size : Nat) : Bool :=
  (List.range 256).all (fun e => !c.on (F.cnpHtW0Valid e) || c.on (F.cnpHtW0Target e) ||
    decide (base + size ≤ c.get (F.cnpHtW1Base e) ∨ c.get (F.cnpHtW1Base e) + c.get (F.cnpHtW2SizeM1 e) + 1 ≤ base))

/-- The handle entry that firmware takes: a given one where it is free, else the lowest free one (R319, R326; log entry 168). -/
def Ctl.entryPick (c : Ctl) (e : Nat) : Option Nat :=
  if c.on (F.cnpHtW0Valid e) then (List.range 256).find? (fun x => !c.on (F.cnpHtW0Valid x)) else some e

/-- The Canopy place that firmware takes for n units of 256 bytes: a given one where it is free, else the first free one among the start
of Canopy and the ends of the ranges in use (R319, R326; log entry 168). -/
def Ctl.placePick (c : Ctl) (base n : Nat) : Option Nat :=
  let ends := ((List.range 256).filter (fun e => c.on (F.cnpHtW0Valid e) && !c.on (F.cnpHtW0Target e))).map (fun e =>
    c.get (F.cnpHtW1Base e) + c.get (F.cnpHtW2SizeM1 e) + 1)
  (base :: 0 :: ends).find? (fun b => decide ((b + n) * 256 ≤ c.canopySpace) && c.canopyFree b n)

/-- Whether context t has a ring whose semaphores are in use: set up, armed or with RING written (R319). -/
def Ctl.pairHeld (c : Ctl) (t : Nat) : Bool :=
  c.img.setup.contains t || (c.kind t != 2 && (c.on (F.stcCtrlArm t) || tbit (mget 0 c.ports.stcWritten t) 3))

/-- The lowest free even semaphore pair (R319): neither the loaded image nor another context uses it. -/
def Ctl.freePair (c : Ctl) (s : Nat) : Option Nat :=
  let img (x : Nat) : Bool := match c.img.cur with
    | some im => im.sems.any (fun r => r.sem == x) || im.pairs.any (fun p => p.1 == x || p.2 == x)
    | none => false
  ((List.range 128).map (2 * ·)).find? (fun f => !img f && !img (f + 1) &&
    (List.range 24).all (fun t => t == s || !c.pairHeld t || c.get (F.stcRingSem t) / 2 * 2 != f))

/-- A context's ring handle and semaphore pair released. -/
def W.streamFree (w : W) (s : Nat) : W :=
  if !w.ctl.img.setup.contains s then w
  else (w.htFree (w.ctl.get (F.stcRingHandle s))).on (fun c => { c with img := { c.img with setup := c.img.setup.filter (· != s) } })

/-- STREAM_SETUP (R319): CTRL, GEOM and FMT must have been written; handle and base are firmware's choice; a primary mirrors the RING it
writes (R384). -/
def execStreamSetup (m : Fin 16) (handle : Fin 256) (base : Nat) (s : State) : Host.Outcome State Fault Refusal := onHw s (fun w =>
  w.command m.val 0x0101 preCtx (fun w ws o =>
    let x := fieldGet (reqArg ws 0) 0 5
    let d := fieldGet (reqArg ws 0) 8 6
    let c := w.ctl
    let k := c.kind x
    let slot := if k = 1 then c.outSlot x else c.lineSlot x
    let size := d * slot / 256
    if c.on (F.stcCtrlArm x) ∨ k = 2 ∨ mget 0 c.ports.stcWritten x % 8 ≠ 7 then w.reply m.val o stBadArg 4 []
    else if (k = 1 ∧ (d < 10 ∨ 32 < d)) ∨ (k = 0 ∧ d < 8) then w.reply m.val o stBadArg 3 []
    else
      let w' := w.streamFree x
      match (if 1 ≤ size ∧ size ≤ 32768 then w'.ctl.entryPick handle.val else none), w'.ctl.placePick base size, w'.ctl.freePair x with
      | some e, some b, some f =>
        let (w', ok) := w'.htCommit e (htWord true false true false (1 + x)) b size
        if !ok then w.reply m.val o stBadArg 6 []
        else (w'.on (fun c =>
          let c := ((c.put (F.stcRingHandle x) e).put (F.stcRingDepth x) d).put (F.stcRingSem x) f
          let c := { c with img := { c.img with setup := c.img.setup ++ [x] } }
          if c.paired && c.isPrimary then c.hngSend 0 (.state (.regWrite (R.stcRing x) (c.rd (R.stcRing x)))) else c)).reply
            m.val o stOk 0 [w32 (e + 256 * f), w32 slot]
      | _, _, _ => w.reply m.val o stBadArg 6 []))

/-- STREAM_RELEASE (R319). -/
def execStreamRelease (m : Fin 16) (s : State) : Host.Outcome State Fault Refusal := onHw s (fun w =>
  w.command m.val 0x0102 (fun _ ws => if fieldGet (reqArg ws 0) 0 5 < 24 then none else some (stBadArg, 4)) (fun w ws o =>
    let x := fieldGet (reqArg ws 0) 0 5
    if w.ctl.on (F.stcCtrlArm x) ∨ !w.ctl.img.setup.contains x then w.reply m.val o stBadArg 4 []
    else (w.streamFree x).reply m.val o stOk 0 []))

/-- STREAM_QUERY (Table 10.7): of the stream a context belongs to; T, TILE_W, CRIT read 0 while no schedule is in force, Bline
where no output is fed. -/
def execStreamQuery (m : Fin 16) (s : State) : Host.Outcome State Fault Refusal := onHw s (fun w =>
  w.command m.val 0x0103 preCtx (fun w ws o =>
    let c := w.ctl
    let x := fieldGet (reqArg ws 0) 0 5
    let i := if c.kind x = 1 then (c.inOf x).getD x else x
    let bl := match c.outOf i with
      | some out => c.bline out
      | none => if c.kind x = 1 then c.bline x else 0
    let (t, tw, crit) := match c.schedule (c.get (F.stcSchedActModel i)) (c.get (F.stcSchedActBucket i)) with
      | some sc => match (c.vc i).variant with
        | some v => (tvTiles v (c.vc i).hactSel, v.tileW, sc.crit)
        | none => (0, 0, sc.crit)
      | none => (0, 0, 0)
    w.reply m.val o stOk 0 [c.rd (R.stcSched x), w32 (t + 65536 * tw), w32 bl, w32 crit, c.rd (R.stcStatus x)]))

/-- The host's change of a Shutter (R299, R320, R391): the state the driver set is kept; while R391 holds the part, an opening
waits for the hold's end. -/
def Ctl.hostShutter (c : Ctl) (t : Nat) (close : Bool) : Ctl :=
  let c := { c with ras := { c.ras with shutHost := mset false c.ras.shutHost t close } }
  let was := c.on (F.phcShutClosed t)
  let c := if close then (if was then c else c.shutClose t 0) else if c.hng.hold391 then c else c.shutOpen t
  if c.on (F.phcShutClosed t) = was then c else c.alert 3

/-- A management request that reached the PHC in the same arbitration event, which is applied first (R297). -/
def W.mgmtFirst (w : W) (r : Option MgmtReq) : W :=
  match r with
  | some r => w.on (fun c => c.unitReq true r.unit.toNat r.action.toNat r.check r.reason.toNat r.exp.toNat)
  | none => w

/-- SHUTTER_CLOSE (R320): SHUTTER with action 1; an action that is neither 1 nor 2 is out of range. -/
def execShutterClose (m : Fin 16) (mgmt : Option MgmtReq) (s : State) : Host.Outcome State Fault Refusal := onHw s (fun w =>
  let act := match w.ctl.taken m.val with
    | some t => fieldGet (reqArg t.words 0) 8 2
    | none => 0
  if act = 2 then w
  else (w.mgmtFirst mgmt).command m.val 0x0104 noPre (fun w ws o =>
    if fieldGet (reqArg ws 0) 8 2 = 1 then (w.on (fun c => c.hostShutter (fieldGet (reqArg ws 0) 0 1) true)).reply m.val o stOk 0 []
    else w.reply m.val o stBadArg 3 []))

/-- SHUTTER_OPEN (R299, R320): SHUTTER with action 2; a held Shutter stays closed, refused before the epoch is compared. -/
def execShutterOpen (m : Fin 16) (mgmt : Option MgmtReq) (s : State) : Host.Outcome State Fault Refusal := onHw s (fun w =>
  let act := match w.ctl.taken m.val with
    | some t => fieldGet (reqArg t.words 0) 8 2
    | none => 0
  if act ≠ 2 then w
  else (w.mgmtFirst mgmt).command m.val 0x0104 (fun c ws => if c.on (F.phcShutHold (fieldGet (reqArg ws 0) 0 1)) then some (stRevoked, 2) else none)
    (fun w ws o => (w.on (fun c => c.hostShutter (fieldGet (reqArg ws 0) 0 1) false)).reply m.val o stOk 0 []))

/-- Whether an image has a model slot. -/
def imgHasSlot (im : Image) (slot : Nat) : Bool := im.models.any (fun x => x.slot == slot)

/-- SCENE_PLAN (R321): with EN = 0 any running speculation is cancelled. -/
def execScenePlan (m : Fin 16) (s : State) : Host.Outcome State Fault Refusal := onHw s (fun w =>
  w.command m.val 0x0105 preCtx (fun w ws o =>
    let x := fieldGet (reqArg ws 0) 0 5
    let slot := fieldGet (reqArg ws 0) 8 8
    let c := w.ctl
    if c.kind x ≠ 0 then w.reply m.val o stBadArg 3 []
    else if !(reqArg ws 0).getLsbD 16 then
      (w.on (fun c => c.vcMod x (fun v => { v with scenePlan := none }))).specEnd.reply m.val o stOk 0 []
    else match c.img.shadow with
    | none => w.reply m.val o stBadArg 5 []
    | some im =>
      let armed := (List.range 24).all (fun y => !(c.armedAs y 0 && c.kind y == 0) || imgHasSlot im (c.get (F.stcSchedModel y)))
      if !(imgHasSlot im slot && armed) then w.reply m.val o stBadArg 4 []
      else (w.on (fun c => c.vcMod x (fun v => { v with scenePlan := some slot }))).reply m.val o stOk 0 []))

/-- Whether the planned model of the shadow image fits the stream of input context i (R222, R322). -/
def Ctl.planFits (c : Ctl) (im : Image) (i slot : Nat) : Bool :=
  let bucket := c.get (F.stcSchedBucket i)
  match im.models.find? (fun x => x.slot == slot) with
  | none => false
  | some x => (List.range 5).any (fun b => (decide (5 ≤ bucket) || b == bucket) &&
      x.scheds.any (fun sc => sc.bucket == nth 0 bucketLines b && c.schedFits i sc))

/-- The action of a SCENE_DECIDE that mailbox m has had taken. -/
def Ctl.decideAct (c : Ctl) (m : Nat) : Nat := match c.taken m with
  | some t => fieldGet (reqArg t.words 0) 8 2
  | none => 0

/-- SCENE_DECIDE_CONFIRM (R214, R322): the promotion and the MODEL write come at a boundary (MODEL_PROMOTION). A context that is
not planned, or an action that is neither 1 nor 2, is in the wrong state; partnerReady as for IMAGE_PROMOTE (R392). -/
def execSceneDecideConfirm (m : Fin 16) (partnerReady : Bool) (s : State) : Host.Outcome State Fault Refusal := onHw s (fun w =>
  if w.ctl.decideAct m.val = 2 ∨ w.ctl.img.promote.isSome then w
  else w.command m.val 0x0106 noPre (fun w ws o =>
    let x := fieldGet (reqArg ws 0) 0 5
    let c := w.ctl
    match decide (x < 24 ∧ c.decideAct m.val = 1), (c.vc x).scenePlan with
    | true, some slot => match c.img.shadow with
      | none => w.reply m.val o stBadArg 5 []
      | some im =>
        if c.mode = 2 ∧ !partnerReady then w.reply m.val o stBadArg 5 []
        else if !c.planFits im x slot then w.specEnd.reply m.val o stBadArg 9 []
        else w.on (fun c => { c with img := { c.img with promote := some (some m.val, some (x, slot)) } })
    | _, _ => w.reply m.val o stBadArg 4 []))

/-- SCENE_DECIDE_CANCEL (R214, R322). -/
def execSceneDecideCancel (m : Fin 16) (s : State) : Host.Outcome State Fault Refusal := onHw s (fun w =>
  if w.ctl.decideAct m.val ≠ 2 then w
  else w.command m.val 0x0106 noPre (fun w ws o =>
    let x := fieldGet (reqArg ws 0) 0 5
    if w.ctl.fab.specRun.map (·.1) ≠ some x then w.reply m.val o stBadArg 4 []
    else
      let w := w.specEnd
      w.reply m.val o stOk 0 [w.ctl.frameNow]))

/-! Image group (R211, R323 … R325, R383, R392). -/

/-- IMAGE_LOAD (R218, R219, R324, R383, R392). -/
def execImageLoad (m : Fin 16) (img : Image) (linkOk : Bool) (s : State) : Host.Outcome State Fault Refusal := onHw s (fun w =>
  w.command m.val 0x0201 noPre (fun w ws o =>
    let c := w.ctl
    if hostAddr ws 0 % 64 ≠ 0 then w.reply m.val o stBadArg 3 []
    else if !c.xferOk linkOk then w.reply m.val o stLinkDown 1 []
    else if c.mode = 2 ∧ img.id.getLsbD 0 ≠ c.on F.hngPairStatusPairId then w.reply m.val o stBadArg 3 []
    else match c.imgCheck img (reqArg ws 2).toNat with
    | some k => (if k = 6 then w.on (fun c => c.routeReject img c.img.cur.isNone) else w).reply m.val o stBadArg (0x100 + k) []
    | none =>
      let shadow := c.img.cur.isSome
      let w := if shadow then w.specEnd else w
      let w := (w.imageLoad img).on (fun c => if c.mode = 1 ∧ c.isPrimary then c.fwdSend img true else c)
      w.reply m.val o stOk 0 [img.id, w32 (bit shadow)]))

/-- IMAGE_PROMOTE (R211, R392): the promotion comes at a boundary (MODEL_PROMOTION); partnerReady says whether a split partner
holds the matching shadow image. -/
def execImagePromote (m : Fin 16) (partnerReady : Bool) (s : State) : Host.Outcome State Fault Refusal := onHw s (fun w =>
  if w.ctl.img.promote.isSome then w
  else w.command m.val 0x0202 noPre (fun w _ o =>
    if w.ctl.img.shadow.isNone ∨ (w.ctl.mode = 2 ∧ !partnerReady) then w.reply m.val o stBadArg 5 []
    else w.on (fun c => { c with img := { c.img with promote := some (some m.val, none) } })))

/-- IMAGE_DROP (R325): no context with DIR = 0, video or graphics, may be armed when the image in force is dropped. -/
def execImageDrop (m : Fin 16) (s : State) : Host.Outcome State Fault Refusal := onHw s (fun w =>
  w.command m.val 0x0203 noPre (fun w ws o =>
    let c := w.ctl
    let ep (w : W) : W := w.on (fun c => { c with host := { c.host with epImage := c.host.epImage + 1 } })
    if (reqArg ws 0).getLsbD 0 then
      match c.img.cur with
      | none => w.reply m.val o stBadArg 5 []
      | some im =>
        if (List.range 24).any (fun x => c.armedAs x 0) then w.reply m.val o stBadArg 4 []
        else (ep ((w.declFree im).on (fun c => { c with img := { c.img with cur := none } }))).reply m.val o stOk 0 []
    else if c.img.shadow.isNone then w.reply m.val o stBadArg 5 []
    else
      let w := w.specEnd.on (fun c => (List.range 24).foldl (fun c x => c.vcMod x (fun v => { v with scenePlan := none })) c)
      (ep w.dropShadow).reply m.val o stOk 0 []))

/-- IMAGE_INFO (Table 10.7). -/
def execImageInfo (m : Fin 16) (s : State) : Host.Outcome State Fault Refusal := onHw s (fun w =>
  w.command m.val 0x0204 noPre (fun w ws o =>
    match (if (reqArg ws 0).getLsbD 0 then w.ctl.img.shadow else w.ctl.img.cur) with
    | none => w.reply m.val o stBadArg 5 []
    | some im => w.reply m.val o stOk 0 [im.id, w32 (im.codeSz + 256 * im.resSz + 65536 * im.lcbMin + 16777216 * im.part),
        w32 ((List.range 32).foldl (fun x k => if imgHasSlot im k then x + 2 ^ k else x) 0)]))

/-- Whether an output frame boundary is now; while no output is enabled, any moment counts as one. -/
def Ctl.boundaryNow (c : Ctl) : Bool := !c.anyOut || c.outputs.any (fun o => (c.vc o).lastB == c.now)

/-- The promotion that waits is done and answered (R211, R214, R322): the shadow image is promoted, a running speculation confirmed for a
confirmed scene, and its MODEL written; a refused route or ring leaves the rest as it was. -/
def W.promotionDue (w : W) : W :=
  match w.ctl.img.promote with
  | none => w
  | some (_, sel) =>
    let c := w.ctl
    match c.img.shadow.map (fun im => im.pools.all (poolOk im) && im.rings.all (ringOk im)), w.promote (sel.isSome && c.specOn) with
    | some true, some w' =>
      let w' := match sel with
        | some (x, slot) => (w'.on (fun c => c.put (F.stcSchedModel x) slot)).chooseAtChange x
        | none => w'
      w'.on (fun c => c.promoteEnd stOk 0 [c.frameNow])
    | ok, _ =>
      w.on (fun c => match ok, c.img.shadow with
        | some true, some im => (c.routeReject im true).promoteEnd stBadArg 0x106 []
        | _, _ => c.promoteEnd stBadArg 0x107 [])

/-- What a primary tells its partner of a promotion at the boundary of a frame (R383, R384, R392; DESIGN CHOICE, log entry 165). -/
def Ctl.promotionSend (c : Ctl) (f : Word) : Ctl :=
  let c := c.hngSend 0 (.state (.specConfirm f))
  match c.img.promote with
  | some (_, some (x, slot)) => if x < 24 then c.hngSend 0 (.state (.model (Fin.ofNat 24 x) slot)) else c
  | _ => c

/-- MODEL_PROMOTION (R211, R214, R322, R383, R392): at an output frame boundary, once the present image's tasks of the last frame are over
and the next image's constants are loaded, the waiting promotion is done; a primary of a pair names the next boundary for both parts
(log entry 165), where OUTPUT_FRAME_BOUNDARY does it. -/
def W.modelPromotion (w : W) : W :=
  let c := w.ctl
  if !(c.running && c.fwRun && c.streamsQuiet && c.img.prefetched && c.boundaryNow) || c.img.promote.isNone then w
  else if !(c.paired && c.isPrimary) then w.promotionDue
  else if !c.anyOut then (w.on (fun c => c.promotionSend c.frameNow)).promotionDue
  else if c.hng.promAt.isSome then w
  else w.on (fun c => (c.promotionSend (c.frameNow + 1)).hngMod (fun h => { h with promAt := some (c.frameNow + 1) }))

/-- The promotion of a pair at the boundary where frame k starts (R383, R392): the primary's own, the secondary's as it was told; one that
finds tasks of the present image left is not done at this boundary (R211). -/
def W.promoteStep (w : W) (k : Word) : W :=
  match w.ctl.hng.promAt with
  | none => w
  | some f =>
    if k.toNat < f.toNat ∨ !w.ctl.streamsQuiet then w
    else
      let w := w.on (fun c => c.hngMod (fun h => { h with promAt := none }))
      if w.ctl.isPrimary then w.promotionDue else w.mirApply (.specConfirm f)

/-- MODEL_PROMOTION (R211). -/
def execModelPromotion (s : State) : Host.Outcome State Fault Refusal := onHw s W.modelPromotion

/-! Jobs and memory group (R323, R326). -/

/-- Whether a DRAM range in units of 256 bytes is free of valid handles and of the top 512 MiB (R323, R326). -/
def Ctl.dramFree (c : Ctl) (base size : Nat) : Bool :=
  decide ((base + size) * 256 + 0x20000000 ≤ c.dramSize) &&
  (List.range 256).all (fun e => !c.on (F.cnpHtW0Valid e) || !c.on (F.cnpHtW0Target e) ||
    decide (base + size ≤ c.get (F.cnpHtW1Base e) ∨ c.get (F.cnpHtW1Base e) + c.get (F.cnpHtW2SizeM1 e) + 1 ≤ base))

/-- Whether HANDLE_ALLOC must wait: a command taken before it on the entry it takes is left (R311), or a task of the new owner of a DRAM
range is ready (R167). -/
def Ctl.allocWaits (c : Ctl) (m e : Nat) : Bool :=
  match c.taken m with
  | none => false
  | some t =>
    let a := reqArg t.words 0
    (match c.entryPick e with
     | some x => !c.objFree m (0x0600 + x)
     | none => false) ||
    (a.getLsbD 8 && c.fab.queues.any (fun q => match q.2 with
     | t :: _ => t.owner == fieldGet a 0 8 && c.headReady q.1 t
     | [] => false))

/-- HANDLE_ALLOC (R326): the entry, and of a Canopy range the base, are firmware's choice. -/
def execHandleAlloc (m : Fin 16) (handle : Fin 256) (base : Nat) (s : State) : Host.Outcome State Fault Refusal := onHw s (fun w =>
  if w.ctl.allocWaits m.val handle.val then w else
  w.command m.val 0x0301 noPre (fun w ws _ =>
    let c := w.ctl
    let owner := fieldGet (reqArg ws 0) 0 8
    let dram := (reqArg ws 0).getLsbD 8
    let size := (reqArg ws 1).toNat
    let at' := if dram then (reqArg ws 2).toNat else base
    let exp := fieldGet (nth 0 ws 1) 0 16
    if owner < 0x40 ∨ 0x80 < owner ∨ size < 1 ∨ 32768 < size ∨ (owner = 0x80 ∧ dram) ∨ (dram ∧ !c.dramFree at' size) then
      w.reply m.val 0 stBadArg 3 []
    else match c.entryPick handle.val, (if dram then some at' else c.placePick at' size) with
    | some e, some b =>
      if (nth 0 ws 0).getLsbD 24 ∧ exp ≠ c.epochOf (0x0600 + e) then
        (w.on (fun c => c.epochStale (0x0600 + e) exp 0)).reply m.val (0x0600 + e) stRevoked 1 []
      else
        let (w', ok) := w.htCommit e (htWord true dram ((reqArg ws 0).getLsbD 9) false owner) b size
        if ok then w'.reply m.val (0x0600 + e) stOk 0 [w32 e, w32 b] else w.reply m.val 0 stBadArg 6 []
    | _, _ => w.reply m.val 0 stBadArg 6 []))

/-- HANDLE_FREE (R173, R326): an entry that is not VALID is judged before the epoch. -/
def execHandleFree (m : Fin 16) (s : State) : Host.Outcome State Fault Refusal := onHw s (fun w =>
  w.command m.val 0x0302 (fun c ws => if c.on (F.cnpHtW0Valid (fieldGet (reqArg ws 0) 0 8)) then none else some (stRevoked, 3)) (fun w ws o =>
    let e := fieldGet (reqArg ws 0) 0 8
    let owner := w.ctl.get (F.cnpHtW0Owner e)
    if owner < 0x40 ∨ 0x80 < owner then w.reply m.val o stNotOwner 1 []
    else (w.htFree e).reply m.val o stOk 0 []))

/-- JOB_CANCEL (R233, R326). -/
def execJobCancel (m : Fin 16) (s : State) : Host.Outcome State Fault Refusal := onHw s (fun w =>
  w.command m.val 0x0303 noPre (fun w ws o =>
    let j := fieldGet (reqArg ws 0) 0 6
    if (w.ctl.job j).isNone then w.reply m.val o stBadArg 4 []
    else (w.on (fun c => c.jobCancel j false)).reply m.val o stOk 0 []))

/-- SCHED_FIT (R221 … R223, R228): the choice for a shape, nothing changed. -/
def execSchedFit (m : Fin 16) (s : State) : Host.Outcome State Fault Refusal := onHw s (fun w =>
  w.command m.val 0x0304 noPre (fun w ws o =>
    let a := reqArg ws 0
    let bucket := fieldGet a 8 3
    let vin := fieldGet (reqArg ws 1) 16 13
    let hout := fieldGet (reqArg ws 2) 0 13
    let rate := (reqArg ws 3).toNat * fieldGet (reqArg ws 4) 0 14
    match (if a.getLsbD 16 then w.ctl.img.shadow else w.ctl.img.cur) with
    | none => w.reply m.val o stBadArg 5 []
    | some im => match im.models.find? (fun x => x.slot == fieldGet a 0 8), decide (0 < rate) with
      | some x, true =>
        let bl := 620000000000 / rate
        let pick (b : Nat) : Option (Nat × Schedule × TileVariant) :=
          match x.scheds.find? (fun sc => sc.bucket == nth 0 bucketLines b && decide (vin ≤ sc.bucket) && fitsMode sc bl hout) with
          | some sc => (schedVariant sc hout).map (fun v => (b, sc, v))
          | none => none
        let got := if 5 ≤ bucket then (List.range 5).findSome? pick else pick bucket
        (match got with
        | some (b, sc, v) => w.reply m.val o stOk 0 [w32 b, w32 bl, w32 sc.crit, w32 (tvTiles v hout + 65536 * v.tileW)]
        | none => w.reply m.val o stOk 0 [7, w32 bl, 0, 0])
      | _, _ => w.reply m.val o stBadArg 3 []))

/-! Mode, power and telemetry groups. -/

/-- Whether an output is enabled or a context armed (BUSY_RASTER 0x0001). -/
def Ctl.rasterBusy (c : Ctl) : Bool := c.anyOut || (List.range 24).any (fun s => c.on (F.stcCtrlArm s))

/-- The topology epoch raised. -/
def W.topo (w : W) : W := w.on (fun c => { c with host := { c.host with epTopo := c.host.epTopo + 1 } })

/-- The link of a split pair comes UP within MODE_SET (R373, R375, R377): both ports train and send their identity records, the partner's
is judged, and roles are arbitrated; none where the records do not match. -/
def Ctl.splitUp (c : Ctl) (r : IdentRec) : Option Ctl :=
  let c := [0, 1].foldl (fun c n => ((c.portState n 1 0).portMod n (fun p => { p with identSent := true })).hngEmit n (.train c.ownIdent)) c
  if !c.identOk 0 r then none
  else some (([0, 1].foldl (fun c n => c.portState n 2 0) c).linkUpEv 0 r)

/-- MODE_SET (R250, R373, R375, R391, R397): partner is the identity record of a split partner whose link came UP within 200 ms; without one
that matches the part stays in its mode. An entry of the image's link tensors that may not be bound fails the command (log entry
159). -/
def execModeSet (m : Fin 16) (partner : Option IdentRec) (s : State) : Host.Outcome State Fault Refusal := onHw s (fun w =>
  w.command m.val 0x0401 noPre (fun w ws o =>
    let mode := fieldGet (reqArg ws 0) 0 2
    let g := reqArg ws 1
    if w.ctl.rasterBusy then w.reply m.val o stBusyRaster 1 []
    else if mode = 3 ∧ (fieldGet g 0 7 < fieldGet g 16 7 ∨ fieldGet g 8 7 < fieldGet g 24 7) then w.reply m.val o stBadArg 3 []
    else if !w.ctl.lcEntriesOk mode then w.reply m.val o stBadArg 3 []
    else
      let c := (w.ctl.modeSet mode g).lcStart mode
      match (if mode = 2 then partner.bind c.splitUp else some c) with
      | none => w.reply m.val o stLinkDown 2 []
      | some c => ((w.on (fun _ => c)).topo).reply m.val o stOk 0 []))

/-- STANDBY (R357): Glade keeps its state; the board may then remove every rail but VGLADE. -/
def execStandby (m : Fin 16) (s : State) : Host.Outcome State Fault Refusal := onHw s (fun w =>
  w.command m.val 0x0402 noPre (fun w _ o =>
    if w.ctl.rasterBusy then w.reply m.val o stBusyRaster 1 [] else w.topo.reply m.val o stOk 0 []))

/-- POWER_TARGET: both bounds in one change, and the package limit (R79, R411). -/
def execPowerTarget (m : Fin 16) (s : State) : Host.Outcome State Fault Refusal := onHw s (fun w =>
  w.command m.val 0x0501 noPre (fun w ws o =>
    let lim := fieldGet (reqArg ws 0) 0 12
    let (lo, hi) := (fieldGet (reqArg ws 1) 0 10, fieldGet (reqArg ws 1) 16 10)
    if lim < 100 ∨ 400 < lim ∨ lo < 600 ∨ 900 < lo ∨ hi < 600 ∨ 900 < hi then w.reply m.val o stBadArg 3 []
    else (w.on (fun c =>
      let c := (((c.put F.phcPkgLimit lim).put F.phcGovFloorHostMv lo).put F.phcGovCeilHostMv hi).govBounds
      { c with host := { c.host with epPower := c.host.epPower + 1 } })).reply m.val o stOk 0 []))

/-- POWER_GET (Table 10.7). -/
def execPowerGet (m : Fin 16) (s : State) : Host.Outcome State Fault Refusal := onHw s (fun w =>
  w.command m.val 0x0502 noPre (fun w _ o =>
    let c := w.ctl
    w.reply m.val o stOk 0 [w32 (c.get F.phcPkgLimit), c.rd R.phcGovFloor, c.rd R.phcGovCeil, c.rd R.phcGovStatus, w32 (c.get F.phcPkgPower)]))

/-- ENERGY_CFG (R416). -/
def execEnergyCfg (m : Fin 16) (s : State) : Host.Outcome State Fault Refusal := onHw s (fun w =>
  w.command m.val 0x0503 preCtx (fun w ws o =>
    (w.on (fun c => c.vcMod (fieldGet (reqArg ws 0) 0 5) (fun v => { v with energyOn := (reqArg ws 0).getLsbD 8 }))).reply m.val o stOk 0 []))

/-! Calibration group (R327, R328, R460). -/

/-- STORE_CRC: over all 262 144 bytes. -/
def Ctl.storeCrc (c : Ctl) : Word := crc32 (c.calBytes 0 262144)

/-- CAL_READ (R327, R328). -/
def execCalRead (m : Fin 16) (linkOk : Bool) (s : State) : Host.Outcome State Fault Refusal := onHw s (fun w =>
  w.command m.val 0x0601 noPre (fun w ws o =>
    let c := w.ctl
    let (p, n) := (fieldGet (reqArg ws 0) 0 6, fieldGet (reqArg ws 0) 8 6 + 1)
    if 64 < p + n ∨ hostAddr ws 1 % 64 ≠ 0 then w.reply m.val o stBadArg 3 []
    else if !c.xferOk linkOk then w.reply m.val o stLinkDown 1 []
    else
      let bs := c.calBytes (4096 * p) (4096 * n)
      (w.on (fun c => (c.emit (.hostBytes (hostAddr ws 1) bs)).bootMod (fun b => { b with archived := b.archived || n == 64 }))).reply
        m.val o stOk 0 [crc32 bs, c.storeCrc]))

/-- A page of 4096 bytes put into the calibration store. -/
def Ctl.calPut (c : Ctl) (p : Nat) (bs : List Byte) : Ctl :=
  c.bootMod (fun b => { b with cal := (List.range 4096).foldl (fun t i => mset 0 t (4096 * p + i) (nth 0 bs i)) b.cal })

/-- Page 0 with FACTORY 0 and its CRC anew (R460). -/
def factoryOff (bs : List Byte) : List Byte :=
  let body := (List.range 4092).map (fun i => if i = 6 then 0 else nth 0 bs i)
  body ++ toBytes 4 (crc32 body).toNat

/-- What CAL_WRITE programs from page p on, in order: page 0 first with FACTORY 0, then the range (R460). -/
def Ctl.calPlan (c : Ctl) (p n : Nat) (pages : List (List Byte)) : List (Nat × List Byte) :=
  (0, factoryOff (if p = 0 then nth [] pages 0 else c.calBytes 0 4096)) ::
    ((List.range n).filter (fun i => p + i != 0)).map (fun i => (p + i, nth [] pages i))

/-- Pages programmed in order. -/
def Ctl.calProgram (c : Ctl) (l : List (Nat × List Byte)) : Ctl := l.foldl (fun c x => c.calPut x.1 x.2) c

/-- A page that a reset left half programmed: it is bad, whatever it holds (R460; log entry 77). -/
def Ctl.calTear (c : Ctl) (p : Nat) : Ctl :=
  let body := (List.range 4092).map (Config.tornByte c.free)
  ({ c with free := c.free + 1 }).calPut p (body ++ toBytes 4 ((crc32 body).toNat ^^^ 1))

/-- CAL_WRITE (R327, R328, R460). torn: a reset falls in the programming of that page of the plan, and no answer comes. -/
def execCalWrite (m : Fin 16) (pages : List (List Byte)) (linkOk : Bool) (torn : Option Nat) (s : State) : Host.Outcome State Fault Refusal := onHw s (fun w =>
  w.command m.val 0x0602 noPre (fun w ws o =>
    let c := w.ctl
    let (p, n) := (fieldGet (reqArg ws 0) 0 6, fieldGet (reqArg ws 0) 8 6 + 1)
    if 64 < p + n ∨ hostAddr ws 1 % 64 ≠ 0 then w.reply m.val o stBadArg 3 []
    else if !c.boot.archived ∨ reqArg ws 3 ≠ c.storeCrc then w.reply m.val o stBadArg 7 []
    else if !c.xferOk linkOk then w.reply m.val o stLinkDown 1 []
    else if p = 0 ∧ !c.calMine (nth [] pages 0) then w.reply m.val o stBadArg 3 []
    else
      let plan := c.calPlan p n pages
      let done := w.on (fun c =>
        let c := c.calProgram plan
        { (c.bootMod (fun b => { b with archived := false })) with host := { c.host with epCal := c.host.epCal + 1 } })
      match torn with
      | none => done.reply m.val o stOk 0 [done.ctl.storeCrc]
      | some k => match plan[k]? with
        | none => done.reply m.val o stOk 0 [done.ctl.storeCrc]
        | some x => w.on (fun c => (c.calProgram (plan.take k)).calTear x.1)))

/-- CAL_INFO (Table 10.7): FACTORY reads 0 where a page was found bad at boot (R459). -/
def execCalInfo (m : Fin 16) (s : State) : Host.Outcome State Fault Refusal := onHw s (fun w =>
  w.command m.val 0x0603 noPre (fun w _ o =>
    let c := w.ctl
    let bad := (List.range 6).any c.pageBad
    w.reply m.val o stOk 0 [c.storeCrc, w32 (bit (c.calByte 6 == 1 && !bad) + 2 * bit c.boot.archived)]))

/-! Self-test group (R329, R496). -/

/-- Whether a target is of the kind a test names (Table 16.6, Table 16.3); a stand must read neither FAILED nor OFF. -/
def Ctl.bistTargetOk (c : Ctl) (test target : Nat) : Bool :=
  if 1 ≤ test ∧ test ≤ 5 then decide (0x0100 ≤ target ∧ target ≤ 0x0110) && c.get (F.stdStateState (target - 0x0100)) != 5 &&
    c.get (F.stdStateState (target - 0x0100)) != 0
  else if test = 16 then decide (0x4400 ≤ target ∧ target < 0x4440)
  else if test = 17 then decide (0x4500 ≤ target ∧ target < 0x4540)
  else test == 18 && decide (0x0500 ≤ target ∧ target < 0x0504)

/-- BIST_RUN (R329, R496): the test waits for its stand; its result is the answer. -/
def execBistRun (m : Fin 16) (s : State) : Host.Outcome State Fault Refusal := onHw s (fun w =>
  if w.ctl.pwr.bist.isSome then w
  else w.command m.val 0x0701 (fun c ws => if c.bistTargetOk (fieldGet (reqArg ws 0) 0 8) (fieldGet (reqArg ws 0) 16 16) then none
      else some (stBadArg, 3)) (fun w ws o =>
    let c := w.ctl
    let (test, target) := (fieldGet (reqArg ws 0) 0 8, fieldGet (reqArg ws 0) 16 16)
    if test = 18 ∧ c.portUsed (target - 0x0500) then w.reply m.val o stBusyRaster 2 []
    else if (List.range 17).all (fun n => c.get (F.stdStateState n) != 1) then w.reply m.val o stBusyRaster 3 []
    else w.on (fun c => ({ c with pwr := { c.pwr with bist := some (test, target, some m.val) } }).bistStart false)))

/-- BIST_RESULTS (Table 10.7). -/
def execBistResults (m : Fin 16) (s : State) : Host.Outcome State Fault Refusal := onHw s (fun w =>
  w.command m.val 0x0702 (fun _ ws => if fieldGet (reqArg ws 0) 0 5 < 17 then none else some (stBadArg, 3)) (fun w ws o =>
    let (t, ok, _, f) := mget (0, false, 0, 0) w.ctl.pwr.bistLast (fieldGet (reqArg ws 0) 0 5)
    w.reply m.val o stOk 0 [w32 t, w32 (bit ok), f]))

/-- ROTATION_CFG (R426). -/
def execRotationCfg (m : Fin 16) (s : State) : Host.Outcome State Fault Refusal := onHw s (fun w =>
  w.command m.val 0x0703 noPre (fun w ws o =>
    let n := fieldGet (reqArg ws 0) 0 16
    if 0 < n ∧ n < 60 then w.reply m.val o stBadArg 3 []
    else (w.on (fun c => { (c.put F.phcRotCfgInterval (if n = 0 then 3600 else n)).rotRegs with
      host := { c.host with epRot := c.host.epRot + 1 } })).reply m.val o stOk 0 []))

/-! Pair group (R376, R378). -/

/-- A commanded role for both parts (R378): at the first line of the next frame of the shortest output, which the partner is told; at once
where no output runs. -/
def Ctl.roleCommand (c : Ctl) (m role cause : Nat) : Ctl :=
  let at' := if c.anyOut then some (c.frameNow + 1) else none
  let c := c.roleDrop.hngSend 0 (.state (.roleChange (3 - role) cause at'))
  if c.anyOut then c.hngMod (fun h => { h with roleAt := some { role := role, cause := cause, mailbox := some m, frame := at' } })
  else (c.applyRole role cause).reply m 0x0D00 stOk 0 (if cause = 2 then [c.frameNow] else [])

/-- PAIR_ROLE (R376, R378). -/
def execPairRole (m : Fin 16) (linkUp : Bool) (s : State) : Host.Outcome State Fault Refusal := onHw s (fun w =>
  w.command m.val 0x0801 noPre (fun w ws o =>
    let c := w.ctl
    let role := fieldGet (reqArg ws 0) 0 2
    if !c.paired then w.reply m.val o stBadArg 8 []
    else if role ≠ 1 ∧ role ≠ 2 then w.reply m.val o stBadArg 3 []
    else if !(linkUp && c.linkIsUp 0) then w.reply m.val o stLinkDown 2 []
    else if c.get F.hngPairStatusRole = role then w.reply m.val o stOk 0 []
    else w.on (fun c => c.roleCommand m.val role 1)))

/-- PAIR_SWAP (R378): synced is the secondary's SYNC for every enabled output, as the partner tells a primary. -/
def execPairSwap (m : Fin 16) (linkUp answers synced : Bool) (s : State) : Host.Outcome State Fault Refusal := onHw s (fun w =>
  w.command m.val 0x0802 noPre (fun w _ o =>
    let c := w.ctl
    let sync := if c.isSecondary then c.outputs.all (fun s => tbit (c.get F.hngMirSyncSync) s) else synced
    if !c.paired then w.reply m.val o stBadArg 8 []
    else if !(linkUp && c.linkIsUp 0) then w.reply m.val o stLinkDown 2 []
    else if !answers then w.reply m.val o stLinkDown 3 []
    else if !sync then w.reply m.val o stBadArg 8 []
    else w.on (fun c => c.roleCommand m.val (3 - c.get F.hngPairStatusRole) 2)))

/-- PAIR_STATUS (Table 10.7). -/
def execPairStatus (m : Fin 16) (s : State) : Host.Outcome State Fault Refusal := onHw s (fun w =>
  w.command m.val 0x0803 noPre (fun w _ o =>
    let c := w.ctl
    if !c.paired then w.reply m.val o stBadArg 8 []
    else w.reply m.val o stOk 0 [w32 (c.get F.hngPairStatusRole + 4 * c.get F.hngPairStatusPeerRole), w32 (c.get F.hngHbMiss),
      w32 ((List.range 4).foldl (fun x n => if c.get (F.hngStateState n) = 2 then x + 2 ^ n else x) 0)]))

/-! Telemetry and diagnostics (R495, R498). -/

/-- COUNTER_SNAP (R495). -/
def execCounterSnap (m : Fin 16) (linkOk : Bool) (s : State) : Host.Outcome State Fault Refusal := onHw s (fun w =>
  w.command m.val 0x0901 noPre (fun w ws o =>
    if hostAddr ws 0 % 64 ≠ 0 ∨ 2 ^ 13 ≤ (reqArg ws 2).toNat then w.reply m.val o stBadArg 3 []
    else w.on (fun c => c.snapStart m.val linkOk none)))

/-- DBG_SNAPSHOT (R498): the firmware's trace comes with the command. -/
def execDbgSnapshot (m : Fin 16) (trace : List Byte) (linkOk : Bool) (s : State) : Host.Outcome State Fault Refusal := onHw s (fun w =>
  w.command m.val 0x0A01 noPre (fun w ws o =>
    if hostAddr ws 0 % 64 ≠ 0 ∨ (reqArg ws 2).toNat < 0x00100000 then w.reply m.val o stBadArg 3 []
    else w.on (fun c => c.snapStart m.val linkOk (some trace))))

/-- DBG_LOG (Table 10.7). -/
def execDbgLog (m : Fin 16) (s : State) : Host.Outcome State Fault Refusal := onHw s (fun w =>
  w.command m.val 0x0A02 noPre (fun w ws o =>
    (w.on (fun c => { c with diag := { c.diag with uartLevel := fieldGet (reqArg ws 0) 0 2 } })).reply m.val o stOk 0 []))

end Sys2Proof.Machine
end

