-- ==== Sys2Proof/Machine/Raster.lean ====
section
/-! DEFINITION. The raster (01_raster_contract.md) with the slack monitors (R69, R70, R75), and everything the spec places at an
output frame boundary. -/

namespace Sys2Proof.Machine

/-! Lintel (R39 … R44). -/

/-- The tap count of a VTAPS or HTAPS code (Table 1.5). -/
def lintelTaps (code : Nat) : Nat := nth 1 [1, 2, 4, 6] code

/-- The place of a sample within a picture of n, one inside standing in for one outside. -/
def lintelIdx (n : Nat) (i : Int) : Nat := if 0 ≤ i ∧ i < n then i.toNat else Config.lintelEdge n i % n

/-- One direction of the polyphase filter at output place x of nout, over nin input samples: the taps reach taps / 2 samples beyond
the centre (R42: 0, 1, 2 or 3 lines), their coefficients are those of the phase (R41). -/
def lintelFir (taps nin nout x : Nat) (f : Nat → Int) : Int :=
  let centre := x * nin / nout
  (List.range taps).foldl (fun a k =>
    a + Config.lintelCoef taps (x * nin % nout) nout k * f (lintelIdx nin ((centre + k : Nat) - (taps - 1 - taps / 2 : Nat)))) 0

/-- A sample of plane p of Lintel's line store: row r of the plane, which in 4:2:0 chroma is input line 2 × r (R103). -/
def Ctl.lintelSample (c : Ctl) (i p r x : Nat) : Int :=
  let y := if p ≠ 0 ∧ c.get (F.stcFmtSamp i) = 3 then 2 * r else r
  match ((mget [] c.ras.lintelStore i).find? (fun l => l.1 == y)).bind (fun l => (nth [] l.2 p)[x]?) with
  | some v => (v : Nat)
  | none => Config.lintelLost y p x

/-- Plane p of the filtered picture at output line m, column x, with 16 fractional bits: vertical, then horizontal taps (R41). -/
def Ctl.lintelFilter (c : Ctl) (s i p m x : Nat) : Int :=
  let cfg := c.get (F.rasLintelActCfg s)
  let wide := if p = 0 then c.get (F.stcGeomHact i) else c.chromaN i
  let high := if p ≠ 0 ∧ c.get (F.stcFmtSamp i) = 3 then c.get (F.stcGeomVact i) / 2 else c.get (F.stcGeomVact i)
  Config.lintelNarrow (lintelFir (lintelTaps (cfg / 4 % 4)) wide (c.get (F.stcGeomHact s)) x (fun h =>
    lintelFir (lintelTaps (cfg % 4)) high (c.get (F.stcGeomVact s)) m (fun r => c.lintelSample i p r h))) 65536

/-- The 3 × 3 neighbourhood of a place of a picture of output s, row by row. -/
def Ctl.lintelNear (c : Ctl) (s m x : Nat) (f : Nat → Nat → Int) : List Int :=
  [0, 1, 2].flatMap (fun i => [0, 1, 2].map (fun j =>
    f (lintelIdx (c.get (F.stcGeomVact s)) ((m + i : Nat) - 1)) (lintelIdx (c.get (F.stcGeomHact s)) ((x + j : Nat) - 1))))

/-- The unsharp mask at strength SHARP / 16 (R41). -/
def Ctl.lintelSharp (c : Ctl) (s i p m x : Nat) : Int :=
  let f := c.lintelFilter s i p
  let low := (c.lintelNear s m x f).mapIdx (fun k v => Config.lintelBlur (k / 3) (k % 3) * v)
  f m x + Config.lintelNarrow ((c.get (F.rasLintelActCfg s) / 16 % 16 : Nat) * (f m x - Config.lintelNarrow (low.foldl (· + ·) 0) 65536)) 16

/-- The median of nine. -/
def median9 (l : List Int) : Int := nth 0 (l.mergeSort (fun a b => decide (a ≤ b))) 4

/-- The 3 × 3 median blended in at strength NR / 16 (R41). -/
def Ctl.lintelComp (c : Ctl) (s i p m x : Nat) : Int :=
  let f := c.lintelSharp s i p
  f m x + Config.lintelNarrow ((c.get (F.rasLintelActCfg s) / 256 % 16 : Nat) * (median9 (c.lintelNear s m x f) - f m x)) 16

/-- A component of BPC bits of one context as one of another's, its fractional bits kept. -/
def scaleBits (bin bout : Nat) (v : Int) : Int := if bin ≤ bout then v * 2 ^ (bout - bin) else Config.lintelNarrow v (2 ^ (bin - bout))

/-- Lintel's line for output line m from its store of the input's lines, at the latched configuration (R40, R41): the steps of R41 in
its order, each on the picture the step before gives at the output's size, then the one rounding (DESIGN CHOICE, log entry 5). -/
def Ctl.lintelPx (c : Ctl) (s m : Nat) : Line :=
  let i := (c.inOf s).getD s
  let fin := (c.rd (R.stcFmt i)).toNat
  let fout := (c.rd (R.stcFmt s)).toNat
  let same := (c.get (F.stcFmtSamp i) == 0) == (c.get (F.stcFmtSamp s) == 0) && c.get (F.stcFmtMatrix i) == c.get (F.stcFmtMatrix s) &&
    c.on (F.stcFmtFull i) == c.on (F.stcFmtFull s)
  (List.range 3).map (fun p => (List.range (c.get (F.stcGeomHact s))).map (fun x =>
    let v := if same then scaleBits (c.bpc i) (c.bpc s) (c.lintelComp s i p m x)
      else Config.lintelConvert fin fout p ((List.range 3).map (fun q => c.lintelComp s i q m x))
    fitBits (c.bpc s) (roundDiv v 65536)))

/-- A line in Lintel's output buffer, which keeps the latest 16. -/
def Ctl.lintelPut (c : Ctl) (s m : Nat) : Ctl :=
  let px := c.lintelPx s m
  c.rcMod s (fun r =>
    let l := r.lintelOut.filter (fun p => p.1 != m) ++ [(m, px)]
    { r with lintelOut := l.drop (l.length - 16) })

/-- The line is in Lintel's output buffer by D(m), whether or not it is selected (R39, Table 1.1). -/
def Ctl.lintelReady (c : Ctl) (s m : Nat) : Ctl := if (c.rc s).lintelOut.any (fun p => p.1 == m) then c else c.lintelPut s m

/-- LINTEL_LINE (R39). -/
def execLintelLine (s : Fin 24) (m : Fin 8192) (st : State) : Host.Outcome State Fault Refusal := onCtl st (fun c =>
  if c.running && (c.vc s.val).outOn && decide (m.val < c.get (F.stcGeomVact s.val)) then c.lintelPut s.val m.val else c)

/-- The latch of RAS_s_LINTEL at a frame boundary (R43, R44): VTAPS lowered to what the model in force allows. -/
def Ctl.lintelLatch (c : Ctl) (s : Nat) (frame : Word) : Ctl :=
  let la := match c.inOf s with
    | some i => c.lookAhead i
    | none => 3
  let cfg := c.get (F.rasLintelVtaps s)
  let word := (c.rd (R.rasLintel s)).toNat % 4096
  let c := if la < cfg then c.put (F.rasPolicyCfgRej s) 1 else c
  (c.put (F.rasLintelActCfg s) (word - cfg + min cfg la)).put (F.rasLintelActFrame s) frame.toNat

/-! Source selection (R30 … R38, R112, R395, R396, R413). -/

/-- A selection: source, cause, STAND for RAS_s_FB_LAST, whether it is counted, SRC of the heartbeat. -/
structure Choice where
  src : LineSrc
  cause : Nat
  stand : Nat
  counted : Bool
  hb : Nat
deriving DecidableEq, Repr

/-- Whether a tag is valid for line m of a frame (R30). -/
def tagValid (tag frame : Word) (m : Nat) : Bool :=
  tag.getLsbD 31 && fieldGet tag 13 8 == frame.toNat % 256 && fieldGet tag 0 13 == m

/-- Rows 3 … 7 of Table 1.4. -/
def Ctl.rowsTag (c : Ctl) (s m : Nat) (frame : Word) (counted : Bool) : Choice :=
  let tag := c.tag s (c.slotOfLine s m)
  let stand := fieldGet tag 24 5
  if !tagValid tag frame m then
    ⟨.lintel, if c.fab.rerunBusy.contains (s, frame.toNat, m) then 2 else 1, 31, counted, 1⟩
  else if tag.getLsbD 30 then ⟨.lintel, 3, stand, counted, 1⟩
  else if c.get (F.stdStateState stand) = 5 then ⟨.lintel, 4, stand, counted, 1⟩
  else ⟨.neural, 0, stand, false, 0⟩

/-- The loss state of the input output s draws on and its LOSS_POL (R112); an output whose LINK names no video input context any more
is taken as one in input loss with policy BLACK (DESIGN CHOICE, log entry 143). -/
def Ctl.lossOf (c : Ctl) (s : Nat) : Nat × Nat := match c.inOf s with
  | some i => ((c.vc i).lossMode, c.get (F.stcCtrlLossPol i))
  | none => (2, 0)

/-- The selection of line m by Table 1.4 (R33): black while the output locks (R106); every line Lintel with cause 6 while the halves
of a split pair are apart (R396); row 1, where a half of a split pair takes Lintel for black (R395); row 2 for a shed (R413) and
FORCE_LINTEL; rows 3 … 7. Lines reached through row 1 are not counted. -/
def Ctl.choose (c : Ctl) (s m : Nat) : Choice :=
  let v := c.vc s
  let (loss, pol) := c.lossOf s
  if !v.locked then ⟨.black, 0, 31, false, 2⟩
  else if c.mode = 2 ∧ (v.splitDown ∨ !c.linkIsUp 0) then ⟨.lintel, 6, fieldGet (c.tag s (c.slotOfLine s m)) 24 5, true, 1⟩
  else if loss = 2 ∧ pol = 1 then ⟨.lintel, 0, 31, false, 2⟩
  else if loss = 2 ∧ pol ≠ 2 then ⟨if c.mode = 2 then .lintel else .black, 0, 31, false, 2⟩
  else if c.on F.phcCurStatusShed then ⟨.lintel, 7, 31, false, 1⟩
  else if c.on (F.rasPolicyForceLintel s) then ⟨.lintel, 5, 31, false, 1⟩
  else c.rowsTag s m v.frame (loss == 0)

/-! Slack (R69, R70). -/

/-- s(m) of a line whose tag became valid at an instant: t_out is 10^12 / lineRate ns. -/
def Ctl.slackOf (c : Ctl) (s v : Nat) : Int :=
  clampI (-256) 32767 (((256 * (c.now - v) * c.lineRate s / 10 ^ 12 : Nat) : Int) - 256)

/-- A reading recorded: LAST, the interval's least, SLACK_NEG, the line's flag for the urgent path. -/
def Ctl.slackRecord (c : Ctl) (s : Nat) (x : Int) : Ctl :=
  let c := (c.put (F.rasSlackLast s) (ofSigned 16 x)).rcMod s (fun r =>
    { r with runMin := some (min x (r.runMin.getD x)), negLine := r.negLine || decide (x < 0) })
  if x < 0 then c.bump (F.rasSlackNegCount s) 1 else c

/-- SLACK_RECORD of line m (R69): of every line of an enabled output, also where no line step runs for it (log entry 54). -/
def Ctl.slackLine (c : Ctl) (s m : Nat) : Ctl :=
  let frame := (c.vc s).frame
  let i := c.slotOfLine s m
  let tag := c.tag s i
  if !tagValid tag frame m then
    if c.fab.rerunBusy.contains (s, frame.toNat, m) then c else c.slackRecord s (-256)
  else if tag.getLsbD 30 || tag.getLsbD 29 then c
  else c.slackRecord s (c.slackOf s (mget 0 c.ras.tagTime (64 * s + i)))

/-! The deadline. -/

/-- The containers of three planes of n samples. -/
def planesOf (n : Nat) (bs : List Byte) : Line :=
  let v := (elems16 bs).map BitVec.toNat
  [v.take n, (v.drop n).take n, (v.drop (2 * n)).take n]

/-- A line of free values: no transmitter reads a handle with SPEC = 1 (R213), and the spec states no line instead (log entry
55). -/
def Ctl.freeLine (c : Ctl) (s : Nat) : Ctl × Line :=
  let n := c.get (F.stcGeomHact s)
  ({ c with free := c.free + 3 * n }, (List.range 3).map (fun p => (List.range n).map (fun x =>
    (Config.freeWord (c.free + n * p + x)).toNat % 2 ^ c.bpc s)))

/-- The neural line of a slot, each container clamped to BPC bits (R239). -/
def W.neuralLine (w : W) (s i : Nat) : W × Line :=
  let c := w.ctl
  let h := c.get (F.stcRingHandle s)
  if c.on (F.cnpHtW0Spec h) then let (c, px) := c.freeLine s; (w.on (fun _ => c), px)
  else
    let (w, bs) := w.unitRead (c.hKey h (i * c.outSlot s)) (6 * c.get (F.stcGeomHact s))
    (w.on (fun c => c.ioEnergy s (c.hKey h 0) bs.length), (planesOf (c.get (F.stcGeomHact s)) bs).map (fun p => p.map (fun x => min x (2 ^ c.bpc s - 1))))

/-- The armed planes of output s in ascending plane index (R99). -/
def Ctl.planesOn (c : Ctl) (s : Nat) : List Nat :=
  (List.range 8).flatMap (fun sub => (List.range 24).filter (fun p =>
    c.on (F.stcCtrlArm p) && c.kind p == 2 && c.get (F.stcCtrlLink p) == s && c.get (F.stcCtrlSub p) == sub))

/-- The plane lines fetched for output s in the frame that ends are gone (R102). -/
def Ctl.planesEmpty (c : Ctl) (s : Nat) : Ctl := (c.planesOn s).foldl (fun c p => c.vcMod p (fun v => { v with planes := [] })) c

/-- The planes' lines for output line m: those complete in their FIFOs are taken, a late one is transparent and counted (R102). -/
def Ctl.planesTake (c : Ctl) (s m : Nat) : Ctl × List (Nat × List Nat) :=
  (c.planesOn s).foldl (fun (c, l) p =>
    match c.planeRow p m, (c.vc p).planes.find? (fun x => x.1 == m) with
    | some _, some x => (c.vcMod p (fun v => { v with planes := v.planes.filter (fun y => y.1 != m) }), l ++ [(p, nth [] x.2 0)])
    | some _, none => (c.bump (F.stcMissPlaneLate p) 1, l)
    | none, _ => (c, l)) (c, [])

/-- SLOT_DRAIN (R31): the tag's VALID cleared, the line drained, the empty semaphore signalled. -/
def Ctl.slotDrain (c : Ctl) (s m : Nat) : Ctl :=
  let i := c.slotOfLine s m
  let c := c.tagSet s i (c.tag s i &&& 0x7FFFFFFF)
  (c.rcMod s (fun r => { r with drained := some ((c.vc s).frame, m) })).signalHw ((c.get (F.stcRingSem s) + 1) % 256) 1

/-- HEARTBEAT_SEND (R380): in mirror and split modes, not after a trip (R387); of a secondary that joins a mirror pair from lock on
(R390). -/
def Ctl.heartbeatSend (c : Ctl) (s m : Nat) (e : Egress) : Ctl :=
  let r := c.rc s
  let closed := decide (e.shut.length = (c.outTxs s).length)
  let crc := c.lineCrc s e
  let c := if c.paired && !c.on F.phcThermStatusTrip && (c.isPrimary || c.hng.joined || c.mode == 2) then
      c.hngSend 0 (.heartbeat e.frame.toNat m e.hbSrc s closed r.lastCrc) else c
  if !c.paired then c
  else c.rcMod s (fun r => { r with lastCrc := crc, own := hbAdd r.own (e.frame.toNat, m, e.hbSrc, crc) })

/-- What the partner's heartbeat makes of a half whose own selection was neural (R395): decided where it has come, else
awaited. -/
def Ctl.splitJudge (c : Ctl) (s m : Nat) (e : Egress) : Ctl :=
  if c.mode ≠ 2 ∨ e.hbSrc ≠ 0 then c
  else match hbFind (c.rc s).peer e.frame.toNat m with
  | some (src, _) =>
    if src = 0 then c
    else (c.rcMod s (fun r => { r with egress := r.egress.map (fun (x : Egress) => if x.m == m then { x with await := true } else x) })).splitTake s m
  | none => c.rcMod s (fun r => { r with egress := r.egress.map (fun (x : Egress) => if x.m == m then { x with await := true } else x) })

/-- SOURCE_SELECTION at D(m): Lintel's line is there, Table 1.4 selects, slack and fallback are recorded, the line and the
planes' lines are fetched, the slot is drained, the heartbeat leaves. -/
def W.deadline (w : W) (s m : Nat) : W :=
  let w := w.on (fun c => c.lintelReady s m)
  let x := w.ctl.choose s m
  let frame := (w.ctl.vc s).frame
  let i := w.ctl.slotOfLine s m
  let w := w.on (fun c => c.slackLine s m)
  let w := if x.counted then w.on (fun c => c.fallback s m frame x.cause x.stand) else w
  let (w, px) := match x.src with
    | .neural => w.neuralLine s i
    | .lintel => (w, (w.ctl.rc s).lintel m)
    | .black => (w, w.ctl.blackLine s)
  w.on (fun c =>
    let (c, pl) := c.planesTake s m
    let c := c.slotDrain s m
    let e : Egress := { m := m, frame := frame, src := x.src, cause := x.cause, px := px, hbSrc := x.hb, await := false, planes := pl,
                        shut := (c.outTxs s).filter (fun t => c.on (F.phcShutClosed t)) }
    let c := c.rcMod s (fun r =>
      let l := r.egress.filter (fun (y : Egress) => y.m != m)
      { r with egress := (l ++ [e]).drop (l.length - 1) })
    (c.heartbeatSend s m e).splitJudge s m e)

/-- SOURCE_SELECTION (R33). -/
def execSourceSelection (s : Fin 24) (m : Fin 8192) (st : State) : Host.Outcome State Fault Refusal := onHw st (fun w =>
  if w.ctl.running && (w.ctl.vc s.val).outOn && decide (m.val < w.ctl.get (F.stcGeomVact s.val)) then w.deadline s.val m.val else w)

/-! The raster slot (R21, R22). -/

/-- One transmitter's share of a line leaves, blank behind a closed Shutter; lanes in electrical idle carry nothing (R116). -/
def Ctl.lineOut (c : Ctl) (s t : Nat) (e : Egress) (px : Line) : Ctl :=
  let blank := e.shut.contains t
  let full := if blank then c.blackLine s else px
  if c.on (F.vidTxStatusTrained t) then
    c.emit (.line t s e.frame.toNat e.m e.src blank (cutCols full (c.txCols s t).1 (c.txCols s t).2))
  else c

/-- RASTER_SLOT of line m: a half still waiting for its partner takes the Lintel line (R395); the line leaves; the governor's line
count and the urgent path at its end (R72, R75). -/
def Ctl.rasterSlot (c : Ctl) (s m : Nat) : Ctl :=
  let c := c.splitTake s m
  match (c.rc s).egress.find? (fun e => e.m == m) with
  | none => c
  | some e =>
    let px := c.egressLine s e
    let c := (c.outTxs s).foldl (fun c t => c.lineOut s t e px) c
    let c := c.rcMod s (fun r => { r with egress := r.egress.filter (fun (y : Egress) => y.m != m) })
    let c := if c.isShort s then
        { c with pwr := { c.pwr with lines := c.pwr.lines + 1 } } else c
    let neg := (c.rc s).negLine
    (c.rcMod s (fun r => { r with negLine := false })).govUrgentPath neg

/-- RASTER_SLOT (R21). -/
def execRasterSlot (s : Fin 24) (m : Fin 8192) (st : State) : Host.Outcome State Fault Refusal := onCtl st (fun c =>
  if c.running && (c.vc s.val).outOn then c.rasterSlot s.val m.val else c)

/-! The frame boundary: frame pairs and phases (R107 … R109, R385). -/

/-- The advance and phase of output frame k of a cycle of n output and m input frames (sketch of R107, in its 32-bit words). -/
def cadence (n m k : Nat) : Nat × Nat :=
  let num := k * m * 256 % 2 ^ 32
  let q := num / n + if n ≤ 2 * (num % n) then 1 else 0
  (q / 256, q % 256)

/-- A cycle's numbers of output and input frames: RATIO_N + 1 and RATIO_M + 1. -/
def Ctl.ratio (c : Ctl) (i : Nat) : Nat × Nat := (c.get (F.stcRateRatioN i) + 1, c.get (F.stcRateRatioM i) + 1)

/-- The pair and phase of input i for output frame k that starts at t: (L, L) in input loss (R111), by cadence (R107) or in free
run (R108); none while there are no two frames. -/
def Ctl.pairFor (c : Ctl) (i k t : Nat) : Option (Nat × Nat × Nat) :=
  let v := c.vc i
  if v.lossMode ≠ 0 then v.lastGood.map (fun r => (r.num, r.num, 0))
  else if c.on (F.stcCtrlLock i) then
    match v.frames with
    | b :: a :: _ => some (a.num, b.num, min 255 (256 * (t - b.done) / max 1 (b.done - a.done)))
    | _ => none
  else v.lockA.map (fun a =>
    let (adv, ph) := cadence (c.ratio i).1 (c.ratio i).2 (k - v.cadK)
    (a + adv, a + adv + 1, ph))

/-- The stored frames that a pair (A, B) is read from: A and B where both are complete; else B's nearest complete predecessor and, as far
before it, A's (DESIGN CHOICE, log entry 169). -/
def VCtx.pairRecs (v : VCtx) (a b : Nat) : Option (FrameRec × FrameRec) :=
  (v.frames.find? (fun r => decide (r.num ≤ b))).bind (fun rb =>
    (v.frames.find? (fun r => decide (r.num + (b - a) ≤ rb.num))).map (fun ra => (ra, rb)))

/-- A pair and phase in force for output frame k: a frame needed as B is completed (R400), DROP and DUP count (R108), STC_i_PHASE
shows it and a phase record is posted (R109). -/
def W.pairTake (w : W) (i k : Nat) (p : Nat × Nat × Nat) : W :=
  (w.haloNeed i p.2.1).on (fun c =>
    let v := c.vc i
    let bufs := (v.pairRecs p.1 p.2.1).map (fun r => (r.1.buf, r.2.buf))
    let free := c.on (F.stcCtrlLock i)
    let drop := match v.pair with
      | some o => if o.2.1 = p.2.1 then 0 else if free ∨ v.lossMode ≠ 0 then v.sinceB - 1 else p.2.1 - o.2.1 - 1
      | none => 0
    let dup := match v.pair with
      | some o => free && o.1 == p.1 && o.2.1 == p.2.1 && p.2.2 == 255
      | none => false
    let took := match v.pair with
      | some o => o.2.1 != p.2.1
      | none => true
    let c := (c.bump (F.stcDropdupDrop i) drop).bump (F.stcDropdupDup i) (bit dup)
    let c := c.vcMod i (fun v => { v with pair := some p, pairBuf := bufs, replayLine := 0, sinceB := (if took then 0 else v.sinceB) })
    let c := ((c.put (F.stcPhasePhase i) p.2.2).put (F.stcPhaseA i) p.1).put (F.stcPhaseB i) p.2.1
    c.postReport i [10, w32 k, w32 p.1, w32 p.2.1, w32 (p.2.2 + 256 * i), 0])

/-- The pair of re-timing input i at the start of frame k of its output s: a primary computes that of frame k + 1 and sends it, a
secondary takes what it received or repeats the last (R385, R386). -/
def W.pairStep (w : W) (s i k : Nat) : W :=
  let c := w.ctl
  let v := c.vc i
  let now := c.pairFor i k c.now
  if !c.on (F.stcCtrlMode i) then w
  else if !c.paired || v.lossMode != 0 then
    match now with
    | some p => w.pairTake i k p
    | none => w
  else if c.isSecondary then
    let w := w.on (fun c => c.vcMod i (fun v => { v with nextPair := none }))
    match (if v.nextPair.isSome then v.nextPair else v.pair) with
    | some p => w.pairTake i k p
    | none => w
  else
    let next := c.pairFor i (k + 1) (c.now + 10 ^ 12 / max 1 (c.get (F.stcRateFrate s)))
    let w := match (if v.staged.isSome then v.staged else now) with
      | some p => w.pairTake i k p
      | none => w
    w.on (fun c =>
      let c := c.vcMod i (fun v => { v with staged := next })
      match next with
      | some p => if 24 ≤ i then c else c.hngSend 0 (.state (.phase (Fin.ofNat 24 i) (w32 (k + 1)) (w32 p.1) (w32 p.2.1) (BitVec.ofNat 8 p.2.2)))
      | none => c)

/-! The frame boundary: lock (R106, R107, R113, R368, R399). -/

/-- Whether the input's rate is within ±0.5 % of what its mode asks of the output's (R106, R107); free run asks nothing. -/
def Ctl.rateOk (c : Ctl) (s i : Nat) : Bool :=
  let (n, m) := if c.on (F.stcCtrlMode i) then c.ratio i else (1, 1)
  let a := c.get (F.stcRateFrate i) * n
  let b := c.get (F.stcRateFrate s) * m
  (c.on (F.stcCtrlMode i) && c.on (F.stcCtrlLock i)) || (decide (200 * a ≤ 201 * b) && decide (199 * b ≤ 200 * a))

/-- Whether input i is ready for lock: armed, measured, back where it was lost, its rate right, two frames complete where it is
re-timed, and FRAME_SYNC there on a part that locks to it. -/
def Ctl.lockReady (c : Ctl) (s i : Nat) : Bool :=
  let v := c.vc i
  c.armedAs i 0 && v.measured && !v.modeChg && (v.lossMode == 0 || v.back) && c.rateOk s i &&
    (!c.on (F.stcCtrlMode i) || decide (2 ≤ v.frames.length + v.ownDone.length)) && (c.mode == 0 || c.timingMaster || (c.vc s).fsyncLock)

/-- The frames that output s has counted from the lock frame at its own lock in frame k: a wall's lock frame (R398), on a secondary the
primary's (R385). -/
def Ctl.lockPast (c : Ctl) (s : Nat) (k : Word) : Nat :=
  if c.mode = 3 then k.toNat - c.hng.lockFrame.toNat
  else match (if c.isSecondary then (c.vc s).lockAt else none) with
  | some l => k.toNat - l.toNat
  | none => 0

/-- The cadence's origin for input i of output s that locks in frame k, of whose count from the lock frame a whole number of cycles changes
no phase: the first A is the frame after the one in progress at the lock frame's FRAME_SYNC edge (R398); else the latest complete frame
is B (R107; DESIGN CHOICE, log entry 169). -/
def Ctl.cadenceLock (c : Ctl) (s i : Nat) (k : Word) : Ctl :=
  let (n, m) := c.ratio i
  let e := c.lockPast s k
  match (if c.mode = 3 then (c.vc i).lockIn else none), (c.vc i).lastGood with
  | some a, _ => c.vcMod i (fun v => { v with cadK := k.toNat - e % n, lockA := some (a + 1 + e / n * m) })
  | none, some b => c.vcMod i (fun v => { v with cadK := k.toNat - e % n, lockA := some (b.num - 1 - (cadence n m (e % n)).1) })
  | none, none => c

/-- One boundary of LOCKING of output s: the lock is declared, and the stream starts at the first input frame start after it (R91); at
the next boundary after that the stream runs (R113). -/
def W.lockStep (w : W) (s : Nat) (k : Word) : W :=
  match w.ctl.inOf s with
  | none => w
  | some i =>
    let v := w.ctl.vc s
    if v.locked && !(w.ctl.vc i).back then w
    else if v.lockPend then
      if (w.ctl.vc i).startPend then w
      else (if w.ctl.mode = 3 then w.haloNeed i (w.ctl.vc i).inFrame else w).on (fun c =>
        let c := (c.vcMod s (fun v => { v with locked := true, lockPend := false })).setStc s 3
        let c := (c.inputRun i).cadenceLock s i k
        if c.paired && c.isPrimary then c.vcMod s (fun v => { v with lockAt := some k }) else c)
    else if !w.ctl.lockReady s i then w
    else
      w.on (fun c => (c.vcMod s (fun v => { v with lockPend := true })).vcMod i (fun v => { v with startPend := true }))

/-- LOSS_POLICY_ENTRY of input i (R112): once REPEAT output frames have started in LOSS_REPEAT. A state taken from the partner
changes with the partner's. -/
def Ctl.lossStep (c : Ctl) (i : Nat) : Ctl :=
  let v := c.vc i
  if v.lossMode ≠ 1 ∨ v.back ∨ v.lossCause = 255 then c
  else if v.repCount < c.get (F.stcCtrlRepeat i) then c.vcMod i (fun v => { v with repCount := v.repCount + 1 })
  else
    let c := c.vcMod i (fun v => { v with lossMode := 2 })
    if c.on (F.stcCtrlArm i) && !v.modeChg then (c.setStc i 5).lossMirror i else c

/-! The frame boundary: deferred writes, decisions, roles, numbering. -/

/-- Whether a stream start of input x of output s is to come, found at this boundary or before: it makes the one choice of R223 (corner
"Model change and stream start on one boundary"). -/
def Ctl.startSoon (c : Ctl) (s x : Nat) : Bool :=
  let v := c.vc s
  (c.vc x).startPend || (c.inOf s == some x && !(v.locked && !(c.vc x).back) && !v.lockPend && c.lockReady s x)

/-- DEFERRED_WRITE_APPLY of output s and of every context that names it (R88), with the schedule choice of R223. -/
def W.deferredStep (w : W) (s : Nat) : W :=
  (List.range 24).foldl (fun w x =>
    if x = s then w.on (fun c => c.applyDeferred x)
    else if w.ctl.kind x = 1 ∨ w.ctl.get (F.stcCtrlLink x) ≠ s then w
    else
      let sched := (w.ctl.vc x).dSched.isSome
      let w := w.on (fun c => c.applyDeferred x)
      if sched && w.ctl.kind x == 0 && !w.ctl.startSoon s x then w.chooseAtChange x else w) w

/-- SPECULATION_START (R350, R321): firmware's choice to run the planned model of input i ahead. -/
def Ctl.specStart (c : Ctl) (i : Nat) : Ctl :=
  match (c.vc i).scenePlan, c.img.shadow with
  | some slot, some _ =>
    if c.specOn || c.isSecondary then c
    else
      let c := { c with fab := { c.fab with specRun := some (i, slot) } }
      if c.paired && decide (i < 24) then c.hngSend 0 (.state (.specStart (Fin.ofNat 24 i) slot)) else c
  | _, _ => c

/-- DECISION_APPLY at the boundary where frame k starts (R349 … R352, R385): an applied CUT clears the model's recurrent state and
lets speculation begin; a primary sends the words just staged. -/
def W.decisionStep (w : W) (s : Nat) (k : Word) (speculate : Bool) : W :=
  let (c, cuts) := w.ctl.applyDecisions s k
  let w := cuts.foldl (fun w i =>
    let w := (w.clearStream i).on (fun c => c.vcMod s (fun v => { v with syncPend := true }))
    if speculate then w.on (fun c => c.specStart i) else w) (w.on (fun _ => c))
  w.on (fun c =>
    if !(c.paired && c.isPrimary) then c
    else (List.finRange 24).foldl (fun c i =>
      let ws := c.stagedWords i.val
      if c.outOf i.val ≠ some s ∨ ws.isEmpty then c else c.hngSend 0 (.state (.decision i (k + 1) ws))) c)

/-- A role change that waited is made (R377, R378), with the answer to the command that asked. -/
def Ctl.roleDo (c : Ctl) (k : Word) : Ctl :=
  match c.hng.roleAt with
  | none => c
  | some r =>
    let c := (c.hngMod (fun h => { h with roleAt := none })).applyRole r.role r.cause
    match r.mailbox with
    | some m => c.answer m stOk 0 (c.epochOf 0x0D00) (if r.cause = 2 then [k] else [])
    | none => c

/-- The boundary where frame k starts: a role change named for it, or for no frame, is made (R378). -/
def Ctl.roleStep (c : Ctl) (k : Word) : Ctl :=
  if c.hng.roleAt.any (fun r => r.frame.any (fun f => decide (k.toNat < f.toNat))) then c else c.roleDo k

/-- Recurrent ranges of second detections marked for Clearing (R181). -/
def W.recurStep (w : W) : W :=
  let l := w.ctl.fab.recurClear
  if l.isEmpty then w
  else (l.foldl (fun w r => w.act (w.ctl.markRange r)) (w.on (fun c => { c with fab := { c.fab with recurClear := [] } }))).clrCount

/-- What the timing master sends as frame k starts: FRAME_SYNC (R368), driven before a role change of this boundary (R369), in a wall the
SYNC frame (R397), whose lock frame is the master's first one. -/
def Ctl.masterStep (c : Ctl) (k : Word) : Ctl :=
  if !c.timingMaster then c
  else
    let c := c.hngMod (fun h => { h with fsyncOut := true })
    if c.mode ≠ 3 then c
    else
      let c := if c.hng.syncSeen.isSome then c
        else (List.range 24).foldl (fun c i =>
          if c.armedAs i 0 then c.vcMod i (fun v => { v with lockIn := some v.inFrame }) else c) (c.hngMod (fun h => { h with lockFrame := k }))
      (c.hngMod (fun h => { h with syncSeen := some (k + 1, h.lockFrame) })).hngSendAll none (.sync (k + 1) c.hng.lockFrame)

/-- What a primary tells its partner as frame k of a locked output starts: the number of its next frame, and the lock frame (R384). -/
def Ctl.numberSend (c : Ctl) (s : Nat) (k : Word) : Ctl :=
  match (c.vc s).lockAt with
  | some l => if c.paired && c.isPrimary && (c.vc s).locked && decide (s < 24) then c.hngSend 0 (.state (.frameNo (Fin.ofNat 24 s) (k + 1) l)) else c
  | none => c

/-- Whether every mirrored item of frame k of output s is here as it begins (R384, R386): its number, the pair and phase of a re-timed
input, the word of each of its networks. -/
def Ctl.mirArrived (c : Ctl) (s : Nat) (k : Word) : Bool :=
  (c.vc s).numNext.isSome && (c.inOf s).all (fun i =>
    (!c.on (F.stcCtrlMode i) || (c.vc i).lossMode != 0 || (c.vc i).nextPair.isSome) &&
      (c.stagedWords i).all (fun p => (mget none c.und.peerWord p.1.val).any (fun x => x.1 == k)))

/-- SYNC of output s on a secondary, where the frame's mirrored items all are here (R386), and the end of its joining once it is locked
(R390). -/
def Ctl.syncStep (c : Ctl) (s : Nat) (arrived : Bool) : Ctl :=
  let v := c.vc s
  let c := c.vcMod s (fun v => { v with syncPend := false })
  if !c.isSecondary then c
  else
    let c := if v.syncPend && arrived then c.put F.hngMirSyncSync (setBit (c.get F.hngMirSyncSync) s) else c
    (if v.locked then c.hngMod (fun h => { h with joined := true }) else c).pairRegs

/-- OUTPUT_DISABLE (R90): the lanes go to electrical idle; what waited for a boundary and finds no output left comes at once, and the
energy interval ends (R415). -/
def W.outputEnd (w : W) (s : Nat) : W :=
  let w := w.on (fun c => (((c.vcSet s { VCtx.init with frame := (c.vc s).frame, energyOn := (c.vc s).energyOn }).rcSet s RCtx.init).txOff s).govOutputGone)
  let w := w.deferredStep s
  if w.ctl.anyOut then w
  else
    let items := w.ctl.hng.mirPend
    let w := items.foldl W.mirApply (w.on (fun c => c.hngMod (fun h => { h with mirPend := [] })))
    w.on (fun c => ((c.roleDo c.frameNow).snapBoundary).energyEnd)

/-- The actions at a boundary of the output with the shortest t_out: governor lines of the blanking, remapping and rotation (R123,
R204, R426 … R431), self-tests that wait for a blanking (R329), the energy interval (R415), shed and restore (R413, R414), the storm
records and event windows (R487), snapshots (R495, R498). -/
def W.shortStep (w : W) (s : Nat) (old k : Word) : W :=
  let w := w.on (fun c =>
    let c := { c with pwr := { c.pwr with lines := if c.pwr.running then c.pwr.lines +
      (c.get (F.stcTotalVtotal s) - c.get (F.stcGeomVact s)) else c.pwr.lines } }
    let c := c.stormRecords old
    let c := { c with fab := { c.fab with underPosted := [], overPosted := [], stormPosted := [] } }
    ((c.remapStep).rotStep (fun o => (c.vc o).lastB) k).bistStart true)
  (w.shedBoundary k).on (fun c => c.snapBoundary.energyEnd)

/-- The number of the frame that starts: the one a master gave, else the next. -/
def VCtx.nextFrame (v : VCtx) : Word := match v.numNext with
  | some f => f
  | none => v.frame + 1

/-- OUTPUT_FRAME_BOUNDARY of output s: the actions the spec places there, in the order FRAME_SYNC, roles, a pair's promotion and mirrored
items, deferred writes, decisions, loss and lock, pairs, the Lintel latch (after the choice of the model, R44), link exponents,
transmitters, synchronisation, and those of the shortest output. -/
def W.frameBoundary (w : W) (s : Nat) (speculate : Bool) : W :=
  let old := (w.ctl.vc s).frame
  if (w.ctl.vc s).offPend then w.outputEnd s
  else
    let k := (w.ctl.vc s).nextFrame
    let short := w.ctl.isShort s
    let arrived := w.ctl.mirArrived s k
    let w := w.on (fun c =>
      let c := (c.vcMod s (fun v => { v with frame := k, numNext := none, lastB := c.now })).planesEmpty s
      let c := c.rcMod s (fun r => { r with fbPosted := false, hbPosted := false, crcPosted := false })
      { c with fab := { c.fab with reruns := c.fab.reruns.filter (fun x => !(x.1 == s && decide (x.2.1 < old.toNat))) } })
    let w := if short then
        let items := w.ctl.hng.mirPend
        items.foldl W.mirApply ((w.on (fun c => (((c.masterStep k).roleStep k).fsyncBack).hngMod (fun h => { h with mirPend := [] }))).promoteStep k)
      else w
    let w := ((w.deferredStep s).recurStep).decisionStep s k speculate
    let i := w.ctl.inOf s
    let w := match i with
      | some i => w.on (fun c => c.lossStep i)
      | none => w
    let w := w.lockStep s k
    let w := match i with
      | some i => if (w.ctl.vc s).locked then w.pairStep s i k.toNat else w
      | none => w
    let w := w.on (fun c => ((((c.lintelLatch s k).feUpdate s).txBlanking s).syncStep s arrived).numberSend s k)
    if short then w.shortStep s old k else w

/-- OUTPUT_FRAME_BOUNDARY (R43). -/
def execOutputFrameBoundary (s : Fin 24) (speculate : Bool) (st : State) : Host.Outcome State Fault Refusal := onHw st (fun w =>
  if w.ctl.running && (w.ctl.vc s.val).outOn then w.frameBoundary s.val speculate else w)

end Sys2Proof.Machine
end

