-- ==== Sys2Proof/Machine/Bundle.lean ====
section
/-! DEFINITION. What each operation of Table 4.6 does, and how a bundle issues, waits, completes, faults and detects (R136
… R143, R175). An effect reads its registers and guard from the work area w0 as the bundle found it (R136) and acts on w. -/

namespace Sys2Proof.Machine

/-- Where a bundle runs: physical core, logical core, task, PC. -/
structure At where
  q : Nat
  k : Nat
  t : Task
  pc : Nat
deriving DecidableEq, Repr

/-- The physical stand. -/
def At.n (x : At) : Nat := x.q / 8

/-- An effect only where guard bit 0 is 1 (R130). -/
def gated (w0 : W) (x : At) (i : Issued) (w : W) (f : W → W) : W := if w0.ctl.guard0 x.q i.sl then f w else w

/-- The task enters its commit section (R177). -/
def Ctl.commit (c : Ctl) (q : Nat) : Ctl :=
  match (c.core q).task with
  | some t => c.coreSet q { c.core q with task := some { t with inCommit := true } }
  | none => c

/-- The bundle waits in a slot. -/
def Ctl.await (c : Ctl) (q : Nat) (i : Issued) : Ctl := c.coreSet q { c.core q with waiting := (c.core q).waiting ++ [i] }

/-- The PC the bundle goes to when it completes; a taken branch consumes the HINT (R140, R141). -/
def Ctl.branch (c : Ctl) (q pc : Nat) : Ctl := c.coreSet q { c.core q with nextPc := pc % 4096, hint := none }

/-- PC + IMM (Table 4.6). -/
def At.target (x : At) (i : Issued) : Nat := (w32 x.pc + i.sl.imm).toNat % 4096

/-! Loads and stores. -/

/-- The load of n bytes at an address that passed its checks. -/
def loadAt (x : At) (w : W) (ea n : Nat) : W × List Byte :=
  match w.ctl.xlate x.q x.k x.t .load ea n with
  | some g => w.load x.n x.k g n
  | none => (w, List.replicate n 0)

/-- The store of bytes at offsets from an address that passed its checks; a remote store enters the commit section. -/
def storeAt (x : At) (w : W) (ea n : Nat) (bs : List (Nat × Byte)) : W :=
  match w.ctl.xlate x.q x.k x.t .store ea n with
  | some g =>
    let w := if g.remote.isSome then w.on (fun c => c.commit x.q) else w
    w.store x.n x.k x.t g bs
  | none => w

/-- Bytes with their offsets. -/
def withOffsets (bs : List Byte) : List (Nat × Byte) := (List.range bs.length).map (fun i => (i, nth 0 bs i))

/-- LD.S: sD ← 32-bit word at ea. -/
def fxLdS (w0 : W) (x : At) (i : Issued) (w : W) : W := gated w0 x i w (fun w =>
  let (w, bs) := loadAt x w (w0.ctl.ea x.q i) 4
  w.on (fun c => c.sregSet x.q i.sl.d.val (w32 (ofBytes bs))))

/-- ST.S: 32-bit word at ea ← sB. -/
def fxStS (w0 : W) (x : At) (i : Issued) (w : W) : W := gated w0 x i w (fun w =>
  storeAt x w (w0.ctl.ea x.q i) 4 (withOffsets (toBytes 4 (w0.ctl.sreg x.q i.sl.b.val).toNat)))

/-- LD.V: vD ← 64 binary16 at ea, per enabled lane. -/
def fxLdV (w0 : W) (x : At) (i : Issued) (w : W) : W :=
  let g := w0.ctl.guard x.q i.sl
  if g = 0 then w
  else
    let (w, bs) := loadAt x w (w0.ctl.ea x.q i) 128
    w.on (fun c => c.vregSet x.q i.sl.d.val (mergeLanes g (c.vreg x.q i.sl.d.val) (vecOfBytes bs)))

/-- ST.V: 64 binary16 at ea ← vB, per enabled lane. -/
def fxStV (w0 : W) (x : At) (i : Issued) (w : W) : W :=
  let g := w0.ctl.guard x.q i.sl
  if g = 0 then w
  else
    let bs := (withOffsets (bytesOfVec (w0.ctl.vreg x.q i.sl.b.val))).filter (fun b => g.getLsbD (b.1 / 2))
    storeAt x w (w0.ctl.ea x.q i) 128 bs

/-- LD.VB: every enabled lane of vD ← binary16 at ea. -/
def fxLdVb (w0 : W) (x : At) (i : Issued) (w : W) : W :=
  let g := w0.ctl.guard x.q i.sl
  if g = 0 then w
  else
    let (w, bs) := loadAt x w (w0.ctl.ea x.q i) 2
    w.on (fun c => c.vregSet x.q i.sl.d.val (mergeLanes g (c.vreg x.q i.sl.d.val) (ofLanes (fun _ => BitVec.ofNat 16 (ofBytes bs)))))

/-- LD.VX: enabled lane l of vD ← binary16 at ea + l × sB. -/
def fxLdVx (w0 : W) (x : At) (i : Issued) (w : W) : W :=
  let g := w0.ctl.guard x.q i.sl
  (List.range 64).foldl (fun w l =>
    if g.getLsbD l then
      let (w, bs) := loadAt x w ((w0.ctl.ea x.q i + l * (w0.ctl.sreg x.q i.sl.b.val).toNat) % 2 ^ 32) 2
      w.on (fun c => c.vregSet x.q i.sl.d.val (ofLanes (fun j => if j = l then BitVec.ofNat 16 (ofBytes bs)
        else lane (c.vreg x.q i.sl.d.val) j)))
    else w) w

/-- Row r of aI set to 32 words. -/
def Ctl.rowSet (c : Ctl) (q a r : Nat) (f : Nat → Word) : Ctl := forN 32 (fun j c => c.aregSet q a r j (f j)) c

/-- LD.AR: row C of aD ← 32 FP32 at ea. -/
def fxLdAr (w0 : W) (x : At) (i : Issued) (w : W) : W := gated w0 x i w (fun w =>
  let (w, bs) := loadAt x w (w0.ctl.ea x.q i) 128
  w.on (fun c => c.rowSet x.q i.sl.d.val i.sl.c.val (fun j => w32 (ofBytes ((bs.drop (4 * j)).take 4)))))

/-- Row C of aB of the bundle's registers. -/
def rowOf (w0 : W) (x : At) (i : Issued) : List Word :=
  (List.range 32).map (fun j => w0.ctl.areg x.q i.sl.b.val i.sl.c.val j)

/-- ST.AR: 32 FP32 at ea ← row C of aB. -/
def fxStAr (w0 : W) (x : At) (i : Issued) (w : W) : W := gated w0 x i w (fun w =>
  storeAt x w (w0.ctl.ea x.q i) 128 (withOffsets ((rowOf w0 x i).flatMap (fun v => toBytes 4 v.toNat))))

/-- ST.AH: 32 binary16 at ea ← row C of aB rounded. -/
def fxStAh (w0 : W) (x : At) (i : Issued) (w : W) : W := gated w0 x i w (fun w =>
  storeAt x w (w0.ctl.ea x.q i) 64 (withOffsets ((rowOf w0 x i).flatMap (fun v => toBytes 2 (narrow v).toNat))))

/-- One element of an accumulate-on-write (Table 5.9, R168). -/
def accOp (code : Nat) (m r : Word) : Word :=
  match code with
  | 0 => add32 m r
  | 1 => pick32 true m r
  | 2 => pick32 false m r
  | _ => m + r

/-- The bytes an accumulate-on-write leaves, from the memory operand's bytes and the row (Table 5.9). -/
def accBytes (code : Nat) (old : List Byte) (row : List Word) : List Byte :=
  if code = 3 then
    (List.range 32).flatMap (fun j => toBytes 2 (fadd16 (BitVec.ofNat 16 (ofBytes ((old.drop (2 * j)).take 2))) (nth 0 row j)).toNat)
  else
    (List.range 32).flatMap (fun j => toBytes 4 (accOp code (w32 (ofBytes ((old.drop (4 * j)).take 4))) (nth 0 row j)).toNat)

/-- ST.ACC: row C of aB accumulated at ea in Canopy (R168): gather entries of the stand the line touches flush first, a
filled or drained slot discards it (R206, R208), a pending line's operand is zero (R165), a word that detects becomes
poison with DET_ERR (R176). -/
def fxStAcc (w0 : W) (x : At) (i : Issued) (w : W) : W := gated w0 x i w (fun w =>
  let code := fieldGet i.sl.imm 29 3
  let n := if code = 3 then 64 else 128
  let w := w.on (fun c => c.commit x.q)
  match w.ctl.xlate x.q x.k x.t .acc (w0.ctl.ea x.q i) n with
  | none => w
  | some g =>
    let ref := match g.handle with
      | some h => w.ctl.slotRef h g.off
      | none => none
    let late := match ref with
      | some (.out s _) => w.ctl.lateTask x.t s
      | _ => false
    match late, ref with
    | true, _ => w
    | false, some r =>
      if w.ctl.filled r then w.on (fun c => c.slotOver r x.k) else accAt w g n code
    | false, none => accAt w g n code)
where
  /-- The accumulation itself. -/
  accAt (w : W) (g : Tgt) (n code : Nat) : W :=
    let w := w.flushWhere x.n (fun e => e.line == lineKey g.key)
    let live := !w.mem.pendingAt g.key
    let bad := (List.range (n / 32)).filter (fun j => live && (w.mem.poisonAt (g.key + 32 * j) || (i.sl.upset && j == i.sl.upsetWord)))
    let w := (w.act (.put g.key (accBytes code (w.mem.rdN g.key n) (rowOf w0 x i)))).clrCount
    bad.foldl (fun w j => (w.act (.poison (g.key + 32 * j))).on (fun c => c.detAcc (g.key + 32 * j) x.k (g.handle.getD 0))) w

/-! Tensor. -/

/-- aD written elementwise. -/
def Ctl.tileSet (c : Ctl) (q a : Nat) (f : Nat → Nat → Word) : Ctl := forN 16 (fun r c => c.rowSet q a r (f r)) c

/-- Product (r, j) of MMA: vA[16h + r] × vB[32g + j], exact in FP32 (R135). -/
def mmaProd (w0 : W) (x : At) (i : Issued) (r j : Nat) : Word :=
  prod32 (lane (w0.ctl.vreg x.q i.sl.a.val) (16 * (i.sl.c.val % 4) + r)) (lane (w0.ctl.vreg x.q i.sl.b.val) (32 * (i.sl.c.val / 4 % 2) + j))

/-- MMA: one FP32 addition per element (R135). -/
def fxMma (w0 : W) (x : At) (i : Issued) (w : W) : W := gated w0 x i w (fun w => w.on (fun c =>
  c.tileSet x.q i.sl.d.val (fun r j => add32 (w0.ctl.areg x.q i.sl.d.val r j) (mmaProd w0 x i r j))))

/-- MMAZ: the products. R135's one FP32 addition of MMAZ has no stated addend: the exact product is written, so that −0 stays −0
(DESIGN CHOICE, log entry 150). -/
def fxMmaz (w0 : W) (x : At) (i : Issued) (w : W) : W := gated w0 x i w (fun w => w.on (fun c =>
  c.tileSet x.q i.sl.d.val (mmaProd w0 x i)))

/-- AZERO: aD ← 0. -/
def fxAzero (w0 : W) (x : At) (i : Issued) (w : W) : W := gated w0 x i w (fun w => w.on (fun c =>
  c.tileSet x.q i.sl.d.val (fun _ _ => 0)))

/-- AMOV: aD ← aA. -/
def fxAmov (w0 : W) (x : At) (i : Issued) (w : W) : W := gated w0 x i w (fun w => w.on (fun c =>
  c.tileSet x.q i.sl.d.val (fun r j => w0.ctl.areg x.q i.sl.a.val r j)))

/-- AADD: aD ← aD + aA elementwise (R135). -/
def fxAadd (w0 : W) (x : At) (i : Issued) (w : W) : W := gated w0 x i w (fun w => w.on (fun c =>
  c.tileSet x.q i.sl.d.val (fun r j => add32 (w0.ctl.areg x.q i.sl.d.val r j) (w0.ctl.areg x.q i.sl.a.val r j))))

/-- ARD: lanes of vD ← rows 2C and 2C + 1 of aA rounded to binary16. -/
def fxArd (w0 : W) (x : At) (i : Issued) (w : W) : W := gated w0 x i w (fun w => w.on (fun c =>
  c.vregSet x.q i.sl.d.val (ofLanes (fun l => narrow (w0.ctl.areg x.q i.sl.a.val (2 * i.sl.c.val + l / 32) (l % 32))))))

/-- AWR: rows 2C and 2C + 1 of aD ← lanes of vA widened. -/
def fxAwr (w0 : W) (x : At) (i : Issued) (w : W) : W := gated w0 x i w (fun w => w.on (fun c =>
  let f (r j : Nat) : Word := widen (lane (w0.ctl.vreg x.q i.sl.a.val) (32 * r + j))
  (c.rowSet x.q i.sl.d.val (2 * i.sl.c.val) (f 0)).rowSet x.q i.sl.d.val (2 * i.sl.c.val + 1) (f 1)))

/-! Vector. -/

/-- Enabled lanes of vD written (R130). -/
def vecWrite (w0 : W) (x : At) (i : Issued) (w : W) (v : BitVec 1024) : W := w.on (fun c =>
  c.vregSet x.q i.sl.d.val (mergeLanes (w0.ctl.guard x.q i.sl) (c.vreg x.q i.sl.d.val) v))

/-- A lane operation of vA and vB. -/
def vec2 (w0 : W) (x : At) (i : Issued) (w : W) (f : BitVec 16 → BitVec 16 → BitVec 16) : W :=
  vecWrite w0 x i w (ofLanes (fun l => f (lane (w0.ctl.vreg x.q i.sl.a.val) l) (lane (w0.ctl.vreg x.q i.sl.b.val) l)))

/-- VADD. -/
def fxVadd (w0 : W) (x : At) (i : Issued) (w : W) : W := vec2 w0 x i w add16
/-- VSUB. -/
def fxVsub (w0 : W) (x : At) (i : Issued) (w : W) : W := vec2 w0 x i w sub16
/-- VMUL. -/
def fxVmul (w0 : W) (x : At) (i : Issued) (w : W) : W := vec2 w0 x i w mul16
/-- VFMA: vA × vB + vC, one rounding. -/
def fxVfma (w0 : W) (x : At) (i : Issued) (w : W) : W :=
  vecWrite w0 x i w (ofLanes (fun l => fma16 (lane (w0.ctl.vreg x.q i.sl.a.val) l) (lane (w0.ctl.vreg x.q i.sl.b.val) l)
    (lane (w0.ctl.vreg x.q i.sl.c.val) l)))
/-- VMAX: a NaN operand gives the other. -/
def fxVmax (w0 : W) (x : At) (i : Issued) (w : W) : W := vec2 w0 x i w (pick16 true)
/-- VMIN: a NaN operand gives the other. -/
def fxVmin (w0 : W) (x : At) (i : Issued) (w : W) : W := vec2 w0 x i w (pick16 false)
/-- VMOV. -/
def fxVmov (w0 : W) (x : At) (i : Issued) (w : W) : W := vecWrite w0 x i w (w0.ctl.vreg x.q i.sl.a.val)
/-- VBCST: sA[15:0] in every lane. -/
def fxVbcst (w0 : W) (x : At) (i : Issued) (w : W) : W :=
  vecWrite w0 x i w (ofLanes (fun _ => (w0.ctl.sreg x.q i.sl.a.val).setWidth 16))
/-- VSEL: vA[l] where pC bit l is 1, else vB[l]. -/
def fxVsel (w0 : W) (x : At) (i : Issued) (w : W) : W :=
  vecWrite w0 x i w (mergeLanes (w0.ctl.preg x.q i.sl.c.val) (w0.ctl.vreg x.q i.sl.b.val) (w0.ctl.vreg x.q i.sl.a.val))
/-- Enabled bits of pD written (R130). -/
def predWrite (w0 : W) (x : At) (i : Issued) (w : W) (p : BitVec 64) : W := w.on (fun c =>
  c.pregSet x.q i.sl.d.val (mergeBits (w0.ctl.guard x.q i.sl) (c.preg x.q i.sl.d.val) p))
/-- VCMPLT. -/
def fxVcmplt (w0 : W) (x : At) (i : Issued) (w : W) : W :=
  predWrite w0 x i w (cmpLtLanes (w0.ctl.vreg x.q i.sl.a.val) (w0.ctl.vreg x.q i.sl.b.val))
/-- VCMPEQ. -/
def fxVcmpeq (w0 : W) (x : At) (i : Issued) (w : W) : W :=
  predWrite w0 x i w (cmpEqLanes (w0.ctl.vreg x.q i.sl.a.val) (w0.ctl.vreg x.q i.sl.b.val))
/-- VSHIFT: lane l ← vA[l + IMM] where that is a lane, else 0. -/
def fxVshift (w0 : W) (x : At) (i : Issued) (w : W) : W :=
  vecWrite w0 x i w (ofLanes (fun l =>
    let j := (l : Int) + i.sl.imm.toInt
    if 0 ≤ j ∧ j ≤ 63 then lane (w0.ctl.vreg x.q i.sl.a.val) j.toNat else 0))
/-- VCVTI: unsigned vA[l] × 2^−IMM[4:0]. -/
def fxVcvti (w0 : W) (x : At) (i : Issued) (w : W) : W :=
  vecWrite w0 x i w (ofLanes (fun l => cvti16 (lane (w0.ctl.vreg x.q i.sl.a.val) l) (i.sl.imm.toNat % 32)))
/-- VCVTP: vA[l] × 2^IMM[4:0] rounded, clamped to 0 … 2^IMM[12:8] − 1; of a bound above 16 bits the lane keeps the low 16 bits
(DESIGN CHOICE, log entry 85). -/
def fxVcvtp (w0 : W) (x : At) (i : Issued) (w : W) : W :=
  vecWrite w0 x i w (ofLanes (fun l => cvtp16 (lane (w0.ctl.vreg x.q i.sl.a.val) l) (i.sl.imm.toNat % 32) (fieldGet i.sl.imm 8 5)))
/-- VSUM: the tree sum of the 64 lanes (R135). -/
def fxVsum (w0 : W) (x : At) (i : Issued) (w : W) : W := gated w0 x i w (fun w => w.on (fun c =>
  c.sregSet x.q i.sl.d.val (treeSum ((List.range 64).map (fun l => widen (lane (w0.ctl.vreg x.q i.sl.a.val) l))))))

/-! Scalar. -/

/-- A scalar result of sA and sB. -/
def scal2 (w0 : W) (x : At) (i : Issued) (w : W) (f : Word → Word → Word) : W := gated w0 x i w (fun w => w.on (fun c =>
  c.sregSet x.q i.sl.d.val (f (w0.ctl.sreg x.q i.sl.a.val) (w0.ctl.sreg x.q i.sl.b.val))))

/-- A predicate result. -/
def predSet (w0 : W) (x : At) (i : Issued) (w : W) (p : BitVec 64) : W := gated w0 x i w (fun w => w.on (fun c =>
  c.pregSet x.q i.sl.d.val p))

/-- ADD, modulo 2³². -/
def fxAdd (w0 : W) (x : At) (i : Issued) (w : W) : W := scal2 w0 x i w (· + ·)
/-- SUB, modulo 2³². -/
def fxSub (w0 : W) (x : At) (i : Issued) (w : W) : W := scal2 w0 x i w (· - ·)
/-- MUL: the low 32 bits. -/
def fxMul (w0 : W) (x : At) (i : Issued) (w : W) : W := scal2 w0 x i w (· * ·)
/-- AND. -/
def fxAnd (w0 : W) (x : At) (i : Issued) (w : W) : W := scal2 w0 x i w (· &&& ·)
/-- OR. -/
def fxOr (w0 : W) (x : At) (i : Issued) (w : W) : W := scal2 w0 x i w (· ||| ·)
/-- XOR. -/
def fxXor (w0 : W) (x : At) (i : Issued) (w : W) : W := scal2 w0 x i w (· ^^^ ·)
/-- SHL by sB[4:0]. -/
def fxShl (w0 : W) (x : At) (i : Issued) (w : W) : W := scal2 w0 x i w (fun a b => a <<< (b.toNat % 32))
/-- SHR, logical, by sB[4:0]. -/
def fxShr (w0 : W) (x : At) (i : Issued) (w : W) : W := scal2 w0 x i w (fun a b => a >>> (b.toNat % 32))
/-- SRA, arithmetic, by sB[4:0]. -/
def fxSra (w0 : W) (x : At) (i : Issued) (w : W) : W := scal2 w0 x i w (fun a b => a.sshiftRight (b.toNat % 32))
/-- MIN, signed. -/
def fxMin (w0 : W) (x : At) (i : Issued) (w : W) : W := scal2 w0 x i w (fun a b => if a.slt b then a else b)
/-- MAX, signed. -/
def fxMax (w0 : W) (x : At) (i : Issued) (w : W) : W := scal2 w0 x i w (fun a b => if a.slt b then b else a)
/-- ADDI, modulo 2³². -/
def fxAddi (w0 : W) (x : At) (i : Issued) (w : W) : W := gated w0 x i w (fun w => w.on (fun c =>
  c.sregSet x.q i.sl.d.val (w0.ctl.sreg x.q i.sl.a.val + i.sl.imm)))
/-- LI. -/
def fxLi (w0 : W) (x : At) (i : Issued) (w : W) : W := gated w0 x i w (fun w => w.on (fun c => c.sregSet x.q i.sl.d.val i.sl.imm))
/-- CMPLT. -/
def fxCmplt (w0 : W) (x : At) (i : Issued) (w : W) : W :=
  predSet w0 x i w (cmpLt (w0.ctl.sreg x.q i.sl.a.val) (w0.ctl.sreg x.q i.sl.b.val))
/-- CMPEQ. -/
def fxCmpeq (w0 : W) (x : At) (i : Issued) (w : W) : W :=
  predSet w0 x i w (cmpEq (w0.ctl.sreg x.q i.sl.a.val) (w0.ctl.sreg x.q i.sl.b.val))
/-- PAND. -/
def fxPand (w0 : W) (x : At) (i : Issued) (w : W) : W :=
  predSet w0 x i w (w0.ctl.preg x.q i.sl.a.val &&& w0.ctl.preg x.q i.sl.b.val)
/-- POR. -/
def fxPor (w0 : W) (x : At) (i : Issued) (w : W) : W :=
  predSet w0 x i w (w0.ctl.preg x.q i.sl.a.val ||| w0.ctl.preg x.q i.sl.b.val)
/-- PNOT. -/
def fxPnot (w0 : W) (x : At) (i : Issued) (w : W) : W := predSet w0 x i w (~~~ w0.ctl.preg x.q i.sl.a.val)
/-- PTAIL. -/
def fxPtail (w0 : W) (x : At) (i : Issued) (w : W) : W := predSet w0 x i w (tailBits (w0.ctl.sreg x.q i.sl.a.val))

/-- The special registers of Table 4.3. -/
def specialReg (x : At) (i : Nat) : Word :=
  match i with
  | 0 => w32 x.k
  | 1 => x.t.task
  | 2 => x.t.frame
  | 3 => w32 x.t.line
  | _ => w32 x.t.phase

/-- RDSR: sD ← special register C of Table 4.3 (R127). -/
def fxRdsr (w0 : W) (x : At) (i : Issued) (w : W) : W := gated w0 x i w (fun w => w.on (fun c =>
  c.sregSet x.q i.sl.d.val (specialReg x i.sl.c.val)))

/-! Channels. -/

/-- A message sent: after the FENCE it is held until the destination answers (R139, R187); one beyond a capacity-checked
channel's CAP is negatively acknowledged at the sender (R193). -/
def sendMsg (w0 : W) (x : At) (i : Issued) (m : Msg) (w : W) : W := gated w0 x i w (fun w =>
  let ch := i.chan
  let w := (w.fence x.n x.k).on (fun c => c.commit x.q)
  let capped := w.ctl.on (F.chnRouteMode ch) && decide (w.ctl.get (F.chnOrderCapM1 ch) + 1 ≤ w.ctl.level ch)
  if capped && !w.ctl.on (F.chnRouteRetry ch) then w.on (fun c => (c.nack ch).pregSet x.q i.sl.d.val 0)
  else
    let w := w.on (fun c => (c.await x.q i).coreSet x.q { (c.await x.q i).core x.q with msg := m, nacked := capped })
    if capped then w.on (fun c => (c.nack ch).bump (F.chnStallCount ch) 1) else w)

/-- SEND.V. -/
def fxSendV (w0 : W) (x : At) (i : Issued) (w : W) : W := sendMsg w0 x i (w0.ctl.vreg x.q i.sl.a.val) w
/-- SEND.S. -/
def fxSendS (w0 : W) (x : At) (i : Issued) (w : W) : W := sendMsg w0 x i ((w0.ctl.sreg x.q i.sl.a.val).setWidth 1024) w

/-- A RECV that issues: an empty FIFO counts as a stall (R191). -/
def recvIssue (w0 : W) (x : At) (i : Issued) (w : W) : W := gated w0 x i w (fun w => w.on (fun c =>
  let c := if (c.fifo i.chan x.k).isEmpty then c.bump (F.chnStallCount i.chan) 1 else c
  c.await x.q i))

/-- RECV.V: vD ← message. -/
def fxRecvV (w0 : W) (x : At) (i : Issued) (w : W) : W := recvIssue w0 x i w
/-- RECV.S: sD ← message. -/
def fxRecvS (w0 : W) (x : At) (i : Issued) (w : W) : W := recvIssue w0 x i w
/-- TRECV.V: a waiting message in vD with pC all ones, else pC 0 (R191). -/
def fxTrecvV (w0 : W) (x : At) (i : Issued) (w : W) : W := gated w0 x i w (fun w => w.on (fun c =>
  match c.fifo i.chan x.k with
  | [] => (c.bump (F.chnStallCount i.chan) 1).pregSet x.q i.sl.c.val 0
  | m :: _ => ((c.receive i.chan x.k).vregSet x.q i.sl.d.val m).pregSet x.q i.sl.c.val (BitVec.allOnes 64)))

/-! Sync. -/

/-- BR: PC ← PC + IMM. -/
def fxBr (w0 : W) (x : At) (i : Issued) (w : W) : W := gated w0 x i w (fun w => w.on (fun c => c.branch x.q (x.target i)))
/-- JMP: PC ← sA[11:0]. -/
def fxJmp (w0 : W) (x : At) (i : Issued) (w : W) : W := gated w0 x i w (fun w => w.on (fun c =>
  c.branch x.q (w0.ctl.sreg x.q i.sl.a.val).toNat))
/-- CALL: s63 ← PC + 1; PC ← PC + IMM. -/
def fxCall (w0 : W) (x : At) (i : Issued) (w : W) : W := gated w0 x i w (fun w => w.on (fun c =>
  (c.sregSet x.q 63 (w32 (x.pc + 1))).branch x.q (x.target i)))
/-- RET: PC ← s63[11:0]. -/
def fxRet (w0 : W) (x : At) (i : Issued) (w : W) : W := gated w0 x i w (fun w => w.on (fun c =>
  c.branch x.q (w0.ctl.sreg x.q 63).toNat))
/-- HINT: PC + IMM is the expected target of the next taken branch. -/
def fxHint (w0 : W) (x : At) (i : Issued) (w : W) : W := gated w0 x i w (fun w => w.on (fun c =>
  c.coreSet x.q { c.core x.q with hint := some (x.target i) }))
/-- SWAIT: waits for the count (R198). -/
def fxSwait (w0 : W) (x : At) (i : Issued) (w : W) : W := gated w0 x i w (fun w => w.on (fun c => c.await x.q i))
/-- SSIG: after the FENCE the count is added, with fill tags and credits (R139, R198, R201, R205). -/
def fxSsig (w0 : W) (x : At) (i : Issued) (w : W) : W := gated w0 x i w (fun w =>
  ((w.fence x.n x.k).on (fun c => c.commit x.q)).on (fun c => c.signal i.sem i.count x.k))
/-- STRY: the count taken with pD all ones, or pD 0. -/
def fxStry (w0 : W) (x : At) (i : Issued) (w : W) : W := gated w0 x i w (fun w => w.on (fun c =>
  if i.count ≤ c.get (F.semCountCount i.sem) then
    (c.put (F.semCountCount i.sem) (c.get (F.semCountCount i.sem) - i.count)).pregSet x.q i.sl.d.val (BitVec.allOnes 64)
  else c.pregSet x.q i.sl.d.val 0))
/-- CRGET: waits for the credits (R200). -/
def fxCrget (w0 : W) (x : At) (i : Issued) (w : W) : W := gated w0 x i w (fun w => w.on (fun c => c.await x.q i))
/-- CRPUT: credits back to FREE, from LODGED by the consumer, from HELD by another core (R139, R200). -/
def fxCrput (w0 : W) (x : At) (i : Issued) (w : W) : W := gated w0 x i w (fun w =>
  ((w.fence x.n x.k).on (fun c => c.commit x.q)).on (fun c =>
    let p := i.sem
    let c := if c.get (F.chnCpGuardConsumer p) = x.k then
        c.put (F.chnCpLodgedLodged p) (c.get (F.chnCpLodgedLodged p) - i.count)
      else c.heldSet p x.k (c.held p x.k - i.count)
    c.put (F.chnCpCountFree p) (c.get (F.chnCpCountFree p) + i.count)))
/-- FENCE: every earlier write of the core reaches its destination. -/
def fxFence (w0 : W) (x : At) (i : Issued) (w : W) : W := gated w0 x i w (fun w => w.fence x.n x.k)

/-- The tag TAGW writes over an old one (R134): BAD stays of the same line, RERUN enters where the task's line was rerun
(R178). -/
def tagValue (old b : Word) (stand : Nat) (rerun : Bool) : Word :=
  let line := b.toNat % 2 ^ 13
  let frame := fieldGet b 13 8
  let same := fieldGet old 0 13 == line && fieldGet old 13 8 == frame
  w32 (fieldGet b 31 1 * 2 ^ 31 + bit (same && old.getLsbD 30) * 2 ^ 30 + bit rerun * 2 ^ 29 + stand * 2 ^ 24 + frame * 2 ^ 13 + line)

/-- TAGW: after the FENCE the ready tag of the slot, or a late write (R32, R134). -/
def fxTagw (w0 : W) (x : At) (i : Issued) (w : W) : W := gated w0 x i w (fun w =>
  let w := (w.fence x.n x.k).on (fun c => c.commit x.q)
  let b := w0.ctl.sreg x.q i.sl.b.val
  match w0.ctl.tagSlot x.q x.k x.t i with
  | none => w
  | some (s, j) => w.on (fun c =>
    if c.drained s 8 (fieldGet b 13 8) (b.toNat % 2 ^ 13) then c.bump (F.rasLateWrCount s) 1
    else
      let c := c.tagSet s j (tagValue (c.tag s j) b x.n (c.fab.reruns.contains x.t.lineKey))
      { c with ras := { c.ras with tagTime := mset 0 c.ras.tagTime (64 * s + j) c.now } }))

/-- HALT: after the FENCE the task ends when the bundle completes (R185). -/
def fxHalt (w0 : W) (x : At) (i : Issued) (w : W) : W := gated w0 x i w (fun w =>
  (w.fence x.n x.k).on (fun c => c.coreSet x.q { c.core x.q with halting := true }))

/-- The effect of a slot that passed the checks. TRAP never gets here with its guard on: cause 9 stops the bundle. -/
def fx (w0 : W) (x : At) (i : Issued) (w : W) : W :=
  match i.op with
  | .nop | .trap => w
  | .ldS => fxLdS w0 x i w
  | .stS => fxStS w0 x i w
  | .ldV => fxLdV w0 x i w
  | .stV => fxStV w0 x i w
  | .ldVb => fxLdVb w0 x i w
  | .ldVx => fxLdVx w0 x i w
  | .ldAr => fxLdAr w0 x i w
  | .stAr => fxStAr w0 x i w
  | .stAh => fxStAh w0 x i w
  | .stAcc => fxStAcc w0 x i w
  | .mma => fxMma w0 x i w
  | .mmaz => fxMmaz w0 x i w
  | .azero => fxAzero w0 x i w
  | .amov => fxAmov w0 x i w
  | .aadd => fxAadd w0 x i w
  | .ard => fxArd w0 x i w
  | .awr => fxAwr w0 x i w
  | .vadd => fxVadd w0 x i w
  | .vsub => fxVsub w0 x i w
  | .vmul => fxVmul w0 x i w
  | .vfma => fxVfma w0 x i w
  | .vmax => fxVmax w0 x i w
  | .vmin => fxVmin w0 x i w
  | .vmov => fxVmov w0 x i w
  | .vbcst => fxVbcst w0 x i w
  | .vsel => fxVsel w0 x i w
  | .vcmplt => fxVcmplt w0 x i w
  | .vcmpeq => fxVcmpeq w0 x i w
  | .vshift => fxVshift w0 x i w
  | .vcvti => fxVcvti w0 x i w
  | .vcvtp => fxVcvtp w0 x i w
  | .vsum => fxVsum w0 x i w
  | .add => fxAdd w0 x i w
  | .sub => fxSub w0 x i w
  | .mul => fxMul w0 x i w
  | .and => fxAnd w0 x i w
  | .or => fxOr w0 x i w
  | .xor => fxXor w0 x i w
  | .shl => fxShl w0 x i w
  | .shr => fxShr w0 x i w
  | .sra => fxSra w0 x i w
  | .min => fxMin w0 x i w
  | .max => fxMax w0 x i w
  | .addi => fxAddi w0 x i w
  | .li => fxLi w0 x i w
  | .cmplt => fxCmplt w0 x i w
  | .cmpeq => fxCmpeq w0 x i w
  | .pand => fxPand w0 x i w
  | .por => fxPor w0 x i w
  | .pnot => fxPnot w0 x i w
  | .ptail => fxPtail w0 x i w
  | .rdsr => fxRdsr w0 x i w
  | .sendV => fxSendV w0 x i w
  | .sendS => fxSendS w0 x i w
  | .recvV => fxRecvV w0 x i w
  | .recvS => fxRecvS w0 x i w
  | .trecvV => fxTrecvV w0 x i w
  | .br => fxBr w0 x i w
  | .jmp => fxJmp w0 x i w
  | .call => fxCall w0 x i w
  | .ret => fxRet w0 x i w
  | .hint => fxHint w0 x i w
  | .swait => fxSwait w0 x i w
  | .ssig => fxSsig w0 x i w
  | .stry => fxStry w0 x i w
  | .crget => fxCrget w0 x i w
  | .crput => fxCrput w0 x i w
  | .fence => fxFence w0 x i w
  | .tagw => fxTagw w0 x i w
  | .halt => fxHalt w0 x i w

/-! Completion of a bundle. -/

/-- A bundle with no waiting slot completes: the task ends at HALT, else the PC moves (R140, R185). -/
def W.finish (w : W) (x : At) : W :=
  let cs := w.ctl.core x.q
  if cs.waiting ≠ [] then w
  else if cs.halting then (w.on (fun c => c.taskDone x.q x.k x.t)).shedQuiet
  else w.on (fun c => c.put (F.stdCorePcPc x.n (x.q % 8)) cs.nextPc)

/-- One waiting slot tried: a message, a count or a credit that is there completes it (R188, R198, R200); the Bool says so.
A SEND completes only by its answer. -/
def Ctl.tryWait (c : Ctl) (q k : Nat) (i : Issued) : Ctl × Bool :=
  match i.op with
  | .swait => if c.semTurn k i.sem ∧ i.count ≤ c.get (F.semCountCount i.sem) then (c.semTake i.sem i.count k, true) else (c, false)
  | .crget =>
    if i.count ≤ c.get (F.chnCpCountFree i.sem) then
      ((c.put (F.chnCpCountFree i.sem) (c.get (F.chnCpCountFree i.sem) - i.count)).creditTake i.sem k (c.held i.sem k + i.count), true)
    else (c, false)
  | .recvV => match c.fifo i.chan k with
    | m :: _ => ((c.receive i.chan k).vregSet q i.sl.d.val m, true)
    | [] => (c, false)
  | .recvS => match c.fifo i.chan k with
    | m :: _ => ((c.receive i.chan k).sregSet q i.sl.d.val (m.setWidth 32), true)
    | [] => (c, false)
  | _ => (c, false)

/-- Every waiting slot tried once, in slot order. -/
def Ctl.tryAll (c : Ctl) (q k : Nat) : Ctl :=
  (c.core q).waiting.foldl (fun c i =>
    let (c', ok) := c.tryWait q k i
    if ok then c'.coreSet q { c'.core q with waiting := (c'.core q).waiting.filter (fun j => j != i) } else c) c

/-! Issue. -/

/-- The 256-bit words that a load slot reads, access by access, each as a target of its own. -/
def W.slotWords (w : W) (x : At) (i : Issued) : List Tgt :=
  (w.ctl.accesses x.q i).flatMap (fun a => match w.ctl.xlate x.q x.k x.t a.2.2 a.1 a.2.1 with
    | none => []
    | some g => (List.range ((wordKey (g.key + a.2.1 - 1) - wordKey g.key) / 32 + 1)).map (fun j =>
        { g with key := wordKey g.key + 32 * j, off := g.off - g.key % 32 + 32 * j }))

/-- Whether a word read is checked: it is neither pending (R164) nor in an unfilled slot (R206). -/
def W.checked (w : W) (g : Tgt) : Bool := (w.ctl.unfilled g).isNone && !w.mem.pendingAt g.key

/-- Whether a load of a slot detects (R175), in the first poisoned word it reads, else in the word the upset lies in; an upset named
with another operation is one of the bundle fetch at the PC. -/
def W.slotDetects (w : W) (x : At) (i : Issued) : Option (Tgt × Bool) :=
  match i.op with
  | .ldS | .ldV | .ldVb | .ldVx | .ldAr =>
    let ws := w.slotWords x i
    match ws.find? (fun g => w.checked g && w.mem.poisonAt g.key) with
    | some g => some (g, true)
    | none => match ws[i.sl.upsetWord]? with
      | some g => if i.sl.upset && w.checked g then some (g, false) else none
      | none => none
  | .stAcc => none
  | _ =>
    let off := 128 * x.pc + 16 * i.sl.slot.val
    if i.sl.upset && !w.mem.pendingAt (cmemKey x.q off) then some (⟨cmemKey x.q off, 1, false, none, off, none⟩, false) else none

/-- The bundle that issued waits: counted once (Table 4.9). -/
def Ctl.countWait (c : Ctl) (x : At) : Ctl :=
  if (c.core x.q).waited then c
  else (c.bump (F.stdCoreWaitCount x.n (x.q % 8)) 1).coreSet x.q { c.core x.q with waited := true }

/-- The energy estimates of a bundle that issues, for its task (R415, R417; log entry 9): the VCORE energy of each operation, from
its slot and the setpoint in force, and the memory energy of the accesses it makes to Canopy and of the DRAM bytes it reaches. Kept
by OWNER and, of a stream's task, FRAME. -/
def Ctl.bundleEnergy (c : Ctl) (x : At) (b : List Issued) : Ctl :=
  let key := x.t.owner * 2 ^ 32 + if x.t.isJob then 0 else x.t.frame.toNat
  let core := b.foldl (fun e i => e + Config.energySlot i.sl.slot.val (c.get F.phcGovStatusSetMv)) 0
  let mem := (b.flatMap (c.accesses x.q)).foldl (fun e a => match c.xlate x.q x.k x.t a.2.2 a.1 a.2.1 with
    | some g => if g.level ≠ 2 then e else if g.dram then e + a.2.1 * Config.energyDram else e + Config.energyCanopy
    | none => e) 0
  { c with fab := { c.fab with enFab := mset 0 c.fab.enFab key (mget 0 c.fab.enFab key + core)
                               enMem := mset 0 c.fab.enMem key (mget 0 c.fab.enMem key + mem) } }

/-- The staged bundle issues (R142): it faults, waits for a BUSY handle (R167), detects (R175), or acts slot by slot and
completes or waits. -/
def W.tryIssue (w : W) (x : At) : W :=
  let b := (w.ctl.core x.q).staged
  let clear (w : W) : W := w.on (fun c => c.coreSet x.q { c.core x.q with staged := [] })
  match w.ctl.bundleCause x.q x.k x.t x.pc b with
  | some (slot, cause) =>
    let code := if cause = 9 then (match b.find? (fun i => i.op == .trap) with
      | some i => i.sl.imm.toNat % 65536
      | none => 0) else 0
    (clear w).coreFault x.q x.k x.t slot cause code
  | none =>
    if w.ctl.bundleBusy x.q x.k x.t b then w
    else match b.findSome? (fun i => w.slotDetects x i) with
    | some (g, poison) => (clear w).detect x.q x.k x.t g poison
    | none =>
      let w := clear w
      let w := w.on (fun c => (c.bundleEnergy x b).bump (F.stdCoreIssueCount x.n (x.q % 8)) 1)
      let w := w.on (fun c => c.coreSet x.q { c.core x.q with nextPc := (x.pc + 1) % 4096, halting := false, nacked := false, waited := false })
      let w := b.foldl (fun v i => fx w x i (v.mergeUpset x.n i.sl.mergeUpset)) w
      let w := w.on (fun c => c.tryAll x.q x.k)
      let w := if (w.ctl.core x.q).waiting.any (fun i => !(i.op == .sendV || i.op == .sendS) || (w.ctl.core x.q).nacked) then
          w.on (fun c => c.countWait x) else w
      w.finish x

/-- Where logical core k runs, if its stand executes a task on it. -/
def Ctl.atCore (c : Ctl) (k : Nat) : Option At :=
  match c.physOf k with
  | none => none
  | some q => match (c.core q).task with
    | none => none
    | some t => some ⟨q, k, t, c.get (F.stdCorePcPc (q / 8) (q % 8))⟩

/-- A slot put among the staged ones in slot order. -/
def stage (l : List Issued) (i : Issued) : List Issued :=
  l.filter (fun j => decide (j.sl.slot < i.sl.slot)) ++ [i] ++ l.filter (fun j => decide (i.sl.slot < j.sl.slot))

/-- Whether a whole bundle is staged and waits to issue. -/
def CoreSt.ready (cs : CoreSt) : Bool := cs.staged.any (fun i => i.sl.last)

/-- An operation in a slot of the next bundle of logical core k: staged, and the bundle issued with its last slot. It
happens only while the core runs a task and holds no bundle (log entry 25). -/
def W.slot (w : W) (k : Nat) (i : Issued) : W :=
  match w.ctl.atCore k with
  | none => w
  | some x =>
    let cs := w.ctl.core x.q
    if !w.ctl.running || cs.waiting != [] || cs.ready then w
    else
      let w := w.on (fun c => c.coreSet x.q { cs with staged := stage cs.staged i })
      if i.sl.last then w.tryIssue x else w

/-- A held bundle of logical core k completes what it can (R140), or a bundle that waited for a BUSY handle issues
(R167). -/
def W.resume (w : W) (k : Nat) : W :=
  match w.ctl.atCore k with
  | none => w
  | some x =>
    let cs := w.ctl.core x.q
    if !w.ctl.running then w
    else if cs.waiting != [] then (w.on (fun c => c.tryAll x.q k)).finish x
    else if cs.ready then w.tryIssue x
    else w

/-- The message a SEND of logical core k holds reaches its destination (R187 … R189): accepted, or negatively
acknowledged; with RETRY it stays held. The Bool says that this is a resend. -/
def W.answer (w : W) (k : Nat) (again : Bool) : W :=
  match w.ctl.atCore k with
  | none => w
  | some x =>
    let cs := w.ctl.core x.q
    match cs.waiting.find? (fun i => i.op == .sendV || i.op == .sendS) with
    | none => w
    | some i =>
      if !w.ctl.running || cs.nacked != again then w
      else
        let ch := i.chan
        let capped := w.ctl.on (F.chnRouteMode ch) && decide (w.ctl.get (F.chnOrderCapM1 ch) + 1 ≤ w.ctl.level ch)
        let free (c : Ctl) : Ctl := c.coreSet x.q { c.core x.q with waiting := (c.core x.q).waiting.filter (fun j => j != i), nacked := false }
        if !capped && w.ctl.accepts ch then
          (w.on (fun c => (free (c.deliver ch cs.msg)).pregSet x.q i.sl.d.val (BitVec.allOnes 64))).finish x
        else if w.ctl.on (F.chnRouteRetry ch) then
          w.on (fun c =>
            let c := c.nack ch
            let c := if again then c else (c.bump (F.chnStallCount ch) 1).countWait x
            c.coreSet x.q { c.core x.q with nacked := true })
        else (w.on (fun c => (free (c.nack ch)).pregSet x.q i.sl.d.val 0)).finish x

/-- A host job's wait that reached JOB_WAIT ends as a core fault (R121): only a task of a job owner whose bundle waits on a
channel, a semaphore or a credit, with a limit that is not 0. -/
def W.waitLimit (w : W) (k : Nat) : W :=
  match w.ctl.atCore k with
  | none => w
  | some x =>
    let cs := w.ctl.core x.q
    match cs.waiting with
    | [] => w
    | i :: _ =>
      if !w.ctl.running || !x.t.isJob || w.ctl.get (F.stdWdogJobWait x.n) == 0 then w
      else w.coreFault x.q k x.t i.sl.slot.val 10 0

end Sys2Proof.Machine
end

