-- ==== Sys2Proof/Machine/TileOps.lean ====
section
/-! DEFINITION. The tile-core commands: one operation in one slot of a logical core's next bundle, each a line over W.slot
(Bundle.lean); the answers, retries and waits of a held bundle; the start of a task; the stand watchdog. -/

namespace Sys2Proof.Machine

/-- NOP (R130): NOP has no effect. -/
def execNop (k : Fin 128) (sl : Slot) (s : State) : Host.Outcome State Fault Refusal := onHw s (fun w => w.slot k.val ⟨.nop, sl⟩)

/-- LD.S (R131): LD.S loads a 32-bit word at ea into sD. -/
def execLdS (k : Fin 128) (sl : Slot) (s : State) : Host.Outcome State Fault Refusal := onHw s (fun w => w.slot k.val ⟨.ldS, sl⟩)

/-- ST.S (R131): ST.S stores sB at ea. -/
def execStS (k : Fin 128) (sl : Slot) (s : State) : Host.Outcome State Fault Refusal := onHw s (fun w => w.slot k.val ⟨.stS, sl⟩)

/-- LD.V (R131): LD.V loads 64 binary16 values at ea into vD. -/
def execLdV (k : Fin 128) (sl : Slot) (s : State) : Host.Outcome State Fault Refusal := onHw s (fun w => w.slot k.val ⟨.ldV, sl⟩)

/-- ST.V (R131): ST.V stores vB as 64 binary16 values at ea. -/
def execStV (k : Fin 128) (sl : Slot) (s : State) : Host.Outcome State Fault Refusal := onHw s (fun w => w.slot k.val ⟨.stV, sl⟩)

/-- LD.VB (R131): LD.VB broadcasts one binary16 at ea into every lane of vD. -/
def execLdVb (k : Fin 128) (sl : Slot) (s : State) : Host.Outcome State Fault Refusal := onHw s (fun w => w.slot k.val ⟨.ldVb, sl⟩)

/-- LD.VX (R131): LD.VX loads lane i of vD from ea + i × sB. -/
def execLdVx (k : Fin 128) (sl : Slot) (s : State) : Host.Outcome State Fault Refusal := onHw s (fun w => w.slot k.val ⟨.ldVx, sl⟩)

/-- LD.AR (R131): LD.AR loads 32 FP32 values at ea into row C of aD. -/
def execLdAr (k : Fin 128) (sl : Slot) (s : State) : Host.Outcome State Fault Refusal := onHw s (fun w => w.slot k.val ⟨.ldAr, sl⟩)

/-- ST.AR (R131): ST.AR stores row C of aB as 32 FP32 values at ea. -/
def execStAr (k : Fin 128) (sl : Slot) (s : State) : Host.Outcome State Fault Refusal := onHw s (fun w => w.slot k.val ⟨.stAr, sl⟩)

/-- ST.AH (R131): ST.AH stores row C of aB rounded to binary16 at ea. -/
def execStAh (k : Fin 128) (sl : Slot) (s : State) : Host.Outcome State Fault Refusal := onHw s (fun w => w.slot k.val ⟨.stAh, sl⟩)

/-- ST.ACC (R168): ST.ACC accumulates row C of aB into Canopy at ea by the selected accumulate-on-write operation. -/
def execStAcc (k : Fin 128) (sl : Slot) (s : State) : Host.Outcome State Fault Refusal := onHw s (fun w => w.slot k.val ⟨.stAcc, sl⟩)

/-- MMA (R135): MMA adds the outer product of a quarter of vA and a half of vB into aD. -/
def execMma (k : Fin 128) (sl : Slot) (s : State) : Host.Outcome State Fault Refusal := onHw s (fun w => w.slot k.val ⟨.mma, sl⟩)

/-- MMAZ (R135): MMAZ writes the outer product of a quarter of vA and a half of vB into aD. -/
def execMmaz (k : Fin 128) (sl : Slot) (s : State) : Host.Outcome State Fault Refusal := onHw s (fun w => w.slot k.val ⟨.mmaz, sl⟩)

/-- AZERO (R131): AZERO sets aD to zero. -/
def execAzero (k : Fin 128) (sl : Slot) (s : State) : Host.Outcome State Fault Refusal := onHw s (fun w => w.slot k.val ⟨.azero, sl⟩)

/-- AMOV (R131): AMOV copies aA into aD. -/
def execAmov (k : Fin 128) (sl : Slot) (s : State) : Host.Outcome State Fault Refusal := onHw s (fun w => w.slot k.val ⟨.amov, sl⟩)

/-- AADD (R135): AADD adds aA into aD elementwise. -/
def execAadd (k : Fin 128) (sl : Slot) (s : State) : Host.Outcome State Fault Refusal := onHw s (fun w => w.slot k.val ⟨.aadd, sl⟩)

/-- ARD (R131): ARD reads two accumulator rows of aA into vD rounded to binary16. -/
def execArd (k : Fin 128) (sl : Slot) (s : State) : Host.Outcome State Fault Refusal := onHw s (fun w => w.slot k.val ⟨.ard, sl⟩)

/-- AWR (R131): AWR writes the lanes of vA widened to FP32 into two rows of aD. -/
def execAwr (k : Fin 128) (sl : Slot) (s : State) : Host.Outcome State Fault Refusal := onHw s (fun w => w.slot k.val ⟨.awr, sl⟩)

/-- VADD (R131): VADD adds vA and vB lane by lane. -/
def execVadd (k : Fin 128) (sl : Slot) (s : State) : Host.Outcome State Fault Refusal := onHw s (fun w => w.slot k.val ⟨.vadd, sl⟩)

/-- VSUB (R131): VSUB subtracts vB from vA lane by lane. -/
def execVsub (k : Fin 128) (sl : Slot) (s : State) : Host.Outcome State Fault Refusal := onHw s (fun w => w.slot k.val ⟨.vsub, sl⟩)

/-- VMUL (R131): VMUL multiplies vA and vB lane by lane. -/
def execVmul (k : Fin 128) (sl : Slot) (s : State) : Host.Outcome State Fault Refusal := onHw s (fun w => w.slot k.val ⟨.vmul, sl⟩)

/-- VFMA (R131): VFMA computes vA × vB + vC with one rounding. -/
def execVfma (k : Fin 128) (sl : Slot) (s : State) : Host.Outcome State Fault Refusal := onHw s (fun w => w.slot k.val ⟨.vfma, sl⟩)

/-- VMAX (R131): VMAX takes the lane maximum of vA and vB. -/
def execVmax (k : Fin 128) (sl : Slot) (s : State) : Host.Outcome State Fault Refusal := onHw s (fun w => w.slot k.val ⟨.vmax, sl⟩)

/-- VMIN (R131): VMIN takes the lane minimum of vA and vB. -/
def execVmin (k : Fin 128) (sl : Slot) (s : State) : Host.Outcome State Fault Refusal := onHw s (fun w => w.slot k.val ⟨.vmin, sl⟩)

/-- VMOV (R131): VMOV copies vA into vD. -/
def execVmov (k : Fin 128) (sl : Slot) (s : State) : Host.Outcome State Fault Refusal := onHw s (fun w => w.slot k.val ⟨.vmov, sl⟩)

/-- VBCST (R131): VBCST broadcasts sA[15:0] into every lane of vD. -/
def execVbcst (k : Fin 128) (sl : Slot) (s : State) : Host.Outcome State Fault Refusal := onHw s (fun w => w.slot k.val ⟨.vbcst, sl⟩)

/-- VSEL (R131): VSEL selects lanes of vA or vB by pC. -/
def execVsel (k : Fin 128) (sl : Slot) (s : State) : Host.Outcome State Fault Refusal := onHw s (fun w => w.slot k.val ⟨.vsel, sl⟩)

/-- VCMPLT (R131): VCMPLT sets pD lanes where vA < vB. -/
def execVcmplt (k : Fin 128) (sl : Slot) (s : State) : Host.Outcome State Fault Refusal := onHw s (fun w => w.slot k.val ⟨.vcmplt, sl⟩)

/-- VCMPEQ (R131): VCMPEQ sets pD lanes where vA equals vB. -/
def execVcmpeq (k : Fin 128) (sl : Slot) (s : State) : Host.Outcome State Fault Refusal := onHw s (fun w => w.slot k.val ⟨.vcmpeq, sl⟩)

/-- VSHIFT (R131): VSHIFT shifts the lanes of vA by IMM, filling with zero. -/
def execVshift (k : Fin 128) (sl : Slot) (s : State) : Host.Outcome State Fault Refusal := onHw s (fun w => w.slot k.val ⟨.vshift, sl⟩)

/-- VCVTI (R131): VCVTI converts unsigned integer lanes to binary16 scaled by 2^−IMM. -/
def execVcvti (k : Fin 128) (sl : Slot) (s : State) : Host.Outcome State Fault Refusal := onHw s (fun w => w.slot k.val ⟨.vcvti, sl⟩)

/-- VCVTP (R244): VCVTP converts binary16 lanes to rounded, clamped unsigned integers. -/
def execVcvtp (k : Fin 128) (sl : Slot) (s : State) : Host.Outcome State Fault Refusal := onHw s (fun w => w.slot k.val ⟨.vcvtp, sl⟩)

/-- VSUM (R135): VSUM adds the 64 lanes of vA in FP32 in a fixed tree into sD. -/
def execVsum (k : Fin 128) (sl : Slot) (s : State) : Host.Outcome State Fault Refusal := onHw s (fun w => w.slot k.val ⟨.vsum, sl⟩)

/-- ADD (R131): ADD adds sA and sB modulo 2³². -/
def execAdd (k : Fin 128) (sl : Slot) (s : State) : Host.Outcome State Fault Refusal := onHw s (fun w => w.slot k.val ⟨.add, sl⟩)

/-- SUB (R131): SUB subtracts sB from sA modulo 2³². -/
def execSub (k : Fin 128) (sl : Slot) (s : State) : Host.Outcome State Fault Refusal := onHw s (fun w => w.slot k.val ⟨.sub, sl⟩)

/-- MUL (R131): MUL writes the low 32 bits of sA × sB. -/
def execMul (k : Fin 128) (sl : Slot) (s : State) : Host.Outcome State Fault Refusal := onHw s (fun w => w.slot k.val ⟨.mul, sl⟩)

/-- AND (R131): AND writes sA AND sB. -/
def execAnd (k : Fin 128) (sl : Slot) (s : State) : Host.Outcome State Fault Refusal := onHw s (fun w => w.slot k.val ⟨.and, sl⟩)

/-- OR (R131): OR writes sA OR sB. -/
def execOr (k : Fin 128) (sl : Slot) (s : State) : Host.Outcome State Fault Refusal := onHw s (fun w => w.slot k.val ⟨.or, sl⟩)

/-- XOR (R131): XOR writes sA XOR sB. -/
def execXor (k : Fin 128) (sl : Slot) (s : State) : Host.Outcome State Fault Refusal := onHw s (fun w => w.slot k.val ⟨.xor, sl⟩)

/-- SHL (R131): SHL shifts sA left by sB[4:0]. -/
def execShl (k : Fin 128) (sl : Slot) (s : State) : Host.Outcome State Fault Refusal := onHw s (fun w => w.slot k.val ⟨.shl, sl⟩)

/-- SHR (R131): SHR shifts sA right logically by sB[4:0]. -/
def execShr (k : Fin 128) (sl : Slot) (s : State) : Host.Outcome State Fault Refusal := onHw s (fun w => w.slot k.val ⟨.shr, sl⟩)

/-- SRA (R131): SRA shifts sA right arithmetically by sB[4:0]. -/
def execSra (k : Fin 128) (sl : Slot) (s : State) : Host.Outcome State Fault Refusal := onHw s (fun w => w.slot k.val ⟨.sra, sl⟩)

/-- MIN (R131): MIN writes the signed minimum of sA and sB. -/
def execMin (k : Fin 128) (sl : Slot) (s : State) : Host.Outcome State Fault Refusal := onHw s (fun w => w.slot k.val ⟨.min, sl⟩)

/-- MAX (R131): MAX writes the signed maximum of sA and sB. -/
def execMax (k : Fin 128) (sl : Slot) (s : State) : Host.Outcome State Fault Refusal := onHw s (fun w => w.slot k.val ⟨.max, sl⟩)

/-- ADDI (R131): ADDI adds IMM to sA modulo 2³². -/
def execAddi (k : Fin 128) (sl : Slot) (s : State) : Host.Outcome State Fault Refusal := onHw s (fun w => w.slot k.val ⟨.addi, sl⟩)

/-- LI (R131): LI loads IMM into sD. -/
def execLi (k : Fin 128) (sl : Slot) (s : State) : Host.Outcome State Fault Refusal := onHw s (fun w => w.slot k.val ⟨.li, sl⟩)

/-- CMPLT (R131): CMPLT sets every bit of pD to the signed comparison sA < sB. -/
def execCmplt (k : Fin 128) (sl : Slot) (s : State) : Host.Outcome State Fault Refusal := onHw s (fun w => w.slot k.val ⟨.cmplt, sl⟩)

/-- CMPEQ (R131): CMPEQ sets every bit of pD to sA = sB. -/
def execCmpeq (k : Fin 128) (sl : Slot) (s : State) : Host.Outcome State Fault Refusal := onHw s (fun w => w.slot k.val ⟨.cmpeq, sl⟩)

/-- PAND (R131): PAND writes pA AND pB. -/
def execPand (k : Fin 128) (sl : Slot) (s : State) : Host.Outcome State Fault Refusal := onHw s (fun w => w.slot k.val ⟨.pand, sl⟩)

/-- POR (R131): POR writes pA OR pB. -/
def execPor (k : Fin 128) (sl : Slot) (s : State) : Host.Outcome State Fault Refusal := onHw s (fun w => w.slot k.val ⟨.por, sl⟩)

/-- PNOT (R131): PNOT writes NOT pA. -/
def execPnot (k : Fin 128) (sl : Slot) (s : State) : Host.Outcome State Fault Refusal := onHw s (fun w => w.slot k.val ⟨.pnot, sl⟩)

/-- PTAIL (R131): PTAIL sets bit i of pD where i < sA. -/
def execPtail (k : Fin 128) (sl : Slot) (s : State) : Host.Outcome State Fault Refusal := onHw s (fun w => w.slot k.val ⟨.ptail, sl⟩)

/-- RDSR (R127): RDSR reads a special register of Table 4.3 into sD. -/
def execRdsr (k : Fin 128) (sl : Slot) (s : State) : Host.Outcome State Fault Refusal := onHw s (fun w => w.slot k.val ⟨.rdsr, sl⟩)

/-- SEND.V (R187): SEND.V sends vA as one 128-byte message on a channel. -/
def execSendV (k : Fin 128) (sl : Slot) (s : State) : Host.Outcome State Fault Refusal := onHw s (fun w => w.slot k.val ⟨.sendV, sl⟩)

/-- SEND.S (R187): SEND.S sends sA as one 4-byte message on a channel. -/
def execSendS (k : Fin 128) (sl : Slot) (s : State) : Host.Outcome State Fault Refusal := onHw s (fun w => w.slot k.val ⟨.sendS, sl⟩)

/-- RECV.V (R131): RECV.V waits for a 128-byte message on a channel and writes it into vD. -/
def execRecvV (k : Fin 128) (sl : Slot) (s : State) : Host.Outcome State Fault Refusal := onHw s (fun w => w.slot k.val ⟨.recvV, sl⟩)

/-- RECV.S (R131): RECV.S waits for a 4-byte message on a channel and writes it into sD. -/
def execRecvS (k : Fin 128) (sl : Slot) (s : State) : Host.Outcome State Fault Refusal := onHw s (fun w => w.slot k.val ⟨.recvS, sl⟩)

/-- TRECV.V (R131): TRECV.V takes a waiting 128-byte message if one is present and reports it in pC. -/
def execTrecvV (k : Fin 128) (sl : Slot) (s : State) : Host.Outcome State Fault Refusal := onHw s (fun w => w.slot k.val ⟨.trecvV, sl⟩)

/-- BR (R131): BR adds IMM to the PC. -/
def execBr (k : Fin 128) (sl : Slot) (s : State) : Host.Outcome State Fault Refusal := onHw s (fun w => w.slot k.val ⟨.br, sl⟩)

/-- JMP (R131): JMP sets the PC from sA. -/
def execJmp (k : Fin 128) (sl : Slot) (s : State) : Host.Outcome State Fault Refusal := onHw s (fun w => w.slot k.val ⟨.jmp, sl⟩)

/-- CALL (R131): CALL saves PC + 1 in s63 and branches by IMM. -/
def execCall (k : Fin 128) (sl : Slot) (s : State) : Host.Outcome State Fault Refusal := onHw s (fun w => w.slot k.val ⟨.call, sl⟩)

/-- RET (R131): RET sets the PC from s63. -/
def execRet (k : Fin 128) (sl : Slot) (s : State) : Host.Outcome State Fault Refusal := onHw s (fun w => w.slot k.val ⟨.ret, sl⟩)

/-- HINT (R141): HINT names the expected target of the next taken branch. -/
def execHint (k : Fin 128) (sl : Slot) (s : State) : Host.Outcome State Fault Refusal := onHw s (fun w => w.slot k.val ⟨.hint, sl⟩)

/-- SWAIT (R198): SWAIT waits until a semaphore reaches a count and then subtracts it. -/
def execSwait (k : Fin 128) (sl : Slot) (s : State) : Host.Outcome State Fault Refusal := onHw s (fun w => w.slot k.val ⟨.swait, sl⟩)

/-- SSIG (R205): SSIG adds a count to a semaphore, moving fill tags, credits and waiting SWAITs as the rules state. -/
def execSsig (k : Fin 128) (sl : Slot) (s : State) : Host.Outcome State Fault Refusal := onHw s (fun w => w.slot k.val ⟨.ssig, sl⟩)

/-- STRY (R131): STRY subtracts a count from a semaphore if available and reports success in pD. -/
def execStry (k : Fin 128) (sl : Slot) (s : State) : Host.Outcome State Fault Refusal := onHw s (fun w => w.slot k.val ⟨.stry, sl⟩)

/-- CRGET (R200): CRGET waits for credits of a pool and moves them to the core's HELD count. -/
def execCrget (k : Fin 128) (sl : Slot) (s : State) : Host.Outcome State Fault Refusal := onHw s (fun w => w.slot k.val ⟨.crget, sl⟩)

/-- CRPUT (R200): CRPUT returns credits to a pool's FREE count. -/
def execCrput (k : Fin 128) (sl : Slot) (s : State) : Host.Outcome State Fault Refusal := onHw s (fun w => w.slot k.val ⟨.crput, sl⟩)

/-- FENCE (R131): FENCE waits until every earlier write of the core is complete at its destination. -/
def execFence (k : Fin 128) (sl : Slot) (s : State) : Host.Outcome State Fault Refusal := onHw s (fun w => w.slot k.val ⟨.fence, sl⟩)

/-- TAGW (R134): TAGW, after an implicit FENCE, writes the ready tag of an output-ring slot. -/
def execTagw (k : Fin 128) (sl : Slot) (s : State) : Host.Outcome State Fault Refusal := onHw s (fun w => w.slot k.val ⟨.tagw, sl⟩)

/-- HALT (R185): HALT, after an implicit FENCE, signals the completion semaphores and reports completion of the task. -/
def execHalt (k : Fin 128) (sl : Slot) (s : State) : Host.Outcome State Fault Refusal := onHw s (fun w => w.slot k.val ⟨.halt, sl⟩)

/-- TRAP (R131): TRAP stops the core with cause SW_TRAP and a code. -/
def execTrap (k : Fin 128) (sl : Slot) (s : State) : Host.Outcome State Fault Refusal := onHw s (fun w => w.slot k.val ⟨.trap, sl⟩)

/-- SEND_ANSWER (R187): the answer to a SEND arrives. -/
def execSendAnswer (k : Fin 128) (s : State) : Host.Outcome State Fault Refusal := onHw s (fun w => w.answer k.val false)

/-- SEND_RETRY (R189): a negatively acknowledged message is resent. -/
def execSendRetry (k : Fin 128) (s : State) : Host.Outcome State Fault Refusal := onHw s (fun w => w.answer k.val true)

/-- BUNDLE_COMPLETE (R140): the held bundle completes what is available. -/
def execBundleComplete (k : Fin 128) (s : State) : Host.Outcome State Fault Refusal := onHw s (fun w => w.resume k.val)

/-- WAIT_LIMIT (R121): a host job's wait has reached JOB_WAIT. -/
def execWaitLimit (k : Fin 128) (s : State) : Host.Outcome State Fault Refusal := onHw s (fun w => w.waitLimit k.val)

/-- TASK_START (R184): the dispatcher evaluates its head descriptor. -/
def execTaskStart (k : Fin 128) (s : State) : Host.Outcome State Fault Refusal :=
  onHw s (fun w => if w.ctl.running then w.taskStart k.val else w)

/-- STAND_WATCHDOG (R120): core c of stand n has held a bundle for LIMIT lines; not counted while it waits on a channel, a
semaphore, a credit or DRAM, and not with LIMIT 0. The stand fails with the PC of the held bundle (Table 16.5). -/
def execStandWatchdog (n : Fin 17) (c : Fin 8) (s : State) : Host.Outcome State Fault Refusal := onCtl s (fun x =>
  let cs := x.core (8 * n.val + c.val)
  let st := x.get (F.stdStateState n.val)
  if x.running ∧ (st = 3 ∨ st = 4) ∧ cs.task.isSome ∧ cs.waiting = [] ∧ cs.ready = false ∧ x.get (F.stdWdogLimit n.val) ≠ 0 then
    x.failStand n.val 1 (x.get (F.stdCorePcPc n.val c.val))
  else x)

end Sys2Proof.Machine
end

