-- ==== Sys2Proof/Machine/Dispatch.lean ====
section
/-! DEFINITION. One arm per command: its meaning, or its refusal by name. -/

namespace Sys2Proof.Machine

/-- The effect of a command on everything but the queue, which it is given the rest of. -/
def exec (i : Instr) (s : State) : Host.Outcome State Fault Refusal :=
  match i with
  | .rasterSlot ctx m => Sys2Proof.Machine.execRasterSlot ctx m s
  | .sourceSelection ctx m => Sys2Proof.Machine.execSourceSelection ctx m s
  | .lintelLine ctx m => Sys2Proof.Machine.execLintelLine ctx m s
  | .outputFrameBoundary ctx speculate => Sys2Proof.Machine.execOutputFrameBoundary ctx speculate s
  | .residentRepair => Sys2Proof.Machine.execResidentRepair s
  | .governorIntervalEnd minRate maxRate => Sys2Proof.Machine.execGovernorIntervalEnd minRate maxRate s
  | .govEnable v => Sys2Proof.Machine.execGovEnable v s
  | .avsAck => Sys2Proof.Machine.execAvsAck s
  | .avsResponseTimeout => Sys2Proof.Machine.execAvsResponseTimeout s
  | .avsPoll ok mv => Sys2Proof.Machine.execAvsPoll ok mv s
  | .avsSettleCheck dieMv => Sys2Proof.Machine.execAvsSettleCheck dieMv s
  | .avsSettleTimeout => Sys2Proof.Machine.execAvsSettleTimeout s
  | .streamArm ctx v => Sys2Proof.Machine.execStreamArm ctx v s
  | .streamDisarm ctx v => Sys2Proof.Machine.execStreamDisarm ctx v s
  | .inputLine ctx y px t dsc => Sys2Proof.Machine.execInputLine ctx y px t dsc s
  | .inputLoss ctx cause => Sys2Proof.Machine.execInputLoss ctx cause s
  | .replayLine ctx => Sys2Proof.Machine.execReplayLine ctx s
  | .planeFetch ctx m => Sys2Proof.Machine.execPlaneFetch ctx m s
  | .rxLinkTraining n rate lanes ok => Sys2Proof.Machine.execRxLinkTraining n rate lanes ok s
  | .nativeAux n write addr len data => Sys2Proof.Machine.execNativeAux n write addr len data s
  | .i2cOverAux n write dev len data => Sys2Proof.Machine.execI2cOverAux n write dev len data s
  | .linkAddress n => Sys2Proof.Machine.execLinkAddress n s
  | .enumPathResources n port => Sys2Proof.Machine.execEnumPathResources n port s
  | .allocatePayload n port id pbn => Sys2Proof.Machine.execAllocatePayload n port id pbn s
  | .queryPayload n port id => Sys2Proof.Machine.execQueryPayload n port id s
  | .clearPayloadIdTable n => Sys2Proof.Machine.execClearPayloadIdTable n s
  | .remoteI2cRead n port dev off len => Sys2Proof.Machine.execRemoteI2cRead n port dev off len s
  | .csiFrameStart vc t => Sys2Proof.Machine.execCsiFrameStart vc t s
  | .csiFrameEnd vc => Sys2Proof.Machine.execCsiFrameEnd vc s
  | .csiLineStart vc => Sys2Proof.Machine.execCsiLineStart vc s
  | .csiLineEnd vc => Sys2Proof.Machine.execCsiLineEnd vc s
  | .csiLongPacket vc dt crcOk px => Sys2Proof.Machine.execCsiLongPacket vc dt crcOk px s
  | .edidCommit n v => Sys2Proof.Machine.execEdidCommit n v s
  | .hpdPulseEnd n => Sys2Proof.Machine.execHpdPulseEnd n s
  | .txHpdFall n => Sys2Proof.Machine.execTxHpdFall n s
  | .txHpdRise n => Sys2Proof.Machine.execTxHpdRise n s
  | .txLinkTraining n ok => Sys2Proof.Machine.execTxLinkTraining n ok s
  | .taskEnqueue src rearms => Sys2Proof.Machine.execTaskEnqueue src rearms s
  | .taskStart k => Sys2Proof.Machine.execTaskStart k s
  | .bundleComplete k => Sys2Proof.Machine.execBundleComplete k s
  | .standWatchdog n c => Sys2Proof.Machine.execStandWatchdog n c s
  | .waitLimit k => Sys2Proof.Machine.execWaitLimit k s
  | .nop k sl => Sys2Proof.Machine.execNop k sl s
  | .ldS k sl => Sys2Proof.Machine.execLdS k sl s
  | .stS k sl => Sys2Proof.Machine.execStS k sl s
  | .ldV k sl => Sys2Proof.Machine.execLdV k sl s
  | .stV k sl => Sys2Proof.Machine.execStV k sl s
  | .ldVb k sl => Sys2Proof.Machine.execLdVb k sl s
  | .ldVx k sl => Sys2Proof.Machine.execLdVx k sl s
  | .ldAr k sl => Sys2Proof.Machine.execLdAr k sl s
  | .stAr k sl => Sys2Proof.Machine.execStAr k sl s
  | .stAh k sl => Sys2Proof.Machine.execStAh k sl s
  | .stAcc k sl => Sys2Proof.Machine.execStAcc k sl s
  | .mma k sl => Sys2Proof.Machine.execMma k sl s
  | .mmaz k sl => Sys2Proof.Machine.execMmaz k sl s
  | .azero k sl => Sys2Proof.Machine.execAzero k sl s
  | .amov k sl => Sys2Proof.Machine.execAmov k sl s
  | .aadd k sl => Sys2Proof.Machine.execAadd k sl s
  | .ard k sl => Sys2Proof.Machine.execArd k sl s
  | .awr k sl => Sys2Proof.Machine.execAwr k sl s
  | .vadd k sl => Sys2Proof.Machine.execVadd k sl s
  | .vsub k sl => Sys2Proof.Machine.execVsub k sl s
  | .vmul k sl => Sys2Proof.Machine.execVmul k sl s
  | .vfma k sl => Sys2Proof.Machine.execVfma k sl s
  | .vmax k sl => Sys2Proof.Machine.execVmax k sl s
  | .vmin k sl => Sys2Proof.Machine.execVmin k sl s
  | .vmov k sl => Sys2Proof.Machine.execVmov k sl s
  | .vbcst k sl => Sys2Proof.Machine.execVbcst k sl s
  | .vsel k sl => Sys2Proof.Machine.execVsel k sl s
  | .vcmplt k sl => Sys2Proof.Machine.execVcmplt k sl s
  | .vcmpeq k sl => Sys2Proof.Machine.execVcmpeq k sl s
  | .vshift k sl => Sys2Proof.Machine.execVshift k sl s
  | .vcvti k sl => Sys2Proof.Machine.execVcvti k sl s
  | .vcvtp k sl => Sys2Proof.Machine.execVcvtp k sl s
  | .vsum k sl => Sys2Proof.Machine.execVsum k sl s
  | .add k sl => Sys2Proof.Machine.execAdd k sl s
  | .sub k sl => Sys2Proof.Machine.execSub k sl s
  | .mul k sl => Sys2Proof.Machine.execMul k sl s
  | .and k sl => Sys2Proof.Machine.execAnd k sl s
  | .or k sl => Sys2Proof.Machine.execOr k sl s
  | .xor k sl => Sys2Proof.Machine.execXor k sl s
  | .shl k sl => Sys2Proof.Machine.execShl k sl s
  | .shr k sl => Sys2Proof.Machine.execShr k sl s
  | .sra k sl => Sys2Proof.Machine.execSra k sl s
  | .min k sl => Sys2Proof.Machine.execMin k sl s
  | .max k sl => Sys2Proof.Machine.execMax k sl s
  | .addi k sl => Sys2Proof.Machine.execAddi k sl s
  | .li k sl => Sys2Proof.Machine.execLi k sl s
  | .cmplt k sl => Sys2Proof.Machine.execCmplt k sl s
  | .cmpeq k sl => Sys2Proof.Machine.execCmpeq k sl s
  | .pand k sl => Sys2Proof.Machine.execPand k sl s
  | .por k sl => Sys2Proof.Machine.execPor k sl s
  | .pnot k sl => Sys2Proof.Machine.execPnot k sl s
  | .ptail k sl => Sys2Proof.Machine.execPtail k sl s
  | .rdsr k sl => Sys2Proof.Machine.execRdsr k sl s
  | .sendV k sl => Sys2Proof.Machine.execSendV k sl s
  | .sendS k sl => Sys2Proof.Machine.execSendS k sl s
  | .sendAnswer k => Sys2Proof.Machine.execSendAnswer k s
  | .sendRetry k => Sys2Proof.Machine.execSendRetry k s
  | .recvV k sl => Sys2Proof.Machine.execRecvV k sl s
  | .recvS k sl => Sys2Proof.Machine.execRecvS k sl s
  | .trecvV k sl => Sys2Proof.Machine.execTrecvV k sl s
  | .br k sl => Sys2Proof.Machine.execBr k sl s
  | .jmp k sl => Sys2Proof.Machine.execJmp k sl s
  | .call k sl => Sys2Proof.Machine.execCall k sl s
  | .ret k sl => Sys2Proof.Machine.execRet k sl s
  | .hint k sl => Sys2Proof.Machine.execHint k sl s
  | .swait k sl => Sys2Proof.Machine.execSwait k sl s
  | .ssig k sl => Sys2Proof.Machine.execSsig k sl s
  | .stry k sl => Sys2Proof.Machine.execStry k sl s
  | .crget k sl => Sys2Proof.Machine.execCrget k sl s
  | .crput k sl => Sys2Proof.Machine.execCrput k sl s
  | .fence k sl => Sys2Proof.Machine.execFence k sl s
  | .tagw k sl => Sys2Proof.Machine.execTagw k sl s
  | .halt k sl => Sys2Proof.Machine.execHalt k sl s
  | .trap k sl => Sys2Proof.Machine.execTrap k sl s
  | .cnpCfgWrite v => Sys2Proof.Machine.execCnpCfgWrite v s
  | .clearingWrite waits => Sys2Proof.Machine.execClearingWrite waits s
  | .dramClearDone h => Sys2Proof.Machine.execDramClearDone h s
  | .lineCacheFill addr core lecc => Sys2Proof.Machine.execLineCacheFill addr core lecc s
  | .lineCacheClean addr lecc waits => Sys2Proof.Machine.execLineCacheClean addr lecc waits s
  | .dramRefresh ch bank postpone => Sys2Proof.Machine.execDramRefresh ch bank postpone s
  | .dramRetrain ch => Sys2Proof.Machine.execDramRetrain ch s
  | .apertureAccess write addr len data waits => Sys2Proof.Machine.execApertureAccess write addr len data waits s
  | .revokeClear => Sys2Proof.Machine.execRevokeClear s
  | .shadowPrefetch => Sys2Proof.Machine.execShadowPrefetch s
  | .modelPromotion => Sys2Proof.Machine.execModelPromotion s
  | .jobComplete j => Sys2Proof.Machine.execJobComplete j s
  | .linkLineEncode l => Sys2Proof.Machine.execLinkLineEncode l s
  | .snap v => Sys2Proof.Machine.execSnap v s
  | .histSnapCopy => Sys2Proof.Machine.execHistSnapCopy s
  | .flr => Sys2Proof.Machine.execFlr s
  | .hotReset => Sys2Proof.Machine.execHotReset s
  | .dlDown moved => Sys2Proof.Machine.execDlDown moved s
  | .dlUp speed lanes => Sys2Proof.Machine.execDlUp speed lanes s
  | .registerWrite addr size v => Sys2Proof.Machine.execRegisterWrite addr size v s
  | .rcRead addr size => Sys2Proof.Machine.execRcRead addr size s
  | .glbTimeRead size => Sys2Proof.Machine.execGlbTimeRead size s
  | .wmstatRead r => Sys2Proof.Machine.execWmstatRead r s
  | .ringEnable r v => Sys2Proof.Machine.execRingEnable r v s
  | .ringDisable r v => Sys2Proof.Machine.execRingDisable r v s
  | .ringDoorbell r v => Sys2Proof.Machine.execRingDoorbell r v s
  | .ringHeadWrite r v => Sys2Proof.Machine.execRingHeadWrite r v s
  | .descriptorFetch r res => Sys2Proof.Machine.execDescriptorFetch r res s
  | .jobSubmit r => Sys2Proof.Machine.execJobSubmit r s
  | .dmaSubmit r => Sys2Proof.Machine.execDmaSubmit r s
  | .dmaComplete ix data ok => Sys2Proof.Machine.execDmaComplete ix data ok s
  | .modWindowEnd r => Sys2Proof.Machine.execModWindowEnd r s
  | .ident addr code => Sys2Proof.Machine.execIdent addr code s
  | .health => Sys2Proof.Machine.execHealth s
  | .temp pecOk sensor => Sys2Proof.Machine.execTemp pecOk sensor s
  | .rail pecOk rail => Sys2Proof.Machine.execRail pecOk rail s
  | .ceil pecOk mv reason exp check => Sys2Proof.Machine.execCeil pecOk mv reason exp check s
  | .unitRead pecOk unit => Sys2Proof.Machine.execUnitRead pecOk unit s
  | .unitReqHoldOff pecOk unit action check reason exp => Sys2Proof.Machine.execUnitReqHoldOff pecOk unit action check reason exp s
  | .unitReqClose pecOk unit check reason exp => Sys2Proof.Machine.execUnitReqClose pecOk unit check reason exp s
  | .unitReqRelease pecOk unit check reason exp => Sys2Proof.Machine.execUnitReqRelease pecOk unit check reason exp s
  | .boot => Sys2Proof.Machine.execBoot s
  | .alert => Sys2Proof.Machine.execAlert s
  | .alertMask pecOk mask => Sys2Proof.Machine.execAlertMask pecOk mask s
  | .wicketDoorbell m v join => Sys2Proof.Machine.execWicketDoorbell m v join s
  | .mailboxTake m => Sys2Proof.Machine.execMailboxTake m s
  | .commandComplete m => Sys2Proof.Machine.execCommandComplete m s
  | .getInfo m => Sys2Proof.Machine.execGetInfo m s
  | .fwStage m img linkOk => Sys2Proof.Machine.execFwStage m img linkOk s
  | .fwActivate m torn => Sys2Proof.Machine.execFwActivate m torn s
  | .streamSetup m handle base => Sys2Proof.Machine.execStreamSetup m handle base s
  | .streamRelease m => Sys2Proof.Machine.execStreamRelease m s
  | .streamQuery m => Sys2Proof.Machine.execStreamQuery m s
  | .shutterClose m mgmt => Sys2Proof.Machine.execShutterClose m mgmt s
  | .shutterOpen m mgmt => Sys2Proof.Machine.execShutterOpen m mgmt s
  | .scenePlan m => Sys2Proof.Machine.execScenePlan m s
  | .sceneDecideConfirm m partnerReady => Sys2Proof.Machine.execSceneDecideConfirm m partnerReady s
  | .sceneDecideCancel m => Sys2Proof.Machine.execSceneDecideCancel m s
  | .imageLoad m img linkOk => Sys2Proof.Machine.execImageLoad m img linkOk s
  | .imagePromote m partnerReady => Sys2Proof.Machine.execImagePromote m partnerReady s
  | .imageDrop m => Sys2Proof.Machine.execImageDrop m s
  | .imageInfo m => Sys2Proof.Machine.execImageInfo m s
  | .handleAlloc m handle base => Sys2Proof.Machine.execHandleAlloc m handle base s
  | .handleFree m => Sys2Proof.Machine.execHandleFree m s
  | .jobCancel m => Sys2Proof.Machine.execJobCancel m s
  | .schedFit m => Sys2Proof.Machine.execSchedFit m s
  | .modeSet m partner => Sys2Proof.Machine.execModeSet m partner s
  | .standby m => Sys2Proof.Machine.execStandby m s
  | .powerTarget m => Sys2Proof.Machine.execPowerTarget m s
  | .powerGet m => Sys2Proof.Machine.execPowerGet m s
  | .energyCfg m => Sys2Proof.Machine.execEnergyCfg m s
  | .calRead m linkOk => Sys2Proof.Machine.execCalRead m linkOk s
  | .calWrite m pages linkOk torn => Sys2Proof.Machine.execCalWrite m pages linkOk torn s
  | .calInfo m => Sys2Proof.Machine.execCalInfo m s
  | .bistRun m => Sys2Proof.Machine.execBistRun m s
  | .bistResults m => Sys2Proof.Machine.execBistResults m s
  | .rotationCfg m => Sys2Proof.Machine.execRotationCfg m s
  | .pairRole m linkUp => Sys2Proof.Machine.execPairRole m linkUp s
  | .pairSwap m linkUp answers synced => Sys2Proof.Machine.execPairSwap m linkUp answers synced s
  | .pairStatus m => Sys2Proof.Machine.execPairStatus m s
  | .counterSnap m linkOk => Sys2Proof.Machine.execCounterSnap m linkOk s
  | .dbgSnapshot m trace linkOk => Sys2Proof.Machine.execDbgSnapshot m trace linkOk s
  | .dbgLog m => Sys2Proof.Machine.execDbgLog m s
  | .rwGo a v => Sys2Proof.Machine.execRwGo a v s
  | .rewriteDone a vfail => Sys2Proof.Machine.execRewriteDone a vfail s
  | .swap a v => Sys2Proof.Machine.execSwap a v s
  | .networkEnable n v => Sys2Proof.Machine.execNetworkEnable n v s
  | .evaluationEnd n errs => Sys2Proof.Machine.execEvaluationEnd n errs s
  | .listenEn v => Sys2Proof.Machine.execListenEn v s
  | .ack v => Sys2Proof.Machine.execAck v s
  | .audioSample mic1 mic2 => Sys2Proof.Machine.execAudioSample mic1 mic2 s
  | .gladeFeatureVector => Sys2Proof.Machine.execGladeFeatureVector s
  | .gladeEvaluationEnd errs => Sys2Proof.Machine.execGladeEvaluationEnd errs s
  | .commandWindowEnd => Sys2Proof.Machine.execCommandWindowEnd s
  | .refractEnd => Sys2Proof.Machine.execRefractEnd s
  | .stbyReqAssert => Sys2Proof.Machine.execStbyReqAssert s
  | .stbyReqDeassert => Sys2Proof.Machine.execStbyReqDeassert s
  | .vgladePowerOn pwrOk rstHigh stbyLow => Sys2Proof.Machine.execVgladePowerOn pwrOk rstHigh stbyLow s
  | .vgladeLoss => Sys2Proof.Machine.execVgladeLoss s
  | .portTraining n ok cause => Sys2Proof.Machine.execPortTraining n ok cause s
  | .trainingRetry n => Sys2Proof.Machine.execTrainingRetry n s
  | .trainFrame n crcOk rec => Sys2Proof.Machine.execTrainFrame n crcOk rec s
  | .ackFrame n crcOk seq => Sys2Proof.Machine.execAckFrame n crcOk seq s
  | .nakFrame n crcOk seq => Sys2Proof.Machine.execNakFrame n crcOk seq s
  | .hingeAckSend n => Sys2Proof.Machine.execHingeAckSend n s
  | .heartbeatFrame h frame line src closed ctx lcrc => Sys2Proof.Machine.execHeartbeatFrame h frame line src closed ctx lcrc s
  | .syncFrame h frame lock => Sys2Proof.Machine.execSyncFrame h frame lock s
  | .govFrame h mv urgent => Sys2Proof.Machine.execGovFrame h mv urgent s
  | .stateFrame h item => Sys2Proof.Machine.execStateFrame h item s
  | .dataFrame h lch bytes => Sys2Proof.Machine.execDataFrame h lch bytes s
  | .haloFrame h ctx frame y x px => Sys2Proof.Machine.execHaloFrame h ctx frame y x px s
  | .fwdFrame h img part load => Sys2Proof.Machine.execFwdFrame h img part load s
  | .heartbeatMiss ctx m peerAct => Sys2Proof.Machine.execHeartbeatMiss ctx m peerAct s
  | .splitHeartbeatWait ctx m => Sys2Proof.Machine.execSplitHeartbeatWait ctx m s
  | .frameSyncEdge highNs => Sys2Proof.Machine.execFrameSyncEdge highNs s
  | .frameSyncPulseEnd => Sys2Proof.Machine.execFrameSyncPulseEnd s
  | .frameSyncLost => Sys2Proof.Machine.execFrameSyncLost s
  | .peerWaitTimeout peerAct => Sys2Proof.Machine.execPeerWaitTimeout peerAct s
  | .currentWindow mv ma dieMv => Sys2Proof.Machine.execCurrentWindow mv ma dieMv s
  | .energyRecord ctx frame => Sys2Proof.Machine.execEnergyRecord ctx frame s
  | .sensorSample q => Sys2Proof.Machine.execSensorSample q s
  | .thermalTrip ix q => Sys2Proof.Machine.execThermalTrip ix q s
  | .standPowerUp n => Sys2Proof.Machine.execStandPowerUp n s
  | .rotationCopyDone => Sys2Proof.Machine.execRotationCopyDone s
  | .quietPoint => Sys2Proof.Machine.execQuietPoint s
  | .rotationCommit => Sys2Proof.Machine.execRotationCommit s
  | .rotationAbort => Sys2Proof.Machine.execRotationAbort s
  | .rotationTick => Sys2Proof.Machine.execRotationTick s
  | .ageingMeasurement n rate mv degC => Sys2Proof.Machine.execAgeingMeasurement n rate mv degC s
  | .bistComplete n pass detail => Sys2Proof.Machine.execBistComplete n pass detail s
  | .pwrOkFall => Sys2Proof.Machine.execPwrOkFall s
  | .pwrOkRise ordered => Sys2Proof.Machine.execPwrOkRise ordered s
  | .resetNAssert => Sys2Proof.Machine.execResetNAssert s
  | .resetNRelease => Sys2Proof.Machine.execResetNRelease s
  | .resetExit st => Sys2Proof.Machine.execResetExit st s
  | .wardenWatchdog => Sys2Proof.Machine.execWardenWatchdog s
  | .bootPath c0 c1 slotA slotB ms => Sys2Proof.Machine.execBootPath c0 c1 slotA slotB ms s
  | .perstNAssert moved => Sys2Proof.Machine.execPerstNAssert moved s
  | .perstNDeassert => Sys2Proof.Machine.execPerstNDeassert s
  | .strapSample st => Sys2Proof.Machine.execStrapSample st s
  | .ambSample mv => Sys2Proof.Machine.execAmbSample mv s
  | .ambCfgWrite v => Sys2Proof.Machine.execAmbCfgWrite v s
  | .idcode => Sys2Proof.Machine.execIdcode s
  | .samplePreload balls => Sys2Proof.Machine.execSamplePreload balls s
  | .extest => Sys2Proof.Machine.execExtest s
  | .highz => Sys2Proof.Machine.execHighz s
  | .clamp => Sys2Proof.Machine.execClamp s
  | .dbgAccess data addr write => Sys2Proof.Machine.execDbgAccess data addr write s
  | .bypass => Sys2Proof.Machine.execBypass s
  | .hingePortDown n cause => Sys2Proof.Machine.execHingePortDown n cause s
  | .linkRecovery => Sys2Proof.Machine.execLinkRecovery s
  | .tapReset => Sys2Proof.Machine.execTapReset s
  | .alertResponse addr => Sys2Proof.Machine.execAlertResponse addr s

end Sys2Proof.Machine
end

