-- ==== Sys2Proof/Machine/Endpoint.lean ====
section
/-! DEFINITION. The endpoint's type 0 configuration header (R267 … R269, Table 9.1): what a configuration read of it answers. The opcode
table has no row that carries a configuration request (log entry 163). -/

namespace Sys2Proof.Machine

/-- A dword of a 64-bit memory BAR pair as it reads: the address bits that its size leaves, and in the low half the 64-bit type and
whether it is prefetchable. -/
def barDword (sizeLog : Nat) (pref high : Bool) (v : Word) : Word :=
  if high then v else (v &&& ~~~(BitVec.ofNat 32 (2 ^ sizeLog - 1))) ||| (if pref then 0xC else 0x4)

/-- BAR register i (R269): BAR0/BAR1 64 MiB, not prefetchable; BAR2/BAR3 256 MiB, prefetchable; BAR4 and BAR5 read 0. -/
def Ctl.cfgBar (c : Ctl) (i : Nat) : Word :=
  let v := nth 0 c.host.pcie.bars i
  if i = 0 then barDword 26 false false v
  else if i = 1 then barDword 26 false true v
  else if i = 2 then barDword 28 true false v
  else if i = 3 then barDword 28 true true v
  else 0

/-- The header dword at a byte offset: the identifiers and the class code (R268), the BARs (R269), Interrupt Pin 0 (Table 9.1); zero where
the spec names no field. -/
def Ctl.cfgRead (c : Ctl) (off : Nat) : Word :=
  if off = 0x00 then 0x72001F6B
  else if off = 0x08 then w32 (0x048000 * 256 + fieldGet (c.rd R.glbIdent) 0 8)
  else if 0x10 ≤ off ∧ off < 0x28 ∧ off % 4 = 0 then c.cfgBar ((off - 0x10) / 4)
  else 0

end Sys2Proof.Machine
end

