-- ==== Sys2Proof/Machine/Encoding.lean ====
section
/-! DEFINITION. The bundle as bits (R128 … R131, Tables 4.4 … 4.6): a bundle in core memory, its slots, a slot's fields, the
operation codes, the commands that spell a bundle, and the encoder beside them. -/

namespace Sys2Proof.Machine

/-- The operation codes of Table 4.6. -/
def opTable : List (Nat × Op) :=
  [(0x00, .nop), (0x01, .ldS), (0x02, .stS), (0x03, .ldV), (0x04, .stV), (0x05, .ldVb),
   (0x06, .ldVx), (0x07, .ldAr), (0x08, .stAr), (0x09, .stAh), (0x0A, .stAcc)] ++
  [(0x20, .mma), (0x21, .mmaz), (0x22, .azero), (0x23, .amov), (0x24, .aadd), (0x25, .ard),
   (0x26, .awr)] ++
  [(0x40, .vadd), (0x41, .vsub), (0x42, .vmul), (0x43, .vfma), (0x44, .vmax), (0x45, .vmin),
   (0x46, .vmov), (0x47, .vbcst), (0x48, .vsel), (0x49, .vcmplt), (0x4A, .vcmpeq), (0x4B, .vshift),
   (0x4C, .vcvti), (0x4D, .vcvtp), (0x4E, .vsum)] ++
  [(0x60, .add), (0x61, .sub), (0x62, .mul), (0x63, .and), (0x64, .or), (0x65, .xor),
   (0x66, .shl), (0x67, .shr), (0x68, .sra), (0x69, .min), (0x6A, .max), (0x6B, .addi),
   (0x6C, .li), (0x6D, .cmplt), (0x6E, .cmpeq), (0x6F, .pand), (0x70, .por), (0x71, .pnot),
   (0x72, .ptail), (0x73, .rdsr)] ++
  [(0x80, .sendV), (0x81, .sendS), (0x82, .recvV), (0x83, .recvS), (0x84, .trecvV)] ++
  [(0xA0, .br), (0xA1, .jmp), (0xA2, .call), (0xA3, .ret), (0xA4, .hint), (0xA5, .swait),
   (0xA6, .ssig), (0xA7, .stry), (0xA8, .crget), (0xA9, .crput), (0xAA, .fence), (0xAB, .tagw),
   (0xAC, .halt), (0xAD, .trap)]

/-- The operation an OP value names, if Table 4.6 lists it. -/
def opOf (x : Nat) : Option Op := (opTable.find? (fun p => p.1 == x)).map (·.2)

/-- The OP value of an operation. -/
def Op.code (o : Op) : Nat := ((opTable.find? (fun p => p.2 == o)).map (·.1)).getD 0

/-- The 1024-bit bundle of 128 bytes: 16 little-endian 64-bit words, bits [63:0] first (R128). -/
def bundleOf (bs : List Byte) : BitVec 1024 := BitVec.ofNat 1024 (ofBytes bs)

/-- The bytes that store a bundle. -/
def bundleBytes (b : BitVec 1024) : List Byte := toBytes 128 b.toNat

/-- Slot k: bundle bits [128k+127:128k] (R128). -/
def slotBits (b : BitVec 1024) (k : Nat) : BitVec 128 := b.extractLsb' (128 * k) 128

/-- The fields of the 128-bit slot k (Table 4.5), and whether it is the bundle's last; an OP value not listed goes with them. -/
def slotFields (k : Fin 8) (v : BitVec 128) (last : Bool) : Slot :=
  { slot := k, pn := v.getLsbD 119, ps := (v.extractLsb' 115 4).toFin, d := (v.extractLsb' 109 6).toFin
    a := (v.extractLsb' 103 6).toFin, b := (v.extractLsb' 97 6).toFin, c := (v.extractLsb' 91 6).toFin
    resv := v.extractLsb' 32 59, imm := v.extractLsb' 0 32, upset := false, last := last
    badOp := if (opOf (v.extractLsb' 120 8).toNat).isSome then none else some (v.extractLsb' 120 8) }

/-- Slot k with its operation; NOP stands for an OP value not listed, which traps (R131). -/
def slotOp (k : Fin 8) (v : BitVec 128) (last : Bool) : Issued :=
  ⟨(opOf (v.extractLsb' 120 8).toNat).getD .nop, slotFields k v last⟩

/-- The 128 bits of a slot (Table 4.5). -/
def slotWord (i : Issued) : BitVec 128 :=
  let op : BitVec 8 := i.sl.badOp.getD (BitVec.ofNat 8 i.op.code)
  let ps : BitVec 4 := BitVec.ofFin i.sl.ps
  let d : BitVec 6 := BitVec.ofFin i.sl.d
  let a : BitVec 6 := BitVec.ofFin i.sl.a
  let b : BitVec 6 := BitVec.ofFin i.sl.b
  let c : BitVec 6 := BitVec.ofFin i.sl.c
  op ++ BitVec.ofBool i.sl.pn ++ ps ++ d ++ a ++ b ++ c ++ i.sl.resv ++ i.sl.imm

/-- The slots of a bundle that are not all zero, in slot order, the last of them marked; of the bundle of eight NOPs slot 0. -/
def bundleSlots (b : BitVec 1024) : List Issued :=
  let ks := (List.finRange 8).filter (fun k => slotBits b k.val != 0)
  let ks := if ks.isEmpty then [0] else ks
  ks.map (fun k => slotOp k (slotBits b k.val) (ks.getLast? == some k))

/-- The bundle of slots: those not named hold NOP. -/
def bundleWord (l : List Issued) : BitVec 1024 :=
  l.foldl (fun b i => b ||| ((slotWord i).setWidth 1024 <<< (128 * i.sl.slot.val))) 0

/-- The bundle at the PC of a core: the 128 bytes at byte offset 128 × PC of its core memory (R125). -/
def W.bundleAt (w : W) (x : At) : BitVec 1024 := bundleOf (w.mem.rdN (cmemKey x.q (128 * x.pc)) 128)

/-- The command that puts an operation in a slot of a core's next bundle. -/
def Op.instr : Op → Fin 128 → Slot → Instr
  | .nop => .nop
  | .ldS => .ldS
  | .stS => .stS
  | .ldV => .ldV
  | .stV => .stV
  | .ldVb => .ldVb
  | .ldVx => .ldVx
  | .ldAr => .ldAr
  | .stAr => .stAr
  | .stAh => .stAh
  | .stAcc => .stAcc
  | .mma => .mma
  | .mmaz => .mmaz
  | .azero => .azero
  | .amov => .amov
  | .aadd => .aadd
  | .ard => .ard
  | .awr => .awr
  | .vadd => .vadd
  | .vsub => .vsub
  | .vmul => .vmul
  | .vfma => .vfma
  | .vmax => .vmax
  | .vmin => .vmin
  | .vmov => .vmov
  | .vbcst => .vbcst
  | .vsel => .vsel
  | .vcmplt => .vcmplt
  | .vcmpeq => .vcmpeq
  | .vshift => .vshift
  | .vcvti => .vcvti
  | .vcvtp => .vcvtp
  | .vsum => .vsum
  | .add => .add
  | .sub => .sub
  | .mul => .mul
  | .and => .and
  | .or => .or
  | .xor => .xor
  | .shl => .shl
  | .shr => .shr
  | .sra => .sra
  | .min => .min
  | .max => .max
  | .addi => .addi
  | .li => .li
  | .cmplt => .cmplt
  | .cmpeq => .cmpeq
  | .pand => .pand
  | .por => .por
  | .pnot => .pnot
  | .ptail => .ptail
  | .rdsr => .rdsr
  | .sendV => .sendV
  | .sendS => .sendS
  | .recvV => .recvV
  | .recvS => .recvS
  | .trecvV => .trecvV
  | .br => .br
  | .jmp => .jmp
  | .call => .call
  | .ret => .ret
  | .hint => .hint
  | .swait => .swait
  | .ssig => .ssig
  | .stry => .stry
  | .crget => .crget
  | .crput => .crput
  | .fence => .fence
  | .tagw => .tagw
  | .halt => .halt
  | .trap => .trap

/-- The commands that spell a bundle of logical core k, in slot order. -/
def bundleCommands (k : Fin 128) (b : BitVec 1024) : List Instr := (bundleSlots b).map (fun i => i.op.instr k i.sl)

end Sys2Proof.Machine
end

