-- ==== Sys2Proof/Safety.lean ====
section
/-! DEFINITION. What counts as a safe state and a safe step, and the vocabulary of the statements: a command that completes, a
change of the controllers alone, what a posting may touch, a bundle of one slot that issues and what it leaves. -/

namespace Sys2Proof.Machine

/-- The memories are in canonical form. -/
def State.memWf (s : State) : Bool := s.hw.mem.wf

/-- A step that ends in neither a fault nor a refusal. -/
def Proceeds (o : Host.Outcome State Fault Refusal) : Prop := ∃ t, o = .next t

/-- The command completes: it answers a next state, and that state has the property. -/
def Completes (o : Host.Outcome State Fault Refusal) (P : State → Prop) : Prop := ∃ t, o = .next t ∧ P t

/-- The command completes and changes the controllers alone: memories and queue stay, the controllers after it have the property. -/
def CompletesCtl (s : State) (o : Host.Outcome State Fault Refusal) (P : Ctl → Prop) : Prop :=
  Completes o (fun t => t.hw.mem = s.hw.mem ∧ t.pending = s.pending ∧ P t.hw.ctl)

/-- Every register outside a list reads as before. -/
def RegsBut (l : List Nat) (c d : Ctl) : Prop := ∀ a, a ∉ l → d.rd a = c.rd a

/-- Nothing but registers of a list changes. -/
def OnlyRegs (l : List Nat) (c d : Ctl) : Prop := RegsBut l c d ∧ ∃ r, d = { c with regs := r }

/-! Posting. -/

/-- The registers a posting may write: MSI-X pending bits, the ring window, the diagnostics window. -/
def postAddr (a : Nat) : Bool := decide (0x9000 ≤ a ∧ a < 0x10000) || decide (0x20000 ≤ a ∧ a < 0x40000) || decide (0x300000 ≤ a)

/-- What the host interface holds besides jobs, DMA, rings, the link's state and the mailboxes. -/
def HostSt.rest (h : HostSt) : SMap Nat × Nat × List Nat × List Nat × List Nat × List Nat × PcieCfg :=
  (h.jobEpoch, h.dmaNext, h.msixWritten, h.doorbells, h.takeOrder, [h.epImage, h.epCal, h.epFw, h.epTopo, h.epPower, h.epRot, h.bellTail], h.pcie)

/-- The TAP, the debug access, the UART and the snapshots to come. -/
def Diag.tap (d : Diag) : JtagReg × Bool × Bool × List Bool × Bool × Bool × Word × Nat × List (Nat × Bool × Option (List Byte)) :=
  (d.jtag, d.jtagDrive, d.jtagHighz, d.boundary, d.dbgDone, d.dbgDenied, d.dbgData, d.uartLevel, d.snaps)

/-- d is c but for what a posting may change: registers of postAddr, ring state and queue, the event log, alerts, outputs, the
counter of free values. -/
structure Posted (c d : Ctl) : Prop where
  rd : ∀ a, postAddr a = false → d.rd a = c.rd a
  now : d.now = c.now
  fab : d.fab = c.fab
  cnp : d.cnp = c.cnp
  vid : d.vid = c.vid
  ras : d.ras = c.ras
  ports : d.ports = c.ports
  img : d.img = c.img
  und : d.und = c.und
  gld : d.gld = c.gld
  hng : d.hng = c.hng
  pwr : d.pwr = c.pwr
  boot : d.boot = c.boot
  jobs : d.host.jobs = c.host.jobs
  dmas : d.host.dmas = c.host.dmas
  linkUp : d.host.linkUp = c.host.linkUp
  timeBase : d.host.timeBase = c.host.timeBase
  taken : d.host.taken = c.host.taken
  rest : d.host.rest = c.host.rest
  tap : d.diag.tap = c.diag.tap

/-- The change of d is that of some e, and a posting after it. -/
def ThenPosted (P : Ctl → Prop) (d : Ctl) : Prop := ∃ e, P e ∧ Posted e d

/-! Bundles of one slot. -/

/-- The controllers with slot i staged alone on the core at x. -/
def Ctl.staged1 (c : Ctl) (x : At) (i : Issued) : Ctl := c.coreSet x.q { c.core x.q with staged := [i] }

/-- The core at x runs its task and holds no bundle, and slot i alone is a bundle that passes every check of issue: no cause of
Table 4.8, no BUSY handle, no detection, and no upset for a merge read to meet. -/
structure Issues (s : State) (x : At) (i : Issued) : Prop where
  runs : s.hw.ctl.running = true
  core : s.hw.ctl.atCore x.k = some x
  waits : (s.hw.ctl.core x.q).waiting = []
  empty : (s.hw.ctl.core x.q).staged = []
  last : i.sl.last = true
  passes : (s.hw.ctl.staged1 x i).bundleCause x.q x.k x.t x.pc [i] = none
  free : (s.hw.ctl.staged1 x i).bundleBusy x.q x.k x.t [i] = false
  sound : W.slotDetects ⟨s.hw.ctl.staged1 x i, s.hw.mem, []⟩ x i = none
  whole : i.sl.mergeUpset = none

/-- Addresses of the PC and the ISSUE count of the core at x. -/
def At.pcAddr (x : At) : Nat := (F.stdCorePcPc (x.q / 8) (x.q % 8)).addr
/-- Address of the ISSUE count. -/
def At.issueAddr (x : At) : Nat := (F.stdCoreIssueCount (x.q / 8) (x.q % 8)).addr

/-- The bundle issued and completed: it is counted, the PC is p modulo 4096, the core goes on with its task, and outside its four
register files and the energy estimates (R415) nothing else changes; of the registers only those of the list besides. -/
structure Retired (x : At) (p : Nat) (l : List Nat) (s t : State) : Prop where
  mem : t.hw.mem = s.hw.mem
  queue : t.pending = s.pending
  pc : t.hw.ctl.get (F.stdCorePcPc (x.q / 8) (x.q % 8)) = p % 4096
  count : t.hw.ctl.get (F.stdCoreIssueCount (x.q / 8) (x.q % 8)) =
    min (s.hw.ctl.get (F.stdCoreIssueCount (x.q / 8) (x.q % 8)) + 1) (2 ^ 32 - 1)
  regs : RegsBut (x.pcAddr :: x.issueAddr :: R.dbgSat :: l) s.hw.ctl t.hw.ctl
  task : (t.hw.ctl.core x.q).task = some x.t
  done : (t.hw.ctl.core x.q).waiting = [] ∧ (t.hw.ctl.core x.q).staged = []
  others : ∀ q, q ≠ x.q → t.hw.ctl.core q = s.hw.ctl.core q
  rest : ∃ r cs sr vr ar pr ef em, t.hw.ctl = { s.hw.ctl with
    regs := r, fab := { s.hw.ctl.fab with cores := cs, sregs := sr, vregs := vr, aregs := ar, pregs := pr, enFab := ef, enMem := em } }

/-- The scalar file: every register but d of core q as before. -/
def SregsBut (q d : Nat) (s t : State) : Prop := ∀ r i, i < 64 → ¬(r = q ∧ i = d) → t.hw.ctl.sreg r i = s.hw.ctl.sreg r i
/-- The vector file: every register but d of core q as before. -/
def VregsBut (q d : Nat) (s t : State) : Prop := ∀ r i, i < 32 → ¬(r = q ∧ i = d) → t.hw.ctl.vreg r i = s.hw.ctl.vreg r i
/-- The predicate file: every register but d of core q as before. -/
def PregsBut (q d : Nat) (s t : State) : Prop := ∀ r i, i < 16 → ¬(r = q ∧ i = d) → t.hw.ctl.preg r i = s.hw.ctl.preg r i
/-- The accumulator file: every tile but d of core q as before. -/
def AregsBut (q d : Nat) (s t : State) : Prop := ∀ r i row col, i < 8 → row < 16 → col < 32 → ¬(r = q ∧ i = d) →
  t.hw.ctl.areg r i row col = s.hw.ctl.areg r i row col

/-- The scalar file as before. -/
def SameS (s t : State) : Prop := t.hw.ctl.fab.sregs = s.hw.ctl.fab.sregs
/-- The vector file as before. -/
def SameV (s t : State) : Prop := t.hw.ctl.fab.vregs = s.hw.ctl.fab.vregs
/-- The predicate file as before. -/
def SameP (s t : State) : Prop := t.hw.ctl.fab.pregs = s.hw.ctl.fab.pregs
/-- The accumulator file as before. -/
def SameA (s t : State) : Prop := t.hw.ctl.fab.aregs = s.hw.ctl.fab.aregs

/-- The slot wrote v to scalar register d of its core where guard bit 0 is 1, s0 staying 0, and the bundle went on to PC + 1;
every other register of every file is as before. -/
def PutsS (s : State) (x : At) (i : Issued) (d : Nat) (v : Word) (t : State) : Prop :=
  Retired x (x.pc + 1) [] s t ∧
    t.hw.ctl.sreg x.q d = (if s.hw.ctl.guard0 x.q i.sl && d != 0 then v else s.hw.ctl.sreg x.q d) ∧
    SregsBut x.q d s t ∧ SameV s t ∧ SameA s t ∧ SameP s t

/-- The slot wrote p to predicate register D of its core where guard bit 0 is 1, p0 staying all ones. -/
def PutsP (s : State) (x : At) (i : Issued) (p : BitVec 64) (t : State) : Prop :=
  Retired x (x.pc + 1) [] s t ∧
    t.hw.ctl.preg x.q i.sl.d.val = (if s.hw.ctl.guard0 x.q i.sl && i.sl.d.val != 0 then p else s.hw.ctl.preg x.q i.sl.d.val) ∧
    PregsBut x.q i.sl.d.val s t ∧ SameS s t ∧ SameV s t ∧ SameA s t

/-- The slot wrote bit l of p to predicate register D for each lane l its guard enables. -/
def PutsPBits (s : State) (x : At) (i : Issued) (p : Nat → Bool) (t : State) : Prop :=
  Retired x (x.pc + 1) [] s t ∧
    (∀ l, l < 64 → (t.hw.ctl.preg x.q i.sl.d.val).getLsbD l =
      (if (s.hw.ctl.guard x.q i.sl).getLsbD l && i.sl.d.val != 0 then p l else (s.hw.ctl.preg x.q i.sl.d.val).getLsbD l)) ∧
    PregsBut x.q i.sl.d.val s t ∧ SameS s t ∧ SameV s t ∧ SameA s t

/-- The slot wrote lane l of f to vector register D for each lane l its guard enables. -/
def PutsV (s : State) (x : At) (i : Issued) (f : Nat → BitVec 16) (t : State) : Prop :=
  Retired x (x.pc + 1) [] s t ∧
    (∀ l, l < 64 → lane (t.hw.ctl.vreg x.q i.sl.d.val) l =
      (if (s.hw.ctl.guard x.q i.sl).getLsbD l then f l else lane (s.hw.ctl.vreg x.q i.sl.d.val) l)) ∧
    VregsBut x.q i.sl.d.val s t ∧ SameS s t ∧ SameA s t ∧ SameP s t

/-- The slot wrote element (r, j) of f to accumulator tile D where guard bit 0 is 1, for the rows a condition picks. -/
def PutsA (s : State) (x : At) (i : Issued) (rows : Nat → Bool) (f : Nat → Nat → Word) (t : State) : Prop :=
  Retired x (x.pc + 1) [] s t ∧
    (∀ r j, r < 16 → j < 32 → t.hw.ctl.areg x.q i.sl.d.val r j =
      (if s.hw.ctl.guard0 x.q i.sl && rows r then f r j else s.hw.ctl.areg x.q i.sl.d.val r j)) ∧
    AregsBut x.q i.sl.d.val s t ∧ SameS s t ∧ SameV s t ∧ SameP s t

/-- Slot i completes a bundle by itself on the core at x, which runs its task and holds none; nothing is said of the checks. -/
structure Arrives (s : State) (x : At) (i : Issued) : Prop where
  runs : s.hw.ctl.running = true
  core : s.hw.ctl.atCore x.k = some x
  waits : (s.hw.ctl.core x.q).waiting = []
  empty : (s.hw.ctl.core x.q).staged = []
  last : i.sl.last = true

/-- The units outside the fabric and Canopy are as before; registers, outputs and rings are not spoken of. -/
structure SameUnits (c d : Ctl) : Prop where
  now : d.now = c.now
  vid : d.vid = c.vid
  ras : d.ras = c.ras
  ports : d.ports = c.ports
  img : d.img = c.img
  und : d.und = c.und
  gld : d.gld = c.gld
  hng : d.hng = c.hng
  pwr : d.pwr = c.pwr
  boot : d.boot = c.boot
  jobs : d.host.jobs = c.host.jobs
  dmas : d.host.dmas = c.host.dmas
  taken : d.host.taken = c.host.taken

/-- A bundle of the core at x that issued and acted outside the register files: counted, its task goes on, nothing staged; memories and
queue stay, and of the registers only the PC, the ISSUE count, DBG_SAT, those of the list and, where it posts, those of a posting change; other cores, other units, the
dispatch queues and the gather buffers are as before. -/
structure TileStep (x : At) (posts : Bool) (l : List Nat) (s t : State) : Prop where
  mem : t.hw.mem = s.hw.mem
  queue : t.pending = s.pending
  count : t.hw.ctl.get (F.stdCoreIssueCount (x.q / 8) (x.q % 8)) =
    min (s.hw.ctl.get (F.stdCoreIssueCount (x.q / 8) (x.q % 8)) + 1) (2 ^ 32 - 1)
  regs : ∀ a, (posts && postAddr a) = false → a ∉ x.pcAddr :: x.issueAddr :: R.dbgSat :: l → t.hw.ctl.rd a = s.hw.ctl.rd a
  task : (t.hw.ctl.core x.q).task.map (fun u => { u with inCommit := false }) = some { x.t with inCommit := false }
  staged : (t.hw.ctl.core x.q).staged = []
  others : ∀ q, q ≠ x.q → t.hw.ctl.core q = s.hw.ctl.core q
  units : SameUnits s.hw.ctl t.hw.ctl
  gather : ∀ n, t.hw.ctl.gather n = s.hw.ctl.gather n
  queues : t.hw.ctl.fab.queues = s.hw.ctl.fab.queues

/-- The work area as the bundle's only slot finds it: nothing staged, ISSUE counted, the PC to come PC + 1. -/
def begun (s : State) (x : At) (i : Issued) : W :=
  (((W.mk (s.hw.ctl.staged1 x i) s.hw.mem []).on (fun c => c.coreSet x.q { c.core x.q with staged := [] })).on
    (fun c => (c.bundleEnergy x [i]).bump (F.stdCoreIssueCount x.n (x.q % 8)) 1)).on
    (fun c => c.coreSet x.q { c.core x.q with nextPc := (x.pc + 1) % 4096, halting := false, nacked := false, waited := false })

/-- Every register of every file holds what it held. -/
def SameFiles (s t : State) : Prop :=
  (∀ q i, t.hw.ctl.sreg q i = s.hw.ctl.sreg q i) ∧ (∀ q i, i < 32 → t.hw.ctl.vreg q i = s.hw.ctl.vreg q i) ∧
  (∀ q i, i < 16 → t.hw.ctl.preg q i = s.hw.ctl.preg q i) ∧ (∀ q i r j, i < 8 → r < 16 → j < 32 → t.hw.ctl.areg q i r j = s.hw.ctl.areg q i r j)

/-- The controllers with the core at x held in slot i. -/
def Ctl.held1 (c : Ctl) (x : At) (i : Issued) : Ctl := c.coreSet x.q { c.core x.q with waiting := [i] }

/-- No slot ring, line ring or credit pool is linked to a semaphore. -/
def Ctl.plainSem (c : Ctl) (sem : Nat) : Prop :=
  (∀ r < 128, c.on (F.chnSrStateValid r) = true → c.get (F.chnSrCfgFullSem r) ≠ sem ∧ c.get (F.chnSrCfgFullSem r) + 1 ≠ sem) ∧
  (∀ i < 24, c.armedAs i 0 = true → c.get (F.stcCtrlSrc i) = 3 ∨ c.get (F.stcRingSem i) + 1 ≠ sem) ∧
  (∀ p < 256, c.on (F.chnCpGuardValid p) = true → c.get (F.chnCpGuardLinksem p) ≠ sem)

/-- The PC of the core at x. -/
def State.pcOf (s : State) (x : At) : Nat := s.hw.ctl.get (F.stdCorePcPc (x.q / 8) (x.q % 8))

/-- The bundle has completed: nothing waits, and the PC is p modulo 4096. -/
def Done (x : At) (p : Nat) (t : State) : Prop := t.pcOf x = p % 4096 ∧ (t.hw.ctl.core x.q).waiting = []

/-- The bundle is held in slot i: that slot alone waits, and the PC has not moved. -/
def HeldIn (x : At) (i : Issued) (s t : State) : Prop := t.pcOf x = s.pcOf x ∧ (t.hw.ctl.core x.q).waiting = [i]

/-- The stand's gather buffer holds no bytes of core k (R170). -/
def Drained (s : State) (n k : Nat) : Prop := ∀ e ∈ s.hw.ctl.gather n, k ∉ e.cores

/-- A counter of 32 bits that counts once and saturates (R494). -/
def Counts (c d : Ctl) (f : Fld) : Prop := d.get f = min (c.get f + 1) (2 ^ f.n - 1)

/-- As TileStep, the memories and the gather buffers not spoken of: a bundle that loads or stores. -/
structure TileActs (x : At) (posts : Bool) (l : List Nat) (s t : State) : Prop where
  queue : t.pending = s.pending
  count : t.hw.ctl.get (F.stdCoreIssueCount (x.q / 8) (x.q % 8)) =
    min (s.hw.ctl.get (F.stdCoreIssueCount (x.q / 8) (x.q % 8)) + 1) (2 ^ 32 - 1)
  regs : ∀ a, (posts && postAddr a) = false → a ∉ x.pcAddr :: x.issueAddr :: R.dbgSat :: l → t.hw.ctl.rd a = s.hw.ctl.rd a
  done : Done x (x.pc + 1) t
  staged : (t.hw.ctl.core x.q).staged = []
  others : ∀ q, q ≠ x.q → t.hw.ctl.core q = s.hw.ctl.core q
  units : SameUnits s.hw.ctl t.hw.ctl
  gathers : ∀ n, n ≠ x.n → t.hw.ctl.gather n = s.hw.ctl.gather n
  queues : t.hw.ctl.fab.queues = s.hw.ctl.fab.queues
  fifos : t.hw.ctl.fab.fifos = s.hw.ctl.fab.fifos

/-- Registers of the line cache's counts. -/
def lcRegs : List Nat := [R.cnpLcHit, R.cnpLcMiss, R.cnpLcWb]

/-- An access of n bytes at ea of the bundle's slot goes to g (Table 5.2). -/
def GoesTo (s : State) (x : At) (i : Issued) (how : Acc) (ea n : Nat) (g : Tgt) : Prop :=
  (begun s x i).ctl.xlate x.q x.k x.t how ea n = some g

/-- The gather buffer entries that a load of n bytes at g flushes first (R170). -/
def touched (g : Tgt) (n : Nat) (e : GbEntry) : Bool :=
  g.level == 2 && !g.dram && decide (lineKey g.key ≤ e.line) && decide (e.line ≤ lineKey (g.key + n - 1))

/-- A store of n bytes at g lands: no ring slot it touches is filled (R206), nor the task's line drained (R208). -/
def Lands (s : State) (x : At) (i : Issued) (g : Tgt) (n : Nat) : Prop := ∀ j r, j < n → (begun s x i).ctl.refAt g j = some r →
  (begun s x i).ctl.filled r = false ∧ ∀ o j, r = .out o j → (begun s x i).ctl.lateTask x.t o = false

/-- The byte a store of the slot puts at offset j of its address, if it stores one there (Table 4.6, R130). -/
def Ctl.stored (c : Ctl) (q : Nat) (i : Issued) (j : Nat) : Option Byte :=
  let piece (v : Nat) (b : Nat) : Option Byte := some (BitVec.ofNat 8 (v / 256 ^ b))
  match i.op with
  | .stS => piece (c.sreg q i.sl.b.val).toNat j
  | .stV => if (c.guard q i.sl).getLsbD (j / 2) then piece (lane (c.vreg q i.sl.b.val) (j / 2)).toNat (j % 2) else none
  | .stAr => piece (c.areg q i.sl.b.val i.sl.c.val (j / 4)).toNat (j % 4)
  | .stAh => piece (narrow (c.areg q i.sl.b.val i.sl.c.val (j / 2))).toNat (j % 2)
  | _ => none

/-- The stores of Table 4.6 that put plain bytes, with their widths in bytes. -/
def plainStores : List (Op × Nat) := [(.stS, 4), (.stV, 128), (.stAr, 128), (.stAh, 64)]

/-! Frames by parts. -/

/-- The parts of the controllers a frame speaks of. -/
inductive Part where
  | now | fab | cnp | vid | ras | ports | jobs | dmas | link | mail | host | rings | img | und | gld | hng | pwr | boot | tap | log
  | out | free
deriving DecidableEq, Repr

/-- What it is for a part to be as before. -/
def Part.Same (c d : Ctl) : Part → Prop
  | .now => d.now = c.now
  | .fab => d.fab = c.fab
  | .cnp => d.cnp = c.cnp
  | .vid => d.vid = c.vid
  | .ras => d.ras = c.ras
  | .ports => d.ports = c.ports
  | .jobs => d.host.jobs = c.host.jobs
  | .dmas => d.host.dmas = c.host.dmas
  | .link => d.host.linkUp = c.host.linkUp ∧ d.host.timeBase = c.host.timeBase
  | .mail => d.host.taken = c.host.taken
  | .host => d.host.rest = c.host.rest
  | .rings => d.host.rings = c.host.rings ∧ d.host.queue = c.host.queue
  | .img => d.img = c.img
  | .und => d.und = c.und
  | .gld => d.gld = c.gld
  | .hng => d.hng = c.hng
  | .pwr => d.pwr = c.pwr
  | .boot => d.boot = c.boot
  | .tap => d.diag.tap = c.diag.tap
  | .log => d.diag = { c.diag with jtag := d.diag.jtag, jtagDrive := d.diag.jtagDrive, jtagHighz := d.diag.jtagHighz,
                                   boundary := d.diag.boundary, dbgDone := d.diag.dbgDone, dbgDenied := d.diag.dbgDenied,
                                   dbgData := d.diag.dbgData, uartLevel := d.diag.uartLevel, snaps := d.diag.snaps }
  | .out => d.out = c.out
  | .free => d.free = c.free

/-- The parts a posting may change. -/
def Part.byPosting : Part → Bool
  | .rings | .log | .out | .free => true
  | _ => false

/-- The frame of a command: every part outside ps and every register outside l is as before; where it posts, but for what a posting
may change. -/
def Frame (posts : Bool) (ps : List Part) (l : List Nat) (c d : Ctl) : Prop :=
  (∀ p, p ∉ ps → (posts && p.byPosting) = false → p.Same c d) ∧
  ∀ a, a ∉ l → (posts && postAddr a) = false → d.rd a = c.rd a

/-- A record of ws, its PH, SEQ and timestamp filled in, was written at TAIL of ring r, where the link is up and the ring has room
(R279, R282). -/
def WritesRecord (c d : Ctl) (r : Nat) (ws : List Word) : Prop :=
  c.host.linkUp = true → c.ringFill r ≠ c.ringSize r - 1 →
  ∃ w0 rest, w0 &&& 0xFF0F = nth 0 ws 0 &&& 0xFF0F ∧
    Output.hostWrite ((c.rd (R.rngBaseLo r)).toNat + 2 ^ 32 * (c.rd (R.rngBaseHi r)).toNat + 64 * c.get (F.rngTailIdx r))
      (w0 :: (List.range 5).map (fun i => nth 0 ws (i + 1)) ++ rest) ∈ d.out

/-- Vector v is signalled: its message leaves, or its pending bit is 1 where the entry is masked or was never written, or the link is down
(R290, log entry 18). -/
def Signals (c d : Ctl) (v : Nat) : Prop :=
  if c.host.linkUp = true ∧ v ∈ c.host.msixWritten ∧ (c.rd (R.msix v 3)).getLsbD 0 = false then
    .msix v ((c.rd (R.msix v 0)).toNat + 2 ^ 32 * (c.rd (R.msix v 1)).toNat) (c.rd (R.msix v 2)) ∈ d.out
  else (d.rd (R.pba (v / 32))).getLsbD (v % 32) = true

/-! Warden commands. -/

/-- The command ws that mailbox m has had taken may start: it has not, nothing before it holds its object (R310, R311). -/
structure Waits (c : Ctl) (m : Nat) (ws : List Word) : Prop where
  runs : c.running = true
  taken : c.taken m = some ⟨ws, none, false⟩
  first : c.mayStart m ⟨ws, none, false⟩ = true

/-- The command ws of an OPCODE starts from mailbox m, and none of the checks all commands share refuses it (R307, R309, R318, R379). -/
structure Starts (c : Ctl) (m op : Nat) (ws : List Word) : Prop extends Waits c m ws where
  fw : c.get F.wktFwFwstate = 1
  opcode : reqOp ws = op
  defined : reqDefined ws ((argMasks ws).getD []) = true
  fresh : (nth 0 ws 0).getLsbD 24 = true → hasEpoch (reqObj ws) = true → fieldGet (nth 0 ws 1) 0 16 = c.epochOf (reqObj ws)
  primary : c.secRefuses op = false

/-- The command ws of mailbox m is answered: STATUS, DETAIL, the present EPOCH of its object, the results; other mailboxes are as
before. -/
def Answered (c d : Ctl) (m : Nat) (ws : List Word) (st detail : Nat) (res : List Word) : Prop :=
  d.taken m = some ⟨ws, some (st, detail, d.epochOf (reqObj ws), res), true⟩ ∧ ∀ x, x ≠ m → d.taken x = c.taken x

/-- The command ws of mailbox m has started and has no answer yet. -/
def Begun (c d : Ctl) (m : Nat) (ws : List Word) : Prop :=
  d.taken m = some ⟨ws, none, true⟩ ∧ ∀ x, x ≠ m → d.taken x = c.taken x

/-- Registers that states of stands show in, besides their PC and FAULT registers. -/
def standRegs : List Nat := (List.range 17).map R.stdState ++ [R.phcRotStatus, R.phcRotCnt, R.phcCurStatus]

end Sys2Proof.Machine
end

