-- ==== Sys2Proof/WellFormed.lean ====
section
/-! DEFINITION. Which commands are well formed: operand lists have the lengths the command's other operands state. -/

namespace Sys2Proof

/-- A written byte list is as long as the request says; a read carries none. -/
def dataFits (write : Bool) (len : Nat) (data : List Byte) : Bool := data.length == (if write then len else 0)

/-- Well-formed commands. -/
def Instr.wf : Instr → Bool
  | .nativeAux _ w _ len d => dataFits w len.val d
  | .i2cOverAux _ w _ len d => dataFits w len.val d
  | .apertureAccess w _ len d _ => dataFits w len.val d
  | .taskEnqueue (.raw _ ws) _ => ws.length == 32
  | _ => true

end Sys2Proof
end

