-- ==== Sys2Proof/Certificates/Slice0/Obligations.lean ====
section
/-! DEFINITION. The statements about the block. Each says in its docstring which rules of the spec it formalises. -/

open Sys2Proof Sys2Proof.Machine

/-! Tile cores: register operations (04_stands_and_bundles.md). -/

/-- R130, R131, Table 4.6 (ADD … MAX, ADDI, LI, RDSR, VSUM): a slot alone in its bundle that issues writes its result to sD where
guard bit 0 is 1 (s0 stays 0), the bundle goes on to PC + 1, and no other register, memory byte or unit changes. -/
def Obligations.ScalarResults : Prop := ∀ (k : Fin 128) (sl : Slot) (s : State) (x : At), x.k = k.val →
  let a := s.hw.ctl.sreg x.q sl.a.val
  let b := s.hw.ctl.sreg x.q sl.b.val
  (Issues s x ⟨.add, sl⟩ → Completes (exec (.add k sl) s) (PutsS s x ⟨.add, sl⟩ sl.d.val (a + b))) ∧
  (Issues s x ⟨.sub, sl⟩ → Completes (exec (.sub k sl) s) (PutsS s x ⟨.sub, sl⟩ sl.d.val (a - b))) ∧
  (Issues s x ⟨.mul, sl⟩ → Completes (exec (.mul k sl) s) (PutsS s x ⟨.mul, sl⟩ sl.d.val (a * b))) ∧
  (Issues s x ⟨.and, sl⟩ → Completes (exec (.and k sl) s) (PutsS s x ⟨.and, sl⟩ sl.d.val (a &&& b))) ∧
  (Issues s x ⟨.or, sl⟩ → Completes (exec (.or k sl) s) (PutsS s x ⟨.or, sl⟩ sl.d.val (a ||| b))) ∧
  (Issues s x ⟨.xor, sl⟩ → Completes (exec (.xor k sl) s) (PutsS s x ⟨.xor, sl⟩ sl.d.val (a ^^^ b))) ∧
  (Issues s x ⟨.shl, sl⟩ → Completes (exec (.shl k sl) s) (PutsS s x ⟨.shl, sl⟩ sl.d.val (a <<< (b.toNat % 32)))) ∧
  (Issues s x ⟨.shr, sl⟩ → Completes (exec (.shr k sl) s) (PutsS s x ⟨.shr, sl⟩ sl.d.val (a >>> (b.toNat % 32)))) ∧
  (Issues s x ⟨.sra, sl⟩ → Completes (exec (.sra k sl) s) (PutsS s x ⟨.sra, sl⟩ sl.d.val (a.sshiftRight (b.toNat % 32)))) ∧
  (Issues s x ⟨.min, sl⟩ → Completes (exec (.min k sl) s) (PutsS s x ⟨.min, sl⟩ sl.d.val (if a.toInt ≤ b.toInt then a else b))) ∧
  (Issues s x ⟨.max, sl⟩ → Completes (exec (.max k sl) s) (PutsS s x ⟨.max, sl⟩ sl.d.val (if a.toInt ≤ b.toInt then b else a))) ∧
  (Issues s x ⟨.addi, sl⟩ → Completes (exec (.addi k sl) s) (PutsS s x ⟨.addi, sl⟩ sl.d.val (a + sl.imm))) ∧
  (Issues s x ⟨.li, sl⟩ → Completes (exec (.li k sl) s) (PutsS s x ⟨.li, sl⟩ sl.d.val sl.imm)) ∧
  (Issues s x ⟨.rdsr, sl⟩ → Completes (exec (.rdsr k sl) s) (PutsS s x ⟨.rdsr, sl⟩ sl.d.val
    (match sl.c.val with
      | 0 => w32 x.k
      | 1 => x.t.task
      | 2 => x.t.frame
      | 3 => w32 x.t.line
      | _ => w32 x.t.phase))) ∧
  (Issues s x ⟨.vsum, sl⟩ → Completes (exec (.vsum k sl) s) (PutsS s x ⟨.vsum, sl⟩ sl.d.val
    (treeSum ((List.range 64).map (fun l => widen (lane (s.hw.ctl.vreg x.q sl.a.val) l))))))

/-- R130, R131, Table 4.6 (CMPLT, CMPEQ, PAND, POR, PNOT, PTAIL): the predicate result is written to pD where guard bit 0 is 1 (p0
stays all ones), and nothing else changes but the PC and the ISSUE count. PTAIL reads sA signed, the model's choice (log entry 19). -/
def Obligations.PredicateResults : Prop := ∀ (k : Fin 128) (sl : Slot) (s : State) (x : At), x.k = k.val →
  let a := s.hw.ctl.sreg x.q sl.a.val
  let b := s.hw.ctl.sreg x.q sl.b.val
  let p := s.hw.ctl.preg x.q sl.a.val
  let r := s.hw.ctl.preg x.q sl.b.val
  (Issues s x ⟨.cmplt, sl⟩ → Completes (exec (.cmplt k sl) s) (PutsP s x ⟨.cmplt, sl⟩ (allBits (decide (a.toInt < b.toInt))))) ∧
  (Issues s x ⟨.cmpeq, sl⟩ → Completes (exec (.cmpeq k sl) s) (PutsP s x ⟨.cmpeq, sl⟩ (allBits (decide (a = b))))) ∧
  (Issues s x ⟨.pand, sl⟩ → Completes (exec (.pand k sl) s) (PutsP s x ⟨.pand, sl⟩ (p &&& r))) ∧
  (Issues s x ⟨.por, sl⟩ → Completes (exec (.por k sl) s) (PutsP s x ⟨.por, sl⟩ (p ||| r))) ∧
  (Issues s x ⟨.pnot, sl⟩ → Completes (exec (.pnot k sl) s) (PutsP s x ⟨.pnot, sl⟩ (~~~ p))) ∧
  (Issues s x ⟨.ptail, sl⟩ → Completes (exec (.ptail k sl) s) (fun t =>
    (∃ v : BitVec 64, (∀ l : Nat, l < 64 → v.getLsbD l = decide ((l : Int) < a.toInt)) ∧ PutsP s x ⟨.ptail, sl⟩ v t)))

/-- R130, R131, R241 … R246, Tables 4.6, 8.1 and 8.2 (VADD … VSEL, VSHIFT, VCVTI, VCVTP): lane by lane the operation's result in the
enabled lanes of vD, the old lane elsewhere; nothing else changes but the PC and the ISSUE count. -/
def Obligations.VectorResults : Prop := ∀ (k : Fin 128) (sl : Slot) (s : State) (x : At), x.k = k.val →
  let a := lane (s.hw.ctl.vreg x.q sl.a.val)
  let b := lane (s.hw.ctl.vreg x.q sl.b.val)
  let c := lane (s.hw.ctl.vreg x.q sl.c.val)
  (Issues s x ⟨.vadd, sl⟩ → Completes (exec (.vadd k sl) s) (PutsV s x ⟨.vadd, sl⟩ (fun l => add16 (a l) (b l)))) ∧
  (Issues s x ⟨.vsub, sl⟩ → Completes (exec (.vsub k sl) s) (PutsV s x ⟨.vsub, sl⟩ (fun l => sub16 (a l) (b l)))) ∧
  (Issues s x ⟨.vmul, sl⟩ → Completes (exec (.vmul k sl) s) (PutsV s x ⟨.vmul, sl⟩ (fun l => mul16 (a l) (b l)))) ∧
  (Issues s x ⟨.vfma, sl⟩ → Completes (exec (.vfma k sl) s) (PutsV s x ⟨.vfma, sl⟩ (fun l => fma16 (a l) (b l) (c l)))) ∧
  (Issues s x ⟨.vmax, sl⟩ → Completes (exec (.vmax k sl) s) (PutsV s x ⟨.vmax, sl⟩ (fun l => pick16 true (a l) (b l)))) ∧
  (Issues s x ⟨.vmin, sl⟩ → Completes (exec (.vmin k sl) s) (PutsV s x ⟨.vmin, sl⟩ (fun l => pick16 false (a l) (b l)))) ∧
  (Issues s x ⟨.vmov, sl⟩ → Completes (exec (.vmov k sl) s) (PutsV s x ⟨.vmov, sl⟩ a)) ∧
  (Issues s x ⟨.vbcst, sl⟩ → Completes (exec (.vbcst k sl) s) (PutsV s x ⟨.vbcst, sl⟩
    (fun _ => (s.hw.ctl.sreg x.q sl.a.val).setWidth 16))) ∧
  (Issues s x ⟨.vsel, sl⟩ → Completes (exec (.vsel k sl) s) (PutsV s x ⟨.vsel, sl⟩
    (fun l => if (s.hw.ctl.preg x.q sl.c.val).getLsbD l then a l else b l))) ∧
  (Issues s x ⟨.vshift, sl⟩ → Completes (exec (.vshift k sl) s) (PutsV s x ⟨.vshift, sl⟩
    (fun l => if 0 ≤ (l : Int) + sl.imm.toInt ∧ (l : Int) + sl.imm.toInt ≤ 63 then a ((l : Int) + sl.imm.toInt).toNat else 0))) ∧
  (Issues s x ⟨.vcvti, sl⟩ → Completes (exec (.vcvti k sl) s) (PutsV s x ⟨.vcvti, sl⟩ (fun l => cvti16 (a l) (sl.imm.toNat % 32)))) ∧
  (Issues s x ⟨.vcvtp, sl⟩ → Completes (exec (.vcvtp k sl) s) (PutsV s x ⟨.vcvtp, sl⟩
    (fun l => cvtp16 (a l) (sl.imm.toNat % 32) (sl.imm.toNat / 256 % 32))))

/-- R130, R131, Table 4.6 (VCMPLT, VCMPEQ): bit l of pD takes the comparison of lane l where the guard enables it, and nothing else
changes but the PC and the ISSUE count; a NaN compares false (Table 8.2). -/
def Obligations.VectorCompares : Prop := ∀ (k : Fin 128) (sl : Slot) (s : State) (x : At), x.k = k.val →
  let a := fun l => f16.decode (lane (s.hw.ctl.vreg x.q sl.a.val) l).toNat
  let b := fun l => f16.decode (lane (s.hw.ctl.vreg x.q sl.b.val) l).toNat
  (Issues s x ⟨.vcmplt, sl⟩ → Completes (exec (.vcmplt k sl) s) (PutsPBits s x ⟨.vcmplt, sl⟩ (fun l => (a l).lt (b l)))) ∧
  (Issues s x ⟨.vcmpeq, sl⟩ → Completes (exec (.vcmpeq k sl) s) (PutsPBits s x ⟨.vcmpeq, sl⟩ (fun l => (a l).eq (b l))))

/-- R130, R131, R135, Table 4.6 (MMA, MMAZ, AZERO, AMOV, AADD, AWR, ARD): the elements of tile aD, with half C[2] of vB and quarter
C[1:0] of vA; AWR and ARD move rows 2C and 2C + 1; nothing else changes but the PC and the ISSUE count. -/
def Obligations.TensorResults : Prop := ∀ (k : Fin 128) (sl : Slot) (s : State) (x : At), x.k = k.val →
  let va := lane (s.hw.ctl.vreg x.q sl.a.val)
  let vb := lane (s.hw.ctl.vreg x.q sl.b.val)
  let old := s.hw.ctl.areg x.q sl.d.val
  let src := s.hw.ctl.areg x.q sl.a.val
  let prod := fun r j => prod32 (va (16 * (sl.c.val % 4) + r)) (vb (32 * (sl.c.val / 4 % 2) + j))
  (Issues s x ⟨.mma, sl⟩ → Completes (exec (.mma k sl) s) (PutsA s x ⟨.mma, sl⟩ (fun _ => true) (fun r j => add32 (old r j) (prod r j)))) ∧
  (Issues s x ⟨.mmaz, sl⟩ → Completes (exec (.mmaz k sl) s) (PutsA s x ⟨.mmaz, sl⟩ (fun _ => true) prod)) ∧
  (Issues s x ⟨.azero, sl⟩ → Completes (exec (.azero k sl) s) (PutsA s x ⟨.azero, sl⟩ (fun _ => true) (fun _ _ => 0))) ∧
  (Issues s x ⟨.amov, sl⟩ → Completes (exec (.amov k sl) s) (PutsA s x ⟨.amov, sl⟩ (fun _ => true) src)) ∧
  (Issues s x ⟨.aadd, sl⟩ → Completes (exec (.aadd k sl) s) (PutsA s x ⟨.aadd, sl⟩ (fun _ => true) (fun r j => add32 (old r j) (src r j)))) ∧
  (Issues s x ⟨.awr, sl⟩ → Completes (exec (.awr k sl) s) (PutsA s x ⟨.awr, sl⟩ (fun r => r / 2 == sl.c.val)
    (fun r j => widen (va (32 * (r % 2) + j))))) ∧
  (Issues s x ⟨.ard, sl⟩ → Completes (exec (.ard k sl) s) (fun t => Retired x (x.pc + 1) [] s t ∧
    (∀ l, l < 64 → lane (t.hw.ctl.vreg x.q sl.d.val) l = (if s.hw.ctl.guard0 x.q sl then narrow (src (2 * sl.c.val + l / 32) (l % 32))
      else lane (s.hw.ctl.vreg x.q sl.d.val) l)) ∧
    VregsBut x.q sl.d.val s t ∧ SameS s t ∧ SameA s t ∧ SameP s t))

/-! Tile cores: every operation (R127, R130, R136, R142, R143). -/

/-- R130: a slot whose guard enables nothing has no effect. Whatever the operation, the bundle issues and completes, the PC goes on,
and no register of any file, no memory byte and no unit changes. -/
def Obligations.GuardOffNoEffect : Prop := ∀ (k : Fin 128) (op : Op) (sl : Slot) (s : State) (x : At), x.k = k.val →
  Issues s x ⟨op, sl⟩ → s.hw.ctl.active x.q ⟨op, sl⟩ = false →
  Completes (exec (op.instr k sl) s) (fun t => Retired x (x.pc + 1) [] s t ∧ SameFiles s t)

/-- R127, R128: a slot that is not the bundle's last joins the slots of the bundle to come, and nothing else happens. R128, R129, Tables 4.5 and
4.6: a slot's 128 bits and a bundle's 128 bytes read back as what was put into them, and every slot's bits are those of the fields they
read as. -/
def Obligations.SlotStaged : Prop := (∀ (k : Fin 128) (op : Op) (sl : Slot) (s : State) (x : At), x.k = k.val →
  s.hw.ctl.running = true → s.hw.ctl.atCore x.k = some x → (s.hw.ctl.core x.q).waiting = [] → (s.hw.ctl.core x.q).ready = false →
  sl.last = false →
  Completes (exec (op.instr k sl) s) (fun t => t.hw.mem = s.hw.mem ∧ t.pending = s.pending ∧
    (t.hw.ctl.core x.q).staged = stage (s.hw.ctl.core x.q).staged ⟨op, sl⟩ ∧ (t.hw.ctl.core x.q).task = some x.t ∧
    (t.hw.ctl.core x.q).waiting = [] ∧ (∀ q, q ≠ x.q → t.hw.ctl.core q = s.hw.ctl.core q) ∧
    ∃ cs, t.hw.ctl = { s.hw.ctl with fab := { s.hw.ctl.fab with cores := cs } })) ∧
  (∀ (n : Fin 8) (o : Op) (pn last : Bool) (ps : Fin 16) (d a b c : Fin 64) (resv : BitVec 59) (imm : Word),
    let i : Issued := ⟨o, { slot := n, pn := pn, ps := ps, d := d, a := a, b := b, c := c, resv := resv, imm := imm, upset := false, last := last }⟩
    slotOp n (slotWord i) last = i) ∧
  (∀ (n : Fin 8) (v : BitVec 128) (last : Bool), slotWord (slotOp n v last) = v) ∧
  (∀ b : BitVec 1024, (bundleBytes b).length = 128 ∧ bundleOf (bundleBytes b) = b)

/-- R440, R184 and log entry 25: with the main domain held in reset, with no task on the core, or while the core holds a bundle that
waits, a slot's operation changes nothing. -/
def Obligations.SlotNeedsRunningCore : Prop := ∀ (k : Fin 128) (op : Op) (sl : Slot) (s : State),
  (s.hw.ctl.running = false ∨ s.hw.ctl.atCore k.val = none ∨ ∃ x, s.hw.ctl.atCore k.val = some x ∧ (s.hw.ctl.core x.q).waiting ≠ []) →
  exec (op.instr k sl) s = .next s

/-- R142, R143: a bundle that fails a check of Table 4.8 has no effect. The core stops: PC, CAUSE and SLOT are in STD_n_Cc_FAULT, bit c
of STD_n_FAULT is set, the task is gone without signalling, STD_n_STATE stays; no register of any file changes, nor any byte that no
entry of the stand's gather buffer holds; no semaphore, channel or pool changes. -/
def Obligations.CoreFault : Prop := ∀ (k : Fin 128) (op : Op) (sl : Slot) (s : State) (x : At) (slot cause : Nat), x.k = k.val →
  Arrives s x ⟨op, sl⟩ → (s.hw.ctl.staged1 x ⟨op, sl⟩).bundleCause x.q x.k x.t x.pc [⟨op, sl⟩] = some (slot, cause) →
  Completes (exec (op.instr k sl) s) (fun t =>
    t.hw.ctl.rd (R.stdCoreFault (x.q / 8) (x.q % 8)) = w32 (x.pc + 4096 * cause + 65536 * slot) ∧
    (t.hw.ctl.get (F.stdFaultCore (x.q / 8))).testBit (x.q % 8) = true ∧
    (t.hw.ctl.core x.q).task = none ∧ (t.hw.ctl.core x.q).stopped = true ∧
    t.hw.ctl.get (F.stdStateState (x.q / 8)) = s.hw.ctl.get (F.stdStateState (x.q / 8)) ∧
    SameFiles s t ∧ t.hw.ctl.fab.fifos = s.hw.ctl.fab.fifos ∧ t.hw.ctl.fab.heldCr = s.hw.ctl.fab.heldCr ∧
    (∀ sem < 256, t.hw.ctl.rd (R.semCount sem) = s.hw.ctl.rd (R.semCount sem)) ∧
    (∀ q, q ≠ x.q → t.hw.ctl.core q = s.hw.ctl.core q) ∧ t.pending = s.pending ∧
    (s.hw.ctl.gather x.n = [] → t.hw.mem = s.hw.mem))

/-- Table 4.6, Table 4.8 (TRAP): with its guard on, and no cause found before it, TRAP stops the core with cause SW_TRAP (9); with its
guard off it has no effect. -/
def Obligations.Trap : Prop := ∀ (k : Fin 128) (sl : Slot) (s : State) (x : At), x.k = k.val →
  (Arrives s x ⟨.trap, sl⟩ → s.hw.ctl.guard0 x.q sl = true → 128 * x.pc < s.hw.ctl.codeEnd →
    Issued.illegal ⟨.trap, sl⟩ = false → Issued.badReg ⟨.trap, sl⟩ = false →
    Completes (exec (.trap k sl) s) (fun t =>
      t.hw.ctl.rd (R.stdCoreFault (x.q / 8) (x.q % 8)) = w32 (x.pc + 4096 * 9 + 65536 * sl.slot.val) ∧
      (t.hw.ctl.get (F.stdFaultCore (x.q / 8))).testBit (x.q % 8) = true ∧ (t.hw.ctl.core x.q).task = none ∧
      (t.hw.ctl.core x.q).stopped = true ∧ SameFiles s t ∧ t.pending = s.pending)) ∧
  (Issues s x ⟨.trap, sl⟩ → Completes (exec (.trap k sl) s) (fun t => Retired x (x.pc + 1) [] s t ∧ SameFiles s t))

/-- R131, R141, Table 4.6 (NOP, BR, JMP, CALL, RET, HINT): where the PC goes, the link register s63, the expected target; nothing else
changes but the ISSUE count. -/
def Obligations.ControlFlow : Prop := ∀ (k : Fin 128) (sl : Slot) (s : State) (x : At), x.k = k.val →
  let go := s.hw.ctl.guard0 x.q sl
  let a := s.hw.ctl.sreg x.q sl.a.val
  let there := (w32 x.pc + sl.imm).toNat
  let same := fun t => SameS s t ∧ SameV s t ∧ SameA s t ∧ SameP s t
  let hint := fun (t : State) => (t.hw.ctl.core x.q).hint
  (Issues s x ⟨.nop, sl⟩ → Completes (exec (.nop k sl) s) (fun t => Retired x (x.pc + 1) [] s t ∧ same t ∧ hint t = hint s)) ∧
  (Issues s x ⟨.br, sl⟩ → Completes (exec (.br k sl) s) (fun t =>
    Retired x (if go then there else x.pc + 1) [] s t ∧ same t ∧ hint t = if go then none else hint s)) ∧
  (Issues s x ⟨.jmp, sl⟩ → Completes (exec (.jmp k sl) s) (fun t =>
    Retired x (if go then a.toNat else x.pc + 1) [] s t ∧ same t ∧ hint t = if go then none else hint s)) ∧
  (Issues s x ⟨.call, sl⟩ → Completes (exec (.call k sl) s) (fun t =>
    Retired x (if go then there else x.pc + 1) [] s t ∧
      t.hw.ctl.sreg x.q 63 = (if go then w32 (x.pc + 1) else s.hw.ctl.sreg x.q 63) ∧ SregsBut x.q 63 s t ∧
      SameV s t ∧ SameA s t ∧ SameP s t ∧ hint t = if go then none else hint s)) ∧
  (Issues s x ⟨.ret, sl⟩ → Completes (exec (.ret k sl) s) (fun t =>
    Retired x (if go then (s.hw.ctl.sreg x.q 63).toNat else x.pc + 1) [] s t ∧ same t ∧ hint t = if go then none else hint s)) ∧
  (Issues s x ⟨.hint, sl⟩ → Completes (exec (.hint k sl) s) (fun t =>
    Retired x (x.pc + 1) [] s t ∧ same t ∧ hint t = if go then some (there % 4096) else hint s))

/-- R136: every slot reads its registers before any slot writes one. A VMOV of vB to vA in slot 3 and one of vA to vB in slot 4, as one
bundle, exchange the two vectors. -/
def Obligations.BundleReadsFirst : Prop := ∀ (k : Fin 128) (a b : Fin 32) (s : State) (x : At), x.k = k.val →
  let left : Slot := ⟨3, false, 0, ⟨a.val, by omega⟩, ⟨b.val, by omega⟩, 0, 0, 0, 0, false, false, none, 0, none⟩
  let right : Slot := ⟨4, false, 0, ⟨b.val, by omega⟩, ⟨a.val, by omega⟩, 0, 0, 0, 0, false, true, none, 0, none⟩
  s.hw.ctl.running = true → s.hw.ctl.atCore x.k = some x → (s.hw.ctl.core x.q).waiting = [] → (s.hw.ctl.core x.q).staged = [] →
  128 * x.pc < s.hw.ctl.codeEnd → a ≠ b →
  Completes (exec (.vmov k left) s) (fun u => Completes (exec (.vmov k right) u) (fun t =>
    t.hw.ctl.vreg x.q a.val = s.hw.ctl.vreg x.q b.val ∧ t.hw.ctl.vreg x.q b.val = s.hw.ctl.vreg x.q a.val ∧
    (∀ q i, i < 32 → ¬(q = x.q ∧ (i = a.val ∨ i = b.val)) → t.hw.ctl.vreg q i = s.hw.ctl.vreg q i) ∧
    t.pcOf x = (x.pc + 1) % 4096 ∧ t.hw.mem = s.hw.mem ∧ SameS s t ∧ SameA s t ∧ SameP s t))

/-! Tile cores: semaphores, credits, channels, the ready tag, the end of a task (05, 06). -/

/-- R198, R200, Table 4.6 (SWAIT, STRY, CRGET): a count or credits that are there are taken and the bundle completes; else SWAIT and
CRGET hold the bundle, counted in WAIT, and STRY writes 0 to pD. Nothing else changes. -/
def Obligations.TakesCounts : Prop := ∀ (k : Fin 128) (sl : Slot) (s : State) (x : At), x.k = k.val →
  let sem := sl.imm.toNat % 256
  let n := sl.imm.toNat / 256 % 65536
  let wait := R.stdCoreWait (x.q / 8) (x.q % 8)
  s.hw.ctl.guard0 x.q sl = true →
  (Issues s x ⟨.swait, sl⟩ → Completes (exec (.swait k sl) s) (fun t => SameS s t ∧ SameV s t ∧ SameA s t ∧ SameP s t ∧
    (if (s.hw.ctl.held1 x ⟨.swait, sl⟩).semTurn x.k sem = true ∧ n ≤ s.hw.ctl.get (F.semCountCount sem) then
      TileStep x false [R.semCount sem] s t ∧ Done x (x.pc + 1) t ∧
        t.hw.ctl.rd (R.semCount sem) = fieldPut (s.hw.ctl.rd (R.semCount sem)) 0 16 (s.hw.ctl.get (F.semCountCount sem) - n)
    else TileStep x false [wait] s t ∧ HeldIn x ⟨.swait, sl⟩ s t ∧ Counts s.hw.ctl t.hw.ctl (F.stdCoreWaitCount (x.q / 8) (x.q % 8))))) ∧
  (Issues s x ⟨.crget, sl⟩ → Completes (exec (.crget k sl) s) (fun t => SameS s t ∧ SameV s t ∧ SameA s t ∧ SameP s t ∧
    (if n ≤ s.hw.ctl.get (F.chnCpCountFree sem) then
      TileStep x false [R.chnCpCount sem] s t ∧ Done x (x.pc + 1) t ∧
        t.hw.ctl.rd (R.chnCpCount sem) = fieldPut (s.hw.ctl.rd (R.chnCpCount sem)) 0 16 (s.hw.ctl.get (F.chnCpCountFree sem) - n) ∧
        t.hw.ctl.held sem x.k = s.hw.ctl.held sem x.k + n
    else TileStep x false [wait] s t ∧ HeldIn x ⟨.crget, sl⟩ s t ∧ Counts s.hw.ctl t.hw.ctl (F.stdCoreWaitCount (x.q / 8) (x.q % 8)) ∧
      t.hw.ctl.held sem x.k = s.hw.ctl.held sem x.k))) ∧
  (Issues s x ⟨.stry, sl⟩ → Completes (exec (.stry k sl) s) (fun t =>
    TileStep x false [R.semCount sem] s t ∧ Done x (x.pc + 1) t ∧ PregsBut x.q sl.d.val s t ∧ SameS s t ∧ SameV s t ∧ SameA s t ∧
      t.hw.ctl.preg x.q sl.d.val = (if sl.d.val = 0 then BitVec.allOnes 64
        else allBits (decide (n ≤ s.hw.ctl.get (F.semCountCount sem)))) ∧
      t.hw.ctl.rd (R.semCount sem) = (if n ≤ s.hw.ctl.get (F.semCountCount sem) then
        fieldPut (s.hw.ctl.rd (R.semCount sem)) 0 16 (s.hw.ctl.get (F.semCountCount sem) - n) else s.hw.ctl.rd (R.semCount sem))))

/-- R139, R198, R200, Table 4.6 (SSIG, CRPUT, FENCE), for a core with nothing left in its stand's gather buffer: SSIG on a semaphore
that no ring or pool uses adds its count, saturating at 65 535 with OVF; CRPUT moves credits to FREE, from LODGED for the pool's
consumer, else from the core's HELD; FENCE does nothing more. SSIG and CRPUT enter the commit section. -/
def Obligations.GivesCounts : Prop := ∀ (k : Fin 128) (sl : Slot) (s : State) (x : At), x.k = k.val →
  let sem := sl.imm.toNat % 256
  let n := sl.imm.toNat / 256 % 65536
  let sum := s.hw.ctl.get (F.semCountCount sem) + n
  s.hw.ctl.guard0 x.q sl = true → Drained s x.n x.k →
  (Issues s x ⟨.ssig, sl⟩ → s.hw.ctl.plainSem sem → Completes (exec (.ssig k sl) s) (fun t =>
    TileStep x false [R.semCount sem] s t ∧ Done x (x.pc + 1) t ∧ SameS s t ∧ SameV s t ∧ SameA s t ∧ SameP s t ∧
    t.hw.ctl.get (F.semCountCount sem) = min sum 65535 ∧
    t.hw.ctl.get (F.semCountOvf sem) = (if 65535 < sum then 1 else s.hw.ctl.get (F.semCountOvf sem)) ∧
    (t.hw.ctl.core x.q).task = some { x.t with inCommit := true })) ∧
  (Issues s x ⟨.crput, sl⟩ → s.hw.ctl.get (F.chnCpCountFree sem) + n < 65536 → Completes (exec (.crput k sl) s) (fun t =>
    TileStep x false [R.chnCpCount sem, R.chnCpLodged sem] s t ∧ Done x (x.pc + 1) t ∧ SameS s t ∧ SameV s t ∧ SameA s t ∧ SameP s t ∧
    t.hw.ctl.get (F.chnCpCountFree sem) = s.hw.ctl.get (F.chnCpCountFree sem) + n ∧
    (if s.hw.ctl.get (F.chnCpGuardConsumer sem) = x.k then
      t.hw.ctl.get (F.chnCpLodgedLodged sem) + n = s.hw.ctl.get (F.chnCpLodgedLodged sem) ∧ t.hw.ctl.held sem x.k = s.hw.ctl.held sem x.k
    else t.hw.ctl.get (F.chnCpLodgedLodged sem) = s.hw.ctl.get (F.chnCpLodgedLodged sem) ∧
      t.hw.ctl.held sem x.k + n = s.hw.ctl.held sem x.k) ∧
    (t.hw.ctl.core x.q).task = some { x.t with inCommit := true })) ∧
  (Issues s x ⟨.fence, sl⟩ → Completes (exec (.fence k sl) s) (fun t =>
    TileStep x false [] s t ∧ Done x (x.pc + 1) t ∧ SameS s t ∧ SameV s t ∧ SameA s t ∧ SameP s t))

/-- R139, R170: FENCE empties the stand's gather buffer of what the core wrote: afterwards no entry holds the core, the others are
still there, and no byte outside the lines of the flushed entries has changed. -/
def Obligations.FenceFlushes : Prop := ∀ (k : Fin 128) (sl : Slot) (s : State) (x : At), x.k = k.val →
  s.hw.ctl.guard0 x.q sl = true → Issues s x ⟨.fence, sl⟩ →
  Completes (exec (.fence k sl) s) (fun t =>
    t.hw.ctl.gather x.n = (s.hw.ctl.gather x.n).filter (fun e => !e.cores.contains x.k) ∧ Done x (x.pc + 1) t ∧
    SameS s t ∧ SameV s t ∧ SameA s t ∧ SameP s t ∧
    (∀ a, (∀ e ∈ s.hw.ctl.gather x.n, x.k ∈ e.cores → a < e.line ∨ e.line + 256 ≤ a) → t.hw.mem.rd a = s.hw.mem.rd a))

/-- R205: an SSIG of 1 on a slot ring's full semaphore that no other ring or pool uses sets the fill tag of the slot at TAIL, empty
before, and advances TAIL modulo SLOTS; HEAD and the other fill tags stay. -/
def Obligations.SignalFillsSlot : Prop := ∀ (k : Fin 128) (sl : Slot) (s : State) (x : At) (r : Fin 128), x.k = k.val →
  let sem := sl.imm.toNat % 256
  let c := s.hw.ctl
  let tail := c.get (F.chnSrStateTail r)
  s.hw.ctl.guard0 x.q sl = true → Drained s x.n x.k → Issues s x ⟨.ssig, sl⟩ → sl.imm.toNat / 256 % 65536 = 1 →
  c.on (F.chnSrStateValid r) = true → c.get (F.chnSrCfgFullSem r) = sem →
  (∀ q < 128, q ≠ r.val → c.on (F.chnSrStateValid q) = true → c.get (F.chnSrCfgFullSem q) ≠ sem ∧ c.get (F.chnSrCfgFullSem q) + 1 ≠ sem) →
  (∀ i < 24, c.armedAs i 0 = true → c.get (F.stcCtrlSrc i) = 3 ∨ c.get (F.stcRingSem i) + 1 ≠ sem) →
  (∀ p < 256, c.on (F.chnCpGuardValid p) = true → c.get (F.chnCpGuardLinksem p) ≠ sem) →
  (c.get (F.chnSrStateFill r)).testBit tail = false →
  Completes (exec (.ssig k sl) s) (fun t =>
    TileStep x false [R.semCount sem, R.chnSrState r] s t ∧ Done x (x.pc + 1) t ∧
    (∀ i < 16, (t.hw.ctl.get (F.chnSrStateFill r)).testBit i = ((c.get (F.chnSrStateFill r)).testBit i || i == tail)) ∧
    t.hw.ctl.get (F.chnSrStateTail r) = (tail + 1) % (c.get (F.chnSrCfgSlotsM1 r) + 1) ∧
    t.hw.ctl.get (F.chnSrStateHead r) = c.get (F.chnSrStateHead r) ∧
    t.hw.ctl.get (F.semCountCount sem) = min (c.get (F.semCountCount sem) + 1) 65535)

/-- R187, R193, Table 4.6 (SEND.V, SEND.S), for a core with nothing left in its stand's gather buffer: the bundle is held in the slot
with its message until the answer, the FIFOs unchanged; on a capacity-checked channel at its CAP with RETRY 0 the message is
negatively acknowledged at once: CHN_c_NACK counts, pD is 0, the bundle completes and nothing reaches a FIFO. -/
def Obligations.SendHolds : Prop := ∀ (k : Fin 128) (sl : Slot) (s : State) (x : At), x.k = k.val →
  let ch := sl.imm.toNat % 1024
  let capped := s.hw.ctl.on (F.chnRouteMode ch) && decide (s.hw.ctl.get (F.chnOrderCapM1 ch) + 1 ≤ s.hw.ctl.level ch)
  let holds := fun (i : Issued) (m : Msg) (t : State) =>
    TileStep x false [] s t ∧ HeldIn x i s t ∧ (t.hw.ctl.core x.q).msg = m ∧ (t.hw.ctl.core x.q).nacked = false ∧
      t.hw.ctl.fab.fifos = s.hw.ctl.fab.fifos ∧ SameS s t ∧ SameV s t ∧ SameA s t ∧ SameP s t
  let turned := fun (t : State) =>
    TileStep x true [R.chnNack ch] s t ∧ Done x (x.pc + 1) t ∧ Counts s.hw.ctl t.hw.ctl (F.chnNackCount ch) ∧
      t.hw.ctl.preg x.q sl.d.val = (if sl.d.val = 0 then BitVec.allOnes 64 else 0) ∧
      t.hw.ctl.fab.fifos = s.hw.ctl.fab.fifos ∧ SameS s t ∧ SameV s t ∧ SameA s t ∧ PregsBut x.q sl.d.val s t
  s.hw.ctl.guard0 x.q sl = true → Drained s x.n x.k →
  (capped = false →
    (Issues s x ⟨.sendV, sl⟩ → Completes (exec (.sendV k sl) s) (holds ⟨.sendV, sl⟩ (s.hw.ctl.vreg x.q sl.a.val))) ∧
    (Issues s x ⟨.sendS, sl⟩ → Completes (exec (.sendS k sl) s) (holds ⟨.sendS, sl⟩ ((s.hw.ctl.sreg x.q sl.a.val).setWidth 1024)))) ∧
  (capped = true → s.hw.ctl.on (F.chnRouteRetry ch) = false →
    (Issues s x ⟨.sendV, sl⟩ → Completes (exec (.sendV k sl) s) turned) ∧
    (Issues s x ⟨.sendS, sl⟩ → Completes (exec (.sendS k sl) s) turned))

/-- R187, R188, R189, R191 (SEND_ANSWER, SEND_RETRY): a message a core holds is accepted where every receiving FIFO has a free entry
and no capacity forbids it: it stands last in the FIFO of every receiver, CHN_c_MSG counts once, pD reads all ones and the bundle
completes. Else it reaches no FIFO and CHN_c_NACK counts: with RETRY 0 pD reads 0 and the bundle completes, with RETRY 1 the core goes
on holding it. SEND_ANSWER answers the first attempt, SEND_RETRY a resend. -/
def Obligations.SendAnswered : Prop := ∀ (k : Fin 128) (s : State) (x : At) (i : Issued) (again : Bool), x.k = k.val →
  let c := s.hw.ctl
  let ch := i.chan
  let capped := c.on (F.chnRouteMode ch) && decide (c.get (F.chnOrderCapM1 ch) + 1 ≤ c.level ch)
  let accepted := !capped && c.accepts ch
  let after := fun (t : State) (ok : Bool) => (t.hw.ctl.core x.q).waiting = [] ∧ t.pcOf x = (c.core x.q).nextPc % 4096 ∧
    t.hw.ctl.preg x.q i.sl.d.val = (if i.sl.d.val = 0 then BitVec.allOnes 64 else allBits ok)
  c.running = true → c.atCore x.k = some x → (i.op = .sendV ∨ i.op = .sendS) → (c.core x.q).waiting = [i] →
  (c.core x.q).halting = false → (c.core x.q).nacked = again → i.sl.d.val < 16 →
  Completes (exec (if again then .sendRetry k else .sendAnswer k) s) (fun t => t.hw.mem = s.hw.mem ∧ t.pending = s.pending ∧
    SameS s t ∧ SameV s t ∧ SameA s t ∧ (∀ q, q ≠ x.q → t.hw.ctl.core q = c.core q) ∧
    (if accepted then
      after t true ∧ Counts c t.hw.ctl (F.chnMsgCount ch) ∧ t.hw.ctl.get (F.chnNackCount ch) = c.get (F.chnNackCount ch) ∧
        (∀ b j, j < 128 → t.hw.ctl.fifo b j = if b = ch ∧ j ∈ c.receivers ch then c.fifo b j ++ [(c.core x.q).msg] else c.fifo b j)
    else t.hw.ctl.fab.fifos = c.fab.fifos ∧ Counts c t.hw.ctl (F.chnNackCount ch) ∧ t.hw.ctl.get (F.chnMsgCount ch) = c.get (F.chnMsgCount ch) ∧
      (if c.on (F.chnRouteRetry ch) then HeldIn x i s t ∧ (t.hw.ctl.core x.q).nacked = true ∧ (t.hw.ctl.core x.q).msg = (c.core x.q).msg ∧ SameP s t
      else after t false)))

/-- R188, R191, Table 4.6 (RECV.V, RECV.S, TRECV.V): the oldest message of the core's FIFO is taken and written to its register. On an
empty FIFO, counted in CHN_c_STALL, RECV holds the bundle and TRECV.V writes 0 to pC and completes. -/
def Obligations.Receives : Prop := ∀ (k : Fin 128) (sl : Slot) (s : State) (x : At), x.k = k.val →
  let ch := sl.imm.toNat % 1024
  let q := s.hw.ctl.fifo ch x.k
  let wait := R.stdCoreWait (x.q / 8) (x.q % 8)
  let popped := fun (t : State) => TileStep x false [R.chnFifo ch] s t ∧ Done x (x.pc + 1) t ∧
    (∀ b j, j < 128 → t.hw.ctl.fifo b j = if b = ch ∧ j = x.k then q.tail else s.hw.ctl.fifo b j)
  s.hw.ctl.guard0 x.q sl = true →
  (Issues s x ⟨.recvV, sl⟩ → Completes (exec (.recvV k sl) s) (fun t =>
    if q = [] then TileStep x false [R.chnStall ch, wait] s t ∧ HeldIn x ⟨.recvV, sl⟩ s t ∧ Counts s.hw.ctl t.hw.ctl (F.chnStallCount ch)
    else popped t ∧ t.hw.ctl.vreg x.q sl.d.val = q.headD 0 ∧ VregsBut x.q sl.d.val s t ∧ SameS s t ∧ SameA s t ∧ SameP s t)) ∧
  (Issues s x ⟨.recvS, sl⟩ → Completes (exec (.recvS k sl) s) (fun t =>
    if q = [] then TileStep x false [R.chnStall ch, wait] s t ∧ HeldIn x ⟨.recvS, sl⟩ s t ∧ Counts s.hw.ctl t.hw.ctl (F.chnStallCount ch)
    else popped t ∧ t.hw.ctl.sreg x.q sl.d.val = (if sl.d.val = 0 then 0 else (q.headD 0).setWidth 32) ∧ SregsBut x.q sl.d.val s t ∧
      SameV s t ∧ SameA s t ∧ SameP s t)) ∧
  (Issues s x ⟨.trecvV, sl⟩ → Completes (exec (.trecvV k sl) s) (fun t => SameS s t ∧ SameA s t ∧ PregsBut x.q sl.c.val s t ∧
    t.hw.ctl.preg x.q sl.c.val = (if sl.c.val = 0 then BitVec.allOnes 64 else allBits (decide (q ≠ []))) ∧
    if q = [] then TileStep x false [R.chnStall ch] s t ∧ Done x (x.pc + 1) t ∧ SameV s t ∧ Counts s.hw.ctl t.hw.ctl (F.chnStallCount ch)
    else popped t ∧ t.hw.ctl.vreg x.q sl.d.val = q.headD 0 ∧ VregsBut x.q sl.d.val s t))

/-- R140, R188, R198, R200 (BUNDLE_COMPLETE): a bundle held in one SWAIT, CRGET or RECV completes when what it waits for is there, and
stays held otherwise, all else as before. -/
def Obligations.HeldBundleCompletes : Prop := ∀ (k : Fin 128) (s : State) (x : At) (i : Issued), x.k = k.val →
  let c := s.hw.ctl
  let there := match i.op with
    | .swait => c.semTurn x.k i.sem && decide (i.count ≤ c.get (F.semCountCount i.sem))
    | .crget => decide (i.count ≤ c.get (F.chnCpCountFree i.sem))
    | _ => decide (c.fifo i.chan x.k ≠ [])
  c.running = true → c.atCore x.k = some x → (i.op = .swait ∨ i.op = .crget ∨ i.op = .recvV ∨ i.op = .recvS) →
  (c.core x.q).waiting = [i] → (c.core x.q).halting = false → i.sl.d.val < 32 →
  Completes (exec (.bundleComplete k) s) (fun t => t.hw.mem = s.hw.mem ∧ t.pending = s.pending ∧
    (∀ q, q ≠ x.q → t.hw.ctl.core q = c.core q) ∧ SameA s t ∧ SameP s t ∧ SameUnits c t.hw.ctl ∧
    if there then (t.hw.ctl.core x.q).waiting = [] ∧ t.pcOf x = (c.core x.q).nextPc % 4096 ∧
      (i.op = .swait → t.hw.ctl.get (F.semCountCount i.sem) + i.count = c.get (F.semCountCount i.sem)) ∧
      (i.op = .crget → t.hw.ctl.get (F.chnCpCountFree i.sem) + i.count = c.get (F.chnCpCountFree i.sem) ∧
        t.hw.ctl.held i.sem x.k = c.held i.sem x.k + i.count) ∧
      (i.op = .recvV → t.hw.ctl.vreg x.q i.sl.d.val = (c.fifo i.chan x.k).headD 0 ∧ t.hw.ctl.fifo i.chan x.k = (c.fifo i.chan x.k).tail) ∧
      (i.op = .recvS → t.hw.ctl.sreg x.q i.sl.d.val = (if i.sl.d.val = 0 then 0 else ((c.fifo i.chan x.k).headD 0).setWidth 32) ∧
        t.hw.ctl.fifo i.chan x.k = (c.fifo i.chan x.k).tail)
    else t = s)

/-- R32, R134, Table 4.6 (TAGW), for a core with nothing left in its stand's gather buffer: the tag of the output-ring slot at ea takes
VALID, FRAME and LINE of sB with the physical stand, BAD only where it was set for the same line and frame, RERUN where the task's
line was rerun; on a line that output has drained the write is late: RAS_s_LATE_WR counts and the tag stays. R185, Table 4.6 (HALT),
under the same and nothing shed: the task ends, the core is idle and remembers the task's owner, and DONE_N is added to each DONE_SEM
with DONE_EN 1 that no ring or pool uses. -/
def Obligations.TagAndHalt : Prop := ∀ (k : Fin 128) (sl : Slot) (s : State) (x : At), x.k = k.val →
  s.hw.ctl.guard0 x.q sl = true → Drained s x.n x.k →
  (∀ o j : Nat,
    let b := s.hw.ctl.sreg x.q sl.b.val
    let old := s.hw.ctl.tag o j
    let late := s.hw.ctl.drained o 8 (b.toNat / 2 ^ 13 % 256) (b.toNat % 2 ^ 13)
    Issues s x ⟨.tagw, sl⟩ → o < 24 → j < 64 →
    (begun s x ⟨.tagw, sl⟩).ctl.tagSlot x.q x.k x.t ⟨.tagw, sl⟩ = some (o, j) →
    Completes (exec (.tagw k sl) s) (fun t => t.hw.mem = s.hw.mem ∧ t.pending = s.pending ∧ Done x (x.pc + 1) t ∧
      SameS s t ∧ SameV s t ∧ SameA s t ∧ SameP s t ∧ (t.hw.ctl.core x.q).task = some { x.t with inCommit := true } ∧
      (∀ q, q ≠ x.q → t.hw.ctl.core q = s.hw.ctl.core q) ∧
      (∀ p i, i < 64 → ¬(p = o ∧ i = j) → t.hw.ctl.tag p i = s.hw.ctl.tag p i) ∧
      if late then t.hw.ctl.tag o j = old ∧ Counts s.hw.ctl t.hw.ctl (F.rasLateWrCount o)
      else
        (t.hw.ctl.tag o j).getLsbD 31 = b.getLsbD 31 ∧
        (t.hw.ctl.tag o j).getLsbD 30 = (old.getLsbD 30 && decide (old.toNat % 2 ^ 13 = b.toNat % 2 ^ 13) &&
          decide (old.toNat / 2 ^ 13 % 256 = b.toNat / 2 ^ 13 % 256)) ∧
        (t.hw.ctl.tag o j).getLsbD 29 = s.hw.ctl.fab.reruns.contains x.t.lineKey ∧
        (t.hw.ctl.tag o j).toNat / 2 ^ 24 % 32 = x.q / 8 ∧
        (t.hw.ctl.tag o j).toNat / 2 ^ 13 % 256 = b.toNat / 2 ^ 13 % 256 ∧ (t.hw.ctl.tag o j).toNat % 2 ^ 13 = b.toNat % 2 ^ 13)) ∧
  (∀ a b : Nat × Nat × Bool, Issues s x ⟨.halt, sl⟩ → s.hw.ctl.on F.phcCurStatusShed = false →
    x.t.done = [a, b] → a.1 ≠ b.1 → a.1 < 256 → b.1 < 256 → s.hw.ctl.plainSem a.1 → s.hw.ctl.plainSem b.1 →
    Completes (exec (.halt k sl) s) (fun t => t.hw.mem = s.hw.mem ∧ t.pending = s.pending ∧
      (t.hw.ctl.core x.q).task = none ∧ (t.hw.ctl.core x.q).prevOwner = x.t.owner ∧ (t.hw.ctl.core x.q).waiting = [] ∧
      (t.hw.ctl.core x.q).stopped = false ∧ (∀ q, q ≠ x.q → t.hw.ctl.core q = s.hw.ctl.core q) ∧
      (∀ d, d = a ∨ d = b → t.hw.ctl.get (F.semCountCount d.1) = min (s.hw.ctl.get (F.semCountCount d.1) + if d.2.2 then d.2.1 else 0) 65535) ∧
      SameS s t ∧ SameV s t ∧ SameA s t ∧ SameP s t))

/-! Tile cores: loads and stores (R130 … R132, R158, R165, R168, R170, R171, R206, R208). -/

/-- R131, R170, Table 4.6 (LD.S, LD.V, LD.VB, LD.AR): what is loaded is what the memory holds at the translated address once the entries
of the stand's gather buffer on the touched lines are flushed; those entries are gone, the others stay, and no byte outside their lines
changes. LD.V and LD.VB write the enabled lanes, LD.AR row C of aD. -/
def Obligations.Loads : Prop := ∀ (k : Fin 128) (sl : Slot) (s : State) (x : At) (g : Tgt), x.k = k.val →
  let c := s.hw.ctl
  let frm := fun (op : Op) (n : Nat) => Issues s x ⟨op, sl⟩ ∧ c.active x.q ⟨op, sl⟩ = true ∧ GoesTo s x ⟨op, sl⟩ .load (c.ea x.q ⟨op, sl⟩) n g ∧
    (begun s x ⟨op, sl⟩).ctl.unfilled g = none
  let frame := fun (n : Nat) (t : State) =>
    TileActs x true (lcRegs ++ [R.cnpGbRmw, R.cnpDetCount, R.cnpDetAddr, R.cnpDetSrc, R.cnpClrPending]) s t ∧
    t.hw.ctl.gather x.n = (c.gather x.n).filter (fun e => !touched g n e) ∧
    (∀ a, (∀ e ∈ c.gather x.n, touched g n e = true → a < e.line ∨ e.line + 256 ≤ a) → t.hw.mem.rd a = s.hw.mem.rd a)
  let got := fun (t : State) (j n : Nat) => ofBytes (t.hw.mem.rdN (g.key + j) n)
  (frm .ldS 4 → Completes (exec (.ldS k sl) s) (fun t => frame 4 t ∧ SregsBut x.q sl.d.val s t ∧ SameV s t ∧ SameP s t ∧ SameA s t ∧
    t.hw.ctl.sreg x.q sl.d.val = if sl.d.val = 0 then 0 else w32 (got t 0 4))) ∧
  (frm .ldV 128 → Completes (exec (.ldV k sl) s) (fun t => frame 128 t ∧ VregsBut x.q sl.d.val s t ∧ SameS s t ∧ SameP s t ∧ SameA s t ∧
    ∀ l < 64, lane (t.hw.ctl.vreg x.q sl.d.val) l = if (c.guard x.q sl).getLsbD l then BitVec.ofNat 16 (got t (2 * l) 2)
      else lane (c.vreg x.q sl.d.val) l)) ∧
  (frm .ldVb 2 → Completes (exec (.ldVb k sl) s) (fun t => frame 2 t ∧ VregsBut x.q sl.d.val s t ∧ SameS s t ∧ SameP s t ∧ SameA s t ∧
    ∀ l < 64, lane (t.hw.ctl.vreg x.q sl.d.val) l = if (c.guard x.q sl).getLsbD l then BitVec.ofNat 16 (got t 0 2)
      else lane (c.vreg x.q sl.d.val) l)) ∧
  (frm .ldAr 128 → Completes (exec (.ldAr k sl) s) (fun t => frame 128 t ∧ SameS s t ∧ SameV s t ∧ SameP s t ∧
    (∀ r j, r < 16 → j < 32 → t.hw.ctl.areg x.q sl.d.val r j = if r = sl.c.val then w32 (got t (4 * j) 4) else c.areg x.q sl.d.val r j) ∧
    AregsBut x.q sl.d.val s t))

/-- R131, Table 4.6 (LD.VX), where no entry of the stand's gather buffer lies on a line it touches: each enabled lane l of vD is the
binary16 at ea + l × sB, the other lanes stay, and so does the memory. -/
def Obligations.LoadStrided : Prop := ∀ (k : Fin 128) (sl : Slot) (s : State) (x : At) (g : Nat → Tgt), x.k = k.val →
  let c := s.hw.ctl
  let i : Issued := ⟨.ldVx, sl⟩
  let on := fun l => (c.guard x.q sl).getLsbD l
  Issues s x i → (∀ l < 64, on l = true →
    GoesTo s x i .load ((c.ea x.q i + l * (c.sreg x.q sl.b.val).toNat) % 2 ^ 32) 2 (g l) ∧ (begun s x i).ctl.unfilled (g l) = none ∧
    ∀ e ∈ c.gather x.n, touched (g l) 2 e = false) →
  Completes (exec (.ldVx k sl) s) (fun t => TileActs x false lcRegs s t ∧ t.hw.mem = s.hw.mem ∧ t.hw.ctl.gather x.n = c.gather x.n ∧
    VregsBut x.q sl.d.val s t ∧ SameS s t ∧ SameP s t ∧ SameA s t ∧
    ∀ l < 64, lane (t.hw.ctl.vreg x.q sl.d.val) l = if on l then BitVec.ofNat 16 (ofBytes (s.hw.mem.rdN (g l).key 2))
      else lane (c.vreg x.q sl.d.val) l)

/-- R131, R158, R165, Table 4.6 (ST.S, ST.V, ST.AR, ST.AH) to an operand buffer, a core memory or DRAM: the bytes of the value, for
ST.V those of the enabled lanes, are in memory at the translated address, and every other byte is as before. -/
def Obligations.StoresDirect : Prop := ∀ (k : Fin 128) (op : Op) (n : Nat) (sl : Slot) (s : State) (x : At) (g : Tgt), x.k = k.val →
  let c := s.hw.ctl
  let i : Issued := ⟨op, sl⟩
  (op, n) ∈ plainStores → Issues s x i → c.active x.q i = true → GoesTo s x i .store (c.ea x.q i) n g → Lands s x i g n →
  (g.level < 2 ∨ g.dram = true) →
  Completes (exec (op.instr k sl) s) (fun t => TileActs x false (if g.dram then lcRegs else []) s t ∧ SameFiles s t ∧
    t.hw.ctl.gather x.n = c.gather x.n ∧
    (∀ a, t.hw.mem.rd a = if g.key ≤ a ∧ a < g.key + n then (c.stored x.q i (a - g.key)).getD (s.hw.mem.rd a) else s.hw.mem.rd a) ∧
    (t.hw.ctl.core x.q).task = some { x.t with inCommit := x.t.inCommit || g.remote.isSome })

/-- R170, Table 4.6 (ST.S, ST.V, ST.AR, ST.AH) to Canopy within one line: the bytes enter the stand's gather buffer and the memory does
not change. A line not held takes a new last entry of this core; a line held merges into its entry, which CNP_GB_MERGE counts. Where
the buffer is full, or the merge fills the line, an entry leaves too; this statement is of the other cases. -/
def Obligations.StoresGather : Prop := ∀ (k : Fin 128) (op : Op) (n : Nat) (sl : Slot) (s : State) (x : At) (g : Tgt), x.k = k.val →
  let c := s.hw.ctl
  let i : Issued := ⟨op, sl⟩
  let ln := lineKey g.key
  let held := (c.gather x.n).any (fun e => e.line == ln)
  let now := fun (old : Nat) (j : Nat) => if g.key ≤ ln + j ∧ ln + j < g.key + n then
    (match c.stored x.q i (ln + j - g.key) with | some b => b.toNat | none => old) else old
  (op, n) ∈ plainStores → Issues s x i → c.active x.q i = true → GoesTo s x i .store (c.ea x.q i) n g → Lands s x i g n →
  g.level = 2 → g.dram = false → g.key + n ≤ ln + 256 →
  (held = true ∨ (c.gather x.n).length < 8) → (∀ e ∈ c.gather x.n, e.line = ln → e.bytes.length + n < 256) →
  Completes (exec (op.instr k sl) s) (fun t => TileActs x false [R.cnpGbMerge] s t ∧ SameFiles s t ∧ t.hw.mem = s.hw.mem ∧
    if held then Counts c t.hw.ctl F.cnpGbMergeCount ∧ ∃ f : GbEntry → GbEntry,
      t.hw.ctl.gather x.n = (c.gather x.n).map f ∧ (∀ e, e.line ≠ ln → f e = e) ∧
      (∀ e, e.line = ln → (f e).line = ln ∧ (∀ m, m ∈ (f e).cores ↔ m ∈ e.cores ∨ m = x.k) ∧
        ∀ j, mget 256 (f e).bytes j = now (mget 256 e.bytes j) j)
    else t.hw.ctl.get F.cnpGbMergeCount = c.get F.cnpGbMergeCount ∧ ∃ e, t.hw.ctl.gather x.n = c.gather x.n ++ [e] ∧
      e.line = ln ∧ e.cores = [x.k] ∧ ∀ j, mget 256 e.bytes j = now 256 j)

/-- R171: a flush writes only the enabled bytes. A FENCE of a core whose stand's gather buffer holds one entry, which the core wrote,
leaves the buffer empty, the entry's bytes at its line and every other byte as before. -/
def Obligations.FlushWrites : Prop := ∀ (k : Fin 128) (sl : Slot) (s : State) (x : At) (e : GbEntry), x.k = k.val →
  Issues s x ⟨.fence, sl⟩ → s.hw.ctl.guard0 x.q sl = true → s.hw.ctl.gather x.n = [e] → x.k ∈ e.cores →
  Completes (exec (.fence k sl) s) (fun t => t.hw.ctl.gather x.n = [] ∧ Done x (x.pc + 1) t ∧ SameFiles s t ∧
    ∀ a, t.hw.mem.rd a = if e.line ≤ a ∧ a < e.line + 256 ∧ mget 256 e.bytes (a - e.line) ≠ 256
      then BitVec.ofNat 8 (mget 256 e.bytes (a - e.line)) else s.hw.mem.rd a)

/-- R165, R168, Table 5.9 (ST.ACC): each element of the row is combined with the memory operand at its place in Canopy by the code in
IMM[31:29], rounded once; every other byte is as before, the line is no longer pending and the task is in its commit section. Stated
for words that detect nothing and a line the stand's gather buffer does not hold. -/
def Obligations.Accumulates : Prop := ∀ (k : Fin 128) (sl : Slot) (s : State) (x : At) (g : Tgt), x.k = k.val →
  let c := s.hw.ctl
  let i : Issued := ⟨.stAcc, sl⟩
  let code := sl.imm.toNat / 2 ^ 29
  let n := if code = 3 then 64 else 128
  let row := fun j => c.areg x.q sl.b.val sl.c.val j
  let word := fun (u : State) (j : Nat) => w32 (ofBytes (u.hw.mem.rdN (g.key + 4 * j) 4))
  let half := fun (u : State) (j : Nat) => BitVec.ofNat 16 (ofBytes (u.hw.mem.rdN (g.key + 2 * j) 2))
  Issues s x i → c.guard0 x.q sl = true → GoesTo s x i .acc (c.ea x.q i) n g → Lands s x i g n →
  (∀ e ∈ c.gather x.n, e.line ≠ lineKey g.key) → sl.upset = false →
  (∀ j < 4, s.hw.mem.poisonAt (g.key + 32 * j) = false) →
  Completes (exec (.stAcc k sl) s) (fun t => TileActs x false [R.cnpClrPending] s t ∧ SameFiles s t ∧
    t.hw.ctl.gather x.n = c.gather x.n ∧ (∀ a, (a < g.key ∨ g.key + n ≤ a) → t.hw.mem.rd a = s.hw.mem.rd a) ∧
    t.hw.mem.pendingAt g.key = false ∧ (t.hw.ctl.core x.q).task = some { x.t with inCommit := true } ∧
    (∀ j < 32, (code = 0 → word t j = add32 (word s j) (row j)) ∧ (code = 1 → word t j = pick32 true (word s j) (row j)) ∧
      (code = 2 → word t j = pick32 false (word s j) (row j)) ∧ (code = 3 → half t j = fadd16 (half s j) (row j)) ∧
      (code = 4 → word t j = word s j + row j)))

/-- R206, R208: a load from a ring slot that is not filled reads zeros and counts UNDER; a store whose bytes lie in one that is filled is discarded
and counts OVER of a slot ring; a store of a task whose output line is drained is discarded and counts nothing. Said of LD.S and ST.S. -/
def Obligations.RingMisuse : Prop := ∀ (k : Fin 128) (sl : Slot) (s : State) (x : At) (g : Tgt) (h : Nat) (r : SlotRef), x.k = k.val →
  let c := s.hw.ctl
  let ld : Issued := ⟨.ldS, sl⟩
  let st : Issued := ⟨.stS, sl⟩
  let under := match r with
    | .ring a _ => F.chnSrUnderCount a
    | .line a _ | .out a _ => F.chnStrmUnderCount a
  c.guard0 x.q sl = true → g.handle = some h →
  (Issues s x ld → GoesTo s x ld .load (c.ea x.q ld) 4 g → (begun s x ld).ctl.slotRef h g.off = some r →
    (begun s x ld).ctl.filled r = false →
    Completes (exec (.ldS k sl) s) (fun t => TileStep x true [under.addr] s t ∧ Done x (x.pc + 1) t ∧ Counts c t.hw.ctl under ∧
      SregsBut x.q sl.d.val s t ∧ SameV s t ∧ SameP s t ∧ SameA s t ∧ t.hw.ctl.sreg x.q sl.d.val = 0)) ∧
  (Issues s x st → GoesTo s x st .store (c.ea x.q st) 4 g → (∀ j < 4, (begun s x st).ctl.refAt g j = some r) → g.remote = none →
    (∀ o j, r = .out o j → (begun s x st).ctl.lateTask x.t o = false) → (begun s x st).ctl.filled r = true →
    Completes (exec (.stS k sl) s) (fun t => SameFiles s t ∧ Done x (x.pc + 1) t ∧ match r with
      | .ring a _ => TileStep x true [R.chnSrOver a] s t ∧ Counts c t.hw.ctl (F.chnSrOverCount a)
      | _ => TileStep x true [] s t)) ∧
  (∀ o j, r = .out o j → Issues s x st → GoesTo s x st .store (c.ea x.q st) 4 g → (∀ j < 4, (begun s x st).ctl.refAt g j = some r) →
    g.remote = none → (begun s x st).ctl.lateTask x.t o = true →
    Completes (exec (.stS k sl) s) (fun t => TileStep x false [] s t ∧ Done x (x.pc + 1) t ∧ SameFiles s t))

/-! Every command. -/

/-- Asked of a block: step of a state with c at the front of its queue is exec of c on the state with the queue's rest. With nothing
waiting the block idles for a nanosecond (the model's choice, log entry 2). -/
def Obligations.StepRunsFront : Prop := (∀ (c : Instr) (s : State) (rest : List Instr), s.pending = c :: rest →
    step s = exec c { s with pending := rest }) ∧
  ∀ s : State, s.pending = [] → step s = .next { s with hw := { s.hw with ctl := { s.hw.ctl with now := s.hw.ctl.now + 1 } } }

/-- Every command answers a next state and leaves the queue; R438 alone gives a behaviour no effect, a power-up out of order, and there
PWR_OK_RISE faults. -/
def Obligations.EveryCommandCompletes : Prop := ∀ (c : Instr) (s : State),
  (c ≠ .pwrOkRise false → Completes (exec c s) (fun t => t.pending = s.pending)) ∧
  exec (.pwrOkRise false) s = .fault .powerUpUndefined

/-- Every step keeps the memories in canonical form: keys rise strictly and nothing listed reads as an unlisted key does. -/
def Obligations.StepKeepsMemory : Prop := ∀ s t : State, s.memWf = true → step s = .next t → t.memWf = true

/-- R17, R440, R443: at reset every register reads its reset value, every clear bit is set and every byte reads zero, no command waits,
nothing has left the part; the memories have their canonical form. -/
def Obligations.ResetState : Prop := State.reset.memWf = true ∧ State.reset.pending = [] ∧ State.reset.hw.ctl.out = [] ∧
  (∀ a, State.reset.hw.ctl.rd a = regReset a) ∧ (∀ a, State.reset.hw.mem.rd a = 0) ∧
  (∀ a, isDram a = false → State.reset.hw.mem.pendingAt a = true) ∧
  (∀ q i, i < 32 → State.reset.hw.ctl.vreg q i = 0) ∧ (∀ q, State.reset.hw.ctl.core q = CoreSt.idle)

/-! The deadline governor and the AVSBus master (02_clockless_timing.md, 13_power_thermal_spare.md). -/

/-- R406 … R408, R76, R78 (AVS_ACK, AVS_RESPONSE_TIMEOUT, AVS_POLL, AVS_SETTLE_CHECK, AVS_SETTLE_TIMEOUT): an acknowledged write v moves
SET_MV and counts UP or DOWN; a missing answer repeats the write up to three times, counted in RETRY, and the fourth sets FAIL with
SET_MV kept; a poll under FAIL reads, and an acknowledged one clears FAIL with SET_MV within 2 mV on the 5 mV grid; die VCORE within 20 mV of the
setpoint ends the flight, a difference counts SLOW once, and its timeout fails the request. -/
def Obligations.AvsMaster : Prop := ∀ (s : State) (v : Nat) (mv : BitVec 10) (dieMv : Nat),
  let c := s.hw.ctl
  let near := dieMv ≤ c.setMv + 20 ∧ c.setMv ≤ dieMv + 20
  let failed := fun (d : Ctl) => d.on F.phcAvsStatusFail = true ∧ d.inFlight = false ∧ d.pwr.inFlight = none ∧ d.pwr.target = none ∧
    d.setMv = c.setMv ∧ Frame true [.pwr] [R.phcGovStatus, R.phcAvsStatus] c d
  (c.pwr.inFlight = some v →
    CompletesCtl s (exec .avsAck s) (fun d => d.setMv = v % 1024 ∧ d.pwr.inFlight = none ∧ d.inFlight = c.inFlight ∧
      (c.setMv < v → Counts c d F.phcGovCountUp) ∧ (v < c.setMv → Counts c d F.phcGovCountDown) ∧
      (v = c.setMv → d.rd R.phcGovCount = c.rd R.phcGovCount) ∧ (c.pwr.startIval = false → d.ras = c.ras) ∧
      Frame false [.pwr, .ras] [R.phcGovStatus, R.phcGovCount, R.phcGovFloor, R.dbgSat] c d) ∧
    (c.pwr.avsTries < 3 → CompletesCtl s (exec .avsResponseTimeout s) (fun d => Counts c d F.phcAvsStatusRetry ∧
      d.out = c.out ++ [.avsWrite v] ∧ d.pwr = { c.pwr with avsTries := c.pwr.avsTries + 1 } ∧
      Frame false [.pwr, .out] [R.phcAvsStatus, R.dbgSat] c d)) ∧
    (3 ≤ c.pwr.avsTries → CompletesCtl s (exec .avsResponseTimeout s) failed)) ∧
  (c.on F.phcAvsStatusFail = true →
    CompletesCtl s (exec (.avsPoll false mv) s) (fun d => d.out = c.out ++ [.avsRead] ∧ Frame false [.out] [] c d) ∧
    (mv.toNat < 1023 → CompletesCtl s (exec (.avsPoll true mv) s) (fun d => d.on F.phcAvsStatusFail = false ∧ d.setMv % 5 = 0 ∧
      d.setMv ≤ mv.toNat + 2 ∧ mv.toNat ≤ d.setMv + 2 ∧ Frame true [.pwr, .ras] [R.phcGovStatus, R.phcAvsStatus, R.phcGovFloor] c d))) ∧
  (c.settling = true →
    (near → c.pwr.target = none → (c.on F.phcGovCtrlEn = true ∨ c.excluded = false) →
      CompletesCtl s (exec (.avsSettleCheck dieMv) s) (fun d => d.inFlight = false ∧ d.setMv = c.setMv ∧
        Frame false [.pwr, .ras] [R.phcGovStatus] c d)) ∧
    (¬near → c.pwr.settleSeen = false → CompletesCtl s (exec (.avsSettleCheck dieMv) s) (fun d => Counts c d F.phcAvsStatusSlow ∧
      d.inFlight = true ∧ d.pwr = { c.pwr with settleSeen := true } ∧ Frame false [.pwr] [R.phcAvsStatus, R.dbgSat] c d)) ∧
    (¬near → c.pwr.settleSeen = true → exec (.avsSettleCheck dieMv) s = .next s) ∧
    (c.pwr.settleSeen = true → CompletesCtl s (exec .avsSettleTimeout s) failed))

/-- R72, R76, R78, R79 (GOVERNOR_INTERVAL_END) of a part alone, with no request in flight and no veto: below LO the setpoint rises by a
step; above HI for DOWN_HOLD intervals with no hold left it falls by a step; the request is held in the bounds, one AVSBus write moves at
most 80 mV, and each output's SLACK.MIN and the interval's rates are published. -/
def Obligations.GovernorLaw : Prop := ∀ (s : State) (lo hi : BitVec 16),
  let c := s.hw.ctl
  let smin := (c.outputs.map c.slackMin).foldl min 0x7FFF
  let q := min 255 (c.pwr.quiet + 1)
  let asked : Nat × Nat × Nat :=
    if smin < (c.get F.phcGovBandLo : Int) then (c.setMv + c.stepMv, 0, c.pwr.hold - 1)
    else if (c.get F.phcGovBandHi : Int) < smin then
      (if max 1 (c.get F.phcGovCtrlDownHold) ≤ q ∧ c.pwr.hold = 0 then (c.setMv - c.stepMv, 0, 0) else (c.setMv, q, c.pwr.hold - 1))
    else (c.setMv, 0, c.pwr.hold - 1)
  let t := c.clampMv asked.1
  let v := if c.setMv < t then min t (c.setMv + 80) else max t (c.setMv - 80)
  c.fwRun = true → c.pwr.running = true → c.intervalLines ≤ c.pwr.lines → c.lawOn = true → c.mode = 0 → c.inFlight = false →
  c.on F.phcCurStatusVeto = false →
  CompletesCtl s (exec (.governorIntervalEnd lo hi) s) (fun d => d.setMv = c.setMv ∧ d.pwr.quiet = asked.2.1 ∧ d.pwr.hold = asked.2.2 ∧
    d.pwr.lines = c.pwr.lines - c.intervalLines ∧ d.get F.phcGovRateMin = lo.toNat ∧ d.get F.phcGovRateMax = hi.toNat ∧
    (∀ o ∈ c.outputs, d.get (F.rasSlackMin o) = ofSigned 16 (c.slackMin o) % 2 ^ 16) ∧
    (if t = c.setMv then d.out = c.out ∧ d.inFlight = false
      else d.out = c.out ++ [.avsWrite v] ∧ d.inFlight = true ∧ d.pwr.inFlight = some v) ∧
    Frame false [.pwr, .ras, .out] ([R.phcGovStatus, R.phcGovRate] ++ c.outputs.map R.rasSlack) c d)

/-- R74, R79 (GOV_ENABLE): PHC_GOV_CTRL takes the written bits; EN from 0 to 1 with an output enabled starts a governor interval; the
effective floor is the highest of FLOOR.HOST_MV, CAL_MV and 700 mV while an output is enabled, the effective ceiling the lowest of
CEIL.HOST_MV, CEIL.MGMT_MV and 900 mV, a HOST_MV acting within 600 … 900; a ceiling below the floor sets FLOOR_CLAMP. -/
def Obligations.GovernorBounds : Prop := ∀ (s : State) (w : Word),
  let c := s.hw.ctl
  let host := fun m : Nat => min 900 (max 600 m)
  let floor := max (max (host (c.get F.phcGovFloorHostMv)) (c.get F.phcGovCalCalMv)) 700
  let ceil := min (min (host (c.get F.phcGovCeilHostMv)) (c.get F.phcGovCeilMgmtMv)) 900
  c.running = true →
  CompletesCtl s (exec (.govEnable w) s) (fun d => d.rd R.phcGovCtrl = w &&& 0x00FFFF73 ∧ d.setMv = c.setMv ∧
    (c.on F.phcGovCtrlEn = false → w.getLsbD 0 = true → c.anyOut = true → c.fwRun = true → d.pwr.lines = 0 ∧ d.pwr.running = true) ∧
    (c.anyOut = true → floor ≤ 900 → d.get F.phcGovFloorEffMv = floor) ∧
    (600 ≤ c.get F.phcGovCeilMgmtMv → d.get F.phcGovStatusCeilEff = ceil) ∧
    (c.anyOut = true → floor ≤ 900 → 600 ≤ c.get F.phcGovCeilMgmtMv → ceil < floor → d.on F.phcGovStatusFloorClamp = true) ∧
    Frame false [.pwr, .ras, .out] [R.phcGovCtrl, R.phcGovStatus, R.phcGovFloor] c d)

/-! Power, thermal limits, stands and the rotating spare (13_power_thermal_spare.md). -/

/-- R410 … R412, R416, R420, R421 (CURRENT_WINDOW, ENERGY_RECORD, SENSOR_SAMPLE, THERMAL_TRIP): a window gives MEAS, PEAK and OVER of
every rail, VETO at level 1 of VCORE, and LIMIT_HIT with ALERT bit 4 at a limit; an energy record with the energy assigned to the output frame (the
estimates are the model's free values, log entry 9) is written to the report ring and its energy is no longer kept; a sample gives every
sensor's NOW and MAX, WARN, and ALERT bit 0 at the first crossing armed; the first trip closes and holds both Shutters, ends every task,
powers every stand off, and releases PAIR_ACT_N. -/
def Obligations.PowerAndThermal : Prop := ∀ (s : State) (mv ma q : List (BitVec 16)) (dieMv : Nat) (o : Fin 24) (frame : Word)
    (i : Fin 24) (temp : BitVec 16),
  let c := s.hw.ctl
  let volt := fun r => nth 0 (mv.map BitVec.toNat) r
  let amp := fun r => c.sensedMa r (nth 0 ma r).toNat
  let t := fun j => c.reading j (nth 0 q j)
  let warn : Int := 4 * (c.get F.phcThermCfgWarn : Nat)
  let ring := c.get (F.stcReportRing o.val)
  c.running = true →
  CompletesCtl s (exec (.currentWindow mv ma dieMv) s) (fun d => d.pwr.dieMv = dieMv ∧
    (∀ r < 7, d.get (F.phcRailMeasMv r) = volt r ∧ d.get (F.phcRailMeasMa r) = amp r ∧
      d.get (F.phcRailPeakPeakMa r) = max (c.get (F.phcRailPeakPeakMa r)) (amp r) ∧
      d.get (F.phcRailPeakOver r) = (if c.limitMa r ≤ amp r then min (c.get (F.phcRailPeakOver r) + 1) 65535 else c.get (F.phcRailPeakOver r)) ∧
      (c.limitMa r ≤ amp r → d.on F.phcCurStatusLimitHit = true ∧ d.diag.alert.getLsbD 4 = true)) ∧
    (c.warnPct 0 * c.limitMa 0 ≤ 100 * amp 0 → d.on F.phcCurStatusVeto = true) ∧
    Frame true [.pwr] ((List.range 7).map R.phcRailMeas ++ (List.range 7).map R.phcRailPeak ++
      [R.phcPkg, R.phcEnergy, R.phcCurStatus, R.phcGovStatus]) c d) ∧
  ((c.vc o.val).energyOn = true → c.ringKind ring 4 = true → c.frameOpen (1 + o.val) frame = false →
    let key := (1 + o.val) * 2 ^ 32 + frame.toNat
    CompletesCtl s (exec (.energyRecord o frame) s) (fun d => d.energyOf key = (0, 0) ∧
      WritesRecord c d ring [12, frame, w32 (microJ (c.energyOf key).1), w32 (microJ (c.energyOf key).2), w32 (c.pwr.enLast.1 % 1024),
        w32 (microJ c.pwr.enLast.2)] ∧ Frame true [.pwr, .fab] [] c d)) ∧
  CompletesCtl s (exec (.sensorSample q) s) (fun d =>
    (∀ j < 24, d.get (F.phcTempNow j) = ofSigned 16 (t j) % 65536 ∧
      d.get (F.phcTempMax j) = ofSigned 16 (max (toSigned 16 (c.get (F.phcTempMax j))) (t j)) % 65536) ∧
    (d.on F.phcThermStatusWarn = true ↔ ∃ j < 24, warn ≤ t j) ∧
    ((∃ j < 24, warn ≤ t j) → c.on F.phcThermStatusArmed = true → d.on F.phcThermStatusArmed = false ∧ d.diag.alert.getLsbD 0 = true) ∧
    ((∀ j < 24, t j < warn - 4 * (c.get F.phcThermCfgHyst : Nat)) → d.on F.phcThermStatusArmed = true) ∧
    Frame true [.pwr] ((List.range 24).map R.phcTemp ++ [R.phcThermStatus, R.phcCurStatus]) c d) ∧
  (c.on F.phcThermStatusTrip = false → CompletesCtl s (exec (.thermalTrip i temp) s) (fun d =>
    d.on F.phcThermStatusTrip = true ∧ d.pwr.trip = true ∧ d.hng.pairActN = true ∧ d.und.evalBusy = [] ∧ d.diag.alert.getLsbD 1 = true ∧
    (∀ k < 2, d.on (F.phcShutClosed k) = true ∧ d.on (F.phcShutHold k) = true ∧ d.get (F.phcShutCause k) = 2) ∧
    (∀ n < 136, (d.core n).task = none) ∧ (∀ n < 17, d.gather n = [] ∧ mget 0 d.pwr.standOff n = 2) ∧
    Frame true [.pwr, .hng, .fab, .cnp, .und] [R.phcThermStatus, R.hngPairStatus, R.phcShut 0, R.phcShut 1] c d)) ∧
  (c.on F.phcThermStatusTrip = true → exec (.thermalTrip i temp) s = .next s)

/-- R424, R434 … R436, R496 (STAND_POWER_UP, BIST_COMPLETE, AGEING_MEASUREMENT): a stand powered up is on, its operand buffers cleared;
each test of a stand's routine passed leads to the next and the last one makes it ready, a failed one puts it in FAILED; a measurement
sets RATE, below the end-of-life rate the stand fails, else the tests follow. -/
def Obligations.StandUpkeep : Prop := ∀ (s : State) (n : Fin 17) (detail : Word) (rate : BitVec 12) (mv degC : Nat),
  let c := s.hw.ctl
  let off := mget 0 c.pwr.standOff n.val
  let step := mget 0 c.pwr.routine n.val
  let clear := fun (t : State) => (∀ i < 8, ∀ b < Config.opbufBytes, t.hw.mem.rd (opbufKey (8 * n.val + i) b) = 0) ∧
    ∀ a, (a < opbufKey (8 * n.val) 0 ∨ opbufKey (8 * n.val + 8) 0 ≤ a) → (a < cmemKey (8 * n.val) 0 ∨ cmemKey (8 * n.val + 8) 0 ≤ a) →
      t.hw.mem.rd a = s.hw.mem.rd a
  c.running = true →
  (off = 3 → c.scratchAt ≤ Config.coreMemBytes → Completes (exec (.standPowerUp n) s) (fun t => t.pending = s.pending ∧
    mget 0 t.hw.ctl.pwr.standOff n.val = 0 ∧ clear t ∧ Frame false [.pwr] [R.phcCurStatus] c t.hw.ctl)) ∧
  (off = 0 → 2 ≤ step → step < 5 → Completes (exec (.bistComplete n true detail) s) (fun t => t.pending = s.pending ∧ clear t ∧
    mget 0 t.hw.ctl.pwr.routine n.val = step + 1 ∧ Frame false [.pwr] [] c t.hw.ctl)) ∧
  (off = 0 → step = 5 → Completes (exec (.bistComplete n true detail) s) (fun t => t.pending = s.pending ∧ clear t ∧
    mget 0 t.hw.ctl.pwr.routine n.val = 0 ∧ mget false t.hw.ctl.pwr.routineOk n.val = true ∧
    Frame false [.pwr] [R.stdState n.val, R.phcRotStatus] c t.hw.ctl)) ∧
  (off = 0 → 2 ≤ step → Completes (exec (.bistComplete n false detail) s) (fun t => t.pending = s.pending ∧ clear t ∧
    t.hw.ctl.get (F.stdStateState n.val) = 5 ∧ (∀ i < 8, (t.hw.ctl.core (8 * n.val + i)).task = none))) ∧
  (off = 0 → step = 1 → c.get (F.phcAgeDrive n.val) = 7 → CompletesCtl s (exec (.ageingMeasurement n rate mv degC) s) (fun d =>
    d.get (F.phcAgeRate n.val) = rate.toNat ∧
    (eolRate mv ≤ rate.toNat → mget 0 d.pwr.routine n.val = 2 ∧ d.get (F.stdStateState n.val) = c.get (F.stdStateState n.val) ∧
      Frame false [.pwr, .free] [R.phcAge n.val] c d) ∧
    (rate.toNat < eolRate mv → d.get (F.stdStateState n.val) = 5)))

/-- R428 … R432, Table 13.7 (ROTATION_COPY_DONE, QUIET_POINT, ROTATION_COMMIT, ROTATION_ABORT, ROTATION_TICK): the copy and the quiet
point are noted; the commit gives the entering stand the leaving one's logical stand in SERVICE, its operand buffers and its
previous owners, and the leaving one becomes SPARE or, held, OFF; an abort returns both stands and counts; a tick counts while no output
is enabled, and begins a new energy interval. -/
def Obligations.Rotation : Prop := ∀ (s : State) (l e : Fin 17),
  let c := s.hw.ctl
  let lg := c.get (F.stdStateLogical l.val)
  c.running = true → l ≠ e → c.pwr.rotPair = some (l.val, e.val) →
  (c.pwr.copyDone = false → c.pwr.bistOn ≠ some e.val → Completes (exec .rotationCopyDone s) (fun t => t.pending = s.pending ∧
    t.hw.ctl = { c with pwr := { c.pwr with copyDone := true } } ∧ (c.img.cur = none → t.hw.mem = s.hw.mem))) ∧
  (c.pwr.leavingNow = true → (∀ i < 8, (c.core (8 * l.val + i)).task = none ∧ mget [] c.fab.queues (8 * lg + i) = []) →
    (∀ p ∈ c.fab.fifos, p.1 % 128 / 8 = lg → p.2 = []) →
    Completes (exec .quietPoint s) (fun t => t.pending = s.pending ∧ t.hw.ctl.pwr.quietDone = true ∧ t.hw.ctl.gather l.val = [] ∧
      (∀ n, n ≠ l.val → t.hw.ctl.gather n = c.gather n) ∧
      (∀ a, (∀ g ∈ c.gather l.val, a < g.line ∨ g.line + 256 ≤ a) → t.hw.mem.rd a = s.hw.mem.rd a) ∧
      t.hw.ctl.fab = { c.fab with repairs := t.hw.ctl.fab.repairs } ∧
      Frame true [.pwr, .cnp, .fab] [R.cnpGbRmw, R.cnpDetCount, R.cnpDetAddr, R.cnpDetSrc, R.cnpClrPending] c t.hw.ctl)) ∧
  (c.pwr.leavingNow = true → c.pwr.quietDone = true → s.memWf = true → c.scratchAt ≤ Config.coreMemBytes →
    Completes (exec .rotationCommit s) (fun t => t.pending = s.pending ∧
      t.hw.ctl.get (F.stdStateState e.val) = 3 ∧ t.hw.ctl.get (F.stdStateLogical e.val) = lg ∧
      t.hw.ctl.get (F.stdStateState l.val) = (if l.val ∈ c.pwr.holdPend then 0 else 1) ∧
      t.hw.ctl.pwr.rotPair = none ∧ Counts c t.hw.ctl F.phcRotCntDone ∧
      (∀ i < 8, (t.hw.ctl.core (8 * e.val + i)).prevOwner = (c.core (8 * l.val + i)).prevOwner ∧
        (t.hw.ctl.core (8 * e.val + i)).task = none ∧
        ∀ b < Config.opbufBytes, t.hw.mem.rd (opbufKey (8 * e.val + i) b) = s.hw.mem.rd (opbufKey (8 * l.val + i) b)) ∧
      (∀ a, (a < opbufKey (8 * e.val) 0 ∨ opbufKey (8 * e.val + 8) 0 ≤ a) → (a < cmemKey (8 * e.val) 0 ∨ cmemKey (8 * e.val + 8) 0 ≤ a) →
        t.hw.mem.rd a = s.hw.mem.rd a) ∧
      Frame false [.pwr, .fab] (R.stdState l.val :: R.stdState e.val :: [R.phcRotStatus, R.phcRotCnt, R.phcStdHold, R.dbgSat]) c t.hw.ctl)) ∧
  (c.pwr.leavingNow = true → CompletesCtl s (exec .rotationAbort s) (fun d => d.get (F.stdStateState l.val) = 3 ∧
    d.get (F.stdStateLogical l.val) = lg ∧ d.get (F.stdStateState e.val) = 1 ∧ d.pwr = { c.pwr with leavingNow := false, quietDone := false } ∧
    Counts c d F.phcRotCntAbort ∧ Frame true [.pwr] [R.stdState l.val, R.stdState e.val, R.phcRotStatus, R.phcRotCnt] c d)) ∧
  (c.anyOut = false → CompletesCtl s (exec .rotationTick s) (fun d => d.pwr.ticks = c.pwr.ticks + 1 ∧ d.pwr.limitPosted = [] ∧
    d.pwr.enStart = c.now ∧ d.fab.enFab = [] ∧ d.fab.enMem = [])) ∧
  (c.anyOut = true → exec .rotationTick s = .next s)

/-! Tasks (04_stands_and_bundles.md, 06_channels_and_semaphores.md, 07_schedules_and_tiling.md). -/

/-- R183, R231, R233 (TASK_ENQUEUE), R126, R162, R184 (TASK_START), R120, R122 (STAND_WATCHDOG), R121 (WAIT_LIMIT). A descriptor joins
its core's dispatch queue last: raw words with no reserved bit set, a line step with the owner 1 + output and its line, a job's next
item; a reserved bit is refused; R163, R210: a re-arm before it changes BASE and SIZE of a valid handle within ranges its owner
holds, marks nothing and raises EPOCH. A ready head starts on an idle core: PC at its entry, arguments in s1 to s15, every other register
zero, the semaphore's count taken, and where the core's previous owner was another its operand buffer reads zero. The watchdog fails
the stand; a job's wait at its limit stops its core with cause 10. -/
def Obligations.Tasks : Prop := ∀ (s : State) (k : Fin 128) (ws : List Word),
  let c := s.hw.ctl
  let queue := fun (d : Ctl) (j : Nat) => mget [] d.fab.queues j
  let queued := fun (j : Nat) (P : Task → Prop) (d : Ctl) => (∃ t, queue d j = queue c j ++ [t] ∧ P t) ∧
    (∀ i, i ≠ j → queue d i = queue c i) ∧ d.fab = { c.fab with queues := d.fab.queues }
  c.running = true →
  (c.placeable k.val = true → descReserved ws = false → CompletesCtl s (exec (.taskEnqueue (.raw k ws) []) s) (fun d =>
    queued k.val (fun t => t.entry = (nth 0 ws 0).toNat % 4096 ∧ t.owner = (nth 0 ws 0).toNat / 2 ^ 24 ∧ t.task = nth 0 ws 1 ∧
      t.frame = nth 0 ws 2 ∧ t.line = (nth 0 ws 3).toNat % 8192 ∧ t.args = (List.range 15).map (fun i => nth 0 ws (8 + i))) d ∧
    Frame false [.fab] [] c d)) ∧
  (c.placeable k.val = true → descReserved ws = true → CompletesCtl s (exec (.taskEnqueue (.raw k ws) []) s) (Frame true [] [] c)) ∧
  (∀ (i o : Fin 24) (r t j m : Nat) (sc : Schedule) (v : TileVariant) (st : LineStep) (im : Image),
    c.schedule (c.get (F.stcSchedActModel i)) (c.get (F.stcSchedActBucket i)) = some sc → (c.vc i).variant = some v →
    sc.steps[r]? = some st → c.img.cur = some im → c.armedAs i 0 = true → c.outOf i = some o.val → c.stepsOn i = true →
    t < tvTiles v (c.vc i).hactSel → j < st.split → c.placeable (tvCore v r t j) = true →
    CompletesCtl s (exec (.taskEnqueue (.line i o r t j m) []) s) (fun d =>
      queued (tvCore v r t j) (fun x => x.owner = 1 + o.val ∧ x.frame = (c.vc o).frame ∧ x.line = m % 8192) d ∧ Frame false [.fab] [] c d)) ∧
  (∀ (j : Fin 64) (jb : Job) (t : Task) (rest : List Task), c.job j = some jb → jb.items = t :: rest → c.placeable t.core = true →
    CompletesCtl s (exec (.taskEnqueue (.item j) []) s) (fun d => queued t.core (fun x => x = t) d ∧ d.job j = some { jb with items := rest } ∧
      Frame false [.fab, .jobs] [] c d)) ∧
  (∀ (src : TaskSrc) (r : Rearm), let h := r.handle.val
    c.on (F.cnpHtW0Valid h) = true → 1 ≤ r.size → r.size ≤ 32768 → c.htOk (c.rd (R.cnpHtW0 h)) r.base r.size = true →
    c.ownerHolds (c.get (F.cnpHtW0Owner h)) (c.on (F.cnpHtW0Target h)) r.base r.size = true →
    CompletesCtl s (exec (.taskEnqueue src [r]) s) (fun d => d.get (F.cnpHtW1Base h) = r.base ∧ d.get (F.cnpHtW2SizeM1 h) + 1 = r.size ∧
      d.get (F.cnpHtW0Owner h) = c.get (F.cnpHtW0Owner h) ∧ d.on (F.cnpHtW0Valid h) = true ∧
      d.on (F.cnpHtW0Target h) = c.on (F.cnpHtW0Target h) ∧ d.get (F.cnpHtW0Epoch h) = (c.get (F.cnpHtW0Epoch h) + 1) % 65536 ∧
      Frame true [.fab, .jobs] [R.cnpHtW0 h, R.cnpHtW1 h, R.cnpHtW2 h] c d)) ∧
  (∀ (q : Nat) (t : Task) (rest : List Task), c.physOf k.val = some q → queue c k.val = t :: rest → (c.core q).task = none →
    (c.mayRun (q / 8) = true → c.headReady k.val t = true → Completes (exec (.taskStart k) s) (fun u =>
      let d := u.hw.ctl
      u.pending = s.pending ∧ queue d k.val = rest ∧ (∀ i, i ≠ k.val → queue d i = queue c i) ∧
      (d.core q).task = some { t with inCommit := false } ∧ (∀ r, r ≠ q → d.core r = c.core r) ∧
      d.get (F.stdCorePcPc (q / 8) (q % 8)) = t.entry % 4096 ∧
      (∀ i < 15, d.sreg q (i + 1) = nth 0 t.args i) ∧ (∀ i, 16 ≤ i → i < 64 → d.sreg q i = 0) ∧ (∀ i < 32, d.vreg q i = 0) ∧
      (∀ i, 1 ≤ i → i < 16 → d.preg q i = 0) ∧ (∀ i r j, i < 8 → r < 16 → j < 32 → d.areg q i r j = 0) ∧
      (t.startEn = true → t.startSem < 256 → d.get (F.semCountCount t.startSem) + t.startN = c.get (F.semCountCount t.startSem)) ∧
      ((c.core q).prevOwner = t.owner → u.hw.mem = s.hw.mem) ∧
      ((c.core q).prevOwner ≠ t.owner → ∀ b < Config.opbufBytes, u.hw.mem.rd (opbufKey q b) = 0) ∧
      Frame false [.fab, .jobs] [R.stdCorePc (q / 8) (q % 8), R.semCount t.startSem] c d)) ∧
    (c.headReady k.val t = false → exec (.taskStart k) s = .next s)) ∧
  (∀ (n : Fin 17) (b : Fin 8), let st := c.get (F.stdStateState n)
    let cs := c.core (8 * n.val + b.val)
    (st = 3 ∨ st = 4) → cs.task.isSome = true → cs.waiting = [] → cs.ready = false →
    (c.get (F.stdWdogLimit n) ≠ 0 → CompletesCtl s (exec (.standWatchdog n b) s) (fun d => d.get (F.stdStateState n) = 5 ∧
      d.gather n.val = [] ∧ ∀ i < 8, (d.core (8 * n.val + i)).task = none)) ∧
    (c.get (F.stdWdogLimit n) = 0 → exec (.standWatchdog n b) s = .next s)) ∧
  (∀ (x : At) (i : Issued) (l : List Issued), c.atCore k.val = some x → (c.core x.q).waiting = i :: l → x.t.isJob = true →
    c.get (F.stdWdogJobWait x.n) ≠ 0 → Completes (exec (.waitLimit k) s) (fun u =>
      u.hw.ctl.rd (R.stdCoreFault (x.q / 8) (x.q % 8)) = w32 (x.pc + 4096 * 10 + 65536 * i.sl.slot.val) ∧
      (u.hw.ctl.get (F.stdFaultCore (x.q / 8))).testBit (x.q % 8) = true ∧ (u.hw.ctl.core x.q).task = none ∧
      (u.hw.ctl.core x.q).stopped = true ∧ SameFiles s u ∧ u.pending = s.pending))

/-! The raster (01_raster_contract.md). -/

/-- R30 … R33, R37, R112, R413, Table 1.4 (SOURCE_SELECTION): black while the output locks; then the input's loss policy; Lintel under a
shed or FORCE_LINTEL; Lintel where the tag is not valid for the line, is BAD, or names a FAILED stand, each counted; else the neural
line. The slot is drained, its tag's VALID cleared, and the line stands last in the egress buffer. Stated outside split mode. -/
def Obligations.SourceSelected : Prop := ∀ (s : State) (o : Fin 24) (m : Fin 8192),
  let c := s.hw.ctl
  let v := c.vc o
  let tag := c.tag o (c.slotOfLine o m)
  let stand := tag.toNat / 2 ^ 24 % 32
  let loss := (c.lossOf o).1
  let pol := (c.lossOf o).2
  let valid := tag.getLsbD 31 && decide (tag.toNat / 2 ^ 13 % 256 = v.frame.toNat % 256) && decide (tag.toNat % 2 ^ 13 = m.val)
  let early := if v.locked = false then some LineSrc.black
    else if loss = 2 ∧ pol = 1 then some .lintel
    else if loss = 2 ∧ pol ≠ 2 then some .black
    else if c.on F.phcCurStatusShed = true ∨ c.on (F.rasPolicyForceLintel o) = true then some .lintel else none
  let src := match early with
    | some x => x
    | none => if valid = false ∨ tag.getLsbD 30 = true ∨ c.get (F.stdStateState stand) = 5 then .lintel else .neural
  let counts := fun (d : Ctl) (f : Fld) (cond : Prop) => (cond → Counts c d f) ∧ (¬cond → d.get f = c.get f)
  c.running = true → v.outOn = true → m.val < c.get (F.stcGeomVact o) → c.mode ≠ 2 →
  Completes (exec (.sourceSelection o m) s) (fun t =>
    let d := t.hw.ctl
    t.pending = s.pending ∧ t.hw.mem = s.hw.mem ∧
    (∃ e, (d.rc o).egress.getLast? = some e ∧ e.m = m.val ∧ e.frame = v.frame ∧ e.src = src ∧
      (src = .black → e.px = c.blackLine o) ∧
      (src = .lintel → (∀ p ∈ (c.rc o).lintelOut, p.1 ≠ m.val) → e.px = c.lintelPx o m)) ∧
    (d.rc o).drained = some (v.frame, m.val) ∧ (d.tag o (c.slotOfLine o m)).getLsbD 31 = false ∧ (d.vc o).frame = v.frame ∧
    counts d (F.rasFbLateCount o) (early = none ∧ valid = false ∧ loss = 0) ∧
    counts d (F.rasFbDetCount o) (early = none ∧ valid = true ∧ tag.getLsbD 30 = true ∧ loss = 0) ∧
    counts d (F.rasFbStandCount o) (early = none ∧ valid = true ∧ tag.getLsbD 30 = false ∧ c.get (F.stdStateState stand) = 5 ∧ loss = 0))

/-- R21, R22, R39, R72 (RASTER_SLOT, LINTEL_LINE), R43, R90 (OUTPUT_FRAME_BOUNDARY), R180 (RESIDENT_REPAIR): a line in the egress buffer
leaves by every trained transmitter of its output, blank behind a closed Shutter, and counts for the governor's interval of the
shortest output; Lintel's line stands in its output buffer; at a boundary the next frame starts with RAS_s_LINTEL latched, or the
output ends and its lanes go idle; a repair rewrites its word's line from the image in force and no other byte. -/
def Obligations.RasterLines : Prop := ∀ (s : State) (o : Fin 24) (m : Fin 8192) (spec : Bool),
  let c := s.hw.ctl
  c.running = true → (c.vc o).outOn = true →
  (∀ e, (c.rc o).egress.find? (fun x => x.m == m.val) = some e → (∀ x ∈ (c.rc o).egress, x.await = false) →
    CompletesCtl s (exec (.rasterSlot o m) s) (fun d => (∀ x ∈ (d.rc o).egress, x.m ≠ m.val) ∧
      (c.isShort o = true → c.pwr.lines + 1 = d.pwr.lines) ∧
      (∀ t ∈ c.outTxs o, c.on (F.vidTxStatusTrained t) = true → Output.line t o e.frame.toNat m e.src (e.shut.contains t)
        (cutCols (if e.shut.contains t then c.blackLine o else c.egressLine o e) (c.txCols o t).1 (c.txCols o t).2) ∈ d.out) ∧
      (c.mode = 0 → Frame false [.ras, .pwr, .fab, .out] [R.phcGovStatus] c d))) ∧
  (m.val < c.get (F.stcGeomVact o) → CompletesCtl s (exec (.lintelLine o m) s) (fun d => (d.rc o).lintelOut.getLast? = some (m.val, c.lintelPx o m) ∧
    (∀ q, q ≠ o.val → d.rc q = c.rc q) ∧ Frame false [.ras] [] c d)) ∧
  (c.hng.mirPend = [] → c.hng.roleAt = none → c.hng.promAt = none →
    ((c.vc o).offPend = false → Completes (exec (.outputFrameBoundary o spec) s) (fun t => t.pending = s.pending ∧
      (t.hw.ctl.vc o).frame = (c.vc o).nextFrame ∧ (t.hw.ctl.vc o).outOn = true ∧ (t.hw.ctl.vc o).lastB = c.now ∧
      t.hw.ctl.get (F.rasLintelActFrame o) = (c.vc o).nextFrame.toNat % 256)) ∧
    ((c.vc o).offPend = true → Completes (exec (.outputFrameBoundary o spec) s) (fun t => t.pending = s.pending ∧
      (t.hw.ctl.vc o).outOn = false ∧ ∀ n ∈ txsOf (c.get (F.stcCtrlSrc o)), t.hw.ctl.on (F.vidTxStatusTrained n) = false))) ∧
  (∀ (r : Repair) (rest : List Repair) (im : Image), c.fab.repairs = r :: rest → c.img.cur = some im →
    Completes (exec .residentRepair s) (fun t => t.pending = s.pending ∧ t.hw.ctl.fab.repairs = rest ∧
      (let n := if r.level = 1 then 128 else 256
       let k := r.key - r.key % n
       ∀ a, t.hw.mem.rd a = if k ≤ a ∧ a < k + n then
         (if r.level = 1 then imgCoreByte im r.core ((k - cmemKey 0 0) % Config.coreMemBytes + (a - k)) else c.imgConstByte im a)
         else s.hw.mem.rd a) ∧
      Frame true [.fab, .cnp] (R.cnpClrPending :: lcRegs) c t.hw.ctl))

/-! Streams and ports (03_video_ports.md). -/

/-- R87 … R90 (STREAM_ARM, STREAM_DISARM), R87, R93, R98, R103 (INPUT_LINE), R110 (INPUT_LOSS), R111 (REPLAY_LINE), R101 (PLANE_FETCH), on a part alone: ARM
from 0 to 1 leaves the first failing check in ARM_ERR and ARM 0, or arms the context; ARM from 1 to 0 disarms it; an input line in
direct mode that its receiver carries goes into the next ring slot and Lintel's store, FMT.DSC showing whether it came DSC coded; a lost input counts and enters LOSS_REPEAT; its last good frame is replayed
line by line; a plane's line for an output line not yet drained stands in its FIFO. -/
def Obligations.Streams : Prop := ∀ (s : State) (i : Fin 24) (w : Word),
  let c := s.hw.ctl
  let v := c.vc i
  let armed := c.maskPut (R.stcCtrl i) (stcWrMask (ctrlKind w) 0) w
  let video := [R.stcCtrl i, R.stcStatus i]
  let noted := fun (d : Ctl) => d.ports = (c.stcMark i 0).ports
  c.running = true → c.mode = 0 →
  (c.on (F.stcCtrlArm i) = false → w.getLsbD 0 = true →
    CompletesCtl s (exec (.streamArm i w) s) (fun d => d.get (F.stcStatusArmErr i) = armed.armErr i ∧
      (armed.armErr i ≠ 0 → d.on (F.stcCtrlArm i) = false ∧ d.get (F.stcStatusState i) = c.get (F.stcStatusState i) ∧ noted d ∧ Frame false [.vid, .ports] video c d) ∧
      (armed.armErr i = 0 → d.on (F.stcCtrlArm i) = true ∧ d.get (F.stcStatusState i) = (if ctrlKind w = 1 then 2 else 1) ∧
        (d.vc i).outOn = decide (ctrlKind w = 1)))) ∧
  (c.on (F.stcCtrlArm i) = true → w.getLsbD 0 = false →
    CompletesCtl s (exec (.streamDisarm i w) s) (fun d => d.on (F.stcCtrlArm i) = false ∧ d.get (F.stcStatusState i) = 0 ∧
      (c.kind i = 1 → (d.vc i).offPend = true ∧ noted d ∧ Frame false [.vid, .ports] video c d))) ∧
  (c.armedAs i 0 = true → c.get (F.stcCtrlSrc i) ≤ 1 → c.on (F.vidRxStatusHpd (c.get (F.stcCtrlSrc i))) = true →
    ∀ (y : Fin 8192) (px : Line) (t : InTiming) (dsc : Option DscRec),
      let bs := lineBytesOf (c.ingLine i y px)
      let key := c.hKey (c.get (F.stcRingHandle i)) (v.ringTail * c.lineSlot i)
      y.val ≠ 0 → y.val + 1 ≠ c.get (F.stcGeomVact i) → v.inFrame ≠ 0 → v.measured = true → v.lossMode = 0 → c.rxCarries i t dsc = true →
      c.on (F.stcCtrlMode i) = false → c.lineOk i y px = true → tbit v.ringFill v.ringTail = false →
      Completes (exec (.inputLine i y px t dsc) s) (fun t => t.hw.ctl.on (F.stcFmtDsc i) = dsc.isSome ∧ t.pending = s.pending ∧ (t.hw.ctl.vc i).nextLine = y.val + 1 ∧
        tbit (t.hw.ctl.vc i).ringFill v.ringTail = true ∧ (t.hw.ctl.vc i).ringTail = (v.ringTail + 1) % max 1 (c.get (F.stcRingDepth i)) ∧
        (mget [] t.hw.ctl.ras.lintelStore i).getLast? = some (y.val, c.ingLine i y px) ∧ t.hw.mem.rdN key bs.length = bs)) ∧
  (c.armedAs i 0 = true → c.kind i = 0 → v.measured = true → v.lossMode = 0 → ∀ cause : Fin 5,
    CompletesCtl s (exec (.inputLoss i cause) s) (fun d => d.get (F.stcStatusState i) = 4 ∧ (d.vc i).lossMode = 1 ∧
      (d.vc i).lossCause = cause.val + 1 ∧ Counts c d (F.stcLossCntCount i) ∧
      Frame true [.vid] [R.stcStatus i, R.stcLossCnt i, R.vidRxStatus (c.get (F.stcCtrlSrc i))] c d)) ∧
  (c.kind i = 0 → c.on (F.stcCtrlMode i) = false → v.lossMode ≠ 0 → v.back = false → ∀ r, v.lastGood = some r →
    let px := W.storeLine ⟨c, s.hw.mem, []⟩ i r.buf v.replayLine
    Completes (exec (.replayLine i) s) (fun t => t.pending = s.pending ∧
      (t.hw.ctl.vc i).replayLine = (if c.get (F.stcGeomVact i) ≤ v.replayLine + 1 then 0 else v.replayLine + 1) ∧
      (mget [] t.hw.ctl.ras.lintelStore i).getLast? = some (v.replayLine, px) ∧ (v.started = false → t.hw.mem = s.hw.mem))) ∧
  (c.on (F.stcCtrlArm i) = true → c.kind i = 2 → ∀ (m : Fin 8192) (r : Nat), c.planeRow i m = some r →
    (c.vc (c.get (F.stcCtrlLink i))).outOn = true →
    c.drained (c.get (F.stcCtrlLink i)) 32 (c.vc (c.get (F.stcCtrlLink i))).frame.toNat m = false →
    CompletesCtl s (exec (.planeFetch i m) s) (fun d => (d.vc i).planes.find? (fun p => p.1 == m.val) = some (m.val,
      [words32 (s.hw.mem.rdN (dramKey (c.get (F.stcFstoreBase i) * 65536 + r * c.planePitch i)) (4 * c.get (F.stcGeomHact i)))]) ∧
      (∀ j, j ≠ i.val → d.vc j = c.vc j) ∧ Frame false [.vid, .cnp] (R.dbgSat :: lcRegs) c d))

/-- R92, R114, R115, Table 3.3 (RX_LINK_TRAINING, NATIVE_AUX, I2C_OVER_AUX, LINK_ADDRESS, ENUM_PATH_RESOURCES, ALLOCATE_PAYLOAD,
QUERY_PAYLOAD, CLEAR_PAYLOAD_ID_TABLE, REMOTE_I2C_READ, EDID_COMMIT, HPD_PULSE_END). A receiver that presents HPD trains at a rate and lane
count it advertises and at no other; what is written to the DPCD is read back; the published EDID is read at device 0x50; MST requests are
answered where MST is advertised, and a fifth payload gets a NAK. One that does not present HPD answers nothing. EDID_COMMIT publishes the
buffer and, while HPD is asserted, holds it low until HPD_PULSE_END. The spec names these requests and states no layout: that a write
is read back (log entry 8), the bandwidth numbers and answers (15), the port numbers (40), pointer and offset of the EDID device (170)
are the model's choices. -/
def Obligations.ReceiverPorts : Prop := ∀ (s : State) (n : Fin 2) (port : Fin 16) (id : Fin 128) (pbn : BitVec 16) (len : Fin 17)
    (dev : BitVec 7) (off : Fin 512) (count : Fin 256) (addr : BitVec 20) (data : List Byte) (write ok : Bool) (rate : Fin 8) (lanes : Fin 4)
    (w : Word),
  let c := s.hw.ctl
  let sends := fun (o : Output) (d : Ctl) => d.out = c.out ++ [o]
  let nak := fun (d : Ctl) => sends (.mstNak n) d ∧ Frame false [.out] [] c d
  let rest := (c.payloads n).filter (fun p => p.2.1 != id.val)
  let fits := rate.val ≤ 5 ∧ rate.val ≤ c.get (F.vidRxCtrlMaxRate n) ∧ lanes.val ≤ 2 ∧ lanes.val ≤ c.get (F.vidRxCtrlMaxLanes n)
  let mst := c.on (F.vidRxCtrlMstEn n) = true
  let sink := sinkPort port = true
  let seg := mget 0 c.ports.i2cSeg n
  let pos := mget 0 c.ports.i2cOff n
  let there := mget [] c.ports.edidPub n ≠ []
  let uses := (List.range 24).any (fun i => c.armedAs i 0 && c.get (F.stcCtrlSrc i) == n.val)
  c.running = true →
  (c.on (F.vidRxStatusHpd n) = true →
    (fits → CompletesCtl s (exec (.rxLinkTraining n rate lanes true) s) (fun d => d.on (F.vidRxStatusTrained n) = true ∧
      d.get (F.vidRxStatusRate n) = rate.val ∧ d.get (F.vidRxStatusLanes n) = lanes.val ∧ Frame false [] [R.vidRxStatus n] c d)) ∧
    (ok = false ∨ ¬fits → CompletesCtl s (exec (.rxLinkTraining n rate lanes ok) s) (fun d => d.on (F.vidRxStatusTrained n) = false ∧
      Frame false [] [R.vidRxStatus n] c d)) ∧
    CompletesCtl s (exec (.nativeAux n true addr len data) s) (fun d => sends (.aux n []) d ∧
      (∀ i < min len.val data.length, d.dpcdRd n (addr.toNat + i) = nth 0 data i) ∧
      (∀ k a, (∀ i < min len.val data.length, ¬(k = n.val ∧ a % 2 ^ 20 = (addr.toNat + i) % 2 ^ 20)) → d.dpcdRd k a = c.dpcdRd k a) ∧
      Frame false [.ports, .out] [] c d) ∧
    CompletesCtl s (exec (.nativeAux n false addr len data) s) (fun d =>
      sends (.aux n ((List.range len.val).map (fun i => c.dpcdRd n (addr.toNat + i)))) d ∧ Frame false [.out] [] c d) ∧
    (∀ (b : Byte) (l : List Byte), data = b :: l → len.val ≠ 0 →
      CompletesCtl s (exec (.i2cOverAux n true 0x50 len data) s) (fun d => mget 0 d.ports.i2cOff n = b.toNat ∧
        mget 0 d.ports.i2cSeg n = seg ∧ sends (.aux n []) d ∧ Frame false [.ports, .out] [] c d) ∧
      CompletesCtl s (exec (.i2cOverAux n true 0x30 len data) s) (fun d => mget 0 d.ports.i2cSeg n = b.toNat ∧
        mget 0 d.ports.i2cOff n = pos ∧ sends (.aux n []) d ∧ Frame false [.ports, .out] [] c d)) ∧
    (there → seg ≤ 1 → CompletesCtl s (exec (.i2cOverAux n false 0x50 len data) s) (fun d =>
      (∃ bs, sends (.aux n bs) d ∧ bs.length = len.val ∧ ∀ i < len.val, some (nth 0 bs i) = c.edidByte n (256 * seg + (pos + i) % 256)) ∧
      mget 0 d.ports.i2cOff n = (pos + len.val) % 256 ∧ Frame false [.ports, .out] [] c d)) ∧
    (¬there ∨ 1 < seg → len.val ≠ 0 → CompletesCtl s (exec (.i2cOverAux n false 0x50 len data) s) (fun d => sends (.auxNak n) d ∧
      Frame false [.out] [] c d)) ∧
    (dev ≠ 0x50 → (dev ≠ 0x30 ∨ write = false) → CompletesCtl s (exec (.i2cOverAux n write dev len data) s) (fun d => sends (.auxNak n) d ∧
      Frame false [.out] [] c d)) ∧
    (mst → CompletesCtl s (exec (.linkAddress n) s) (fun d => sends (.mst n [4, 8, 9, 10, 11]) d ∧ Frame false [.out] [] c d)) ∧
    (mst → sink → CompletesCtl s (exec (.enumPathResources n port) s) (fun d =>
      (∃ full avail, full < 65536 ∧ avail < 65536 ∧ sends (.mst n [port.val, full, avail]) d) ∧ Frame false [.out, .free] [] c d)) ∧
    (mst → sink → pbn ≠ 0 → rest.length < 4 → CompletesCtl s (exec (.allocatePayload n port id pbn) s) (fun d =>
      sends (.mst n [port.val, id.val, pbn.toNat]) d ∧ d.payloads n = rest ++ [(port.val, id.val, pbn.toNat)] ∧
      d.get (F.vidRxStatusStreams n) = rest.length + 1 ∧ Frame false [.ports, .out] [R.vidRxStatus n] c d)) ∧
    (mst → sink → rest.length < 8 → CompletesCtl s (exec (.allocatePayload n port id 0) s) (fun d =>
      sends (.mst n [port.val, id.val, 0]) d ∧ d.payloads n = rest ∧ d.get (F.vidRxStatusStreams n) = rest.length ∧
      Frame false [.ports, .out] [R.vidRxStatus n] c d)) ∧
    (mst → sink → pbn ≠ 0 → 4 ≤ rest.length → CompletesCtl s (exec (.allocatePayload n port id pbn) s) nak) ∧
    (mst → sink → CompletesCtl s (exec (.queryPayload n port id) s) (fun d =>
      sends (.mst n [port.val, (((c.payloads n).find? (fun p => p.1 == port.val && p.2.1 == id.val)).map (·.2.2)).getD 0]) d ∧
      Frame false [.out] [] c d)) ∧
    (mst → CompletesCtl s (exec (.clearPayloadIdTable n) s) (fun d => d.payloads n = [] ∧ d.get (F.vidRxStatusStreams n) = 0 ∧
      sends (.mst n []) d ∧ Frame false [.ports, .out] [R.vidRxStatus n] c d)) ∧
    (mst → sink → there → off.val + count.val ≤ 512 → CompletesCtl s (exec (.remoteI2cRead n port 0x50 off count) s) (fun d =>
      (∃ bs : List Byte, sends (.mst n (bs.map BitVec.toNat)) d ∧ bs.length = count.val ∧
        ∀ i < count.val, some (nth 0 bs i) = c.edidByte n (off.val + i)) ∧ Frame false [.out] [] c d)) ∧
    (mst → (¬sink ∨ dev ≠ 0x50 ∨ 512 < off.val + count.val ∨ ¬there ∧ count.val ≠ 0) → CompletesCtl s (exec (.remoteI2cRead n port dev off count) s) nak) ∧
    (mst → ¬sink → CompletesCtl s (exec (.enumPathResources n port) s) nak ∧ CompletesCtl s (exec (.allocatePayload n port id pbn) s) nak ∧
      CompletesCtl s (exec (.queryPayload n port id) s) nak) ∧
    (¬mst → CompletesCtl s (exec (.linkAddress n) s) nak ∧ CompletesCtl s (exec (.enumPathResources n port) s) nak ∧
      CompletesCtl s (exec (.allocatePayload n port id pbn) s) nak ∧ CompletesCtl s (exec (.queryPayload n port id) s) nak ∧
      CompletesCtl s (exec (.clearPayloadIdTable n) s) nak ∧ CompletesCtl s (exec (.remoteI2cRead n port dev off count) s) nak)) ∧
  (c.on (F.vidRxStatusHpd n) = false → exec (.rxLinkTraining n rate lanes ok) s = .next s ∧ exec (.nativeAux n write addr len data) s = .next s ∧
    exec (.i2cOverAux n write dev len data) s = .next s ∧ exec (.linkAddress n) s = .next s ∧ exec (.enumPathResources n port) s = .next s ∧
    exec (.allocatePayload n port id pbn) s = .next s ∧ exec (.queryPayload n port id) s = .next s ∧
    exec (.clearPayloadIdTable n) s = .next s ∧ exec (.remoteI2cRead n port dev off count) s = .next s) ∧
  (w.getLsbD 8 = true → CompletesCtl s (exec (.edidCommit n w) s) (fun d => d.rd (R.vidRxCtrl n) &&& 0xFF = w &&& 0xFF ∧
    (∀ i < 128, nth 0 (mget [] d.ports.edidPub n) i = c.rd (R.vidRxEdid n i)) ∧
    (c.on (F.vidRxStatusHpd n) = true → n.val ∈ d.ports.hpdPulse ∧ d.on (F.vidRxStatusHpd n) = false) ∧
    (c.on (F.vidRxStatusHpd n) = false → d.ports.hpdPulse = c.ports.hpdPulse) ∧
    (c.paired = false → Frame true [.vid, .ports] ([R.vidRxCtrl n, R.vidRxStatus 0, R.vidRxStatus 1] ++ (List.range 24).map R.stcStatus ++
      (List.range 24).map R.stcLossCnt) c d))) ∧
  CompletesCtl s (exec (.hpdPulseEnd n) s) (fun d => n.val ∉ d.ports.hpdPulse ∧ (∀ k, k ≠ n.val → (k ∈ d.ports.hpdPulse ↔ k ∈ c.ports.hpdPulse)) ∧
    d.on (F.vidRxStatusHpd n) = (c.on (F.vidRxCtrlEn n) && uses))

/-- R95 (CSI_FRAME_START, CSI_LINE_START, CSI_LINE_END, CSI_FRAME_END, CSI_LONG_PACKET), R96, R116 (TX_HPD_FALL, TX_HPD_RISE,
TX_LINK_TRAINING): the camera's frames and lines in progress; a line of the next own line of a frame in progress goes into the frame store; a packet
of another data type is dropped and counted, a CRC error counted; a transmitter that loses HPD goes idle, and trains again at parameters
that it has. -/
def Obligations.CameraAndTransmitters : Prop := ∀ (s : State) (vc : Fin 4) (n : Fin 2) (dt : BitVec 6) (px : Line)
    (ok : Bool) (tm : InTiming),
  let c := s.hw.ctl
  let ports := fun (d : Ctl) => Frame false [.ports] [] c d
  c.running = true →
  (c.on F.vidCsiCtrlEn = true →
    CompletesCtl s (exec (.csiFrameStart vc tm) s) (fun d => vc.val ∈ d.ports.csiFrame ∧ mget 0 d.ports.csiY vc = 0 ∧
      mget ⟨0, 0, 0, 0, 0⟩ d.ports.csiTiming vc = tm ∧ ports d) ∧
    CompletesCtl s (exec (.csiFrameEnd vc) s) (fun d => vc.val ∉ d.ports.csiFrame ∧ vc.val ∉ d.ports.csiLine ∧ ports d) ∧
    CompletesCtl s (exec (.csiLineStart vc) s) (fun d => vc.val ∈ d.ports.csiLine ∧ ports d) ∧
    CompletesCtl s (exec (.csiLineEnd vc) s) (fun d => vc.val ∉ d.ports.csiLine ∧ ports d) ∧
    (dt.toNat ≠ 0x1E → dt.toNat ≠ 0x1F → dt.toNat ≠ 0x24 → CompletesCtl s (exec (.csiLongPacket vc dt true px) s) (fun d =>
      Counts c d F.vidCsiStatusDtDrop ∧ Frame false [] [R.vidCsiStatus, R.dbgSat] c d)) ∧
    (c.csiCtx vc = none → dt.toNat = 0x1E → CompletesCtl s (exec (.csiLongPacket vc dt false px) s) (fun d =>
      Counts c d F.vidCsiStatusCrcErr ∧ Frame false [] [R.vidCsiStatus, R.dbgSat] c d)) ∧
    (∀ i, c.csiCtx vc = some i → csiType dt.toNat = some (c.get (F.stcFmtSamp i), c.get (F.stcFmtBpc i)) → vc.val ∈ c.ports.csiFrame →
      let v := c.vc i
      let y := mget 0 c.ports.csiY vc
      let key := c.storeKey i v.buf y
      y ≠ 0 → y + 1 ≠ c.get (F.stcGeomVact i) → c.lineOk i y px = true → v.inFrame ≠ 0 → v.measured = true → c.on (F.stcCtrlMode i) = true →
      Completes (exec (.csiLongPacket vc dt ok px) s) (fun t => t.pending = s.pending ∧ mget 0 t.hw.ctl.ports.csiY vc = y + 1 ∧
        (t.hw.ctl.vc i).nextLine = y + 1 ∧ (∀ j, j ≠ i → t.hw.ctl.vc j = c.vc j) ∧
        t.hw.mem.rdN key (c.storePitch i) = toBytes (c.storePitch i) (packVals (c.bpc i) ((c.ingLine i y px).flatMap id)) ∧
        ∀ a, (a < key ∨ key + c.storePitch i ≤ a) → t.hw.mem.rd a = s.hw.mem.rd a))) ∧
  CompletesCtl s (exec (.txHpdFall n) s) (fun d => d.on (F.vidTxStatusHpdIn n) = false ∧ d.on (F.vidTxStatusTrained n) = false ∧
    n.val ∉ d.ports.txRetrain ∧ Frame false [.ports] [R.vidTxStatus n] c d) ∧
  (c.on (F.vidTxStatusHpdIn n) = false → CompletesCtl s (exec (.txHpdRise n) s) (fun d => d.on (F.vidTxStatusHpdIn n) = true ∧
    (mget 0 c.ports.txTrained n ≠ 0 → n.val ∈ d.ports.txRetrain) ∧ Frame false [.ports] [R.vidTxStatus n] c d)) ∧
  (∀ o, c.txOut n = some o → c.on (F.vidTxStatusHpdIn n) = true → c.on (F.vidTxStatusTrained n) = false → n.val ∉ c.ports.txRetrain →
    let able := mget 0 c.ports.txTrained n ≠ 0 ∨ c.txAble n = true
    (able → CompletesCtl s (exec (.txLinkTraining n true) s) (fun d => d.on (F.vidTxStatusTrained n) = true ∧ Frame false [.ports] [R.vidTxStatus n] c d)) ∧
    (ok = false ∨ ¬able → CompletesCtl s (exec (.txLinkTraining n ok) s) (fun d => d.on (F.vidTxStatusTrained n) = false ∧ Frame true [] [] c d)))

/-! Canopy and DRAM (05_memory_hierarchy.md). -/

/-- R154, R155 (CNP_CFG_WRITE), R166 (CLEARING_WRITE), R167 (DRAM_CLEAR_DONE), R157 (LINE_CACHE_FILL, LINE_CACHE_CLEAN), R160
(DRAM_REFRESH), Table 5.7 (DRAM_RETRAIN), R172 (APERTURE_ACCESS), R173 (REVOKE_CLEAR): a partition is ignored while a Canopy handle is
valid; the clearing engine takes a pending line; BUSY falls when a range is clear; the line cache counts; a line goes over the channel of
address bits [11:8], and DRC_LECC counts a corrected link error; a refresh is issued, or postponed up to 8; an aperture request acts whole or
reads zeros and counts; a revoked range is zero once marked. An access that waited counts once in CNP_b_CONFLICT of its bank b; which banks
those are comes with the command (log entry 154). -/
def Obligations.CanopyAndDram : Prop := ∀ (s : State) (v : Word) (h : Fin 256) (addr : Fin 17179869184) (core lecc : Bool) (ch : Fin 16)
    (bank : Fin 32) (a : BitVec 28) (len : Fin 513) (data : List Byte) (waits : List (Fin 64)),
  let c := s.hw.ctl
  let held := ∃ e < 256, c.on (F.cnpHtW0Valid e) = true ∧ c.on (F.cnpHtW0Target e) = false
  let (wb, ab) := (fieldGet v 4 6, fieldGet v 10 6)
  let bad := v.getLsbD 0 = true ∧ (wb = 0 ∨ ab = 0 ∨ 64 ≤ 2 * min 4 (fieldGet v 1 3) + wb + ab)
  let hit := c.cnp.lc.any (fun l => l.addr == addr.val / 256)
  let due := mget 0 c.cnp.refresh (32 * ch.val + bank.val)
  let lc := R.drcLecc :: R.dbgSat :: lcRegs
  let cf := (List.range 64).map R.cnpConflict
  let conflicts := fun d => (∀ b : Fin 64, b ∈ waits → Counts c d (F.cnpConflictCount b)) ∧
    ∀ b : Fin 64, b ∉ waits → d.get (F.cnpConflictCount b) = c.get (F.cnpConflictCount b)
  let sent := fun (write : Bool) (d : Ctl) => d.out = c.out ++ [.dramLine write (addr / 256 % 16) (addr / 256 * 256)] ∧
    (lecc = true → Counts c d F.drcLeccCount) ∧ (lecc = false → d.get F.drcLeccCount = c.get F.drcLeccCount)
  let all := fun write => ∀ i < len.val, c.apertureOk (a.toNat + i) write = true
  let viol := fun d => Counts c d F.cnpApViolCount ∧ d.get F.cnpApLastAddr = a.toNat
  c.running = true → waits.Nodup →
  (held ∨ bad → CompletesCtl s (exec (.cnpCfgWrite v) s) (fun d => d.on F.cnpStatusCfgIgn = true ∧ Frame false [] [R.cnpStatus] c d)) ∧
  (¬held → ¬bad → CompletesCtl s (exec (.cnpCfgWrite v) s) (fun d => d.rd R.cnpCfg = v &&& 0xFFFF ∧
    Frame false [.cnp] [R.cnpCfg, R.cnpLcWb, R.dbgSat] c d)) ∧
  (∀ k, s.hw.mem.nextPending = some k → Completes (exec (.clearingWrite waits) s) (fun t => t.pending = s.pending ∧
    t.hw.mem.pendingAt k = false ∧ (∀ b, lineKey b ≠ lineKey k → t.hw.mem.pendingAt b = s.hw.mem.pendingAt b) ∧
    (∀ b, t.hw.mem.rd b = s.hw.mem.rd b) ∧ t.hw.ctl.get F.cnpClrPendingLines = t.hw.mem.clrPending % 2 ^ 21 ∧
    conflicts t.hw.ctl ∧ Frame false [] (R.cnpClrPending :: R.dbgSat :: cf) c t.hw.ctl)) ∧
  (s.hw.mem.nextPending = none → exec (.clearingWrite waits) s = .next s) ∧
  CompletesCtl s (exec (.dramClearDone h) s) (fun d => d.on (F.cnpHtW0Busy h) = false ∧ Frame false [] [R.cnpHtW0 h] c d) ∧
  (addr.val < c.dramSize → c.lcBanks ≠ 0 → CompletesCtl s (exec (.lineCacheFill addr core lecc) s) (fun d => sent false d ∧
    d.cnp.lc.getLast?.map (·.addr) = some (addr.val / 256) ∧
    (hit = true → core = true → Counts c d F.cnpLcHitCount ∧ d.get F.cnpLcMissCount = c.get F.cnpLcMissCount) ∧
    (hit = false → core = true → Counts c d F.cnpLcMissCount ∧ d.get F.cnpLcHitCount = c.get F.cnpLcHitCount) ∧
    (core = false → d.get F.cnpLcHitCount = c.get F.cnpLcHitCount ∧ d.get F.cnpLcMissCount = c.get F.cnpLcMissCount) ∧
    Frame false [.cnp, .out] lc c d)) ∧
  ((∃ l ∈ c.cnp.lc, l.addr = addr.val / 256 ∧ l.dirty = true) → CompletesCtl s (exec (.lineCacheClean addr lecc waits) s) (fun d => sent true d ∧ conflicts d ∧
    (∀ l ∈ d.cnp.lc, l.addr = addr.val / 256 → l.dirty = false) ∧ Counts c d F.cnpLcWbCount ∧ Frame false [.cnp, .out] (lc ++ cf) c d)) ∧
  CompletesCtl s (exec (.dramRefresh ch bank false) s) (fun d => d.out = c.out ++ [.dram 0 ch bank] ∧
    mget 0 d.cnp.refresh (32 * ch.val + bank.val) = due - 1 ∧ Frame false [.cnp, .out] [] c d) ∧
  (due < 8 → CompletesCtl s (exec (.dramRefresh ch bank true) s) (fun d =>
    mget 0 d.cnp.refresh (32 * ch.val + bank.val) = due + 1 ∧ Frame false [.cnp] [] c d)) ∧
  (8 ≤ due → CompletesCtl s (exec (.dramRefresh ch bank true) s) (fun d => d.out = c.out ++ [.dram 0 ch bank] ∧
    mget 0 d.cnp.refresh (32 * ch.val + bank.val) = due ∧ Frame false [.cnp, .out] [] c d)) ∧
  (c.on F.drcStatusTrained = true → CompletesCtl s (exec (.dramRetrain ch) s) (fun d => d.out = c.out ++ [.dram 1 ch 0] ∧
    d.cnp.retrainNext = (ch.val + 1) % 16 ∧ Frame false [.cnp, .out] [] c d)) ∧
  (c.host.linkUp = true →
    (all true → Completes (exec (.apertureAccess true a len data waits) s) (fun t => t.pending = s.pending ∧
      (∀ i < len.val, t.hw.mem.rd (canopyKey (a.toNat + i)) = nth 0 data i) ∧
      (∀ b, (b < canopyKey a.toNat ∨ canopyKey (a.toNat + len) ≤ b) → t.hw.mem.rd b = s.hw.mem.rd b) ∧
      conflicts t.hw.ctl ∧ Frame false [] (R.cnpClrPending :: R.dbgSat :: cf) c t.hw.ctl)) ∧
    (all false → CompletesCtl s (exec (.apertureAccess false a len data waits) s) (fun d => conflicts d ∧
      .aperture (s.hw.mem.rdN (canopyKey a.toNat) len) ∈ d.out ∧ Frame true [.fab] ([R.cnpDetCount, R.cnpDetAddr, R.cnpDetSrc] ++ cf) c d)) ∧
    (¬all true → CompletesCtl s (exec (.apertureAccess true a len data waits) s) (fun d => viol d ∧ conflicts d ∧
      Frame false [] ([R.cnpApViol, R.cnpApLast, R.dbgSat] ++ cf) c d)) ∧
    (¬all false → CompletesCtl s (exec (.apertureAccess false a len data waits) s) (fun d => viol d ∧ conflicts d ∧
      d.out = c.out ++ [.aperture (List.replicate len 0)] ∧ Frame false [.out] ([R.cnpApViol, R.cnpApLast, R.dbgSat] ++ cf) c d))) ∧
  (∀ k n rest, c.cnp.revoked = (k, n) :: rest → Completes (exec .revokeClear s) (fun t => t.pending = s.pending ∧
    (∀ b, k ≤ b → b < k + n → t.hw.mem.rd b = 0) ∧ (∀ b, (b < k ∨ k + n ≤ b) → t.hw.mem.rd b = s.hw.mem.rd b) ∧
    t.hw.ctl.cnp.revoked = rest ∧ (isDram k = false → t.hw.ctl.cnp = { c.cnp with revoked := rest }) ∧
    Frame false [.cnp] (R.cnpClrPending :: R.dbgSat :: lcRegs) c t.hw.ctl))

/-! Registers, rings, jobs, the link (09_host_and_management.md, 17_register_map.md). -/

/-- R273, R508 (REGISTER_WRITE) on registers whose fields act by their access codes alone, R493, R509 (RC_READ, GLB_TIME_READ),
R288, R289 (WMSTAT_READ): a write takes the RW bits, clears the W1C bits written 1, and leaves the rest; 8 bytes are two writes of 4;
a read answers the word and clears its RC bits; another size, alignment or offset counts and reads 0. -/
def Obligations.RegisterAccess : Prop := ∀ (s : State) (a : BitVec 26) (size : Nat) (v : BitVec 64) (r : Fin 512) (row : RegRow),
  let c := s.hw.ctl
  let plain := fun x : Nat => (0x100004 ≤ x ∧ x < 0x140000) ∨ (0x180000 ≤ x ∧ x < 0x1c0000 ∧ x ≠ R.hngHistCtrl) ∨ 0x200000 ≤ x
  let after := fun (x : Nat) (row : RegRow) (v : Word) => ((c.rd x &&& ~~~w32 row.rw) ||| (v &&& w32 row.rw)) &&& ~~~(v &&& w32 row.w1c)
  let odd := ¬(size = 4 ∧ a.toNat % 4 = 0) ∧ ¬(size = 8 ∧ a.toNat % 8 = 0) ∨ (size = 4 ∧ a.toNat % 4 = 0 ∧ c.occupied a.toNat = false)
  let err := [R.glbBar0Err, R.dbgSat]
  c.running = true →
  (plain a.toNat → regRow a.toNat = some row → a.toNat % 4 = 0 → CompletesCtl s (exec (.registerWrite a 4 v) s) (fun d =>
    d.rd a.toNat = after a.toNat row (v.setWidth 32) ∧ Frame false [] [a.toNat] c d)) ∧
  (∀ row', plain a.toNat → plain (a.toNat + 4) → regRow a.toNat = some row → regRow (a.toNat + 4) = some row' → a.toNat % 8 = 0 →
    CompletesCtl s (exec (.registerWrite a 8 v) s) (fun d => d.rd a.toNat = after a.toNat row (v.setWidth 32) ∧
      d.rd (a.toNat + 4) = after (a.toNat + 4) row' ((v >>> 32).setWidth 32) ∧ Frame false [] [a.toNat, a.toNat + 4] c d)) ∧
  (odd → CompletesCtl s (exec (.registerWrite a size v) s) (fun d => Counts c d F.glbBar0ErrCount ∧ Frame false [] err c d)) ∧
  (plain a.toNat → regRow a.toNat = some row → a.toNat % 4 = 0 → CompletesCtl s (exec (.rcRead a 4) s) (fun d =>
    d.out = c.out ++ [.readData a.toNat (c.rd a.toNat)] ∧ d.rd a.toNat = c.rd a.toNat &&& ~~~w32 row.rc ∧ Frame false [.out] [a.toNat] c d)) ∧
  (odd → CompletesCtl s (exec (.rcRead a size) s) (fun d => Counts c d F.glbBar0ErrCount ∧ d.out = c.out ++ [.readData a.toNat 0] ∧
    Frame false [.out] err c d)) ∧
  CompletesCtl s (exec (.glbTimeRead 4) s) (fun d => d.out = c.out ++ [.readData R.glbTimeLo (w32 c.glbTime)] ∧
    d.rd R.glbTimeHi = w32 (c.glbTime / 2 ^ 32) ∧ Frame false [.out] [R.glbTimeHi] c d) ∧
  CompletesCtl s (exec (.glbTimeRead 8) s) (fun d => d.out = c.out ++ [.readData R.glbTimeLo (w32 c.glbTime),
    .readData R.glbTimeHi (w32 (c.glbTime / 2 ^ 32))] ∧ Frame false [.out] [R.glbTimeHi] c d) ∧
  CompletesCtl s (exec (.wmstatRead r) s) (fun d => d.out = c.out ++ [.readData (R.rngWmstat r) (c.rd (R.rngWmstat r))] ∧
    d.rd (R.rngWmstat r) = 0 ∧ d.get (F.rngFillmmMin r) = (c.ring r).minFill % 8192 ∧ d.get (F.rngFillmmMax r) = (c.ring r).maxFill % 8192 ∧
    (d.ring r).minFill = c.get (F.rngFillFill r) ∧ (d.ring r).maxFill = c.get (F.rngFillFill r) ∧
    Frame false [.rings, .out] [R.rngWmstat r, R.rngFillmm r] c d)

/-- R276 (RING_ENABLE, RING_DISABLE), R277, R278 (RING_DOORBELL), R281 (RING_HEAD_WRITE), R280 (DESCRIPTOR_FETCH), R286, R291
(MOD_WINDOW_END), R305 (WICKET_DOORBELL): enabling a ring resets its indices; a bad configuration or a doorbell that would shrink the
fill is ignored and flagged; an index moves the fill; the marker of dropped records follows room; HEAD advances once the 64 bytes are
held. A mailbox doorbell queues behind the others; of one arbitration event the lower mailbox number is first (R310); that a doorbell comes in
the event of the one before it is said with the command (log entry 137). Ring frames are stated with EV_EN 0, where no WM_CROSS is posted. -/
def Obligations.Rings : Prop := ∀ (s : State) (r : Fin 512) (v : Word) (ws : List Word) (m : Fin 16) (join : Bool),
  let c := s.hw.ctl
  let en := c.on (F.rngCfgEn r)
  let out := c.on (F.rngCfgDir r)
  let size := c.ringSize r
  let head := c.get (F.rngHeadIdx r)
  let tail := c.get (F.rngTailIdx r)
  let i := v.toNat % 4096
  let rs := c.ring r
  let cpl := cplOf (c.get (F.rngCfgKind r)) ws
  let moves := fun (x : Nat) (fill : Nat) (d : Ctl) => d.get (F.rngFillFill r) = fill % 8192 ∧
    Frame false [.rings] [x, R.rngFill r, R.rngWmstat r, R.dbgSat] c d
  let flags := fun (f : Fld) (d : Ctl) => d.on f = true ∧ Frame false [] [R.rngStat r] c d
  c.running = true →
  (r.val < 448 → en = false → v.getLsbD 0 = true → ringCfgOk v = true → CompletesCtl s (exec (.ringEnable r v) s) (fun d =>
    d.rd (R.rngCfg r) = v &&& ringCfgMask ∧ d.rd (R.rngHead r) = 0 ∧ d.rd (R.rngTail r) = 0 ∧ d.rd (R.rngWmstat r) = 0 ∧
    d.ring r = RingSt.init ∧
    Frame false [.rings] [R.rngCfg r, R.rngHead r, R.rngTail r, R.rngFill r, R.rngWmstat r, R.rngFillmm r] c d)) ∧
  (r.val < 448 → v.getLsbD 0 = true → ringCfgOk v = false → CompletesCtl s (exec (.ringEnable r v) s) (flags (F.rngStatCfgIgn r))) ∧
  (r.val < 448 → en = true → v.getLsbD 0 = false → (v ^^^ c.rd (R.rngCfg r)) &&& 0x003F073E = 0 →
    CompletesCtl s (exec (.ringDisable r v) s) (fun d => d.on (F.rngCfgEn r) = false ∧ (d.ring r).fetched = none ∧
      Frame false [.rings] [R.rngCfg r] c d)) ∧
  (448 ≤ r.val → exec (.ringEnable r v) s = .next s ∧ exec (.ringDisable r v) s = .next s ∧ exec (.ringDoorbell r v) s = .next s ∧
    exec (.ringHeadWrite r v) s = .next s) ∧
  (r.val < 448 → out = false →
    ((size ≤ i ∨ (i + 4096 * size - head) % size < c.ringFill r) → CompletesCtl s (exec (.ringDoorbell r v) s) (flags (F.rngStatDbRej r))) ∧
    (i < size → c.ringFill r ≤ (i + 4096 * size - head) % size →
      (en = true → c.get (F.rngCfgKind r) ≤ 1 → CompletesCtl s (exec (.ringDoorbell r v) s) (fun d => d.get (F.rngTailIdx r) = i ∧
        (c.on (F.rngWmEvEn r) = false → moves (R.rngTail r) ((i + 4096 * size - head) % size) d))) ∧
      (en = false → CompletesCtl s (exec (.ringDoorbell r v) s) (fun d => d.get (F.rngTailIdx r) = i ∧ Frame false [] [R.rngTail r] c d)))) ∧
  (r.val < 448 → out = true → en = true → c.on (F.rngWmEvEn r) = false →
    let fill := (tail + 4096 * size - i) % size
    (rs.dropsSince = 0 → CompletesCtl s (exec (.ringHeadWrite r v) s) (fun d => d.get (F.rngHeadIdx r) = i ∧ moves (R.rngHead r) fill d)) ∧
    (rs.dropsSince ≠ 0 → c.host.linkUp = true → fill + 2 ≤ size → CompletesCtl s (exec (.ringHeadWrite r v) s) (fun d =>
      d.get (F.rngHeadIdx r) = i ∧ (d.ring r).dropsSince = 0 ∧ ∃ w0 ts, fieldGet w0 0 4 = 14 ∧
        Output.hostWrite ((c.rd (R.rngBaseLo r)).toNat + 2 ^ 32 * (c.rd (R.rngBaseHi r)).toNat + 64 * tail) (w0 :: w32 rs.dropsSince :: ts) ∈ d.out))) ∧
  (c.host.linkUp = true → en = true → c.get (F.rngCfgKind r) ≤ 1 → rs.stopped = false → rs.fetched = none → c.ringFill r ≠ 0 →
    CompletesCtl s (exec (.descriptorFetch r .error) s) (fun d => (d.ring r).stopped = true ∧ d.on (F.rngStatErr r) = true ∧
      Frame false [.rings] [R.rngStat r] c d) ∧
    (c.ringKind cpl 2 = true → c.mayTake cpl = false → exec (.descriptorFetch r (.words ws)) s = .next s) ∧
    ((c.ringKind cpl 2 = true → c.mayTake cpl = true) → c.get (F.rngCfgLog2sz r) ≤ 12 → CompletesCtl s (exec (.descriptorFetch r (.words ws)) s) (fun d =>
      (d.ring r).fetched = some ws ∧ d.get (F.rngHeadIdx r) = (head + 1) % size ∧
      (c.on (F.rngWmEvEn r) = false → moves (R.rngHead r) ((tail + 4096 * size - (head + 1) % size) % size) d)))) ∧
  (rs.windowOpen = true →
    (rs.windowPosted = false → CompletesCtl s (exec (.modWindowEnd r) s) (fun d => (d.ring r).windowOpen = false ∧ Frame false [.rings] [] c d)) ∧
    (rs.windowPosted = true → c.on (F.rngCfgIrqEn r) = true → let vec := c.get (F.rngCfgVec r)
      CompletesCtl s (exec (.modWindowEnd r) s) (fun d => (c.host.linkUp = true → vec ∈ c.host.msixWritten → (c.rd (R.msix vec 3)).getLsbD 0 = false →
        .msix vec ((c.rd (R.msix vec 0)).toNat + 2 ^ 32 * (c.rd (R.msix vec 1)).toNat) (c.rd (R.msix vec 2)) ∈ d.out) ∧
        (d.ring r).windowOpen = decide (c.get (F.rngCfgMod r) ≠ 0) ∧ Frame true [] [] c d))) ∧
  (v.getLsbD 0 = true → (c.get (F.wktStateState m) = 0 ∨ c.get (F.wktStateState m) = 3) → CompletesCtl s (exec (.wicketDoorbell m v join) s) (fun d =>
    d.get (F.wktStateState m) = 1 ∧ Frame false [.host] [R.wktState m] c d ∧
    (join = false → d.host = { c.host with doorbells := c.host.doorbells ++ [m.val], bellTail := 1 }) ∧
    (∀ l p, c.host.doorbells = l ++ [p] → c.host.bellTail = 1 → join = true →
      d.host = { c.host with doorbells := if m.val ≤ p then l ++ [m.val, p] else l ++ [p, m.val], bellTail := 2 }))) ∧
  (v.getLsbD 0 = true → c.get (F.wktStateState m) ≠ 0 → c.get (F.wktStateState m) ≠ 3 → CompletesCtl s (exec (.wicketDoorbell m v join) s) (fun d =>
    d.on (F.wktStateDbIgn m) = true ∧ Frame false [] [R.wktState m] c d)) ∧
  (v.getLsbD 0 = false → exec (.wicketDoorbell m v join) s = .next s)

/-- R280, R283, Tables 9.4 … 9.6 (JOB_SUBMIT), R233, R285 (JOB_COMPLETE), R203, R284 (DMA_SUBMIT, DMA_COMPLETE): a descriptor that names no
enabled completion ring is discarded with ERR; a bad one completes with BAD_ARG; a good job has its batch's items, a good transfer its
credits; a short pool completes with NO_CREDIT; a transfer that ends has moved its bytes, and its one completion is written, a job's with the
energy assigned to its tasks, in µJ (R417). A list or a range in DRAM that is being cleared is waited for (R167). -/
def Obligations.JobsAndDma : Prop := ∀ (s : State) (r : Fin 512) (ws : List Word) (j : Fin 64) (data : List Byte) (ok : Bool),
  let c := s.hw.ctl
  let det := [R.cnpDetCount, R.cnpDetAddr, R.cnpDetSrc]
  let q := fun kind => cplOf kind ws
  let tag := nth 0 ws 1
  let jn := fieldGet (nth 0 ws 0) 8 6
  let args := (List.range 4).map (fun i => nth 0 ws (4 + i))
  let pool := fieldGet (nth 0 ws 7) 0 8
  let want := fieldGet (nth 0 ws 7) 8 16
  let credit := (nth 0 ws 0).getLsbD 5 = true
  let rec8 := fun (kind st : Nat) (dma : Bool) (d : Ctl) => WritesRecord c d (q kind) (cplRec st tag 0 jn dma 0 0) ∧ Frame true [] [] c d
  let takes := fun kind => (c.ring r).fetched = some ws ∧ c.ringKind r kind = true ∧ c.ringKind (q kind) 2 = true ∧ c.mayTake (q kind) = true
  c.running = true →
  (∀ kind < 2, (c.ring r).fetched = some ws → c.ringKind r kind = true → c.ringKind (q kind) 2 = false →
    CompletesCtl s (exec (if kind = 0 then .jobSubmit r else .dmaSubmit r) s) (fun d => d.on (F.rngStatErr r) = true ∧ (d.ring r).fetched = none ∧
      Frame false [.rings] [R.rngStat r] c d)) ∧
  (c.listBusy ws = true → (c.ring r).fetched = some ws → exec (.jobSubmit r) s = .next s) ∧
  (takes 0 → c.listBusy ws = false →
    (descOk 0 ws = false ∨ c.img.cur = none ∨ (c.job jn).isSome = true → CompletesCtl s (exec (.jobSubmit r) s) (fun d => rec8 0 stBadArg false d)) ∧
    (∀ (im : Image) (b : BatchRec), c.img.cur = some im → im.batches[fieldGet (nth 0 ws 2) 0 16]? = some b → c.job jn = none →
      descOk 0 ws = true →
      (c.listFits b = false → CompletesCtl s (exec (.jobSubmit r) s) (fun d => rec8 0 stBadArg false d)) ∧
      (c.listFits b = true → CompletesCtl s (exec (.jobSubmit r) s) (fun d =>
        let items := batchItems im b jn args (if b.form = 2 then s.hw.mem.rdN (c.hKey b.list 0) (60 * b.n) else [])
        (∃ jb, d.job jn = some jb ∧ jb.tag = tag ∧ jb.cplRing = q 0 ∧ jb.items = items ∧ jb.total = b.n ∧ jb.started = 0 ∧ jb.cancelled = false) ∧
        (∀ i, i ≠ jn → d.job i = c.job i) ∧ mget 0 d.fab.reruns (0x40 + jn) = 0 ∧
        d.fab = { c.fab with reruns := d.fab.reruns, rerunBusy := d.fab.rerunBusy, repairs := d.fab.repairs } ∧
        Frame true [.jobs, .host, .fab, .cnp] (det ++ lcRegs) c d ∧ (b.form ≠ 2 → Frame false [.jobs, .host, .rings, .fab] [] c d))))) ∧
  (takes 1 →
    (c.dmaBad ws = true → CompletesCtl s (exec (.dmaSubmit r) s) (fun d => rec8 1 stBadArg true d)) ∧
    (c.dmaBad ws = false → credit → c.get (F.chnCpCountFree pool) < want → CompletesCtl s (exec (.dmaSubmit r) s) (fun d =>
      rec8 1 stNoCredit true d)) ∧
    (c.dmaBad ws = false → (credit → want ≤ c.get (F.chnCpCountFree pool)) → CompletesCtl s (exec (.dmaSubmit r) s) (fun d =>
      (∃ t, d.host.dmas = c.host.dmas ++ [t] ∧ t.tag = tag ∧ t.cplRing = q 1 ∧ t.len = (nth 0 ws 6).toNat ∧ t.toHost = (nth 0 ws 0).getLsbD 4 ∧
        t.key = c.hKey (fieldGet (nth 0 ws 4) 0 8) (nth 0 ws 5).toNat ∧ t.haddr = (nth 0 ws 2).toNat + 2 ^ 32 * (nth 0 ws 3).toNat) ∧
      (credit → d.get (F.chnCpCountFree pool) + want = c.get (F.chnCpCountFree pool)) ∧
      Frame false [.dmas, .host, .rings] (if (nth 0 ws 0).getLsbD 5 then [R.chnCpCount pool] else []) c d))) ∧
  (∀ jb, c.job j = some jb → jb.over = true → CompletesCtl s (exec (.jobComplete j) s) (fun d => d.job j = none ∧ (∀ i, i ≠ j.val → d.job i = c.job i) ∧
    (jb.silent = false → c.ringKind jb.cplRing 2 = true → let e := c.energyOf ((0x40 + j) * 2 ^ 32)
      WritesRecord c d jb.cplRing (cplRec jb.status jb.tag jb.doneItems j false (w32 (microJ (e.1 + e.2))) 0)) ∧
    Frame true [.jobs, .host, .pwr, .fab] [] c d)) ∧
  (∀ t, c.host.dmas.find? (fun d => d.id == t.id) = some t →
    (c.on (F.cnpHtW0Busy t.handle) = true → exec (.dmaComplete t.id data ok) s = .next s) ∧
    (c.on (F.cnpHtW0Busy t.handle) = false → t.cr = none → c.ringKind t.cplRing 2 = true →
      Completes (exec (.dmaComplete t.id data ok) s) (fun u => let d := u.hw.ctl
        let n := if ok then t.len else min t.len data.length
        u.pending = s.pending ∧ (∀ x ∈ d.host.dmas, x.id ≠ t.id) ∧
        (t.toHost = true → u.hw.mem = s.hw.mem ∧ (n ≠ 0 → .hostBytes t.haddr (s.hw.mem.rdN t.key n) ∈ d.out)) ∧
        (t.toHost = false → (∀ i < n, u.hw.mem.rd (t.key + i) = nth 0 data i) ∧
          ∀ a, (a < t.key ∨ t.key + n ≤ a) → u.hw.mem.rd a = s.hw.mem.rd a) ∧
        WritesRecord c d t.cplRing (cplRec (if ok then stOk else stLinkDown) t.tag 0 t.job true 0 n) ∧
        Frame true [.dmas, .cnp, .fab] (R.cnpClrPending :: det ++ lcRegs) c d)))

/-- R293, R284 (DL_DOWN, DL_UP, LINK_RECOVERY), R272 (FLR, HOT_RESET) and R268, R269, Table 9.1 of the configuration header: a link that goes
down ends every transfer with LINK_DOWN and holds the completions; bytes that had moved, which the command names, stay moved and are reported; a
link the endpoint cannot train to (R267) does not come up; up again, the held records go out first; recovery only counts. A reset of the function revokes every aperture grant, cancels every job
in silence, and puts rings 0 … 447, the MSI-X table and the global registers back at reset; the rest goes on. -/
def Obligations.LinkAndResets : Prop := ∀ (s : State) (speed lanes : Fin 5) (hot : Bool) (moved : List (Nat × List Byte)),
  let c := s.hw.ctl
  let h := c.host
  let det := [R.cnpDetCount, R.cnpDetAddr, R.cnpDetSrc]
  let bytes := fun t : Dma => match moved.find? (fun p => p.1 == t.id) with
    | some p => p.2
    | none => []
  let got := fun t : Dma => min t.len (bytes t).length
  let trains := (1 ≤ speed.val ∧ speed.val ≤ 4) ∧ (lanes.val = 1 ∨ lanes.val = 2 ∨ lanes.val = 4)
  let ev := [R.glbLinkEvt, R.dbgSat]
  (h.linkUp = true → Completes (exec (.dlDown moved) s) (fun u => let d := u.hw.ctl
    u.pending = s.pending ∧ d.host.linkUp = false ∧ d.host.dmas = [] ∧ Counts c d F.glbLinkEvtDldown ∧
    (∀ t ∈ h.dmas, c.ringKind t.cplRing 2 = true → (t.cplRing, cplRec stLinkDown t.tag 0 t.job true 0 (got t)) ∈ d.host.queue) ∧
    ((∀ t ∈ h.dmas, t.toHost = true) → u.hw.mem = s.hw.mem) ∧
    (∀ t, h.dmas = [t] → t.toHost = false → (∀ i < got t, u.hw.mem.rd (t.key + i) = nth 0 (bytes t) i) ∧
      ∀ a, (a < t.key ∨ t.key + got t ≤ a) → u.hw.mem.rd a = s.hw.mem.rd a) ∧
    Frame true [.link, .dmas, .cnp, .fab] (R.cnpClrPending :: ev ++ det ++ lcRegs) c d)) ∧
  (h.linkUp = false → exec (.dlDown moved) s = .next s) ∧
  (¬trains → exec (.dlUp speed lanes) s = .next s) ∧
  ((c.cfgRead 0x00).toNat = 0x72001F6B ∧ (c.cfgRead 0x08).toNat = 0x04800000 + fieldGet (c.rd R.glbIdent) 0 8 ∧
    c.cfgRead 0x10 &&& 0x03FFFFFF = 4 ∧ c.cfgRead 0x18 &&& 0x0FFFFFFF = 0xC ∧ c.cfgRead 0x20 = 0 ∧ c.cfgRead 0x24 = 0) ∧
  (c.running = true → c.boot.epReleased = true → c.boot.perstN = true → h.linkUp = false → trains → CompletesCtl s (exec (.dlUp speed lanes) s) (fun d =>
    d.host.linkUp = true ∧ d.host.queue = [] ∧ d.get F.glbPcieSpeed = speed ∧ d.get F.glbPcieWidth = lanes ∧
    (∀ r ws rest, h.queue = (r, ws) :: rest → r < 512 → c.on (F.rngCfgEn r) = true →
      WritesRecord { c with host := { h with linkUp := true } } d r ws) ∧
    Frame true [.link] [R.glbPcie] c d)) ∧
  (h.linkUp = true → CompletesCtl s (exec .linkRecovery s) (fun d => Counts c d F.glbLinkEvtRetrain ∧ Frame false [] ev c d)) ∧
  (c.running = true → CompletesCtl s (exec (if hot then .hotReset else .flr) s) (fun d =>
    (∀ e < 256, c.on (F.cnpHtW0Valid e) = true → c.get (F.cnpHtW0Owner e) = 0x80 → c.on (F.cnpHtW0Target e) = false →
      c.hBase e + c.hSize e ≤ c.canopySpace → d.on (F.cnpHtW0Valid e) = false ∧ (canopyKey (c.hBase e), c.hSize e) ∈ d.cnp.revoked) ∧
    (∀ e < 256, (c.on (F.cnpHtW0Valid e) = false ∨ c.get (F.cnpHtW0Owner e) ≠ 0x80) → d.rd (R.cnpHtW0 e) = c.rd (R.cnpHtW0 e)) ∧
    (∀ j < 64, ∀ jb, c.job j = some jb → d.job j = some { jb with items := [], cancelled := true, silent := true } ∧
      ∀ k, ∀ t ∈ mget [] d.fab.queues k, t.owner ≠ 0x40 + j) ∧
    (∀ a, (a < 0x10000 ∨ (0x20000 ≤ a ∧ a < 0x20000 + 0x40 * 448)) → d.rd a = regReset a) ∧
    (∀ r < 448, d.ring r = RingSt.init) ∧ (∀ r, 448 ≤ r → d.ring r = c.ring r) ∧ d.host.msixWritten = [] ∧ d.glbTime = 0 ∧ d.host.pcie = {} ∧
    (∀ a, 0x10000 ≤ a → (a < 0x20000 ∨ 0x20000 + 0x40 * 448 ≤ a) → (a < 0x101000 ∨ 0x101000 + 0x10 * 256 ≤ a) → a ≠ R.cnpStatus →
      d.rd a = c.rd a) ∧
    ∀ p, p ∉ [Part.jobs, .fab, .cnp, .rings, .host, .link] → p.Same c d))

/-! The management port (09_host_and_management.md). -/

/-- R294, R295 (IDENT, HEALTH, TEMP, RAIL, BOOT, ALERT, ALERT_MASK, ALERT_RESPONSE): each reading is answered from the registers; reading ALERT
clears it; the alert response address answers while an unmasked bit is 1; a wrong PEC, and a command code that Table 9.9 does not have, is
answered with a NACK and has no effect; another address is not the port's. A response ends with its PEC, over the bytes that SMBus names (log
entry 119). Where the hottest reading is no whole number of degrees, HEALTH shows one of its neighbours (log entry 50). -/
def Obligations.ManagementReadings : Prop := ∀ (s : State) (i r code : Byte) (u : BitVec 16) (m : Word) (at7 : BitVec 7),
  let c := s.hw.ctl
  let addr := 0x58 + c.get F.phcStrapsMgmtAddr
  let pec := fun (code : Nat) (sent bs : List Byte) =>
    crc8 ([byteOf (2 * addr), byteOf code] ++ sent ++ [byteOf (2 * addr + 1), byteOf bs.length] ++ bs)
  let tells := fun (code : Nat) (req bs : List Byte) (d : Ctl) =>
    d.out = c.out ++ [.smbus (bs ++ [pec code (if req = [] then [] else byteOf req.length :: req) bs])] ∧ Frame false [.out] [] c d
  let nack := fun (k : Instr) => CompletesCtl s (exec k s) (fun d => d.out = c.out ++ [.smbusNack] ∧ Frame false [.out] [] c d)
  let shut := fun t => c.on (F.phcShutClosed t)
  let held := fun t => c.on (F.phcShutHold t) && c.get (F.phcShutCause t) != 2
  let flags := bit (c.on F.phcThermStatusTrip) + 2 * bit (shut 0 || shut 1) + 4 * bit (c.get F.wktFwFwstate == 1) + 8 * bit c.anyOut +
    16 * bit (held 0 || held 1 || c.on F.phcCeilAuthHold || c.get F.phcStdHoldStand != 0)
  let q := toSigned 16 (c.get F.phcThermStatusHottest)
  c.running = true →
  (at7.toNat = addr → code = 1 → CompletesCtl s (exec (.ident at7 code) s) (tells 0x01 [] (toBytes 4 (c.rd R.glbIdent).toNat))) ∧
  (at7.toNat = addr → code.toNat ∉ [0x01, 0x02, 0x03, 0x04, 0x10, 0x20, 0x21, 0x22, 0x30, 0x31] → nack (.ident at7 code)) ∧
  (at7.toNat ≠ addr → exec (.ident at7 code) s = .next s) ∧
  CompletesCtl s (exec .health s) (fun d => ∃ hot : Int, 4 * hot - 4 ≤ q ∧ q < 4 * hot + 4 ∧ (q % 4 = 0 → 4 * hot = q) ∧
    let bs := [byteOf flags, byteOf (ofSigned 8 hot)] ++ toBytes 2 (c.get F.phcGovStatusSetMv) ++ toBytes 2 (c.get F.phcPkgPower) ++
      toBytes 2 c.diag.alert.toNat
    d.out = c.out ++ [.smbus (bs ++ [pec 0x02 [] bs])] ∧ Frame false [.out, .free] [] c d) ∧
  CompletesCtl s (exec (.temp true i) s) (tells 0x03 [i] (
    if i = 255 then byteOf stOk :: byteOf (c.get F.phcThermStatusSensor) :: toBytes 2 (c.get F.phcThermStatusHottest)
    else if i.toNat < 24 then byteOf stOk :: i :: toBytes 2 (c.get (F.phcTempNow i.toNat)) else [byteOf stBadArg, i, 0, 0])) ∧
  CompletesCtl s (exec (.rail true r) s) (tells 0x04 [r] (
    if r.toNat < 7 then byteOf stOk :: toBytes 2 (c.get (F.phcRailMeasMv r.toNat)) ++ toBytes 2 (c.get (F.phcRailMeasMa r.toNat))
    else [byteOf stBadArg, 0, 0, 0, 0])) ∧
  CompletesCtl s (exec (.unitRead true u) s) (tells 0x20 (toBytes 2 u.toNat) (match unitReg u.toNat with
    | some a => byteOf stOk :: toBytes 4 (c.rd a).toNat
    | none => [byteOf stBadArg, 0, 0, 0, 0])) ∧
  CompletesCtl s (exec .boot s) (tells 0x22 [] (toBytes 4 (c.rd R.phcBootCause).toNat ++ toBytes 4 (c.rd R.phcBootStatus).toNat ++
    toBytes 4 (c.rd R.wktFw).toNat)) ∧
  CompletesCtl s (exec .alert s) (fun d => let bs := toBytes 4 c.diag.alert.toNat
    d.out = c.out ++ [.smbus (bs ++ [pec 0x30 [] bs])] ∧ d.diag = { c.diag with alert := 0 } ∧
    Frame false [.out, .log] [] c d) ∧
  CompletesCtl s (exec (.alertMask true m) s) (fun d => d.diag = { c.diag with alertMask := m } ∧ Frame false [.log] [] c d) ∧
  (c.diag.alert &&& c.diag.alertMask ≠ 0 → CompletesCtl s (exec (.alertResponse 0x0C) s) (fun d => let b := byteOf (2 * addr)
    d.out = c.out ++ [.smbus [b, crc8 [0x19, b]]] ∧ Frame false [.out] [] c d)) ∧
  (c.diag.alert &&& c.diag.alertMask = 0 ∨ at7 ≠ 0x0C → exec (.alertResponse at7) s = .next s) ∧
  nack (.temp false i) ∧ nack (.rail false r) ∧ nack (.unitRead false u) ∧ nack (.alertMask false m)

/-- R301 whole, and of R84, R298, R299, R300, R423, R425 what CEIL, UNIT_REQ_HOLD_OFF, UNIT_REQ_CLOSE and UNIT_REQ_RELEASE do: an applied request is logged,
counted in APPLIED, signalled on vector 16 and answered with the unit's new EPOCH; one with a stale EXP_EPOCH or an action the unit does not
have is refused, counted in REFUSED and changes nothing; a response ends with its PEC (log entry 119). The refusals of a REASON above 2 and of a stand in passing states are the model's (log
entry 51), and so is CEIL's ACTION in the log (log entry 50). -/
def Obligations.ManagementRequests : Prop := ∀ (s : State) (check : Bool) (reason : Byte) (exp mv : BitVec 16) (ck : Byte) (n : Fin 17) (t : Fin 2)
    (u : BitVec 16) (act : BitVec 7),
  let c := s.hw.ctl
  let addr := 0x58 + c.get F.phcStrapsMgmtAddr
  let ceilReq := toBytes 2 mv.toNat ++ [reason] ++ toBytes 2 exp.toNat ++ [ck]
  let unitReq := fun (u : Nat) (a : Byte) => toBytes 2 u ++ [a, reason] ++ toBytes 2 exp.toNat
  let answer := fun (code : Nat) (req bs : List Byte) => Output.smbus (bs ++ [crc8 ([byteOf (2 * addr), byteOf code, byteOf req.length] ++ req ++
    [byteOf (2 * addr + 1), byteOf bs.length] ++ bs)])
  let stale := fun (u : Nat) => check = true ∧ exp.toNat ≠ c.epochOf u
  let stand := 0x100 + n.val
  let shut := 0x300 + t.val
  let unit := fun x : Nat => BitVec.ofNat 16 x
  let hold := if reason = 0 then c.get (F.phcShutHold t) else 1
  let count := [R.phcMgmtCnt, R.dbgSat]
  let refused := fun (code : Nat) (req : List Byte) (u st : Nat) (d : Ctl) => Counts c d F.phcMgmtCntRefused ∧
    answer code req (byteOf st :: toBytes 2 (c.epochOf u)) ∈ d.out ∧ Frame true [] count c d
  let refuse := fun (a u st : Nat) => refused 0x21 (unitReq u (byteOf (a + 128 * bit check))) u st
  let applied := fun (u act : Nat) (parts : List Part) (regs : List Nat) (d : Ctl) => d.get F.phcAuthLogUnit = u ∧ (act ≠ 0 → d.get F.phcAuthLogAction = act) ∧
    d.get F.phcAuthLogReason = reason.toNat ∧ Counts c d F.phcMgmtCntApplied ∧ Signals c d 16 ∧
    answer (if act = 0 then 0x10 else 0x21) (if act = 0 then ceilReq else unitReq u (byteOf (act + 128 * bit check)))
      (byteOf stOk :: toBytes 2 (d.epochOf u)) ∈ d.out ∧ Frame true parts (R.phcAuthLog :: count ++ regs) c d
  let govRegs := [R.phcCeilAuth, R.phcGovCeil, R.phcGovStatus, R.phcGovFloor]
  c.running = true →
  (∀ k ∈ [Instr.ceil false mv reason exp ck, .unitReqHoldOff false u act check reason exp, .unitReqClose false u check reason exp,
    .unitReqRelease false u check reason exp], CompletesCtl s (exec k s) (fun d => d.out = c.out ++ [.smbusNack] ∧ Frame false [.out] [] c d)) ∧
  (2 < reason.toNat → CompletesCtl s (exec (.ceil true mv reason exp ck) s) (refused 0x10 ceilReq 0x400 stBadArg)) ∧
  ((∀ n < 17, u.toNat ≠ 0x100 + n) → (∀ t < 2, u.toNat ≠ 0x300 + t) → (act = 2 → u ≠ 0x400) →
    CompletesCtl s (exec (.unitReqHoldOff true u act check reason exp) s) (refuse act.toNat u.toNat stBadArg) ∧
    CompletesCtl s (exec (.unitReqClose true u check reason exp) s) (refuse 1 u.toNat stBadArg)) ∧
  (2 < reason.toNat ∨ (act ≠ 1 ∧ act ≠ 2) → CompletesCtl s (exec (.unitReqHoldOff true u act check reason exp) s) (refuse act.toNat u.toNat stBadArg)) ∧
  (2 < reason.toNat → CompletesCtl s (exec (.unitReqClose true u check reason exp) s) (refuse 1 u.toNat stBadArg)) ∧
  (((∀ n < 17, u.toNat ≠ 0x100 + n) ∧ (∀ t < 2, u.toNat ≠ 0x300 + t) ∧ u ≠ 0x400) ∨ 2 < reason.toNat → CompletesCtl s (exec (.unitReqRelease true u check reason exp) s) (refuse 2 u.toNat stBadArg)) ∧
  exec (.unitReqHoldOff true u 1 check reason exp) s = exec (.unitReqClose true u check reason exp) s ∧
  exec (.unitReqHoldOff true u 2 check reason exp) s = exec (.unitReqRelease true u check reason exp) s ∧
  (reason.toNat ≤ 2 → ((∃ n < 17, u.toNat = 0x100 + n) ∨ (∃ t < 2, u.toNat = 0x300 + t) ∨ u = 0x400) → stale u.toNat → CompletesCtl s (exec (.unitReqRelease true u check reason exp) s)
    (refuse 2 u.toNat stRevoked)) ∧
  (reason.toNat ≤ 2 → ck.getLsbD 0 = true → exp.toNat ≠ c.epochOf 0x400 → CompletesCtl s (exec (.ceil true mv reason exp ck) s) (refused 0x10 ceilReq 0x400 stRevoked)) ∧
  (reason.toNat ≤ 2 → stale stand → CompletesCtl s (exec (.unitReqHoldOff true (unit stand) 1 check reason exp) s) (refuse 1 stand stRevoked)) ∧
  (reason.toNat ≤ 2 → stale shut → CompletesCtl s (exec (.unitReqClose true (unit shut) check reason exp) s) (refuse 1 shut stRevoked) ∧
    CompletesCtl s (exec (.unitReqRelease true (unit shut) check reason exp) s) (refuse 2 shut stRevoked)) ∧
  (reason.toNat ≤ 2 → (ck.getLsbD 0 = true → exp.toNat = c.epochOf 0x400) → CompletesCtl s (exec (.ceil true mv reason exp ck) s) (fun d =>
    d.get F.phcCeilAuthMv = min 900 (max 600 mv.toNat) ∧ d.get F.phcGovCeilMgmtMv = min 900 (max 600 mv.toNat) ∧
    d.on F.phcCeilAuthHold = (if reason = 0 then c.on F.phcCeilAuthHold else true) ∧ d.get F.phcCeilAuthReason = reason.toNat ∧
    applied 0x400 0 [.pwr] govRegs d)) ∧
  (reason.toNat ≤ 2 → ¬stale 0x400 → CompletesCtl s (exec (.unitReqRelease true 0x400 check reason exp) s) (fun d =>
    d.get F.phcCeilAuthMv = 900 ∧ d.get F.phcGovCeilMgmtMv = 900 ∧ d.on F.phcCeilAuthHold = false ∧ applied 0x400 2 [.pwr] govRegs d)) ∧
  (reason.toNat ≤ 2 → ¬stale shut →
    CompletesCtl s (exec (.unitReqClose true (unit shut) check reason exp) s) (fun d => d.on (F.phcShutClosed t) = true ∧
      d.get (F.phcShutHold t) = hold ∧ d.get (F.phcShutReason t) = reason.toNat ∧ (c.on (F.phcShutClosed t) = false → d.get (F.phcShutCause t) = 1) ∧
      applied shut 1 [] [R.phcShut t] d) ∧
    (c.on F.phcThermStatusTrip = true → c.get (F.phcShutCause t) = 2 →
      CompletesCtl s (exec (.unitReqRelease true (unit shut) check reason exp) s) (refuse 2 shut stRevoked)) ∧
    (c.on F.phcThermStatusTrip = false → CompletesCtl s (exec (.unitReqRelease true (unit shut) check reason exp) s) (fun d =>
      d.on (F.phcShutHold t) = false ∧ d.get (F.phcShutClosed t) = c.get (F.phcShutClosed t) ∧ applied shut 2 [] [R.phcShut t] d))) ∧
  (reason.toNat ≤ 2 → ¬stale stand → let st := c.get (F.stdStateState n)
    let off := CompletesCtl s (exec (.unitReqHoldOff true (unit stand) 1 check reason exp) s)
    (st = 0 → off (fun d => tbit (d.get F.phcStdHoldStand) n = true ∧ applied stand 1 [] [R.phcStdHold] d)) ∧
    (st = 1 → off (fun d => tbit (d.get F.phcStdHoldStand) n = true ∧ d.get (F.stdStateState n) = 0 ∧ mget 0 d.pwr.standOff n ≠ 0 ∧
      applied stand 1 [.pwr] (R.phcStdHold :: standRegs) d)) ∧
    (st = 3 → (∃ e < 17, e ≠ n.val ∧ c.get (F.stdStateState e) = 1) → off (fun d => n.val ∈ d.pwr.holdPend ∧ applied stand 1 [.pwr] [R.phcRotStatus] d)) ∧
    (st = 3 → (∀ e < 17, e ≠ n.val → c.get (F.stdStateState e) ≠ 1) → off (refuse 1 stand stBusyRaster)) ∧
    (st ≠ 0 → st ≠ 1 → st ≠ 3 → off (refuse 1 stand stBusyRaster)) ∧
    CompletesCtl s (exec (.unitReqRelease true (unit stand) check reason exp) s) (fun d => tbit (d.get F.phcStdHoldStand) n = false ∧
      n.val ∉ d.pwr.holdPend ∧ applied stand 2 [.pwr] [R.phcStdHold] d))

/-! Warden commands (10_warden_commands.md). -/

/-- R303, R306, R310 (MAILBOX_TAKE, COMMAND_COMPLETE), and R307, R309, R318, R379 for every command: the mailbox whose doorbell came first is
taken; an unknown OPCODE is answered BAD_ARG; an answer is published in the response words before DONE, with the vector; in recovery mode only
Table 10.8's commands run; an undefined bit that is 1 is BAD_ARG, a stale EXP_EPOCH is REVOKED, and a secondary refuses the primary's commands. The order of these
checks is the model's. -/
def Obligations.WardenMailboxes : Prop := ∀ (s : State) (m : Fin 16) (ws : List Word) (h : Fin 256) (base : Nat) (fw : FwImage) (im : Image)
    (pages : List (List Byte)) (half : Option Nat) (trace : List Byte) (ok p q : Bool) (partner : Option IdentRec),
  let c := s.hw.ctl
  let plain : List (Nat × Instr) := [(0x0001, .getInfo m), (0x0002, .fwStage m fw ok), (0x0003, .fwActivate m p), (0x0201, .imageLoad m im ok),
    (0x0203, .imageDrop m), (0x0204, .imageInfo m), (0x0301, .handleAlloc m h base), (0x0303, .jobCancel m), (0x0304, .schedFit m), (0x0401, .modeSet m partner),
    (0x0402, .standby m), (0x0501, .powerTarget m), (0x0502, .powerGet m), (0x0601, .calRead m ok), (0x0602, .calWrite m pages ok half), (0x0603, .calInfo m),
    (0x0703, .rotationCfg m), (0x0801, .pairRole m p), (0x0802, .pairSwap m p q ok), (0x0803, .pairStatus m), (0x0901, .counterSnap m ok),
    (0x0A01, .dbgSnapshot m trace ok), (0x0A02, .dbgLog m)]
  let ctx : List (Nat × Instr) := [(0x0101, .streamSetup m h base), (0x0102, .streamRelease m), (0x0103, .streamQuery m), (0x0105, .scenePlan m),
    (0x0503, .energyCfg m)]
  let other : List (Nat × Instr) := [(0x0104, if fieldGet (reqArg ws 0) 8 2 = 2 then .shutterOpen m none else .shutterClose m none), (0x0202, .imagePromote m ok),
    (0x0106, if fieldGet (reqArg ws 0) 8 2 = 2 then .sceneDecideCancel m else .sceneDecideConfirm m ok), (0x0302, .handleFree m),
    (0x0701, .bistRun m), (0x0702, .bistResults m)]
  let refuses := fun (k : Instr) (st detail : Nat) => CompletesCtl s (exec k s) (fun d => Answered c d m ws st detail [] ∧ Frame true [.mail] [] c d)
  let fwst := c.get F.wktFwFwstate
  let bits := reqDefined ws ((argMasks ws).getD [])
  let obj := reqObj ws
  let stale := (nth 0 ws 0).getLsbD 24 = true ∧ hasEpoch obj = true ∧ fieldGet (nth 0 ws 1) 0 16 ≠ c.epochOf obj
  let req := (List.range 16).map (fun i => c.rd (R.wktReq m i))
  let doors := c.host.doorbells
  (∀ rest, c.running = true → fwst ≠ 0 → doors = m.val :: rest → CompletesCtl s (exec (.mailboxTake m) s) (fun d =>
    d.get (F.wktStateState m) = 2 ∧ d.get (F.wktStateSeq m) = fieldGet (nth 0 req 0) 16 8 ∧ d.host.doorbells = rest ∧
    d.host.takeOrder = c.host.takeOrder ++ [m.val] ∧
    d.taken m = some ⟨req, if (argMasks req).isNone then some (stBadArg, 1, 0, []) else none, false⟩ ∧ (∀ x, x ≠ m.val → d.taken x = c.taken x) ∧
    Frame false [.mail, .host] [R.wktState m] c d)) ∧
  ((c.running = false ∨ fwst = 0 ∨ doors.head? ≠ some m.val) → exec (.mailboxTake m) s = .next s) ∧
  (∀ st detail ep res b, c.running = true → c.taken m = some ⟨ws, some (st, detail, ep, res), b⟩ → c.fwdPending ws = false →
    CompletesCtl s (exec (.commandComplete m) s) (fun d => d.get (F.wktStateState m) = 3 ∧ d.taken m = none ∧
      d.rd (R.wktRsp m 0) = (nth 0 ws 0 &&& 0x00FFFFFF) ||| w32 (2 ^ 24 * st) ∧ d.rd (R.wktRsp m 1) = w32 (ep % 65536 + 65536 * detail) ∧
      (∀ i < 14, d.rd (R.wktRsp m (i + 2)) = nth 0 res i) ∧ (∀ x, x ≠ m.val → d.taken x = c.taken x) ∧
      (c.on (F.wktCtrlIrqEn m) = true → Signals c d m) ∧ (c.on (F.wktCtrlIrqEn m) = false → d.out = c.out) ∧
      Frame true [.mail, .host] (R.wktState m :: (List.range 16).map (R.wktRsp m)) c d)) ∧
  ((c.taken m = none ∨ ∃ b, c.taken m = some ⟨ws, none, b⟩) → exec (.commandComplete m) s = .next s) ∧
  (Waits c m ws → c.pwr.bist = none → c.img.promote = none → ∀ k ∈ plain ++ ctx ++ other, reqOp ws = k.1 →
    (k.1 = 0x0301 → c.allocWaits m h = false) →
    (fwst = 2 → recoveryOps.contains k.1 = false → refuses k.2 stAuthFail 3) ∧
    (fwst = 1 ∨ (fwst = 2 ∧ recoveryOps.contains k.1 = true) → bits = false → refuses k.2 stBadArg 2) ∧
    (fwst = 1 → bits = true → (k ∈ plain ∨ (k ∈ ctx ∧ fieldGet (reqArg ws 0) 0 5 < 24)) →
      (stale → refuses k.2 stRevoked 1) ∧ (¬stale → c.secRefuses k.1 = true → refuses k.2 stBadArg 8)))

/-- Table 10.7 with R317, R327, R329, R375, R376, R378, R411, R416, R426, R460, R495, R498 (GET_INFO, FW_STAGE, FW_ACTIVATE, CAL_READ, CAL_WRITE,
CAL_INFO, POWER_TARGET, POWER_GET, ENERGY_CFG, ROTATION_CFG, STANDBY, MODE_SET, PAIR_ROLE, PAIR_SWAP, PAIR_STATUS, BIST_RUN, BIST_RESULTS, COUNTER_SNAP,
DBG_SNAPSHOT, DBG_LOG): what each does to the part and answers, once no shared check refuses it. -/
def Obligations.WardenSystem : Prop := ∀ (s : State) (m : Fin 16) (ws : List Word) (fw : FwImage) (pages : List (List Byte)) (half : Option Nat) (trace : List Byte)
    (ok up answers synced : Bool) (partner : Option IdentRec),
  let c := s.hw.ctl
  let a := reqArg ws
  let can := fun (op : Nat) (k : Instr) (P : Ctl → Prop) => Starts c m op ws → CompletesCtl s (exec k s) P
  let tells := fun (st detail : Nat) (res : List Word) (d : Ctl) => Answered c d m ws st detail res ∧ Frame false [.mail] [] c d
  let does := fun (res : List Word) (parts : List Part) (regs : List Nat) (d : Ctl) => Answered c d m ws stOk 0 res ∧ Frame false (.mail :: parts) regs c d
  let link := ok = true ∧ c.host.linkUp = true
  let first := fieldGet (a 0) 0 6
  let count := fieldGet (a 0) 8 6 + 1
  let x := fieldGet (a 0) 0 5
  let at64 := hostAddr ws 0 % 64 = 0
  let lim := fieldGet (a 0) 0 12
  let (lo, hi) := (fieldGet (a 1) 0 10, fieldGet (a 1) 16 10)
  let bounds := 100 ≤ lim ∧ lim ≤ 400 ∧ 600 ≤ lo ∧ lo ≤ 900 ∧ 600 ≤ hi ∧ hi ≤ 900
  let role := fieldGet (a 0) 0 2
  let peer := up = true ∧ c.linkIsUp 0 = true
  let other := 3 - c.get F.hngPairStatusRole
  let old := fw.release < fieldGet (c.rd R.wktFw) 0 16
  let id := fun (im : Option Image) => match im with
    | some i => i.id
    | none => 0
  can 0x0001 (.getInfo m) (tells stOk 0 [w32 (fieldGet (c.rd R.wktFw) 0 16), c.rd R.glbIdent, w32 (1 + 4 * bit c.boot.staged.isSome),
    id c.img.cur, id c.img.shadow]) ∧
  (at64 → (a 2).toNat ≤ 0x00400000 → link → FwImage.authentic c.boot.keyDigest fw = true → 256 + fw.length ≤ (a 2).toNat → ¬old → can 0x0002 (.fwStage m fw ok) (fun d =>
    d.boot.staged = some c.otherSlot ∧ mget none d.boot.slots c.otherSlot = some fw ∧ d.host.epFw = c.host.epFw + 1 ∧
    does [w32 fw.release] [.boot, .host] [] d)) ∧
  (at64 → (a 2).toNat ≤ 0x00400000 → link → (FwImage.authentic c.boot.keyDigest fw = false ∨ (a 2).toNat < 256 + fw.length) → can 0x0002 (.fwStage m fw ok) (fun d =>
    d.boot.staged ≠ some c.otherSlot ∧ Answered c d m ws stAuthFail 1 [] ∧ Frame false [.mail, .boot] [] c d)) ∧
  (¬at64 ∨ 0x00400000 < (a 2).toNat → can 0x0002 (.fwStage m fw ok) (tells stBadArg 3 [])) ∧
  (∀ k, c.boot.staged = some k → can 0x0003 (.fwActivate m false) (fun d => d.boot = { c.boot with cfg := c.cfgActivate k false } ∧
    d.host.epFw = c.host.epFw + 1 ∧ ∃ rel, does [rel] [.boot, .host] [] d)) ∧
  (∀ k, c.boot.staged = some k → can 0x0003 (.fwActivate m true) (fun d => d.boot = { c.boot with cfg := c.cfgActivate k true } ∧
    (∀ x y, c.boot.cfg = [x, y] → pickCfg d.boot.cfg = pickCfg c.boot.cfg) ∧ Begun c d m ws ∧ Frame false [.mail, .boot] [] c d)) ∧
  (c.boot.staged = none → can 0x0003 (.fwActivate m up) (tells stBadArg 4 [])) ∧
  (first + count ≤ 64 → hostAddr ws 1 % 64 = 0 → link → can 0x0601 (.calRead m ok) (fun d => let bs := c.calBytes (4096 * first) (4096 * count)
    d.out = c.out ++ [.hostBytes (hostAddr ws 1) bs] ∧ (count = 64 → d.boot.archived = true) ∧ does [crc32 bs, c.storeCrc] [.boot, .out] [] d)) ∧
  (first + count ≤ 64 → hostAddr ws 1 % 64 = 0 → (c.boot.archived = false ∨ a 3 ≠ c.storeCrc) → can 0x0602 (.calWrite m pages ok half) (tells stBadArg 7 [])) ∧
  (0 < first → first + count ≤ 64 → hostAddr ws 1 % 64 = 0 → link → c.boot.archived = true → a 3 = c.storeCrc →
    can 0x0602 (.calWrite m pages ok none) (fun d => (∀ i < count, ∀ j < 4096, mget 0 d.boot.cal (4096 * (first + i) + j) = nth 0 (nth [] pages i) j) ∧
      mget 0 d.boot.cal 6 = 0 ∧ (∀ i, 4096 ≤ i → (i < 4096 * first ∨ 4096 * (first + count) ≤ i) → mget 0 d.boot.cal i = mget 0 c.boot.cal i) ∧
      d.host.epCal = c.host.epCal + 1 ∧ ∃ crc, does [crc] [.boot, .host] [] d) ∧
    (∀ k < count, can 0x0602 (.calWrite m pages ok (some (1 + k))) (fun d => d.calPageOk (first + k) = false ∧ mget 0 d.boot.cal 6 = 0 ∧
      (∀ i < k, ∀ j < 4096, mget 0 d.boot.cal (4096 * (first + i) + j) = nth 0 (nth [] pages i) j) ∧
      (∀ i, 4096 * (first + k + 1) ≤ i → mget 0 d.boot.cal i = mget 0 c.boot.cal i) ∧ Begun c d m ws ∧ Frame false [.mail, .boot, .free] [] c d))) ∧
  can 0x0603 (.calInfo m) (fun d => ∃ flags, tells stOk 0 [c.storeCrc, flags] d) ∧
  (bounds → can 0x0501 (.powerTarget m) (fun d => d.get F.phcPkgLimit = lim ∧ d.get F.phcGovFloorHostMv = lo ∧ d.get F.phcGovCeilHostMv = hi ∧
    d.host.epPower = c.host.epPower + 1 ∧ does [] [.pwr, .host, .out] [R.phcPkg, R.phcGovFloor, R.phcGovCeil, R.phcGovStatus] d)) ∧
  (¬bounds → can 0x0501 (.powerTarget m) (tells stBadArg 3 [])) ∧
  can 0x0502 (.powerGet m) (tells stOk 0 [w32 (c.get F.phcPkgLimit), c.rd R.phcGovFloor, c.rd R.phcGovCeil, c.rd R.phcGovStatus, w32 (c.get F.phcPkgPower)]) ∧
  (x < 24 → can 0x0503 (.energyCfg m) (fun d => d.vc x = { c.vc x with energyOn := (a 0).getLsbD 8 } ∧ (∀ i, i ≠ x → d.vc i = c.vc i) ∧ does [] [.vid] [] d)) ∧
  (fieldGet (a 0) 0 16 = 0 ∨ 60 ≤ fieldGet (a 0) 0 16 → can 0x0703 (.rotationCfg m) (fun d =>
    d.get F.phcRotCfgInterval = (if fieldGet (a 0) 0 16 = 0 then 3600 else fieldGet (a 0) 0 16) ∧ d.host.epRot = c.host.epRot + 1 ∧
    does [] [.host] [R.phcRotCfg, R.phcRotStatus] d)) ∧
  (c.rasterBusy = true → can 0x0402 (.standby m) (tells stBusyRaster 1 []) ∧ can 0x0401 (.modeSet m partner) (tells stBusyRaster 1 [])) ∧
  (c.rasterBusy = false → can 0x0402 (.standby m) (fun d => d.host.epTopo = c.host.epTopo + 1 ∧ does [] [.host] [] d)) ∧
  (c.rasterBusy = false → role ≠ 3 → c.lcEntriesOk role = false → can 0x0401 (.modeSet m partner) (tells stBadArg 3 [])) ∧
  (c.rasterBusy = false → role ≤ 1 → c.lcEntriesOk role = true → c.hng.roleAt = none → can 0x0401 (.modeSet m partner) (fun d => d.mode = role ∧ d.hng.hold391 = decide (role = 1) ∧
    (∀ n < 4, d.get (F.hngStateState n) = (if role = 1 ∧ n < 2 then 1 else 0)) ∧ (role = 1 → ∀ t < 2, d.on (F.phcShutClosed t) = true ∧ d.get (F.phcShutCause t) = 3) ∧
    d.host.epTopo = c.host.epTopo + 1 ∧ Answered c d m ws stOk 0 [])) ∧
  (c.rasterBusy = false → role = 2 → c.lcEntriesOk 2 = true → partner = none → can 0x0401 (.modeSet m partner) (tells stLinkDown 2 [])) ∧
  (∀ r, c.rasterBusy = false → role = 2 → c.lcEntriesOk 2 = true → c.hng.roleAt = none → partner = some r → r.ident = c.rd R.glbIdent →
    r.digest = c.hng.fwDigest → r.mode = 2 → can 0x0401 (.modeSet m partner) (fun d => d.mode = 2 ∧
      d.get (F.hngStateState 0) = 2 ∧ d.get (F.hngStateState 1) = 2 ∧ d.host.epTopo = c.host.epTopo + 1 ∧ Answered c d m ws stOk 0 [])) ∧
  (c.paired = false → can 0x0801 (.pairRole m up) (tells stBadArg 8 []) ∧ can 0x0802 (.pairSwap m up answers synced) (tells stBadArg 8 []) ∧
    can 0x0803 (.pairStatus m) (tells stBadArg 8 [])) ∧
  (c.paired = true → (role = 1 ∨ role = 2) →
    (¬peer → can 0x0801 (.pairRole m up) (tells stLinkDown 2 [])) ∧
    (peer → c.get F.hngPairStatusRole = role → can 0x0801 (.pairRole m up) (tells stOk 0 [])) ∧
    (peer → c.get F.hngPairStatusRole ≠ role → c.anyOut = false → c.hng.roleAt = none → can 0x0801 (.pairRole m up) (fun d => d.get F.hngPairStatusRole = role ∧
      d.get F.hngPairStatusPeerRole = 3 - role ∧ Answered c d m ws stOk 0 [])) ∧
    (peer → c.get F.hngPairStatusRole ≠ role → c.anyOut = true → c.hng.roleAt = none → can 0x0801 (.pairRole m up) (fun d =>
      d.hng.roleAt = some { role := role, cause := 1, mailbox := some m.val, frame := some (c.frameNow + 1) } ∧
      Begun c d m ws ∧ Frame false [.mail, .hng, .out] [] c d))) ∧
  (c.paired = true → peer → answers = true → c.anyOut = true → c.hng.roleAt = none → (if c.isSecondary then c.outputs.all (fun o => tbit (c.get F.hngMirSyncSync) o) else synced) = true →
    can 0x0802 (.pairSwap m up answers synced) (fun d =>
      d.hng.roleAt = some { role := other, cause := 2, mailbox := some m.val, frame := some (c.frameNow + 1) } ∧ Begun c d m ws ∧ Frame false [.mail, .hng, .out] [] c d)) ∧
  (c.paired = true → can 0x0803 (.pairStatus m) (fun d => ∃ ports, tells stOk 0 [w32 (c.get F.hngPairStatusRole + 4 * c.get F.hngPairStatusPeerRole),
    w32 (c.get F.hngHbMiss), ports] d)) ∧
  (c.pwr.bist = none → c.bistTargetOk (fieldGet (a 0) 0 8) (fieldGet (a 0) 16 16) = true →
    ((∀ n < 17, c.get (F.stdStateState n) ≠ 1) → fieldGet (a 0) 0 8 ≠ 18 → can 0x0701 (.bistRun m) (tells stBusyRaster 3 [])) ∧
    ((∃ n < 17, c.get (F.stdStateState n) = 1) → fieldGet (a 0) 0 8 ≠ 18 → can 0x0701 (.bistRun m) (fun d =>
      d.pwr.bist = some (fieldGet (a 0) 0 8, fieldGet (a 0) 16 16, some m.val) ∧ Begun c d m ws ∧ Frame false [.mail, .pwr] [] c d))) ∧
  (x < 17 → can 0x0702 (.bistResults m) (fun d => let (t, pass, _, f) := mget (0, false, 0, 0) c.pwr.bistLast x
    tells stOk 0 [w32 t, w32 (bit pass), f] d)) ∧
  (at64 → (a 2).toNat < 2 ^ 13 →
    (c.anyOut = true → can 0x0901 (.counterSnap m ok) (fun d => d.diag.snaps = c.diag.snaps ++ [(m.val, ok, none)] ∧ Begun c d m ws ∧
      Frame false [.mail, .tap] [] c d)) ∧
    (c.anyOut = false → link → can 0x0901 (.counterSnap m ok) (fun d => let bs := c.counterBytes (a 2).toNat ((a 3).getLsbD 0)
      d.out = c.out ++ [.hostBytes (hostAddr ws 0) bs] ∧ ∃ n, Answered c d m ws stOk 0 [n, c.frameNow] ∧
        ((a 3).getLsbD 0 = false → Frame false [.mail, .out] [] c d))) ∧
    (c.anyOut = false → ¬link → can 0x0901 (.counterSnap m ok) (tells stLinkDown 1 []))) ∧
  (at64 → 0x00100000 ≤ (a 2).toNat → c.anyOut = false → link → can 0x0A01 (.dbgSnapshot m trace ok) (fun d =>
    d.out = c.out ++ [.hostBytes (hostAddr ws 0) (c.debugBytes trace)] ∧ ∃ n, does [n] [.out] [] d)) ∧
  can 0x0A02 (.dbgLog m) (fun d => d.diag = { c.diag with uartLevel := role } ∧ does [] [.tap] [] d)

/-- Table 10.7 with R211, R214, R319 … R326 (STREAM_SETUP, STREAM_RELEASE, STREAM_QUERY, SHUTTER_CLOSE, SHUTTER_OPEN, SCENE_PLAN, SCENE_DECIDE_CONFIRM,
SCENE_DECIDE_CANCEL, IMAGE_LOAD, IMAGE_PROMOTE, IMAGE_DROP, IMAGE_INFO, HANDLE_ALLOC, HANDLE_FREE, JOB_CANCEL, SCHED_FIT) and SHADOW_PREFETCH, MODEL_PROMOTION: what each
does to handles, contexts, Shutters and images, and what it answers, once no shared check refuses it. A management request of the same arbitration
event comes first (R297). Which free entry and place firmware takes (log entry 168), what DETAIL a refused promotion shows, and that a pair's primary
names the next frame for it (log entry 165) are the model's. -/
def Obligations.WardenStreams : Prop := ∀ (s : State) (m : Fin 16) (ws : List Word) (h : Fin 256) (base : Nat) (img : Image) (ok ready : Bool),
  let c := s.hw.ctl
  let a := reqArg ws
  let can := fun (op : Nat) (k : Instr) (P : Ctl → Prop) => Starts c m op ws → CompletesCtl s (exec k s) P
  let tells := fun (st detail : Nat) (res : List Word) (d : Ctl) => Answered c d m ws st detail res ∧ Frame false [.mail] [] c d
  let x := fieldGet (a 0) 0 5
  let depth := fieldGet (a 0) 8 6
  let kind := c.kind x
  let slot := if kind = 1 then c.outSlot x else c.lineSlot x
  let size := depth * slot / 256
  let t := fieldGet (a 0) 0 1
  let act := fieldGet (a 0) 8 2
  let shutRegs := [R.phcShut 0, R.phcShut 1]
  let entry := fun (e : Nat) => [R.cnpHtW0 e, R.cnpHtW1 e, R.cnpHtW2 e]
  let zeroed := fun (key n : Nat) (u : State) => (∀ b, key ≤ b → b < key + n → u.hw.mem.rd b = 0) ∧
    ∀ b, (b < key ∨ key + n ≤ b) → u.hw.mem.rd b = s.hw.mem.rd b
  let owner := fieldGet (a 0) 0 8
  let dram := (a 0).getLsbD 8
  let units := (a 1).toNat
  let e := fieldGet (a 0) 0 8
  let j := fieldGet (a 0) 0 6
  let shadow := c.img.shadow
  let pairLead := c.paired = true ∧ c.isPrimary = true
  let due := c.img.promote = some (some m.val, none) ∧ c.running = true ∧ c.fwRun = true ∧ c.streamsQuiet = true ∧ c.img.prefetched = true ∧
    c.boundaryNow = true ∧ c.taken m = some ⟨ws, none, true⟩ ∧ reqOp ws = 0x0202
  (x < 24 → c.on (F.stcCtrlArm x) = false → kind ≤ 1 → (if kind = 1 then 10 ≤ depth ∧ depth ≤ 32 else 8 ≤ depth) → x ∉ c.img.setup →
    mget 0 c.ports.stcWritten x % 8 = 7 → 1 ≤ size → size ≤ 32768 → ∀ h' b f, c.entryPick h = some h' → c.placePick base size = some b →
    c.freePair x = some f → c.get (F.cnpHtW0Owner h') ≠ 0x80 → Starts c m 0x0101 ws → Completes (exec (.streamSetup m h base) s) (fun u =>
      let d := u.hw.ctl
      u.pending = s.pending ∧ d.get (F.stcRingHandle x) = h' ∧ d.get (F.stcRingDepth x) = depth ∧ d.get (F.stcRingSem x) = f ∧
      d.on (F.cnpHtW0Valid h') = true ∧ d.get (F.cnpHtW0Owner h') = 1 + x ∧ d.hBase h' = b * 256 ∧ d.hSize h' = size * 256 ∧
      d.img.setup = c.img.setup ++ [x] ∧ zeroed (canopyKey (b * 256)) (size * 256) u ∧
      Answered c d m ws stOk 0 [w32 (h' + 256 * f), w32 slot] ∧ Frame false [.mail, .img, .hng, .out] (R.stcRing x :: R.cnpClrPending :: entry h') c d ∧
      (¬(c.paired = true ∧ c.isPrimary = true) → d.hng = c.hng ∧ d.out = c.out))) ∧
  (x < 24 → c.on (F.stcCtrlArm x) = false → mget 0 c.ports.stcWritten x % 8 ≠ 7 → can 0x0101 (.streamSetup m h base) (tells stBadArg 4 [])) ∧
  (∀ r t', exec (.unitReqHoldOff true r.unit r.action r.check r.reason r.exp) s = .next t' → Starts c m 0x0104 ws →
    (act = 2 → exec (.shutterOpen m (some r)) s = exec (.shutterOpen m none) t') ∧
    (act ≠ 2 → exec (.shutterClose m (some r)) s = exec (.shutterClose m none) t')) ∧
  (x < 24 → c.on (F.stcCtrlArm x) = true → can 0x0101 (.streamSetup m h base) (tells stBadArg 4 []) ∧ can 0x0102 (.streamRelease m) (tells stBadArg 4 [])) ∧
  (x < 24 → c.on (F.stcCtrlArm x) = false → x ∈ c.img.setup → Starts c m 0x0102 ws → Completes (exec (.streamRelease m) s) (fun u =>
    u.hw.ctl.img.setup = c.img.setup.filter (· != x) ∧ Answered c u.hw.ctl m ws stOk 0 [] ∧ u.pending = s.pending)) ∧
  (x < 24 → can 0x0103 (.streamQuery m) (fun d => ∃ tiles bl crit, tells stOk 0 [c.rd (R.stcSched x), tiles, bl, crit, c.rd (R.stcStatus x)] d)) ∧
  (act = 1 → can 0x0104 (.shutterClose m none) (fun d => d.on (F.phcShutClosed t) = true ∧ d.get (F.phcShutHold t) = c.get (F.phcShutHold t) ∧
    (c.on (F.phcShutClosed t) = false → d.get (F.phcShutCause t) = 0 ∧ d.diag.alert.getLsbD 3 = true) ∧ d.hostShut t = true ∧
    Answered c d m ws stOk 0 [] ∧ Frame false [.mail, .ras, .log] shutRegs c d)) ∧
  (act ≠ 1 → act ≠ 2 → can 0x0104 (.shutterClose m none) (tells stBadArg 3 [])) ∧
  (act = 2 → c.on (F.phcShutHold t) = true → can 0x0104 (.shutterOpen m none) (tells stRevoked 2 [])) ∧
  (act = 2 → c.on (F.phcShutHold t) = false → can 0x0104 (.shutterOpen m none) (fun d => d.on (F.phcShutClosed t) = (c.hng.hold391 && c.on (F.phcShutClosed t)) ∧
    d.hostShut t = false ∧ Answered c d m ws stOk 0 [] ∧ Frame false [.mail, .ras, .log] shutRegs c d)) ∧
  (x < 24 → kind ≠ 0 → can 0x0105 (.scenePlan m) (tells stBadArg 3 [])) ∧
  (x < 24 → kind = 0 → (a 0).getLsbD 16 = false → c.fab.specRun = none → can 0x0105 (.scenePlan m) (fun d => (d.vc x).scenePlan = none ∧
    Answered c d m ws stOk 0 [] ∧ Frame false [.mail, .vid] [] c d)) ∧
  (x < 24 → kind = 0 → (a 0).getLsbD 16 = true → shadow = none → can 0x0105 (.scenePlan m) (tells stBadArg 5 [])) ∧
  (x < 24 → kind = 0 → (a 0).getLsbD 16 = true → ∀ im, shadow = some im → imgHasSlot im (fieldGet (a 0) 8 8) = true →
    (∀ y < 24, c.armedAs y 0 = true → c.kind y = 0 → imgHasSlot im (c.get (F.stcSchedModel y)) = true) → can 0x0105 (.scenePlan m) (fun d =>
      (d.vc x).scenePlan = some (fieldGet (a 0) 8 8) ∧ (∀ i, i ≠ x → d.vc i = c.vc i) ∧ Answered c d m ws stOk 0 [] ∧ Frame false [.mail, .vid] [] c d)) ∧
  (c.img.promote = none → act = 1 → x < 24 → ∀ sl im, (c.vc x).scenePlan = some sl → shadow = some im →
    (c.mode = 2 → ready = false → can 0x0106 (.sceneDecideConfirm m ready) (tells stBadArg 5 [])) ∧
    (c.planFits im x sl = true → (c.mode = 2 → ready = true) → can 0x0106 (.sceneDecideConfirm m ready) (fun d => d.img = { c.img with promote := some (some m.val, some (x, sl)) } ∧
      Begun c d m ws ∧ Frame false [.mail, .img] [] c d)) ∧
    (c.planFits im x sl = false → (c.mode = 2 → ready = true) → c.specOn = false → can 0x0106 (.sceneDecideConfirm m ready) (tells stBadArg 9 []))) ∧
  (act = 2 → c.fab.specRun.map (·.1) ≠ some x → can 0x0106 (.sceneDecideCancel m) (tells stBadArg 4 [])) ∧
  (act = 2 → c.fab.specRun.map (·.1) = some x → Starts c m 0x0106 ws → Completes (exec (.sceneDecideCancel m) s) (fun u => let d := u.hw.ctl
    u.pending = s.pending ∧ d.fab.specRun = none ∧ (∀ k, ∀ y ∈ mget [] d.fab.queues k, y.spec = false) ∧
    (∀ q < 136, ∀ y, (d.core q).task = some y → y.spec = false) ∧ Answered c d m ws stOk 0 [d.frameNow])) ∧
  (hostAddr ws 0 % 64 = 0 → ok = true → c.host.linkUp = true → (c.mode = 2 → img.id.getLsbD 0 = c.on F.hngPairStatusPairId) →
    (∀ k, k ≠ 6 → c.imgCheck img (a 2).toNat = some k → can 0x0201 (.imageLoad m img ok) (tells stBadArg (0x100 + k) [])) ∧
    (c.imgCheck img (a 2).toNat = none → c.img.cur = none → Starts c m 0x0201 ws → Completes (exec (.imageLoad m img ok) s) (fun u =>
      u.pending = s.pending ∧ u.hw.ctl.img.cur = some img ∧ u.hw.ctl.host.epImage = c.host.epImage + 1 ∧
      Answered c u.hw.ctl m ws stOk 0 [img.id, 0])) ∧
    (c.imgCheck img (a 2).toNat = none → c.img.cur.isSome = true → c.img.promote = none → Starts c m 0x0201 ws → Completes (exec (.imageLoad m img ok) s) (fun u =>
      u.pending = s.pending ∧ u.hw.ctl.img.shadow = some img ∧ u.hw.ctl.img.cur = c.img.cur ∧ u.hw.ctl.img.prefetched = false ∧
      Answered c u.hw.ctl m ws stOk 0 [img.id, 1]))) ∧
  (c.img.promote = none → shadow = none → can 0x0202 (.imagePromote m ready) (tells stBadArg 5 [])) ∧
  (c.img.promote = none → shadow.isSome = true → (c.mode = 2 → ready = true) → can 0x0202 (.imagePromote m ready) (fun d =>
    d.img = { c.img with promote := some (some m.val, none) } ∧ Begun c d m ws ∧ Frame false [.mail, .img] [] c d)) ∧
  ((a 0).getLsbD 0 = true → ∀ im, c.img.cur = some im → (∀ y < 24, c.armedAs y 0 = false) → Starts c m 0x0203 ws →
    Completes (exec (.imageDrop m) s) (fun u => u.pending = s.pending ∧ u.hw.ctl.img.cur = none ∧ u.hw.ctl.img.shadow = shadow ∧
      u.hw.ctl.host.epImage = c.host.epImage + 1 ∧ Answered c u.hw.ctl m ws stOk 0 [])) ∧
  ((a 0).getLsbD 0 = false → c.img.promote = none → shadow.isSome = true → Starts c m 0x0203 ws → Completes (exec (.imageDrop m) s) (fun u =>
    u.pending = s.pending ∧ u.hw.ctl.img.shadow = none ∧ u.hw.ctl.img.cur = c.img.cur ∧ Answered c u.hw.ctl m ws stOk 0 [])) ∧
  (∀ im, (if (a 0).getLsbD 0 then shadow else c.img.cur) = some im → can 0x0204 (.imageInfo m) (fun d => ∃ slots, tells stOk 0 [im.id,
    w32 (im.codeSz + 256 * im.resSz + 65536 * im.lcbMin + 16777216 * im.part), slots] d)) ∧
  (0x40 ≤ owner → owner ≤ 0x80 → 1 ≤ units → units ≤ 32768 → ¬(owner = 0x80 ∧ dram = true) → c.allocWaits m h = false →
    (dram = true → c.dramFree (a 2).toNat units = true) → ∀ h' b, c.entryPick h = some h' → c.get (F.cnpHtW0Owner h') ≠ 0x80 →
    (if dram then some (a 2).toNat else c.placePick base units) = some b → (nth 0 ws 0).getLsbD 24 = false → Starts c m 0x0301 ws →
    Completes (exec (.handleAlloc m h base) s) (fun u => let d := u.hw.ctl
      u.pending = s.pending ∧ d.on (F.cnpHtW0Valid h') = true ∧ d.get (F.cnpHtW0Owner h') = owner ∧ d.on (F.cnpHtW0Target h') = dram ∧
      d.on (F.cnpHtW0Busy h') = dram ∧ d.get (F.cnpHtW0Epoch h') = (c.get (F.cnpHtW0Epoch h') + 1) % 65536 ∧ d.hBase h' = b * 256 ∧
      d.hSize h' = units * 256 ∧ zeroed (d.hKey h' 0) (units * 256) u ∧
      d.taken m = some ⟨ws, some (stOk, 0, d.epochOf (0x0600 + h'), [w32 h', w32 b]), true⟩ ∧
      Frame false [.mail, .cnp] (R.cnpClrPending :: R.dbgSat :: lcRegs ++ entry h') c d ∧ (dram = false → Frame false [.mail] (R.cnpClrPending :: entry h') c d))) ∧
  (c.allocWaits m h = true → exec (.handleAlloc m h base) s = .next s) ∧
  (c.on (F.cnpHtW0Valid e) = false → can 0x0302 (.handleFree m) (tells stRevoked 3 [])) ∧
  (c.on (F.cnpHtW0Valid e) = true → (c.get (F.cnpHtW0Owner e) < 0x40 ∨ 0x80 < c.get (F.cnpHtW0Owner e)) → can 0x0302 (.handleFree m) (tells stNotOwner 1 [])) ∧
  (c.on (F.cnpHtW0Valid e) = true → c.get (F.cnpHtW0Owner e) = 0x80 → c.on (F.cnpHtW0Target e) = false → c.hBase e + c.hSize e ≤ c.canopySpace →
    can 0x0302 (.handleFree m) (fun d => d.on (F.cnpHtW0Valid e) = false ∧ d.cnp = { c.cnp with revoked := c.cnp.revoked ++ [(canopyKey (c.hBase e), c.hSize e)] } ∧
      Answered c d m ws stOk 0 [] ∧ Frame false [.mail, .cnp] (entry e) c d)) ∧
  (c.job j = none → can 0x0303 (.jobCancel m) (tells stBadArg 4 [])) ∧
  (∀ jb, c.job j = some jb → can 0x0303 (.jobCancel m) (fun d => d.job j = some { jb with items := [], cancelled := true } ∧
    (∀ i, i ≠ j → d.job i = c.job i) ∧ (∀ k, ∀ y ∈ mget [] d.fab.queues k, y.owner ≠ 0x40 + j) ∧ Answered c d m ws stOk 0 [] ∧
    Frame false [.mail, .jobs, .fab] [] c d)) ∧
  ((if (a 0).getLsbD 16 then shadow else c.img.cur) = none → can 0x0304 (.schedFit m) (tells stBadArg 5 [])) ∧
  (∀ im md, (if (a 0).getLsbD 16 then shadow else c.img.cur) = some im → im.models.find? (fun y => y.slot == fieldGet (a 0) 0 8) = some md →
    0 < (a 3).toNat * fieldGet (a 4) 0 14 → can 0x0304 (.schedFit m) (fun d => ∃ b crit tiles,
      tells stOk 0 [b, w32 (620000000000 / ((a 3).toNat * fieldGet (a 4) 0 14)), crit, tiles] d)) ∧
  (∀ im, c.running = true → c.img.prefetched = false → shadow = some im → Completes (exec .shadowPrefetch s) (fun u => u.pending = s.pending ∧
    u.hw.ctl.img = { c.img with prefetched := true } ∧ (im.consts = [] → im.resident = [] → u.hw.mem = s.hw.mem) ∧
    (∀ y, im.consts = [y] → im.resident = [] → c.curHas y.handle = false → ∀ i < y.bytes.length,
      u.hw.mem.rd (c.hKey y.handle y.off + i) = nth 0 y.bytes i) ∧
    Frame false [.img, .cnp] (R.cnpClrPending :: R.dbgSat :: lcRegs) c u.hw.ctl)) ∧
  (due → ¬pairLead → shadow = none → CompletesCtl s (exec .modelPromotion s) (fun d => d.img = { c.img with promote := none } ∧
      Answered c d m ws stBadArg 0x107 [] ∧ Frame false [.img, .mail] [] c d)) ∧
  (due → pairLead → c.anyOut = true → c.hng.promAt = none → CompletesCtl s (exec .modelPromotion s) (fun d =>
    d.hng.promAt = some (c.frameNow + 1) ∧ Frame false [.hng, .out] [] c d)) ∧
  (c.boundaryNow = false ∨ c.streamsQuiet = false ∨ c.img.prefetched = false → exec .modelPromotion s = .next s) ∧
  (∀ im, due → ¬pairLead → shadow = some im → im.pools.all (poolOk im) = true → im.rings.all (ringOk im) = true → im.routes = [] →
    Completes (exec .modelPromotion s) (fun u => let d := u.hw.ctl
      u.pending = s.pending ∧ d.img.cur = some im ∧ d.img.shadow = none ∧ d.img.promote = none ∧ d.host.epImage = c.host.epImage + 1 ∧
      Answered c d m ws stOk 0 [d.frameNow]))

/-! Understorey and Glade (11_understorey_and_glade.md). -/

/-- R336 … R340 (RW_GO, SWAP, REWRITE_DONE), R347, R348 (NETWORK_ENABLE), R345 (EVALUATION_END): a rewrite starts from a job's handle into the
inactive bank and ends with its verdict; a swap is done, pends or is refused; a network whose configuration fails the checks is not enabled; an
evaluation ends with its scores and FRAME, and a level unit whose condition has held N_ON times sets its PENDING bit. Network values are those of the
model's evaluation of R332 … R344 (Ctl.netEval). -/
def Obligations.Understorey : Prop := ∀ (s : State) (a : Fin 64) (v : Word) (vfail : BitVec 18) (n : Fin 8) (errs : List (List Int)),
  let c := s.hw.ctl
  let rw := c.get (F.undStatusRw a)
  let active := c.get (F.undStatusActive a)
  let refuses := fun (k : Instr) (cause : Nat) => CompletesCtl s (exec k s) (fun d => d.on (F.undStatusRej a) = true ∧
    d.get (F.undStatusRejCause a) = cause ∧ Frame false [] [R.undStatus a] c d)
  let h := c.get (F.undRwsrcHandle a)
  let off := 256 * c.get (F.undRwsrcOffset a)
  let own := c.get (F.cnpHtW0Owner h)
  let source := c.on (F.cnpHtW0Valid h) = true ∧ 0x40 ≤ own ∧ own < 0x80 ∧ off + 131072 ≤ c.hSize h
  let det := [R.cnpDetCount, R.cnpDetAddr, R.cnpDetSrc]
  let cfg := R.undNetCfg n
  let en := c.on (F.undNetCfgEn n)
  let z := (Ctl.netEval (c.netLayers n) errs true (mget [] c.und.features n) c).2
  let score := fun k => toSigned 16 (ofSigned 16 (nth 0 z k))
  c.running = true →
  (c.undReach a = true → v.getLsbD 0 = false → v.getLsbD 1 = true →
    (rw = 1 → refuses (.rwGo a v) 1) ∧ (rw ≠ 1 → ¬source → refuses (.rwGo a v) 2) ∧
    (rw ≠ 1 → source → CompletesCtl s (exec (.rwGo a v) s) (fun d => d.get (F.undStatusRw a) = 1 ∧
      mget none d.und.rewrite a = some (c.hKey h off, 1 - active) ∧ Frame false [.und] [R.undStatus a] c d))) ∧
  (c.undReach a = true → v.getLsbD 0 = true → v.getLsbD 1 = false →
    (c.inactiveBad a = true → refuses (.swap a v) 3) ∧ (c.inactiveBad a = false → rw = 1 → refuses (.swap a v) 4) ∧
    (c.inactiveBad a = false → rw ≠ 1 → CompletesCtl s (exec (.swap a v) s) (fun d =>
      (c.arrayUsed a = true → d.on (F.undStatusSwapPend a) = true ∧ d.get (F.undStatusActive a) = active) ∧
      (c.arrayUsed a = false → d.on (F.undStatusSwapPend a) = false ∧ d.get (F.undStatusActive a) = 1 - active) ∧
      Frame false [] [R.undStatus a] c d))) ∧
  (c.undReach a = false → exec (.rwGo a v) s = .next s ∧ exec (.swap a v) s = .next s) ∧
  (∀ key bank, mget none c.und.rewrite a = some (key, bank) → CompletesCtl s (exec (.rewriteDone a vfail) s) (fun d =>
    let at' := (2 * a.val + bank) * 131072
    (∀ i < 131072, mget 0 d.und.cells (at' + i) = (s.hw.mem.rd (key + i)).toNat) ∧
    (∀ i, (i < at' ∨ at' + 131072 ≤ i) → mget 0 d.und.cells i = mget 0 c.und.cells i) ∧ mget none d.und.rewrite a = none ∧
    d.get (F.undVfailCells a) = vfail.toNat ∧ d.get (F.undStatusRw a) = (if c.get F.undVlimitLimit < vfail.toNat then 3 else 2) ∧
    (bank = 0 → d.on (F.undStatusBad0 a) = decide (c.get F.undVlimitLimit < vfail.toNat)) ∧
    (bank = 1 → d.on (F.undStatusBad1 a) = decide (c.get F.undVlimitLimit < vfail.toNat)) ∧
    Frame true [.und] (R.undStatus a :: R.undVfail a :: det) c d)) ∧
  (en = false → v.getLsbD 0 = true → v.getLsbD 1 = false →
    (c.netOk n v = true → CompletesCtl s (exec (.networkEnable n v) s) (fun d => d.on (F.undNetCfgEn n) = true ∧
      (d.rd cfg) &&& netCfgMask = v &&& netCfgMask ∧
      (∀ i < 8, c.on (F.undNetDAKind n i) = false → tbit (d.get (F.undNetDwordPending n)) i = false) ∧
      (∀ i < 8, mget 0 d.und.onCount (8 * n.val + i) = 0 ∧ mget 0 d.und.offCount (8 * n.val + i) = 0 ∧ mget false d.und.disarmed (8 * n.val + i) = false) ∧
      Frame false [.und] [cfg, R.undNetDword n] c d)) ∧
    (c.netOk n v = false → CompletesCtl s (exec (.networkEnable n v) s) (fun d => d.on (F.undNetCfgCfgRej n) = true ∧
      d.on (F.undNetCfgEn n) = false ∧ Frame false [] [cfg] c d))) ∧
  (en = true → v.getLsbD 0 = true → v.getLsbD 1 = false → (v ^^^ c.rd cfg) &&& netCfgMask ≠ 0 →
    CompletesCtl s (exec (.networkEnable n v) s) (fun d => d.on (F.undNetCfgCfgRej n) = true ∧ Frame false [] [cfg] c d)) ∧
  (n.val ∈ c.und.evalBusy → CompletesCtl s (exec (.evaluationEnd n errs) s) (fun d =>
    (∀ k < 16, d.score n k = score k) ∧ d.get (F.undNetFrameFrame n) = mget 0 c.und.evalFrame n % 2 ^ 32 ∧
    d.und.evalBusy = c.und.evalBusy.filter (· != n.val) ∧ d.und.cells = c.und.cells ∧
    (∀ i < 8, c.on (F.undNetDAEn n i) = true → c.on (F.undNetDAKind n i) = false → tbit (c.get (F.undNetDwordPending n)) i = false →
      tbit (d.get (F.undNetDwordPending n)) i = (decide (toSigned 10 (c.get (F.undNetDBOn n i)) ≤ score (c.get (F.undNetDAScore n i))) &&
        decide (max 1 (c.get (F.undNetDANOn n i)) ≤ mget 0 c.und.onCount (8 * n.val + i) + 1))) ∧
    (∀ p, p ≠ Part.und → p.Same c d) ∧ ∀ r, (r < 0x140000 ∨ 0x148000 ≤ r) → r ≠ R.dbgSat → d.rd r = c.rd r)) ∧
  (n.val ∉ c.und.evalBusy → exec (.evaluationEnd n errs) s = .next s)

/-- R353 … R364, R341 (LISTEN_EN, ACK, AUDIO_SAMPLE, GLADE_FEATURE_VECTOR, GLADE_EVALUATION_END, COMMAND_WINDOW_END, REFRACT_END, STBY_REQ_ASSERT, STBY_REQ_DEASSERT,
VGLADE_POWER_ON, VGLADE_LOSS): listening starts only with its program, a microphone and good arrays; a sample enters the ring; a
vector, formed from the last 400 samples with the gain (the filter bank and the running mean are free values: log entry 49), starts an
evaluation or is dropped; a wake phrase that has held is queued with the time and asserts WAKE; acknowledging takes the oldest result; Glade at power-on is
in IDLE, and without VGLADE it is off. -/
def Obligations.GladeIsland : Prop := ∀ (s : State) (v : Word) (m1 m2 : BitVec 16) (errs : List (List Int)) (ok high low : Bool),
  let c := s.hw.ctl
  let g := c.gld
  let on := c.on F.gldCtrlListenEn
  let mic := if c.on F.gldMicMic1 = true ∧ c.on F.gldMicMic2 = true then ofSigned 16 (roundDiv (m1.toInt + m2.toInt) 2)
    else if c.on F.gldMicMic1 then m1.toNat else m2.toNat
  let pos := c.get F.gldAudioPosPos
  let band := fun b => Config.melBand b c.gldSamples
  let mean := fun b => Config.melMean b (mget 0 g.means b) (band b)
  let vec := (List.range 40).map (fun b => clampI (-7) 7 (roundDiv (7 * 2 ^ c.get F.gldMicGAud * (band b - mean b)) 65536))
  let means := fun d : Ctl => ∀ b < 40, mget 0 d.gld.means b = mean b
  let own := fun (d : Ctl) => ∀ r, surviving r = true → r ≠ R.phcBootCause → r ≠ R.gldState → d.rd r = regReset r
  (c.gldReach = true → v.getLsbD 1 = false →
    (v.getLsbD 0 = true → on = false → c.gldMayListen = true → CompletesCtl s (exec (.listenEn v) s) (fun d => d.on F.gldCtrlListenEn = true ∧
      d.get F.gldStateState = 2 ∧ Frame false [] [R.gldCtrl, R.gldState] c d)) ∧
    (v.getLsbD 0 = true → on = false → c.gldMayListen = false → CompletesCtl s (exec (.listenEn v) s) (fun d => d.on F.gldStateCfgRej = true ∧
      d.on F.gldCtrlListenEn = false ∧ Frame false [] [R.gldState] c d)) ∧
    (v.getLsbD 0 = false → on = true → CompletesCtl s (exec (.listenEn v) s) (fun d => d.on F.gldCtrlListenEn = false ∧
      d.get F.gldStateState = 1 ∧ d.gld = { g with evalIn := none }))) ∧
  (c.gldReach = false → c.running = true → CompletesCtl s (exec (.listenEn v) s) (fun d => Counts c d F.glbBar0ErrCount ∧
    Frame false [] [R.glbBar0Err, R.dbgSat] c d)) ∧
  (∀ r rest, c.gldReach = true → v.getLsbD 1 = true → v.getLsbD 0 = on → g.fifo = r :: rest → CompletesCtl s (exec (.ack v) s) (fun d =>
    d.gld = { g with fifo := rest } ∧ d.get F.gldResultLevel = rest.length % 8 ∧ (rest = [] → d.on F.gldStateWake = false ∧ d.get F.gldResultWord = 127) ∧
    Frame false [.gld] [R.gldResult, R.gldResultT, R.gldState] c d)) ∧
  (c.gldListens = true → CompletesCtl s (exec (.audioSample m1 m2) s) (fun d => d.get F.gldAudioPosPos = (pos + 1) % 32768 ∧
    fieldGet (d.rd (R.gldAudio (pos / 2))) (16 * (pos % 2)) 16 = mic % 65536 ∧ Frame false [] [R.gldAudio (pos / 2), R.gldAudioPos] c d)) ∧
  (c.gldListens = true → g.evalIn = none → CompletesCtl s (exec .gladeFeatureVector s) (fun d => means d ∧
    d.gld = { g with means := d.gld.means, vectors := (vec :: g.vectors).take 24, evalIn := some (gldInput ((vec :: g.vectors).take 24)) })) ∧
  (c.gldListens = true → g.evalIn.isSome = true → CompletesCtl s (exec .gladeFeatureVector s) (fun d => means d ∧
    d.gld = { g with means := d.gld.means, vectors := (vec :: g.vectors).take 24 } ∧ Counts c d F.gldCntDrop ∧ Frame false [.gld] [R.gldCnt, R.dbgSat] c d)) ∧
  (c.gldListens = false → exec (.audioSample m1 m2) s = .next s ∧ exec .gladeFeatureVector s = .next s) ∧
  (∀ x, g.evalIn = some x → let z := (Ctl.netEval c.gldLayers errs true x c).2
    CompletesCtl s (exec (.gladeEvaluationEnd errs) s) (fun d => d.gld.evalIn = none ∧
      (g.refract = false → toSigned 10 (c.get F.gldThrWakeOn) ≤ nth 0 z 0 → max 1 (c.get F.gldThrNWake) ≤ g.wakeRun + 1 → g.fifo.length < 4 →
        d.gld.fifo = g.fifo ++ [(0, c.gldMs)] ∧ d.on F.gldStateWake = true ∧ d.gld.wakeRun = 0 ∧
        d.gld.window = decide (c.get F.gldWinCmdWindow ≠ 0) ∧ d.gld.refract = decide (c.get F.gldWinRefract ≠ 0)) ∧
      (g.refract = true → d.gld.fifo = g.fifo) ∧ ∀ p, p ∉ [Part.gld] → p.Same c d)) ∧
  (g.window = true → CompletesCtl s (exec .commandWindowEnd s) (fun d => d.gld = { g with window := false, cmdRun := (0, 0) } ∧
    d.on F.gldStateWindow = false ∧ Frame false [.gld] [R.gldState] c d)) ∧
  CompletesCtl s (exec .refractEnd s) (fun d => d.gld = { g with refract := false } ∧ Frame false [.gld] [] c d) ∧
  CompletesCtl s (exec .stbyReqAssert s) (fun d => d.gld = { g with isolated := true } ∧ (g.off = false → d.on F.gldStateIsolated = true) ∧
    Frame false [.gld] [R.gldState] c d) ∧
  CompletesCtl s (exec .stbyReqDeassert s) (fun d => d.gld = { g with isolated := false } ∧ (g.off = false → d.on F.gldStateIsolated = false) ∧
    Frame false [.gld] [R.gldState] c d) ∧
  Completes (exec (.vgladePowerOn ok high low) s) (fun t => let d := t.hw.ctl
    t.pending = s.pending ∧ d.gld.off = false ∧ d.gld.fifo = [] ∧ d.get F.gldStateState = 1 ∧ d.gld.isolated = !low ∧
    d.on F.gldStateIsolated = !low ∧ own d ∧ d.on F.phcBootCausePor = true ∧ d.boot.pwrOk = ok ∧ d.boot.rstHigh = high ∧
    (∀ a, 60 ≤ a → a < 64 → d.get (F.undStatusActive a) = 0) ∧ d.und.cells = c.und.cells ∧
    ((ok = false ∨ high = false) → d.boot.inReset = true) ∧ (ok = true → high = true → t.hw.mem = s.hw.mem)) ∧
  CompletesCtl s (exec .vgladeLoss s) (fun d => d.gld.off = true ∧ d.gld.fifo = [] ∧ d.get F.gldStateState = 0 ∧ own d ∧
    (∀ r, surviving r = false → d.rd r = c.rd r) ∧ ∀ p, p ∉ [Part.gld] → p.Same c d)

/-! Pairs and walls (12_pair_and_wall.md) and the link codec (08_number_formats_and_link_codec.md). -/

/-- R365, R371 … R374 (PORT_TRAINING, TRAINING_RETRY, TRAIN_FRAME, ACK_FRAME, NAK_FRAME, HINGE_ACK_SEND, HINGE_PORT_DOWN), and the sequenced frames: a frame with a wrong
CRC counts, one out of sequence is refused, both with a NAK; one in sequence is taken and due an acknowledgement: HEARTBEAT (R381), SYNC (R397), GOV
(R402), STATE (R378, R384), DATA (R259), HALO (R400), FWD (R383), whose parts are taken in order. What leaves is stated where no frame waits for
room in the replay buffer (log entry 158). That a bond is one link, and a NAK for every wrong frame, are the model's (log entry 27). -/
def Obligations.HingeFrames : Prop := ∀ (s : State) (n : Fin 4) (cause : Fin 3) (rec : IdentRec) (seq : BitVec 12) (h : HngHdr)
    (frame lock : Word) (line : Fin 8192) (src : Fin 4) (closed : Bool) (x : Fin 24) (lcrc : Word) (mv : BitVec 10) (urgent : Bool) (item : MirrorItem)
    (ch : Fin 64) (bytes : List Byte) (y col part : Nat) (px : Line) (img : Image) (load : Bool) (role why : Nat) (at' : Option Word),
  let c := s.hw.ctl
  let state := c.get (F.hngStateState n)
  let port := R.hngState n
  let l := c.linkOf n
  let p := c.port l
  let isUp := c.running = true ∧ c.portUsed n = true ∧ c.linkIsUp l = true
  let q := fromSeq seq.toNat p.unacked
  let k := if p.replaySeq = seq.toNat then p.replays + 1 else 1
  let hl := c.linkOf h.port
  let hp := c.port hl
  let hUp := c.running = true ∧ c.portUsed h.port = true ∧ c.linkIsUp hl = true
  let all : List Instr := [.heartbeatFrame h frame line src closed x lcrc, .syncFrame h frame lock, .govFrame h mv urgent, .stateFrame h item,
    .dataFrame h ch bytes, .haloFrame h x frame y col px, .fwdFrame h img part load]
  let sends := fun (l seq : Nat) (f : HngOut) => Output.hinge l seq f (f.frame seq)
  let nak := sends hl 0 (.nak hp.rxSeq)
  let frames := [R.hngFrames h.port, R.dbgSat]
  let taken := fun (k : Instr) (P : Ctl → Prop) => hUp → h.crcOk = true → h.seq.toNat = hp.rxSeq → CompletesCtl s (exec k s) (fun d =>
    (d.port hl).rxSeq = (hp.rxSeq + 1) % 4096 ∧ (d.port hl).pendAck = true ∧ Counts c d (F.hngFramesCount h.port) ∧ P d)
  (c.running = true → c.fwRun = true → c.portUsed n = true → state ≤ 1 →
    CompletesCtl s (exec (.portTraining n true cause) s) (fun d => d.get (F.hngStateState n) = 1 ∧ d.get (F.hngStateCause n) = 0 ∧
      (d.port n).identSent = true ∧ d.out = c.out ++ [sends n 0 (.train c.ownIdent)] ∧ Frame false [.hng, .out] [port] c d) ∧
    CompletesCtl s (exec (.portTraining n false cause) s) (fun d => d.get (F.hngStateState n) = 0 ∧ d.get (F.hngStateCause n) = max 1 cause.val ∧
      Frame false [] [port] c d)) ∧
  (c.running = true → c.fwRun = true → c.portUsed n = true → state = 0 → CompletesCtl s (exec (.trainingRetry n) s) (fun d =>
    d.get (F.hngStateState n) = 1 ∧ Frame false [] [port] c d)) ∧
  (c.running = true → c.portUsed n = true →
    CompletesCtl s (exec (.trainFrame n false rec) s) (fun d => Counts c d (F.hngCrcerrCount n) ∧ Frame false [] [R.hngCrcerr n, R.dbgSat] c d) ∧
    (state = 1 → (c.port n).identSent = true → c.identOk n rec = false → CompletesCtl s (exec (.trainFrame n true rec) s) (fun d =>
      d.get (F.hngStateState n) = 3 ∧ d.get (F.hngStateCause n) = 3 ∧ Frame true [] [port, R.hngPairStatus] c d)) ∧
    (state = 1 → (c.port n).identSent = true → c.identOk n rec = true → CompletesCtl s (exec (.trainFrame n true rec) s) (fun d =>
      d.get (F.hngStateState n) = 2 ∧ (c.paired = false → Frame false [.hng] [port] c d)))) ∧
  (isUp → CompletesCtl s (exec (.ackFrame n false seq) s) (fun d => Counts c d (F.hngCrcerrCount n) ∧ Frame false [] [R.hngCrcerr n, R.dbgSat] c d)) ∧
  (isUp → (∃ e ∈ p.unacked, e.1 = seq.toNat) → CompletesCtl s (exec (.ackFrame n true seq) s) (fun d =>
    (p.txq = [] → d.port l = { p with unacked := q.tail, replays := 0 } ∧ d.out = c.out) ∧ Frame false [.hng, .out] [] c d)) ∧
  (isUp → q ≠ [] → k ≤ 4 → CompletesCtl s (exec (.nakFrame n true seq) s) (fun d =>
    d.port l = { p with unacked := q, replaySeq := seq.toNat, replays := k } ∧ d.out = c.out ++ q.map (fun e => sends l e.1 e.2) ∧
    Counts c d (F.hngReplayCount n) ∧ Frame false [.hng, .out] [R.hngReplay n, R.dbgSat] c d)) ∧
  (isUp → c.paired = true → q ≠ [] → 4 < k → CompletesCtl s (exec (.nakFrame n true seq) s) (fun d => d.get (F.hngStateState n) = 0 ∧
    d.get (F.hngStateCause n) = 4 ∧ Frame true [.hng, .vid] [port, R.hngPairStatus] c d)) ∧
  (isUp → p.pendAck = true → p.txq = [] → CompletesCtl s (exec (.hingeAckSend n) s) (fun d => d.out = c.out ++ [sends l 0 (.ack ((p.rxSeq + 4095) % 4096))] ∧
    d.port l = { p with pendAck := false } ∧ Frame false [.hng, .out] [] c d)) ∧
  (c.running = true → c.portUsed n = true → state ≠ 3 → (c.paired = true ∨ state ≠ 2) → CompletesCtl s (exec (.hingePortDown n cause) s) (fun d =>
    d.get (F.hngStateState n) = 0 ∧ d.get (F.hngStateCause n) = max 1 cause.val ∧ Frame true [.hng, .vid] [port, R.hngPairStatus] c d)) ∧
  (hUp → hp.txq = [] → ∀ k ∈ all, (h.crcOk = false → CompletesCtl s (exec k s) (fun d => Counts c d (F.hngCrcerrCount h.port) ∧ d.out = c.out ++ [nak] ∧
      d.port hl = hp ∧ Frame false [.hng, .out] [R.hngCrcerr h.port, R.dbgSat] c d)) ∧
    (h.crcOk = true → h.seq.toNat ≠ hp.rxSeq → CompletesCtl s (exec k s) (fun d => d.out = c.out ++ [nak] ∧ d.port hl = hp ∧
      Frame false [.hng, .out] [] c d))) ∧
  (¬hUp → ∀ k ∈ all, exec k s = .next s) ∧
  (c.mode = 1 → taken (.heartbeatFrame h frame line src closed x lcrc) (fun d => (d.rc x).peer = hbAdd (c.rc x).peer (frame.toNat, line, src, lcrc) ∧
    (d.rc x).peerClosed = closed ∧ Frame true [.ras, .hng] (R.hngPairStatus :: R.hngMir :: R.hngMirSync :: frames) c d)) ∧
  (c.mode = 3 → ¬(c.get F.hngGridCol = 0 ∧ c.get F.hngGridRow = 0) → c.hng.syncSeen ≠ some (frame, lock) → taken (.syncFrame h frame lock) (fun d =>
    (∀ o ∈ c.outputs, (d.vc o).numNext = some frame) ∧ d.hng.syncSeen = some (frame, lock) ∧ d.hng.lockFrame = lock ∧
    Frame false [.hng, .vid, .out] frames c d)) ∧
  taken (.govFrame h mv false) (fun d => d.hng.recvGov = max c.hng.recvGov mv.toNat ∧ Frame false [.hng] frames c d) ∧
  (c.isSecondary = true →
    (¬((c.vc x).locked = true ∧ (c.vc x).frame = frame) → taken (.stateFrame h (.frameNo x frame lock)) (fun d => (d.vc x).numNext = some frame ∧
      (d.vc x).lockAt = some lock ∧ (∀ o, o ≠ x.val → d.vc o = c.vc o) ∧ Frame false [.hng, .vid] frames c d)) ∧
    ((c.vc x).locked = true → (c.vc x).frame = frame → taken (.stateFrame h (.frameNo x frame lock)) (fun d => Counts c d F.hngMirLostCount ∧
      tbit (d.get F.hngMirSyncSync) x = false ∧ Frame false [.hng] (R.hngMirLost :: R.hngMirSync :: R.hngPairStatus :: frames) c d))) ∧
  (c.isSecondary = true → c.anyOut = true → ∀ st, taken (.stateFrame h (.loss x st)) (fun d => d.hng.mirPend = c.hng.mirPend ++ [.loss x st] ∧
    Frame false [.hng] frames c d)) ∧
  (c.paired = true → c.anyOut = true → c.hng.roleAt = none → taken (.stateFrame h (.roleChange role why at')) (fun d =>
    d.hng.roleAt = some { role := role, cause := why, frame := at' } ∧
    Frame false [.hng] frames c d)) ∧
  (c.on (F.hngLcCfgValid ch) = true → c.on (F.hngLcCfgDir ch) = true → bytes.length = 8 → ofBytes bytes % 256 = c.get (F.hngLcCfgTensor ch) →
    taken (.dataFrame h ch bytes) (fun d => d.get (F.hngLcCfgFe ch) = ofBytes bytes / 256 % 256 ∧
      d.lc ch = { c.lc ch with rxFe := some (toSigned 8 (ofBytes bytes / 256)), line := 0 } ∧ Frame false [.hng] (R.hngLcCfg ch :: frames) c d)) ∧
  ((c.on (F.hngLcCfgValid ch) = false ∨ c.on (F.hngLcCfgDir ch) = false) → taken (.dataFrame h ch bytes) (Frame false [.hng] frames c)) ∧
  ((c.haloed x = false ∨ c.armedAs x 0 = false) → taken (.haloFrame h x frame y col px) (Frame false [.hng] frames c)) ∧
  (c.haloed x = true → c.armedAs x 0 = true → 2 ≤ h.port.val → (c.vc x).ownDone = [] → frame.toNat = (c.vc x).inFrame →
    (if y < 3 then c.get (F.stcGeomHact x) else 32) ≤ col + (nth [] px 0).length → hUp → h.crcOk = true → h.seq.toNat = hp.rxSeq →
    Completes (exec (.haloFrame h x frame y col px) s) (fun u => u.pending = s.pending ∧ (u.hw.ctl.vc x).haloHas frame.toNat (haloId h.port y) = true ∧
      (u.hw.ctl.port hl).rxSeq = (hp.rxSeq + 1) % 4096)) ∧
  (c.haloed x = true → c.armedAs x 0 = true → 2 ≤ h.port.val → (c.vc x).inFrame < frame.toNat → taken (.haloFrame h x frame y col px) (fun d =>
    (d.vc x).haloWait = (c.vc x).haloWait ++ [(h.port.val, frame, y, col, px)] ∧ Frame false [.hng, .vid] frames c d)) ∧
  (c.isSecondary = true → c.mode = 1 → (part = 0 ∨ part = c.hng.fwdGot) →
    (part + 1 < fwdParts img → taken (.fwdFrame h img part load) (fun d => d.hng.fwdGot = part + 1 ∧ Frame false [.hng] frames c d)) ∧
    (fwdParts img ≤ part + 1 → c.imgCheck img img.length = none → load = true → c.img.cur.isSome = true → hUp → h.crcOk = true →
      h.seq.toNat = hp.rxSeq → Completes (exec (.fwdFrame h img part load) s) (fun u => u.pending = s.pending ∧ u.hw.ctl.img.shadow = some img ∧
        u.hw.ctl.img.cur = c.img.cur ∧ u.hw.ctl.hng.fwdGot = 0 ∧ u.hw.ctl.host.epImage = c.host.epImage + 1)) ∧
    (fwdParts img ≤ part + 1 → ({ c with img := { c.img with cur := none } } : Ctl).imgCheck img img.length = none → load = false → hUp → h.crcOk = true →
      h.seq.toNat = hp.rxSeq → Completes (exec (.fwdFrame h img part load) s) (fun u => u.pending = s.pending ∧ u.hw.ctl.img.cur = some img ∧
        u.hw.ctl.hng.fwdGot = 0 ∧ u.hw.ctl.host.epImage = c.host.epImage + 1))) ∧
  (c.isSecondary = true → c.mode = 1 → part ≠ 0 → part ≠ c.hng.fwdGot → taken (.fwdFrame h img part load) (Frame false [.hng] frames c)) ∧
  ((c.isSecondary = false ∨ c.mode ≠ 1) → taken (.fwdFrame h img part load) (Frame false [.hng] frames c))

/-- R381, R388, R389 (HEARTBEAT_MISS), R395 (SPLIT_HEARTBEAT_WAIT), R368, R369 (FRAME_SYNC_EDGE, FRAME_SYNC_PULSE_END, FRAME_SYNC_LOST), R391 (PEER_WAIT_TIMEOUT), R249, R252 … R258
(LINK_LINE_ENCODE), R263 (SNAP, HIST_SNAP_COPY): a missed heartbeat counts, and a second one on the shortest output with PAIR_PEER_N high makes the secondary
primary; a split line whose partner is late is Lintel's; an edge locks a slave's outputs; a filled slot leaves as one record; a snapshot copies and
zeroes the live bins. FRAME_SYNC has returned once every output is locked to it and aligned again (R368, R369; log entry 167). A record leaves, or
waits for room in the replay buffer (R371). -/
def Obligations.HingeTiming : Prop := ∀ (s : State) (x : Fin 24) (m : Fin 8192) (act : Bool) (ns : Nat) (l : Fin 64) (v : Word),
  let c := s.hw.ctl
  let r := c.rc x
  let prev := if m.val = 0 then (((c.vc x).frame.toNat + 2 ^ 32 - 1) % 2 ^ 32, c.get (F.stcGeomVact x) - 1) else ((c.vc x).frame.toNat, m.val - 1)
  let tol := if c.mode = 3 then 100 else 20
  let aligned := ∀ o ∈ c.outputs, (c.vc o).lastB ≤ c.now + tol ∧ c.now ≤ (c.vc o).lastB + tol
  let slave := c.running = true ∧ c.mode ≠ 0 ∧ c.timingMaster = false
  let st := c.lc l
  let ring := c.get (F.hngLcCfgRing l)
  let sem := c.get (F.chnSrCfgFullSem ring)
  let head := c.get (F.chnSrStateHead ring)
  let fe := c.lcFe l
  let xs := elems16 (s.hw.mem.rdN (c.slotKey ring head 0) (2 * (64 * (st.nblk + 1))))
  let q := hc8Q (hc8Sum xs) st.rho (64 * (st.nblk + 1)) fe
  let code := hc8Line (hc8Scale q fe) xs 0
  let way := c.linkOf (c.get (F.hngLcCfgPort l))
  let ch := c.hng.snapCh
  (c.running = true → c.paired = true → (c.vc x).outOn = true → (c.hng.joined = true ∨ c.mode = 2) → (∀ e ∈ r.own, e.2.1 ≠ m.val) →
    hbFind r.peer (c.vc x).frame.toNat m = none →
    CompletesCtl s (exec (.heartbeatMiss x m act) s) (fun d => Counts c d F.hngHbMiss ∧ d.hng.peerN = !act ∧
      (r.hbPosted = false → d.diag.alert.getLsbD 2 = true) ∧ (d.rc x).hbMissed = some ((c.vc x).frame.toNat, m.val) ∧
      (c.isSecondary = true → c.mode = 1 → r.hbMissed = some prev → c.isShort x = true → act = false →
        d.get F.hngPairStatusRole = 1 ∧ Counts c d F.hngHbFailover ∧ (c.mayAct = true → d.hng.pairActN = false)) ∧
      (c.mode = 1 → (c.isPrimary = true ∨ r.hbMissed ≠ some prev ∨ c.isShort x = false ∨ act = true) →
        d.get F.hngPairStatusRole = c.get F.hngPairStatusRole ∧ Frame true [.ras, .hng] [R.hngHb, R.hngPairStatus] c d))) ∧
  ((hbFind r.peer (c.vc x).frame.toNat m).isSome = true → c.running = true → (∀ e ∈ r.own, e.2.1 ≠ m.val) → CompletesCtl s (exec (.heartbeatMiss x m act) s)
    (fun d => d.hng = { c.hng with peerN := !act } ∧ Frame false [.hng] [R.hngPairStatus] c d)) ∧
  (∀ e, c.running = true → c.mode = 2 → r.egress.find? (fun e => e.m == m.val && e.await) = some e → CompletesCtl s (exec (.splitHeartbeatWait x m) s) (fun d =>
    (∀ g ∈ (d.rc x).egress, g.m = m.val → g.src = .lintel ∧ g.await = false) ∧ Counts c d (F.rasFbLateCount x) ∧
    d.get (F.rasFbLastCause x) = 6 ∧ d.get (F.rasFbLastLine x) = m.val ∧ Frame true [.ras] [R.rasFbLate x, R.rasFbLast x] c d)) ∧
  ((c.mode ≠ 2 ∨ r.egress.find? (fun e => e.m == m.val && e.await) = none) → exec (.splitHeartbeatWait x m) s = .next s) ∧
  (slave → 100 ≤ ns → CompletesCtl s (exec (.frameSyncEdge ns) s) (fun d => (∀ o ∈ c.outputs, (d.vc o).fsyncLock = true) ∧ d.hng.fsyncAt = some c.now ∧
    (∀ i < 24, c.armedAs i 0 = true → (d.vc i).edgeIn = (c.vc i).inFrame) ∧ (aligned → d.hng.fsyncLost = false) ∧
    (¬aligned → d.hng.fsyncLost = c.hng.fsyncLost) ∧ Frame true [.vid, .hng] [R.hngPairStatus] c d)) ∧
  (ns < 100 → exec (.frameSyncEdge ns) s = .next s) ∧
  CompletesCtl s (exec .frameSyncPulseEnd s) (fun d => d.hng = { c.hng with fsyncOut := false } ∧ Frame false [.hng] [] c d) ∧
  (slave → c.anyOut = true → c.hng.fsyncLost = false → CompletesCtl s (exec .frameSyncLost s) (fun d =>
    (∀ o ∈ c.outputs, (d.vc o).fsyncLock = false) ∧ d.hng.fsyncLost = true ∧ Frame true [.vid, .hng] [R.hngPairStatus] c d)) ∧
  (c.running = true → c.mode = 1 → c.hng.hold391 = true → (∀ n < 4, c.get (F.hngStateState n) ≠ 2) → CompletesCtl s (exec (.peerWaitTimeout false) s) (fun d =>
    d.hng.hold391 = false ∧ (c.isPrimary = true → c.boot.inReset = false → c.pwr.trip = false → d.hng.pairActN = false) ∧
    Frame false [.hng] [R.hngPairStatus, R.phcShut 0, R.phcShut 1] c d)) ∧
  (c.running = true → (c.mode ≠ 1 ∨ c.hng.hold391 = false ∨ act = true) → CompletesCtl s (exec (.peerWaitTimeout act) s) (fun d =>
    d.hng = { c.hng with peerN := !act } ∧ Frame false [.hng] [R.hngPairStatus] c d)) ∧
  (c.running = true → c.on (F.hngLcCfgValid l) = true → c.on (F.hngLcCfgDir l) = false → c.on (F.chnSrStateValid ring) = true →
    1 ≤ c.get (F.semCountCount sem) → tbit (c.get (F.chnSrStateFill ring)) head = true →
    (c.on (F.hngLcCfgProbe l) = true ∨ c.on (F.cnpHtW0Spec (c.get (F.chnSrCfgHandle ring))) = false) → c.on (F.cnpHtW0Busy (c.get (F.chnSrCfgHandle ring))) = false →
    CompletesCtl s (exec (.linkLineEncode l) s) (fun d => (d.lc l).line = (st.line + 1) % 8192 ∧
      d.get (F.hngLcEscCount l) = min (c.get (F.hngLcEscCount l) + code.2.1.length) (2 ^ 32 - 1) ∧
      d.get (F.hngLcSatCount l) = min (c.get (F.hngLcSatCount l) + code.2.2) (2 ^ 32 - 1) ∧
      (c.on (F.hngLcCfgProbe l) = false → c.linkIsUp way = true →
        let frm := HngOut.data l (hc8Record (c.get (F.hngLcCfgTensor l)) q st.line st.nblk code.1 code.2.1)
        (∃ seq, .hinge way seq frm (frm.frame seq) ∈ d.out) ∨ frm ∈ (d.port way).txq) ∧
      (c.on (F.hngLcCfgProbe l) = true → ∀ seq b ws, .hinge way seq (.data l b) ws ∈ d.out → .hinge way seq (.data l b) ws ∈ c.out))) ∧
  (c.running = true → CompletesCtl s (exec (.snap v) s) (fun d => d.get F.hngHistCtrlSel = v.toNat % 64 ∧
    (v.getLsbD 8 = true → c.on F.hngHistCtrlBusy = false → d.on F.hngHistCtrlBusy = true ∧ d.hng = { c.hng with snapCh := v.toNat % 64 }) ∧
    ((v.getLsbD 8 = false ∨ c.on F.hngHistCtrlBusy = true) → d.hng = c.hng) ∧ Frame false [.hng] [R.hngHistCtrl] c d)) ∧
  (c.on F.hngHistCtrlBusy = true → CompletesCtl s (exec .histSnapCopy s) (fun d => d.on F.hngHistCtrlBusy = false ∧
    (∀ b < 256, d.get (F.hngHistBinCount b) = mget 0 c.hng.live (256 * ch + b) % 2 ^ 32 ∧ mget 0 d.hng.live (256 * ch + b) = 0) ∧
    (∀ i, (i < 256 * ch ∨ 256 * ch + 256 ≤ i) → mget 0 d.hng.live i = mget 0 c.hng.live i) ∧
    Frame false [.hng] (R.hngHistCtrl :: (List.range 256).map R.hngHistBin) c d)) ∧
  (c.on F.hngHistCtrlBusy = false → exec .histSnapCopy s = .next s)

/-! Reset, boot, pins and the TAP (14_boot_and_calibration.md, 15_pins_and_electrical.md, 16_errors_and_diagnostics.md). -/

/-- R438 … R446 (PWR_OK_FALL, PWR_OK_RISE, RESET_N_ASSERT, RESET_N_RELEASE, RESET_EXIT, WARDEN_WATCHDOG), R445 … R459 (BOOT_PATH), R454, R455 (PERST_N_ASSERT, PERST_N_DEASSERT): entering reset
puts every main-domain register back, clears the memories and stops everything but Glade, with its cause flagged; reset exit samples the straps; without an
authentic image, under the recovery strap or after three watchdog resets the part enters recovery, else it runs with its stands
mapped. A power-up out of order is not defined and faults. -/
def Obligations.ResetAndBoot : Prop := ∀ (s : State) (st : Straps) (c0 c1 : BootCfg) (a b : FwImage) (ms : BootMeas) (moved : List (Nat × List Byte)),
  let c := s.hw.ctl
  let fwst := c.get F.wktFwFwstate
  let entered := fun (cause : Fld) (t : State) => let d := t.hw.ctl
    t.pending = s.pending ∧ d.boot.inReset = true ∧ d.on cause = true ∧ d.gld = c.gld ∧ d.now = c.now ∧ d.und.cells = c.und.cells ∧
    (c.boot.inReset = false → (∀ r, surviving r = false → (r < 0x140780 ∨ 0x140800 ≤ r) → d.rd r = regReset r) ∧
      (∀ r, surviving r = true → r ≠ R.phcBootCause → d.rd r = c.rd r) ∧ d.fab = Fab.reset ∧ d.vid = [] ∧ d.cnp = Cnp.reset ∧ d.img = ImgSt.reset ∧
      d.host.jobs = [] ∧ d.host.linkUp = false ∧ d.hng.pairActN = true ∧ (∀ k < 0x50000000, t.hw.mem.rd k = 0) ∧
      ∀ k < 0x400000000, t.hw.mem.rd (dramKey k) = 0) ∧
    (c.boot.inReset = true → t.hw.mem = s.hw.mem)
  let cfg0 := if c.boot.cfg.isEmpty then [c0, c1] else c.boot.cfg
  let slotA := (mget none c.boot.slots 0).getD a
  let slotB := (mget none c.boot.slots 1).getD b
  let boots := c.running = true ∧ fwst = 0 ∧ ms.tripFiring = false ∧ c.boot.straps.testEn = false
  let recovers := fun (d : Ctl) => d.rd R.wktFw = 0x00020000 ∧ d.boot.epReleased = true
  Completes (exec .pwrOkFall s) (fun t => entered F.phcBootCausePwr t ∧ t.hw.ctl.boot.pwrOk = false) ∧
  Completes (exec .resetNAssert s) (fun t => entered F.phcBootCausePin t ∧ t.hw.ctl.boot.rstHigh = false) ∧
  (c.running = true → fwst = 1 → Completes (exec .wardenWatchdog s) (fun t => entered F.phcBootCauseWdog t ∧ t.hw.ctl.boot.wdog = true ∧
    t.hw.ctl.get F.phcBootCauseWdogSeq = c.get F.phcBootCauseWdogSeq)) ∧
  (c.running = true → fwst = 0 → c.boot.straps.testEn = false → c.boot.straps.bootRec = false → Completes (exec .wardenWatchdog s) (fun t =>
    entered F.phcBootCauseWdog t ∧ t.hw.ctl.get F.phcBootCauseWdogSeq = min 15 (c.get F.phcBootCauseWdogSeq + 1))) ∧
  (c.running = false ∨ fwst = 2 → exec .wardenWatchdog s = .next s) ∧
  CompletesCtl s (exec (.pwrOkRise true) s) (fun d => d.boot = { c.boot with pwrOk := true } ∧ Frame false [.boot] [] c d) ∧
  exec (.pwrOkRise false) s = .fault .powerUpUndefined ∧
  CompletesCtl s (exec .resetNRelease s) (fun d => d.boot = { c.boot with rstHigh := true } ∧ Frame false [.boot] [] c d) ∧
  (c.boot.inReset = true → c.boot.pwrOk = true → c.boot.rstHigh = true → CompletesCtl s (exec (.resetExit st) s) (fun d => d.running = true ∧
    d.boot = { c.boot with inReset := false, wdog := false, straps := st, live := st } ∧ d.on F.phcStrapsPairId = st.pairId ∧
    d.get F.phcStrapsMgmtAddr = st.mgmtAddr.toNat ∧ d.on F.phcStrapsBootRec = st.bootRec ∧ d.on F.hngPairStatusPairId = st.pairId ∧
    d.pwr = { c.pwr with trip := false, enStart := c.now } ∧ d.glbTime = 0 ∧ Frame false [.boot, .link, .pwr] [R.phcStraps, R.hngPairStatus] c d)) ∧
  ((c.boot.inReset = false ∨ c.boot.pwrOk = false ∨ c.boot.rstHigh = false) → exec (.resetExit st) s = .next s) ∧
  (¬boots → exec (.bootPath c0 c1 a b ms) s = .next s) ∧
  (boots → c.boot.straps.bootRec = true → CompletesCtl s (exec (.bootPath c0 c1 a b ms) s) (fun d => recovers d ∧ d.on F.phcBootStatusRecStrap = true ∧
    Frame false [.boot] [R.phcBootStatus, R.wktFw] c d)) ∧
  (boots → c.boot.straps.bootRec = false → 3 ≤ c.get F.phcBootCauseWdogSeq → CompletesCtl s (exec (.bootPath c0 c1 a b ms) s) recovers) ∧
  (boots → c.boot.straps.bootRec = false → FwImage.authentic c.boot.keyDigest slotA = false → FwImage.authentic c.boot.keyDigest slotB = false → c.get F.phcBootCauseWdogSeq < 3 →
    CompletesCtl s (exec (.bootPath c0 c1 a b ms) s) (fun d => recovers d ∧ d.on F.phcBootStatusAuthA = true ∧ d.on F.phcBootStatusAuthB = true ∧
      d.diag.alert.getLsbD 5 = true)) ∧
  (∀ u, boots → c.boot.straps.bootRec = false → c.get F.phcBootCauseWdogSeq < 3 → pickCfg cfg0 = some u → u.slot = false →
    FwImage.authentic c.boot.keyDigest slotA = true →
    (ms.mr8Agree && ms.trainOk = false → CompletesCtl s (exec (.bootPath c0 c1 a b ms) s) (fun d => recovers d ∧ d.on F.phcBootStatusDramFail = true)) ∧
    (ms.mr8Agree = true → ms.trainOk = true → CompletesCtl s (exec (.bootPath c0 c1 a b ms) s) (fun d => d.rd R.wktFw = w32 (0x10000 + slotA.release % 65536) ∧
      d.boot.epReleased = true ∧ d.on F.drcStatusTrained = true ∧ d.get F.phcBootStatusSlot = 0 ∧ d.get F.phcBootCauseWdogSeq = 0 ∧
      d.get F.drcCfgRate = u.dram.toNat % 4 ∧ d.get F.drcCfgDensity = u.dram.toNat / 4 ∧ d.hng.fwDigest = slotA.digest / 2 ^ 128))) ∧
  Completes (exec (.perstNAssert moved) s) (fun t => t.pending = s.pending ∧ ((∀ x ∈ c.host.dmas, x.toHost = true) → t.hw.mem = s.hw.mem) ∧ t.hw.ctl.boot = { c.boot with perstN := false } ∧
    (c.running = true → c.boot.epReleased = true → t.hw.ctl.host.linkUp = false ∧ (c.host.linkUp = true → t.hw.ctl.host.dmas = []) ∧ t.hw.ctl.host.msixWritten = [] ∧
      ∀ r < 448, t.hw.ctl.ring r = RingSt.init)) ∧
  CompletesCtl s (exec .perstNDeassert s) (fun d => d.boot = { c.boot with perstN := true } ∧ Frame false [.boot] [] c d)

/-- R474 … R479 (AMB_SAMPLE, AMB_CFG_WRITE, STRAP_SAMPLE), R500 … R502 (IDCODE, SAMPLE_PRELOAD, EXTEST, HIGHZ, CLAMP, DBG_ACCESS, BYPASS, TAP_RESET): a sample sets MV and, after DEB samples beyond
a threshold, the level; a band narrower than 20 mV is ignored; a strap that moved is flagged; each TAP instruction selects its register and
shifts it out, the driving ones only while RESET_N holds the part in reset; a debug access without JTAG_EN is denied. -/
def Obligations.PinsAndTap : Prop := ∀ (s : State) (mv : Int) (v data : Word) (st : Straps) (balls : List Bool) (addr : BitVec 26) (row : RegRow),
  let c := s.hw.ctl
  let amb := min 1800 mv.toNat
  let lv := c.get F.phcAmbStatusLevel
  let meets := if lv = 1 then amb ≤ c.get F.phcAmbCfgLoMv else c.get F.phcAmbCfgHiMv ≤ amb
  let deb := max 1 (c.get F.phcAmbCfgDeb)
  let held := c.boot.straps
  let moved := st.pairId ≠ held.pairId ∨ st.mgmtAddr ≠ held.mgmtAddr ∨ st.bootRec ≠ held.bootRec
  let tap := fun (r : JtagReg) (drive highz : Bool) (bits : List Bool) (d : Ctl) => d.diag = { c.diag with jtag := r, jtagDrive := drive, jtagHighz := highz } ∧
    d.out = c.out ++ [.tdo bits] ∧ Frame false [.tap, .out] [] c d
  let access := fun (d : Ctl) => d.diag.jtag = .dbg ∧ ∃ bits, .tdo bits ∈ d.out ∧ bits.take 32 = bitsOf 32 c.diag.dbgData.toNat ∧
    (bits.drop 64).take 2 = [c.diag.dbgDone, c.diag.dbgDenied]
  let en := c.on F.dbgCtrlJtagEn
  (c.running = true →
    (¬meets → CompletesCtl s (exec (.ambSample mv) s) (fun d => d.get F.phcAmbStatusMv = amb ∧ d.boot = { c.boot with ambCount := 0 } ∧
      Frame false [.boot] [R.phcAmbStatus] c d)) ∧
    (meets → c.boot.ambCount + 1 < deb → CompletesCtl s (exec (.ambSample mv) s) (fun d => d.get F.phcAmbStatusMv = amb ∧
      d.boot = { c.boot with ambCount := c.boot.ambCount + 1 } ∧ d.get F.phcAmbStatusLevel = lv ∧ Frame false [.boot] [R.phcAmbStatus] c d)) ∧
    (meets → deb ≤ c.boot.ambCount + 1 → CompletesCtl s (exec (.ambSample mv) s) (fun d => d.get F.phcAmbStatusMv = amb ∧
      d.get F.phcAmbStatusLevel = 1 - lv ∧ d.on F.phcAmbStatusChg = true ∧ Counts c d F.phcAmbCntCount ∧ d.boot = { c.boot with ambCount := 0 } ∧
      Frame true [.boot] [R.phcAmbStatus, R.phcAmbCnt] c d)) ∧
    (fieldGet v 16 11 < fieldGet v 0 11 + 20 ∨ 1800 < fieldGet v 16 11 → CompletesCtl s (exec (.ambCfgWrite v) s) (fun d =>
      d.on F.phcAmbStatusCfgIgn = true ∧ Frame false [] [R.phcAmbStatus] c d)) ∧
    (fieldGet v 0 11 + 20 ≤ fieldGet v 16 11 → fieldGet v 16 11 ≤ 1800 → CompletesCtl s (exec (.ambCfgWrite v) s) (fun d =>
      d.rd R.phcAmbCfg = v &&& 0xF7FF87FF ∧ d.boot = { c.boot with ambCount := 0 } ∧ Frame false [.boot] [R.phcAmbCfg] c d)) ∧
    CompletesCtl s (exec (.strapSample st) s) (fun d => d.boot = { c.boot with live := st } ∧ (moved → d.on F.phcPinStatusStrapChg = true) ∧
      (¬moved → d.rd R.phcPinStatus = c.rd R.phcPinStatus) ∧ Frame false [.boot] [R.phcPinStatus] c d)) ∧
  CompletesCtl s (exec .idcode s) (tap .idcode false false (bitsOf 32 0x172006D7)) ∧
  CompletesCtl s (exec .bypass s) (tap .bypass false false [false]) ∧
  CompletesCtl s (exec .tapReset s) (fun d => d.diag = { c.diag with jtag := .idcode, jtagDrive := false, jtagHighz := false } ∧ Frame false [.tap] [] c d) ∧
  CompletesCtl s (exec (.samplePreload balls) s) (fun d => d.diag = { c.diag with jtag := .boundary, jtagDrive := false, jtagHighz := false, boundary := balls } ∧
    d.out = c.out ++ [.tdo balls] ∧ Frame false [.tap, .out] [] c d) ∧
  (c.pinReset = true → CompletesCtl s (exec .extest s) (tap .boundary true false c.diag.boundary) ∧
    CompletesCtl s (exec .highz s) (tap .bypass false true [false]) ∧ CompletesCtl s (exec .clamp s) (tap .bypass true false [false])) ∧
  (c.pinReset = false → ∀ k ∈ [Instr.extest, .highz, .clamp], CompletesCtl s (exec k s) (tap .bypass false false [false])) ∧
  (c.running = false ∨ en = false → ∀ w, CompletesCtl s (exec (.dbgAccess data addr w) s) (fun d => access d ∧ d.diag.dbgDenied = true ∧
    d.diag.dbgDone = false ∧ Frame false [.tap, .out] [] c d)) ∧
  (c.running = true → en = true → regRow addr.toNat = some row → addr.toNat % 4 = 0 → 0x100004 ≤ addr.toNat → addr.toNat < 0x140000 →
    CompletesCtl s (exec (.dbgAccess data addr true) s) (fun d => access d ∧ d.diag.dbgDone = true ∧ d.diag.dbgDenied = false ∧
      d.rd addr.toNat = ((c.rd addr.toNat &&& ~~~w32 row.rw) ||| (data &&& w32 row.rw)) &&& ~~~(data &&& w32 row.w1c) ∧
      Frame false [.tap, .out] [addr.toNat] c d) ∧
    CompletesCtl s (exec (.dbgAccess data addr false) s) (fun d => access d ∧ d.diag.dbgDone = true ∧ d.diag.dbgDenied = false ∧
      d.diag.dbgData = c.rd addr.toNat ∧ Frame false [.tap, .out] [addr.toNat] c d)) ∧
  (c.running = true → en = true → addr.toNat % 4 ≠ 0 → ∀ w, CompletesCtl s (exec (.dbgAccess data addr w) s) (fun d => access d ∧
    Counts c d F.glbBar0ErrCount ∧ d.diag.dbgDone = true ∧ Frame false [.tap, .out] [R.glbBar0Err, R.dbgSat] c d))
end

