-- ==== Sys2Proof/Laws/Store.lean ====
section
/-! SUPPORT. The sparse map's laws (read after write, canonical form) and the bit fields' laws. -/

namespace Sys2Proof.Machine

/-! Read after write. -/

theorem mget_merase_self {α : Type} (d : α) (m : SMap α) (k : Nat) : mget d (merase m k) k = d := by
  induction m with
  | nil => rfl
  | cons p t ih =>
    by_cases h : p.1 = k
    · simp [merase, h] at ih ⊢
      exact ih
    · simp [merase, h] at ih ⊢
      simp [mget, h, ih]

theorem mget_merase_ne {α : Type} (d : α) (m : SMap α) {k j : Nat} (hj : j ≠ k) : mget d (merase m k) j = mget d m j := by
  induction m with
  | nil => rfl
  | cons p t ih =>
    by_cases h : p.1 = k
    · have : p.1 ≠ j := fun e => hj (e ▸ h)
      simp [merase, h] at ih ⊢
      simp [mget, this, ih]
    · simp [merase, h] at ih ⊢
      simp [mget, ih]

theorem mget_minsert_self {α : Type} (d : α) (m : SMap α) (k : Nat) (v : α) (h : ∀ p ∈ m, p.1 ≠ k) :
    mget d (minsert k v m) k = v := by
  induction m with
  | nil => simp [minsert, mget]
  | cons p t ih =>
    have h0 : p.1 ≠ k := h p (by simp)
    by_cases hk : k < p.1
    · simp [minsert, hk, mget]
    · simp [minsert, hk, mget, h0]
      exact ih (fun q hq => h q (by simp [hq]))

theorem mget_minsert_ne {α : Type} (d : α) (m : SMap α) {k j : Nat} (v : α) (hj : j ≠ k) :
    mget d (minsert k v m) j = mget d m j := by
  induction m with
  | nil => simp [minsert, mget, Ne.symm hj]
  | cons p t ih =>
    by_cases hk : k < p.1
    · simp [minsert, hk, mget, Ne.symm hj]
    · simp [minsert, hk, mget, ih]

/-- A read at a key just set gives the value, at another key what it gave before. -/
theorem mget_mset {α : Type} [DecidableEq α] (d : α) (m : SMap α) (k j : Nat) (v : α) :
    mget d (mset d m k v) j = if j = k then v else mget d m j := by
  unfold mset
  by_cases hv : v = d
  · by_cases hj : j = k
    · subst hj; simp [hv, mget_merase_self]
    · simp [hv, hj, mget_merase_ne d m hj]
  · by_cases hj : j = k
    · subst hj
      simp [hv]
      exact mget_minsert_self d _ _ v (by simp [merase])
    · simp [hv, hj, mget_minsert_ne d _ v hj, mget_merase_ne d m hj]

@[simp] theorem mget_mset_self {α : Type} [DecidableEq α] (d : α) (m : SMap α) (k : Nat) (v : α) :
    mget d (mset d m k v) k = v := by simp [mget_mset]

/-- A read at another key, of whatever default, gives what it gave before. -/
theorem mget_mset_ne {α : Type} [DecidableEq α] (d e : α) (m : SMap α) {k j : Nat} (v : α) (h : j ≠ k) :
    mget e (mset d m k v) j = mget e m j := by
  unfold mset
  split
  · exact mget_merase_ne e m h
  · rw [mget_minsert_ne e _ v h, mget_merase_ne e m h]

/-- A read after keys were taken out. -/
theorem mget_mdrop {α : Type} (d : α) (p : Nat → Bool) (m : SMap α) (k : Nat) :
    mget d (mdrop p m) k = if p k then d else mget d m k := by
  induction m with
  | nil => simp [mdrop, mget]
  | cons q t ih =>
    by_cases hq : p q.1
    · by_cases hk : q.1 = k
      · subst hk; simp [mdrop, hq] at ih ⊢; exact ih
      · simp [mdrop, hq, mget, hk] at ih ⊢; exact ih
    · by_cases hk : q.1 = k
      · subst hk; simp [mdrop, hq, mget]
      · simp [mdrop, hq, mget, hk] at ih ⊢; exact ih

/-! Canonical form. -/

theorem msorted_cons {α : Type} (j : Nat) (v : α) (t : SMap α) :
    msorted ((j, v) :: t) = true ↔ (∀ p ∈ t, j < p.1) ∧ msorted t = true := by
  induction t generalizing j v with
  | nil => simp [msorted]
  | cons q t ih =>
    obtain ⟨k, w⟩ := q
    have hk := ih k w
    simp only [msorted, Bool.and_eq_true, decide_eq_true_eq, hk, List.mem_cons, forall_eq_or_imp]
    constructor
    · rintro ⟨h1, h2, h3⟩
      exact ⟨⟨h1, fun p hp => lt_trans h1 (h2 p hp)⟩, h2, h3⟩
    · rintro ⟨⟨h1, _⟩, h2, h3⟩
      exact ⟨h1, h2, h3⟩

theorem msorted_filter {α : Type} (f : Nat × α → Bool) (m : SMap α) (h : msorted m = true) : msorted (m.filter f) = true := by
  induction m with
  | nil => rfl
  | cons q t ih =>
    obtain ⟨j, v⟩ := q
    rw [msorted_cons] at h
    by_cases hf : f (j, v)
    · rw [List.filter_cons_of_pos hf]
      exact (msorted_cons j v _).mpr ⟨fun p hp => h.1 p (List.mem_filter.mp hp).1, ih h.2⟩
    · rw [List.filter_cons_of_neg hf]
      exact ih h.2

theorem minsert_mem {α : Type} (k : Nat) (v : α) (m : SMap α) (p : Nat × α) :
    p ∈ minsert k v m → p = (k, v) ∨ p ∈ m := by
  induction m with
  | nil => simp [minsert]
  | cons q t ih =>
    by_cases hk : k < q.1
    · simp [minsert, hk]
    · intro hp
      simp [minsert, hk] at hp
      rcases hp with h | h
      · exact .inr (by simp [h])
      · rcases ih h with h' | h'
        · exact .inl h'
        · exact .inr (by simp [h'])

theorem msorted_minsert {α : Type} (k : Nat) (v : α) (m : SMap α) (h : msorted m = true) (hk : ∀ p ∈ m, p.1 ≠ k) :
    msorted (minsert k v m) = true := by
  induction m with
  | nil => rfl
  | cons q t ih =>
    obtain ⟨j, w⟩ := q
    rw [msorted_cons] at h
    by_cases hlt : k < j
    · simp only [minsert, hlt, if_true]
      exact (msorted_cons k v _).mpr ⟨fun p hp => by
        rcases List.mem_cons.mp hp with e | e
        · rw [e]; exact hlt
        · exact lt_trans hlt (h.1 p e), (msorted_cons j w t).mpr h⟩
    · simp only [minsert, hlt, if_false]
      have hne : j ≠ k := hk (j, w) (by simp)
      exact (msorted_cons j w _).mpr ⟨fun p hp => by
        rcases minsert_mem k v t p hp with e | e
        · rw [e]; show j < k; omega
        · exact h.1 p e, ih h.2 (fun p hp => hk p (by simp [hp]))⟩

theorem mwf_iff {α : Type} [DecidableEq α] (d : α) (m : SMap α) :
    mwf d m = true ↔ msorted m = true ∧ ∀ p ∈ m, p.2 ≠ d := by
  simp [mwf, List.all_eq_true]

/-- Taking entries out keeps the canonical form. -/
theorem mwf_filter {α : Type} [DecidableEq α] (d : α) (f : Nat × α → Bool) (m : SMap α) (h : mwf d m = true) :
    mwf d (m.filter f) = true := by
  rw [mwf_iff] at h ⊢
  exact ⟨msorted_filter f m h.1, fun p hp => h.2 p (List.mem_filter.mp hp).1⟩

/-- Taking keys out keeps the canonical form. -/
theorem mwf_mdrop {α : Type} [DecidableEq α] (d : α) (p : Nat → Bool) (m : SMap α) (h : mwf d m = true) :
    mwf d (mdrop p m) = true := mwf_filter d _ m h

/-- Setting a key keeps the canonical form. -/
theorem mwf_mset {α : Type} [DecidableEq α] (d : α) (m : SMap α) (k : Nat) (v : α) (h : mwf d m = true) :
    mwf d (mset d m k v) = true := by
  unfold mset
  have he : mwf d (merase m k) = true := mwf_filter d _ m h
  by_cases hv : v = d
  · simp [hv, he]
  · simp only [hv, if_false]
    rw [mwf_iff] at he ⊢
    refine ⟨msorted_minsert k v _ he.1 (by simp [merase]), fun p hp => ?_⟩
    rcases minsert_mem k v _ p hp with e | e
    · rw [e]; exact hv
    · exact he.2 p e

/-! Bit fields. -/

theorem fieldGet_lt (v : Word) (lo n : Nat) : fieldGet v lo n < 2 ^ n := Nat.mod_lt _ (Nat.two_pow_pos n)

theorem fieldGet_testBit (v : Word) (lo n i : Nat) : (fieldGet v lo n).testBit i = (decide (i < n) && v.getLsbD (lo + i)) := by
  simp [fieldGet, Nat.testBit_mod_two_pow, Nat.testBit_shiftRight, BitVec.getLsbD]

theorem getLsbD_ofNat32 (x i : Nat) (h : i < 32) : (BitVec.ofNat 32 x).getLsbD i = x.testBit i := by
  rw [BitVec.getLsbD, BitVec.toNat_ofNat, Nat.testBit_mod_two_pow]
  simp [h]

theorem fieldPut_getLsbD (v : Word) (lo n x i : Nat) (hn : lo + n ≤ 32) :
    (fieldPut v lo n x).getLsbD i = if lo ≤ i ∧ i < lo + n then x.testBit (i - lo) else v.getLsbD i := by
  by_cases hi : i < 32
  · simp only [fieldPut, BitVec.getLsbD_or, BitVec.getLsbD_and, BitVec.getLsbD_not, BitVec.getLsbD_shiftLeft, hi, decide_true,
      Bool.true_and]
    by_cases h1 : lo ≤ i
    · have h4 : i - lo < 32 := by omega
      have h5 : ¬ i < lo := by omega
      rw [getLsbD_ofNat32 _ _ h4, getLsbD_ofNat32 _ _ h4, Nat.testBit_two_pow_sub_one, Nat.testBit_mod_two_pow]
      by_cases h2 : i < lo + n
      · have h3 : i - lo < n := by omega
        simp [h1, h2, h3, h5]
      · have h3 : ¬ i - lo < n := by omega
        simp [h1, h2, h3, h5]
    · have h5 : i < lo := by omega
      simp [h1, h5]
  · have h5 : ¬ (lo ≤ i ∧ i < lo + n) := by omega
    rw [if_neg h5, BitVec.getLsbD_of_ge _ _ (by omega), BitVec.getLsbD_of_ge _ _ (by omega)]

/-- A field just set reads as the value modulo its width. -/
theorem fieldGet_fieldPut_self (v : Word) (lo n x : Nat) (hn : lo + n ≤ 32) : fieldGet (fieldPut v lo n x) lo n = x % 2 ^ n := by
  apply Nat.eq_of_testBit_eq
  intro i
  rw [fieldGet_testBit, Nat.testBit_mod_two_pow, fieldPut_getLsbD _ _ _ _ _ hn]
  by_cases hi : i < n
  · have : lo ≤ lo + i ∧ lo + i < lo + n := by omega
    simp [hi, this]
  · simp [hi]

/-- A field that shares no bit with the one set reads as before. -/
theorem fieldGet_fieldPut_disjoint (v : Word) (lo n x lo' n' : Nat) (hn : lo + n ≤ 32) (h : lo' + n' ≤ lo ∨ lo + n ≤ lo') :
    fieldGet (fieldPut v lo n x) lo' n' = fieldGet v lo' n' := by
  apply Nat.eq_of_testBit_eq
  intro i
  rw [fieldGet_testBit, fieldGet_testBit, fieldPut_getLsbD _ _ _ _ _ hn]
  by_cases hi : i < n'
  · have : ¬ (lo ≤ lo' + i ∧ lo' + i < lo + n) := by omega
    simp [this]
  · simp [hi]

/-- A field of at most n bits just set to a value that fits reads as it. -/
theorem fieldGet_fieldPut_fit (v : Word) (lo n x : Nat) (hn : lo + n ≤ 32) (hx : x < 2 ^ n) :
    fieldGet (fieldPut v lo n x) lo n = x := by rw [fieldGet_fieldPut_self _ _ _ _ hn, Nat.mod_eq_of_lt hx]

/-- Bit i of a number with bit i set. -/
theorem testBit_setBit (x i : Nat) : (setBit x i).testBit i = true := by
  unfold setBit
  by_cases h : x.testBit i
  · simp [h]
  · simp only [h]
    have := Nat.testBit_two_pow_add_eq x i
    rw [Nat.add_comm] at this
    simp [this, h]

/-- The four bytes of a word are that word. -/
theorem ofBytes_toBytes (x : Word) : ofBytes (toBytes 4 x.toNat) = x.toNat := by
  have h := x.isLt
  simp [toBytes, List.range_succ, ofBytes, Nat.shiftRight_eq_div_pow]
  omega

end Sys2Proof.Machine
end

