-- ==== Sys2Proof/Laws/Memory.lean ====
section
/-! SUPPORT. The byte memories' laws: read after write, what an act leaves alone, and that every act keeps the canonical form. -/

namespace Sys2Proof.Machine

/-! Read after write. -/

/-- A byte just written reads as it; every other byte as before. -/
theorem Mem.rd_wr (m : Mem) (k j : Nat) (b : Byte) : (m.wr k b).rd j = if j = k then b else m.rd j := mget_mset 0 m.bytes k j b

theorem Mem.rd_wrN_lt (m : Mem) (bs : List Byte) : ∀ (k j : Nat), j < k → (m.wrN k bs).rd j = m.rd j := by
  induction bs generalizing m with
  | nil => intro k j _; rfl
  | cons b t ih =>
    intro k j h
    rw [Mem.wrN, ih _ (k + 1) j (by omega), Mem.rd_wr]
    simp [Nat.ne_of_lt h]

/-- After a write of bytes from k on, the byte at j is the one written there, or what it was. -/
theorem Mem.rd_wrN (m : Mem) (bs : List Byte) : ∀ (k j : Nat),
    (m.wrN k bs).rd j = if k ≤ j ∧ j < k + bs.length then bs.getD (j - k) 0 else m.rd j := by
  induction bs generalizing m with
  | nil => intro k j; simp [Mem.wrN]
  | cons b t ih =>
    intro k j
    rw [Mem.wrN, ih _ (k + 1) j]
    by_cases h1 : j = k
    · subst h1
      simp [Mem.rd_wr]
    · by_cases h2 : k ≤ j ∧ j < k + (b :: t).length
      · have h3 : k + 1 ≤ j ∧ j < k + 1 + t.length := by simp only [List.length_cons] at h2; omega
        rw [if_pos h2, if_pos h3]
        obtain ⟨d, rfl⟩ : ∃ d, j = k + 1 + d := ⟨j - (k + 1), by omega⟩
        simp [show k + 1 + d - k = d + 1 by omega]
      · have h3 : ¬ (k + 1 ≤ j ∧ j < k + 1 + t.length) := by simp only [List.length_cons] at h2; omega
        rw [if_neg h2, if_neg h3, Mem.rd_wr, if_neg h1]

/-- The bytes a put act writes, and every other byte as before. -/
theorem MAct.rd_put (m : Mem) (k j : Nat) (bs : List Byte) :
    (MAct.apply m (.put k bs)).rd j = if k ≤ j ∧ j < k + bs.length then bs.getD (j - k) 0 else m.rd j := Mem.rd_wrN m bs k j

/-- A marked range reads as zeros, every other byte as before. -/
theorem MAct.rd_mark (m : Mem) (k n j : Nat) : (MAct.apply m (.mark k n)).rd j = if inRange k n j then 0 else m.rd j :=
  mget_mdrop 0 _ m.bytes j

/-- The clearing engine changes no byte. -/
theorem MAct.rd_clear (m : Mem) (k j : Nat) : (MAct.apply m (.clear k)).rd j = m.rd j := by
  unfold MAct.apply
  by_cases h : m.pendingAt k <;> simp [h, Mem.rd]

/-- Poison changes no byte. -/
theorem MAct.rd_poison (m : Mem) (k j : Nat) : (MAct.apply m (.poison k)).rd j = m.rd j := rfl

/-! Canonical form. -/

theorem Mem.wf_iff (m : Mem) :
    m.wf = true ↔ mwf 0 m.bytes = true ∧ mwf false m.written = true ∧ mwf false m.poison = true := by
  simp [Mem.wf, and_assoc]

theorem Mem.wr_wf (m : Mem) (k : Nat) (b : Byte) (h : m.wf = true) : (m.wr k b).wf = true := by
  rw [Mem.wf_iff] at h ⊢
  refine ⟨mwf_mset 0 _ _ _ h.1, ?_, h.2.2⟩
  show mwf false (if isDram k then m.written else mset false m.written (lineKey k) true) = true
  split
  · exact h.2.1
  · exact mwf_mset false _ _ _ h.2.1

theorem Mem.wrN_wf (bs : List Byte) : ∀ (m : Mem) (k : Nat), m.wf = true → (m.wrN k bs).wf = true := by
  induction bs with
  | nil => intro m k h; exact h
  | cons b t ih => intro m k h; exact ih _ _ (m.wr_wf k b h)

theorem mwf_foldl_mset {α β : Type} [DecidableEq α] (z : α) (l : List β) (key : β → Nat) (val : β → α) :
    ∀ m : SMap α, mwf z m = true → mwf z (l.foldl (fun t p => mset z t (key p) (val p)) m) = true := by
  induction l with
  | nil => intro m h; exact h
  | cons p t ih => intro m h; exact ih _ (mwf_mset z _ _ _ h)

/-- Copying a range keeps the canonical form. -/
theorem mwf_mcopy {α : Type} [DecidableEq α] (z : α) (m : SMap α) (k d n : Nat) (h : mwf z m = true) :
    mwf z (mcopy z m k d n) = true := by
  unfold mcopy
  exact mwf_foldl_mset z _ (fun (p : Nat × α) => p.1 - k + d) (fun (p : Nat × α) => p.2) _ (mwf_mdrop z _ m h)

/-- A put keeps the canonical form. -/
theorem MAct.put_wf (m : Mem) (k : Nat) (bs : List Byte) (h : m.wf = true) : (MAct.apply m (.put k bs)).wf = true := by
  have h' := (Mem.wf_iff _).mp (m.wrN_wf bs k h)
  refine (Mem.wf_iff _).mpr ⟨h'.1, h'.2.1, ?_⟩
  exact mwf_mdrop false (fun w => decide (k ≤ w ∧ w + 32 ≤ k + bs.length)) (m.wrN k bs).poison h'.2.2

/-- A clear keeps the canonical form. -/
theorem MAct.clear_wf (m : Mem) (k : Nat) (h : m.wf = true) : (MAct.apply m (.clear k)).wf = true := by
  show (if m.pendingAt k then { m with written := mset false m.written (lineKey k) true } else m).wf = true
  split
  · rw [Mem.wf_iff] at h
    refine (Mem.wf_iff _).mpr ⟨h.1, ?_, h.2.2⟩
    show mwf false (mset false m.written (lineKey k) true) = true
    exact mwf_mset false m.written (lineKey k) true h.2.1
  · exact h

/-- Every act keeps the canonical form. -/
theorem MAct.apply_wf (m : Mem) (a : MAct) (h : m.wf = true) : (MAct.apply m a).wf = true := by
  cases a with
  | put k bs => exact MAct.put_wf m k bs h
  | mark k n =>
    rw [Mem.wf_iff] at h
    refine (Mem.wf_iff _).mpr ⟨?_, ?_, ?_⟩
    · exact mwf_mdrop 0 (inRange k n) m.bytes h.1
    · exact mwf_mdrop false (inRange k n) m.written h.2.1
    · exact mwf_mdrop false (inRange k n) m.poison h.2.2
  | clear k => exact MAct.clear_wf m k h
  | poison k =>
    rw [Mem.wf_iff] at h
    refine (Mem.wf_iff _).mpr ⟨h.1, h.2.1, ?_⟩
    show mwf false (mset false m.poison (wordKey k) true) = true
    exact mwf_mset false m.poison (wordKey k) true h.2.2
  | copy k d n =>
    rw [Mem.wf_iff] at h
    refine (Mem.wf_iff _).mpr ⟨?_, ?_, ?_⟩
    · exact mwf_mcopy 0 m.bytes k d n h.1
    · exact mwf_mcopy false m.written k d n h.2.1
    · exact mwf_mcopy false m.poison k d n h.2.2

/-- Acts in order keep the canonical form. -/
theorem MAct.run_wf (as : List MAct) : ∀ m : Mem, m.wf = true → (MAct.run m as).wf = true := by
  induction as with
  | nil => intro m h; exact h
  | cons a t ih => intro m h; exact ih _ (MAct.apply_wf m a h)

/-! The two shapes of a step. -/

/-- A step that changes the controllers alone leaves memory and queue, and always answers. -/
theorem onCtl_next (s t : State) (f : Ctl → Ctl) (h : onCtl s f = .next t) :
    t.hw.mem = s.hw.mem ∧ t.pending = s.pending ∧ t.hw.ctl = f s.hw.ctl := by
  cases h; exact ⟨rfl, rfl, rfl⟩

/-- A step that acts on the memories leaves the queue; the memories are what its acts make of them. -/
theorem onHw_next (s t : State) (f : W → W) (h : onHw s f = .next t) :
    ∃ as, t.hw.mem = MAct.run s.hw.mem as ∧ t.pending = s.pending ∧ t.hw.ctl = (f ⟨s.hw.ctl, s.hw.mem, []⟩).ctl := by
  cases h; exact ⟨_, rfl, rfl, rfl⟩

/-- What a step over memories answers, from the work area it leaves. -/
theorem onHw_eq (s : State) (f : W → W) (w : W) (h : f ⟨s.hw.ctl, s.hw.mem, []⟩ = w) :
    onHw s f = .next ⟨⟨w.ctl, MAct.run s.hw.mem w.acts.reverse⟩, s.pending⟩ := by
  subst h; rfl

@[simp] theorem W.on_ctl (w : W) (f : Ctl → Ctl) : (w.on f).ctl = f w.ctl := rfl
@[simp] theorem W.on_mem (w : W) (f : Ctl → Ctl) : (w.on f).mem = w.mem := rfl
@[simp] theorem W.on_acts (w : W) (f : Ctl → Ctl) : (w.on f).acts = w.acts := rfl
@[simp] theorem W.act_ctl (w : W) (a : MAct) : (w.act a).ctl = w.ctl := rfl
@[simp] theorem W.act_mem (w : W) (a : MAct) : (w.act a).mem = MAct.apply w.mem a := rfl
@[simp] theorem W.act_acts (w : W) (a : MAct) : (w.act a).acts = a :: w.acts := rfl

/-- The stored code of a word fails its check exactly where the word is poison (R174, R176). -/
theorem Mem.fails_eq (m : Mem) (k : Nat) : m.fails k = m.poisonAt k := by
  unfold Mem.fails Mem.codeAt
  cases h : m.poisonAt k
  · simp
  · have hne : crc10 (m.word k) ^^^ 0x3FF ≠ crc10 (m.word k) := by
      intro e
      have h0 := congrArg (fun x => x.testBit 0) e
      simp at h0
      omega
    simp [hne]

end Sys2Proof.Machine
end

