-- ==== Sys2Proof/Laws/State.lean ====
section
/-! SUPPORT. One lemma per part of the controllers per update, and what a register, a field and an indexed part read after
each update. -/

namespace Sys2Proof.Machine

/-! Every part under every update. -/

@[simp] theorem Ctl.wr_now (c : Ctl) (a : Nat) (v : Word) : (c.wr a v).now = c.now := rfl
@[simp] theorem Ctl.wr_fab (c : Ctl) (a : Nat) (v : Word) : (c.wr a v).fab = c.fab := rfl
@[simp] theorem Ctl.wr_cnp (c : Ctl) (a : Nat) (v : Word) : (c.wr a v).cnp = c.cnp := rfl
@[simp] theorem Ctl.wr_vid (c : Ctl) (a : Nat) (v : Word) : (c.wr a v).vid = c.vid := rfl
@[simp] theorem Ctl.wr_ras (c : Ctl) (a : Nat) (v : Word) : (c.wr a v).ras = c.ras := rfl
@[simp] theorem Ctl.wr_ports (c : Ctl) (a : Nat) (v : Word) : (c.wr a v).ports = c.ports := rfl
@[simp] theorem Ctl.wr_host (c : Ctl) (a : Nat) (v : Word) : (c.wr a v).host = c.host := rfl
@[simp] theorem Ctl.wr_img (c : Ctl) (a : Nat) (v : Word) : (c.wr a v).img = c.img := rfl
@[simp] theorem Ctl.wr_und (c : Ctl) (a : Nat) (v : Word) : (c.wr a v).und = c.und := rfl
@[simp] theorem Ctl.wr_gld (c : Ctl) (a : Nat) (v : Word) : (c.wr a v).gld = c.gld := rfl
@[simp] theorem Ctl.wr_hng (c : Ctl) (a : Nat) (v : Word) : (c.wr a v).hng = c.hng := rfl
@[simp] theorem Ctl.wr_pwr (c : Ctl) (a : Nat) (v : Word) : (c.wr a v).pwr = c.pwr := rfl
@[simp] theorem Ctl.wr_boot (c : Ctl) (a : Nat) (v : Word) : (c.wr a v).boot = c.boot := rfl
@[simp] theorem Ctl.wr_diag (c : Ctl) (a : Nat) (v : Word) : (c.wr a v).diag = c.diag := rfl
@[simp] theorem Ctl.wr_free (c : Ctl) (a : Nat) (v : Word) : (c.wr a v).free = c.free := rfl
@[simp] theorem Ctl.wr_out (c : Ctl) (a : Nat) (v : Word) : (c.wr a v).out = c.out := rfl

@[simp] theorem Ctl.put_now (c : Ctl) (f : Fld) (x : Nat) : (c.put f x).now = c.now := rfl
@[simp] theorem Ctl.put_fab (c : Ctl) (f : Fld) (x : Nat) : (c.put f x).fab = c.fab := rfl
@[simp] theorem Ctl.put_cnp (c : Ctl) (f : Fld) (x : Nat) : (c.put f x).cnp = c.cnp := rfl
@[simp] theorem Ctl.put_vid (c : Ctl) (f : Fld) (x : Nat) : (c.put f x).vid = c.vid := rfl
@[simp] theorem Ctl.put_ras (c : Ctl) (f : Fld) (x : Nat) : (c.put f x).ras = c.ras := rfl
@[simp] theorem Ctl.put_ports (c : Ctl) (f : Fld) (x : Nat) : (c.put f x).ports = c.ports := rfl
@[simp] theorem Ctl.put_host (c : Ctl) (f : Fld) (x : Nat) : (c.put f x).host = c.host := rfl
@[simp] theorem Ctl.put_img (c : Ctl) (f : Fld) (x : Nat) : (c.put f x).img = c.img := rfl
@[simp] theorem Ctl.put_und (c : Ctl) (f : Fld) (x : Nat) : (c.put f x).und = c.und := rfl
@[simp] theorem Ctl.put_gld (c : Ctl) (f : Fld) (x : Nat) : (c.put f x).gld = c.gld := rfl
@[simp] theorem Ctl.put_hng (c : Ctl) (f : Fld) (x : Nat) : (c.put f x).hng = c.hng := rfl
@[simp] theorem Ctl.put_pwr (c : Ctl) (f : Fld) (x : Nat) : (c.put f x).pwr = c.pwr := rfl
@[simp] theorem Ctl.put_boot (c : Ctl) (f : Fld) (x : Nat) : (c.put f x).boot = c.boot := rfl
@[simp] theorem Ctl.put_diag (c : Ctl) (f : Fld) (x : Nat) : (c.put f x).diag = c.diag := rfl
@[simp] theorem Ctl.put_free (c : Ctl) (f : Fld) (x : Nat) : (c.put f x).free = c.free := rfl
@[simp] theorem Ctl.put_out (c : Ctl) (f : Fld) (x : Nat) : (c.put f x).out = c.out := rfl

@[simp] theorem Ctl.vcSet_regs (c : Ctl) (s : Nat) (v : VCtx) : (c.vcSet s v).regs = c.regs := rfl
@[simp] theorem Ctl.vcSet_now (c : Ctl) (s : Nat) (v : VCtx) : (c.vcSet s v).now = c.now := rfl
@[simp] theorem Ctl.vcSet_fab (c : Ctl) (s : Nat) (v : VCtx) : (c.vcSet s v).fab = c.fab := rfl
@[simp] theorem Ctl.vcSet_cnp (c : Ctl) (s : Nat) (v : VCtx) : (c.vcSet s v).cnp = c.cnp := rfl
@[simp] theorem Ctl.vcSet_ras (c : Ctl) (s : Nat) (v : VCtx) : (c.vcSet s v).ras = c.ras := rfl
@[simp] theorem Ctl.vcSet_ports (c : Ctl) (s : Nat) (v : VCtx) : (c.vcSet s v).ports = c.ports := rfl
@[simp] theorem Ctl.vcSet_host (c : Ctl) (s : Nat) (v : VCtx) : (c.vcSet s v).host = c.host := rfl
@[simp] theorem Ctl.vcSet_img (c : Ctl) (s : Nat) (v : VCtx) : (c.vcSet s v).img = c.img := rfl
@[simp] theorem Ctl.vcSet_und (c : Ctl) (s : Nat) (v : VCtx) : (c.vcSet s v).und = c.und := rfl
@[simp] theorem Ctl.vcSet_gld (c : Ctl) (s : Nat) (v : VCtx) : (c.vcSet s v).gld = c.gld := rfl
@[simp] theorem Ctl.vcSet_hng (c : Ctl) (s : Nat) (v : VCtx) : (c.vcSet s v).hng = c.hng := rfl
@[simp] theorem Ctl.vcSet_pwr (c : Ctl) (s : Nat) (v : VCtx) : (c.vcSet s v).pwr = c.pwr := rfl
@[simp] theorem Ctl.vcSet_boot (c : Ctl) (s : Nat) (v : VCtx) : (c.vcSet s v).boot = c.boot := rfl
@[simp] theorem Ctl.vcSet_diag (c : Ctl) (s : Nat) (v : VCtx) : (c.vcSet s v).diag = c.diag := rfl
@[simp] theorem Ctl.vcSet_free (c : Ctl) (s : Nat) (v : VCtx) : (c.vcSet s v).free = c.free := rfl
@[simp] theorem Ctl.vcSet_out (c : Ctl) (s : Nat) (v : VCtx) : (c.vcSet s v).out = c.out := rfl

@[simp] theorem Ctl.rcSet_regs (c : Ctl) (s : Nat) (v : RCtx) : (c.rcSet s v).regs = c.regs := rfl
@[simp] theorem Ctl.rcSet_now (c : Ctl) (s : Nat) (v : RCtx) : (c.rcSet s v).now = c.now := rfl
@[simp] theorem Ctl.rcSet_fab (c : Ctl) (s : Nat) (v : RCtx) : (c.rcSet s v).fab = c.fab := rfl
@[simp] theorem Ctl.rcSet_cnp (c : Ctl) (s : Nat) (v : RCtx) : (c.rcSet s v).cnp = c.cnp := rfl
@[simp] theorem Ctl.rcSet_vid (c : Ctl) (s : Nat) (v : RCtx) : (c.rcSet s v).vid = c.vid := rfl
@[simp] theorem Ctl.rcSet_ports (c : Ctl) (s : Nat) (v : RCtx) : (c.rcSet s v).ports = c.ports := rfl
@[simp] theorem Ctl.rcSet_host (c : Ctl) (s : Nat) (v : RCtx) : (c.rcSet s v).host = c.host := rfl
@[simp] theorem Ctl.rcSet_img (c : Ctl) (s : Nat) (v : RCtx) : (c.rcSet s v).img = c.img := rfl
@[simp] theorem Ctl.rcSet_und (c : Ctl) (s : Nat) (v : RCtx) : (c.rcSet s v).und = c.und := rfl
@[simp] theorem Ctl.rcSet_gld (c : Ctl) (s : Nat) (v : RCtx) : (c.rcSet s v).gld = c.gld := rfl
@[simp] theorem Ctl.rcSet_hng (c : Ctl) (s : Nat) (v : RCtx) : (c.rcSet s v).hng = c.hng := rfl
@[simp] theorem Ctl.rcSet_pwr (c : Ctl) (s : Nat) (v : RCtx) : (c.rcSet s v).pwr = c.pwr := rfl
@[simp] theorem Ctl.rcSet_boot (c : Ctl) (s : Nat) (v : RCtx) : (c.rcSet s v).boot = c.boot := rfl
@[simp] theorem Ctl.rcSet_diag (c : Ctl) (s : Nat) (v : RCtx) : (c.rcSet s v).diag = c.diag := rfl
@[simp] theorem Ctl.rcSet_free (c : Ctl) (s : Nat) (v : RCtx) : (c.rcSet s v).free = c.free := rfl
@[simp] theorem Ctl.rcSet_out (c : Ctl) (s : Nat) (v : RCtx) : (c.rcSet s v).out = c.out := rfl

@[simp] theorem Ctl.ringSet_regs (c : Ctl) (r : Nat) (v : RingSt) : (c.ringSet r v).regs = c.regs := rfl
@[simp] theorem Ctl.ringSet_now (c : Ctl) (r : Nat) (v : RingSt) : (c.ringSet r v).now = c.now := rfl
@[simp] theorem Ctl.ringSet_fab (c : Ctl) (r : Nat) (v : RingSt) : (c.ringSet r v).fab = c.fab := rfl
@[simp] theorem Ctl.ringSet_cnp (c : Ctl) (r : Nat) (v : RingSt) : (c.ringSet r v).cnp = c.cnp := rfl
@[simp] theorem Ctl.ringSet_vid (c : Ctl) (r : Nat) (v : RingSt) : (c.ringSet r v).vid = c.vid := rfl
@[simp] theorem Ctl.ringSet_ras (c : Ctl) (r : Nat) (v : RingSt) : (c.ringSet r v).ras = c.ras := rfl
@[simp] theorem Ctl.ringSet_ports (c : Ctl) (r : Nat) (v : RingSt) : (c.ringSet r v).ports = c.ports := rfl
@[simp] theorem Ctl.ringSet_img (c : Ctl) (r : Nat) (v : RingSt) : (c.ringSet r v).img = c.img := rfl
@[simp] theorem Ctl.ringSet_und (c : Ctl) (r : Nat) (v : RingSt) : (c.ringSet r v).und = c.und := rfl
@[simp] theorem Ctl.ringSet_gld (c : Ctl) (r : Nat) (v : RingSt) : (c.ringSet r v).gld = c.gld := rfl
@[simp] theorem Ctl.ringSet_hng (c : Ctl) (r : Nat) (v : RingSt) : (c.ringSet r v).hng = c.hng := rfl
@[simp] theorem Ctl.ringSet_pwr (c : Ctl) (r : Nat) (v : RingSt) : (c.ringSet r v).pwr = c.pwr := rfl
@[simp] theorem Ctl.ringSet_boot (c : Ctl) (r : Nat) (v : RingSt) : (c.ringSet r v).boot = c.boot := rfl
@[simp] theorem Ctl.ringSet_diag (c : Ctl) (r : Nat) (v : RingSt) : (c.ringSet r v).diag = c.diag := rfl
@[simp] theorem Ctl.ringSet_free (c : Ctl) (r : Nat) (v : RingSt) : (c.ringSet r v).free = c.free := rfl
@[simp] theorem Ctl.ringSet_out (c : Ctl) (r : Nat) (v : RingSt) : (c.ringSet r v).out = c.out := rfl

@[simp] theorem Ctl.coreSet_regs (c : Ctl) (q : Nat) (v : CoreSt) : (c.coreSet q v).regs = c.regs := rfl
@[simp] theorem Ctl.coreSet_now (c : Ctl) (q : Nat) (v : CoreSt) : (c.coreSet q v).now = c.now := rfl
@[simp] theorem Ctl.coreSet_cnp (c : Ctl) (q : Nat) (v : CoreSt) : (c.coreSet q v).cnp = c.cnp := rfl
@[simp] theorem Ctl.coreSet_vid (c : Ctl) (q : Nat) (v : CoreSt) : (c.coreSet q v).vid = c.vid := rfl
@[simp] theorem Ctl.coreSet_ras (c : Ctl) (q : Nat) (v : CoreSt) : (c.coreSet q v).ras = c.ras := rfl
@[simp] theorem Ctl.coreSet_ports (c : Ctl) (q : Nat) (v : CoreSt) : (c.coreSet q v).ports = c.ports := rfl
@[simp] theorem Ctl.coreSet_host (c : Ctl) (q : Nat) (v : CoreSt) : (c.coreSet q v).host = c.host := rfl
@[simp] theorem Ctl.coreSet_img (c : Ctl) (q : Nat) (v : CoreSt) : (c.coreSet q v).img = c.img := rfl
@[simp] theorem Ctl.coreSet_und (c : Ctl) (q : Nat) (v : CoreSt) : (c.coreSet q v).und = c.und := rfl
@[simp] theorem Ctl.coreSet_gld (c : Ctl) (q : Nat) (v : CoreSt) : (c.coreSet q v).gld = c.gld := rfl
@[simp] theorem Ctl.coreSet_hng (c : Ctl) (q : Nat) (v : CoreSt) : (c.coreSet q v).hng = c.hng := rfl
@[simp] theorem Ctl.coreSet_pwr (c : Ctl) (q : Nat) (v : CoreSt) : (c.coreSet q v).pwr = c.pwr := rfl
@[simp] theorem Ctl.coreSet_boot (c : Ctl) (q : Nat) (v : CoreSt) : (c.coreSet q v).boot = c.boot := rfl
@[simp] theorem Ctl.coreSet_diag (c : Ctl) (q : Nat) (v : CoreSt) : (c.coreSet q v).diag = c.diag := rfl
@[simp] theorem Ctl.coreSet_free (c : Ctl) (q : Nat) (v : CoreSt) : (c.coreSet q v).free = c.free := rfl
@[simp] theorem Ctl.coreSet_out (c : Ctl) (q : Nat) (v : CoreSt) : (c.coreSet q v).out = c.out := rfl

@[simp] theorem Ctl.emit_regs (c : Ctl) (o : Output) : (c.emit o).regs = c.regs := rfl
@[simp] theorem Ctl.emit_now (c : Ctl) (o : Output) : (c.emit o).now = c.now := rfl
@[simp] theorem Ctl.emit_fab (c : Ctl) (o : Output) : (c.emit o).fab = c.fab := rfl
@[simp] theorem Ctl.emit_cnp (c : Ctl) (o : Output) : (c.emit o).cnp = c.cnp := rfl
@[simp] theorem Ctl.emit_vid (c : Ctl) (o : Output) : (c.emit o).vid = c.vid := rfl
@[simp] theorem Ctl.emit_ras (c : Ctl) (o : Output) : (c.emit o).ras = c.ras := rfl
@[simp] theorem Ctl.emit_ports (c : Ctl) (o : Output) : (c.emit o).ports = c.ports := rfl
@[simp] theorem Ctl.emit_host (c : Ctl) (o : Output) : (c.emit o).host = c.host := rfl
@[simp] theorem Ctl.emit_img (c : Ctl) (o : Output) : (c.emit o).img = c.img := rfl
@[simp] theorem Ctl.emit_und (c : Ctl) (o : Output) : (c.emit o).und = c.und := rfl
@[simp] theorem Ctl.emit_gld (c : Ctl) (o : Output) : (c.emit o).gld = c.gld := rfl
@[simp] theorem Ctl.emit_hng (c : Ctl) (o : Output) : (c.emit o).hng = c.hng := rfl
@[simp] theorem Ctl.emit_pwr (c : Ctl) (o : Output) : (c.emit o).pwr = c.pwr := rfl
@[simp] theorem Ctl.emit_boot (c : Ctl) (o : Output) : (c.emit o).boot = c.boot := rfl
@[simp] theorem Ctl.emit_diag (c : Ctl) (o : Output) : (c.emit o).diag = c.diag := rfl
@[simp] theorem Ctl.emit_free (c : Ctl) (o : Output) : (c.emit o).free = c.free := rfl

@[simp] theorem Ctl.vregSet_regs (c : Ctl) (q i : Nat) (v : BitVec 1024) : (c.vregSet q i v).regs = c.regs := rfl
@[simp] theorem Ctl.vregSet_now (c : Ctl) (q i : Nat) (v : BitVec 1024) : (c.vregSet q i v).now = c.now := rfl
@[simp] theorem Ctl.vregSet_cnp (c : Ctl) (q i : Nat) (v : BitVec 1024) : (c.vregSet q i v).cnp = c.cnp := rfl
@[simp] theorem Ctl.vregSet_vid (c : Ctl) (q i : Nat) (v : BitVec 1024) : (c.vregSet q i v).vid = c.vid := rfl
@[simp] theorem Ctl.vregSet_ras (c : Ctl) (q i : Nat) (v : BitVec 1024) : (c.vregSet q i v).ras = c.ras := rfl
@[simp] theorem Ctl.vregSet_ports (c : Ctl) (q i : Nat) (v : BitVec 1024) : (c.vregSet q i v).ports = c.ports := rfl
@[simp] theorem Ctl.vregSet_host (c : Ctl) (q i : Nat) (v : BitVec 1024) : (c.vregSet q i v).host = c.host := rfl
@[simp] theorem Ctl.vregSet_img (c : Ctl) (q i : Nat) (v : BitVec 1024) : (c.vregSet q i v).img = c.img := rfl
@[simp] theorem Ctl.vregSet_und (c : Ctl) (q i : Nat) (v : BitVec 1024) : (c.vregSet q i v).und = c.und := rfl
@[simp] theorem Ctl.vregSet_gld (c : Ctl) (q i : Nat) (v : BitVec 1024) : (c.vregSet q i v).gld = c.gld := rfl
@[simp] theorem Ctl.vregSet_hng (c : Ctl) (q i : Nat) (v : BitVec 1024) : (c.vregSet q i v).hng = c.hng := rfl
@[simp] theorem Ctl.vregSet_pwr (c : Ctl) (q i : Nat) (v : BitVec 1024) : (c.vregSet q i v).pwr = c.pwr := rfl
@[simp] theorem Ctl.vregSet_boot (c : Ctl) (q i : Nat) (v : BitVec 1024) : (c.vregSet q i v).boot = c.boot := rfl
@[simp] theorem Ctl.vregSet_diag (c : Ctl) (q i : Nat) (v : BitVec 1024) : (c.vregSet q i v).diag = c.diag := rfl
@[simp] theorem Ctl.vregSet_free (c : Ctl) (q i : Nat) (v : BitVec 1024) : (c.vregSet q i v).free = c.free := rfl
@[simp] theorem Ctl.vregSet_out (c : Ctl) (q i : Nat) (v : BitVec 1024) : (c.vregSet q i v).out = c.out := rfl

@[simp] theorem Ctl.aregSet_regs (c : Ctl) (q i row col : Nat) (v : Word) : (c.aregSet q i row col v).regs = c.regs := rfl
@[simp] theorem Ctl.aregSet_now (c : Ctl) (q i row col : Nat) (v : Word) : (c.aregSet q i row col v).now = c.now := rfl
@[simp] theorem Ctl.aregSet_cnp (c : Ctl) (q i row col : Nat) (v : Word) : (c.aregSet q i row col v).cnp = c.cnp := rfl
@[simp] theorem Ctl.aregSet_vid (c : Ctl) (q i row col : Nat) (v : Word) : (c.aregSet q i row col v).vid = c.vid := rfl
@[simp] theorem Ctl.aregSet_ras (c : Ctl) (q i row col : Nat) (v : Word) : (c.aregSet q i row col v).ras = c.ras := rfl
@[simp] theorem Ctl.aregSet_ports (c : Ctl) (q i row col : Nat) (v : Word) : (c.aregSet q i row col v).ports = c.ports := rfl
@[simp] theorem Ctl.aregSet_host (c : Ctl) (q i row col : Nat) (v : Word) : (c.aregSet q i row col v).host = c.host := rfl
@[simp] theorem Ctl.aregSet_img (c : Ctl) (q i row col : Nat) (v : Word) : (c.aregSet q i row col v).img = c.img := rfl
@[simp] theorem Ctl.aregSet_und (c : Ctl) (q i row col : Nat) (v : Word) : (c.aregSet q i row col v).und = c.und := rfl
@[simp] theorem Ctl.aregSet_gld (c : Ctl) (q i row col : Nat) (v : Word) : (c.aregSet q i row col v).gld = c.gld := rfl
@[simp] theorem Ctl.aregSet_hng (c : Ctl) (q i row col : Nat) (v : Word) : (c.aregSet q i row col v).hng = c.hng := rfl
@[simp] theorem Ctl.aregSet_pwr (c : Ctl) (q i row col : Nat) (v : Word) : (c.aregSet q i row col v).pwr = c.pwr := rfl
@[simp] theorem Ctl.aregSet_boot (c : Ctl) (q i row col : Nat) (v : Word) : (c.aregSet q i row col v).boot = c.boot := rfl
@[simp] theorem Ctl.aregSet_diag (c : Ctl) (q i row col : Nat) (v : Word) : (c.aregSet q i row col v).diag = c.diag := rfl
@[simp] theorem Ctl.aregSet_free (c : Ctl) (q i row col : Nat) (v : Word) : (c.aregSet q i row col v).free = c.free := rfl
@[simp] theorem Ctl.aregSet_out (c : Ctl) (q i row col : Nat) (v : Word) : (c.aregSet q i row col v).out = c.out := rfl

@[simp] theorem Ctl.sregSet_regs (c : Ctl) (q i : Nat) (v : Word) : (c.sregSet q i v).regs = c.regs := by unfold Ctl.sregSet; split <;> rfl
@[simp] theorem Ctl.sregSet_now (c : Ctl) (q i : Nat) (v : Word) : (c.sregSet q i v).now = c.now := by unfold Ctl.sregSet; split <;> rfl
@[simp] theorem Ctl.sregSet_cnp (c : Ctl) (q i : Nat) (v : Word) : (c.sregSet q i v).cnp = c.cnp := by unfold Ctl.sregSet; split <;> rfl
@[simp] theorem Ctl.sregSet_vid (c : Ctl) (q i : Nat) (v : Word) : (c.sregSet q i v).vid = c.vid := by unfold Ctl.sregSet; split <;> rfl
@[simp] theorem Ctl.sregSet_ras (c : Ctl) (q i : Nat) (v : Word) : (c.sregSet q i v).ras = c.ras := by unfold Ctl.sregSet; split <;> rfl
@[simp] theorem Ctl.sregSet_ports (c : Ctl) (q i : Nat) (v : Word) : (c.sregSet q i v).ports = c.ports := by unfold Ctl.sregSet; split <;> rfl
@[simp] theorem Ctl.sregSet_host (c : Ctl) (q i : Nat) (v : Word) : (c.sregSet q i v).host = c.host := by unfold Ctl.sregSet; split <;> rfl
@[simp] theorem Ctl.sregSet_img (c : Ctl) (q i : Nat) (v : Word) : (c.sregSet q i v).img = c.img := by unfold Ctl.sregSet; split <;> rfl
@[simp] theorem Ctl.sregSet_und (c : Ctl) (q i : Nat) (v : Word) : (c.sregSet q i v).und = c.und := by unfold Ctl.sregSet; split <;> rfl
@[simp] theorem Ctl.sregSet_gld (c : Ctl) (q i : Nat) (v : Word) : (c.sregSet q i v).gld = c.gld := by unfold Ctl.sregSet; split <;> rfl
@[simp] theorem Ctl.sregSet_hng (c : Ctl) (q i : Nat) (v : Word) : (c.sregSet q i v).hng = c.hng := by unfold Ctl.sregSet; split <;> rfl
@[simp] theorem Ctl.sregSet_pwr (c : Ctl) (q i : Nat) (v : Word) : (c.sregSet q i v).pwr = c.pwr := by unfold Ctl.sregSet; split <;> rfl
@[simp] theorem Ctl.sregSet_boot (c : Ctl) (q i : Nat) (v : Word) : (c.sregSet q i v).boot = c.boot := by unfold Ctl.sregSet; split <;> rfl
@[simp] theorem Ctl.sregSet_diag (c : Ctl) (q i : Nat) (v : Word) : (c.sregSet q i v).diag = c.diag := by unfold Ctl.sregSet; split <;> rfl
@[simp] theorem Ctl.sregSet_free (c : Ctl) (q i : Nat) (v : Word) : (c.sregSet q i v).free = c.free := by unfold Ctl.sregSet; split <;> rfl
@[simp] theorem Ctl.sregSet_out (c : Ctl) (q i : Nat) (v : Word) : (c.sregSet q i v).out = c.out := by unfold Ctl.sregSet; split <;> rfl

@[simp] theorem Ctl.pregSet_regs (c : Ctl) (q i : Nat) (v : BitVec 64) : (c.pregSet q i v).regs = c.regs := by unfold Ctl.pregSet; split <;> rfl
@[simp] theorem Ctl.pregSet_now (c : Ctl) (q i : Nat) (v : BitVec 64) : (c.pregSet q i v).now = c.now := by unfold Ctl.pregSet; split <;> rfl
@[simp] theorem Ctl.pregSet_cnp (c : Ctl) (q i : Nat) (v : BitVec 64) : (c.pregSet q i v).cnp = c.cnp := by unfold Ctl.pregSet; split <;> rfl
@[simp] theorem Ctl.pregSet_vid (c : Ctl) (q i : Nat) (v : BitVec 64) : (c.pregSet q i v).vid = c.vid := by unfold Ctl.pregSet; split <;> rfl
@[simp] theorem Ctl.pregSet_ras (c : Ctl) (q i : Nat) (v : BitVec 64) : (c.pregSet q i v).ras = c.ras := by unfold Ctl.pregSet; split <;> rfl
@[simp] theorem Ctl.pregSet_ports (c : Ctl) (q i : Nat) (v : BitVec 64) : (c.pregSet q i v).ports = c.ports := by unfold Ctl.pregSet; split <;> rfl
@[simp] theorem Ctl.pregSet_host (c : Ctl) (q i : Nat) (v : BitVec 64) : (c.pregSet q i v).host = c.host := by unfold Ctl.pregSet; split <;> rfl
@[simp] theorem Ctl.pregSet_img (c : Ctl) (q i : Nat) (v : BitVec 64) : (c.pregSet q i v).img = c.img := by unfold Ctl.pregSet; split <;> rfl
@[simp] theorem Ctl.pregSet_und (c : Ctl) (q i : Nat) (v : BitVec 64) : (c.pregSet q i v).und = c.und := by unfold Ctl.pregSet; split <;> rfl
@[simp] theorem Ctl.pregSet_gld (c : Ctl) (q i : Nat) (v : BitVec 64) : (c.pregSet q i v).gld = c.gld := by unfold Ctl.pregSet; split <;> rfl
@[simp] theorem Ctl.pregSet_hng (c : Ctl) (q i : Nat) (v : BitVec 64) : (c.pregSet q i v).hng = c.hng := by unfold Ctl.pregSet; split <;> rfl
@[simp] theorem Ctl.pregSet_pwr (c : Ctl) (q i : Nat) (v : BitVec 64) : (c.pregSet q i v).pwr = c.pwr := by unfold Ctl.pregSet; split <;> rfl
@[simp] theorem Ctl.pregSet_boot (c : Ctl) (q i : Nat) (v : BitVec 64) : (c.pregSet q i v).boot = c.boot := by unfold Ctl.pregSet; split <;> rfl
@[simp] theorem Ctl.pregSet_diag (c : Ctl) (q i : Nat) (v : BitVec 64) : (c.pregSet q i v).diag = c.diag := by unfold Ctl.pregSet; split <;> rfl
@[simp] theorem Ctl.pregSet_free (c : Ctl) (q i : Nat) (v : BitVec 64) : (c.pregSet q i v).free = c.free := by unfold Ctl.pregSet; split <;> rfl
@[simp] theorem Ctl.pregSet_out (c : Ctl) (q i : Nat) (v : BitVec 64) : (c.pregSet q i v).out = c.out := by unfold Ctl.pregSet; split <;> rfl

/-! Registers and fields. -/

/-- A register just written reads as the word; every other one as before. -/
theorem Ctl.rd_wr (c : Ctl) (a b : Nat) (v : Word) : (c.wr a v).rd b = if b = a then v else c.rd b := by
  by_cases h : b = a
  · subst h; simp [Ctl.rd, Ctl.wr]
  · simp [Ctl.rd, Ctl.wr, h, mget_mset_ne]

@[simp] theorem Ctl.rd_wr_self (c : Ctl) (a : Nat) (v : Word) : (c.wr a v).rd a = v := by simp [Ctl.rd_wr]

theorem Ctl.rd_wr_ne (c : Ctl) {a b : Nat} (v : Word) (h : b ≠ a) : (c.wr a v).rd b = c.rd b := by simp [Ctl.rd_wr, h]

/-- A register after a field of it was set, and every other register. -/
theorem Ctl.rd_put (c : Ctl) (f : Fld) (x b : Nat) :
    (c.put f x).rd b = if b = f.addr then fieldPut (c.rd f.addr) f.lo f.n x else c.rd b := Ctl.rd_wr c f.addr b _

theorem Ctl.rd_put_ne (c : Ctl) (f : Fld) (x : Nat) {b : Nat} (h : b ≠ f.addr) : (c.put f x).rd b = c.rd b := by
  simp [Ctl.rd_put, h]

/-- A field just set reads as the value modulo its width. -/
theorem Ctl.get_put_self (c : Ctl) (f : Fld) (x : Nat) (h : f.lo + f.n ≤ 32) : (c.put f x).get f = x % 2 ^ f.n := by
  simp [Ctl.get, Ctl.rd_put, fieldGet_fieldPut_self _ _ _ _ h]

/-- A field of another register, or of other bits, reads as before. -/
theorem Ctl.get_put_ne (c : Ctl) (f g : Fld) (x : Nat) (h : f.lo + f.n ≤ 32)
    (hd : g.addr ≠ f.addr ∨ g.lo + g.n ≤ f.lo ∨ f.lo + f.n ≤ g.lo) : (c.put f x).get g = c.get g := by
  unfold Ctl.get
  rw [Ctl.rd_put]
  by_cases ha : g.addr = f.addr
  · rw [if_pos ha, ha, fieldGet_fieldPut_disjoint _ _ _ _ _ _ h (by tauto)]
  · rw [if_neg ha]

/-- The value of a field fits its width. -/
theorem Ctl.get_lt (c : Ctl) (f : Fld) : c.get f < 2 ^ f.n := fieldGet_lt _ _ _

/-- Updates that leave the register file leave every register. -/
theorem Ctl.rd_of_regs {c d : Ctl} (h : c.regs = d.regs) (a : Nat) : c.rd a = d.rd a := by simp [Ctl.rd, h]

theorem Ctl.get_of_regs {c d : Ctl} (h : c.regs = d.regs) (f : Fld) : c.get f = d.get f := by simp [Ctl.get, Ctl.rd, h]

@[simp] theorem Ctl.rd_vcSet (c : Ctl) (s : Nat) (v : VCtx) (a : Nat) : (c.vcSet s v).rd a = c.rd a := rfl
@[simp] theorem Ctl.rd_rcSet (c : Ctl) (s : Nat) (v : RCtx) (a : Nat) : (c.rcSet s v).rd a = c.rd a := rfl
@[simp] theorem Ctl.rd_ringSet (c : Ctl) (r : Nat) (v : RingSt) (a : Nat) : (c.ringSet r v).rd a = c.rd a := rfl
@[simp] theorem Ctl.rd_coreSet (c : Ctl) (q : Nat) (v : CoreSt) (a : Nat) : (c.coreSet q v).rd a = c.rd a := rfl
@[simp] theorem Ctl.rd_emit (c : Ctl) (o : Output) (a : Nat) : (c.emit o).rd a = c.rd a := rfl
@[simp] theorem Ctl.get_vcSet (c : Ctl) (s : Nat) (v : VCtx) (f : Fld) : (c.vcSet s v).get f = c.get f := rfl
@[simp] theorem Ctl.get_rcSet (c : Ctl) (s : Nat) (v : RCtx) (f : Fld) : (c.rcSet s v).get f = c.get f := rfl
@[simp] theorem Ctl.get_ringSet (c : Ctl) (r : Nat) (v : RingSt) (f : Fld) : (c.ringSet r v).get f = c.get f := rfl
@[simp] theorem Ctl.get_coreSet (c : Ctl) (q : Nat) (v : CoreSt) (f : Fld) : (c.coreSet q v).get f = c.get f := rfl
@[simp] theorem Ctl.get_emit (c : Ctl) (o : Output) (f : Fld) : (c.emit o).get f = c.get f := rfl

/-! Indexed parts. -/

theorem Ctl.vc_vcSet (c : Ctl) (s i : Nat) (v : VCtx) : (c.vcSet s v).vc i = if i = s then v else c.vc i := mget_mset _ _ _ _ _
@[simp] theorem Ctl.vc_vcSet_self (c : Ctl) (s : Nat) (v : VCtx) : (c.vcSet s v).vc s = v := by simp [Ctl.vc_vcSet]
theorem Ctl.rc_rcSet (c : Ctl) (s i : Nat) (v : RCtx) : (c.rcSet s v).rc i = if i = s then v else c.rc i := mget_mset _ _ _ _ _
@[simp] theorem Ctl.rc_rcSet_self (c : Ctl) (s : Nat) (v : RCtx) : (c.rcSet s v).rc s = v := by simp [Ctl.rc_rcSet]
theorem Ctl.ring_ringSet (c : Ctl) (r i : Nat) (v : RingSt) : (c.ringSet r v).ring i = if i = r then v else c.ring i := mget_mset _ _ _ _ _
@[simp] theorem Ctl.ring_ringSet_self (c : Ctl) (r : Nat) (v : RingSt) : (c.ringSet r v).ring r = v := by simp [Ctl.ring_ringSet]
theorem Ctl.core_coreSet (c : Ctl) (q i : Nat) (v : CoreSt) : (c.coreSet q v).core i = if i = q then v else c.core i := mget_mset _ _ _ _ _
@[simp] theorem Ctl.core_coreSet_self (c : Ctl) (q : Nat) (v : CoreSt) : (c.coreSet q v).core q = v := by simp [Ctl.core_coreSet]
@[simp] theorem Ctl.vc_wr (c : Ctl) (a : Nat) (v : Word) (i : Nat) : (c.wr a v).vc i = c.vc i := rfl
@[simp] theorem Ctl.vc_put (c : Ctl) (f : Fld) (x i : Nat) : (c.put f x).vc i = c.vc i := rfl
@[simp] theorem Ctl.vc_emit (c : Ctl) (o : Output) (i : Nat) : (c.emit o).vc i = c.vc i := rfl
@[simp] theorem Ctl.vc_rcSet (c : Ctl) (s : Nat) (v : RCtx) (i : Nat) : (c.rcSet s v).vc i = c.vc i := rfl
@[simp] theorem Ctl.rc_wr (c : Ctl) (a : Nat) (v : Word) (i : Nat) : (c.wr a v).rc i = c.rc i := rfl
@[simp] theorem Ctl.rc_put (c : Ctl) (f : Fld) (x i : Nat) : (c.put f x).rc i = c.rc i := rfl
@[simp] theorem Ctl.rc_vcSet (c : Ctl) (s : Nat) (v : VCtx) (i : Nat) : (c.vcSet s v).rc i = c.rc i := rfl
@[simp] theorem Ctl.ring_wr (c : Ctl) (a : Nat) (v : Word) (i : Nat) : (c.wr a v).ring i = c.ring i := rfl
@[simp] theorem Ctl.ring_put (c : Ctl) (f : Fld) (x i : Nat) : (c.put f x).ring i = c.ring i := rfl
@[simp] theorem Ctl.core_wr (c : Ctl) (a : Nat) (v : Word) (i : Nat) : (c.wr a v).core i = c.core i := rfl
@[simp] theorem Ctl.core_put (c : Ctl) (f : Fld) (x i : Nat) : (c.put f x).core i = c.core i := rfl

/-! The tile core's register files. -/

/-- s0 reads 0 whatever was written. -/
@[simp] theorem Ctl.sreg_zero (c : Ctl) (q : Nat) : c.sreg q 0 = 0 := rfl
/-- p0 reads all ones whatever was written. -/
@[simp] theorem Ctl.preg_zero (c : Ctl) (q : Nat) : c.preg q 0 = BitVec.allOnes 64 := rfl

/-- A scalar register after a write: s0 discards it. -/
theorem Ctl.sreg_sregSet (c : Ctl) (q i j : Nat) (v : Word) (hi : i < 64) (hj : j < 64) (r : Nat) :
    (c.sregSet q i v).sreg r j = if r = q ∧ j = i ∧ i ≠ 0 then v else c.sreg r j := by
  unfold Ctl.sregSet Ctl.sreg
  by_cases h0 : i = 0
  · simp [h0]
  · by_cases hj0 : j = 0
    · have : ¬ (r = q ∧ j = i ∧ i ≠ 0) := by omega
      simp [hj0]; omega
    · simp only [h0, hj0, if_false, mget_mset]
      by_cases he : r = q ∧ j = i
      · simp [he, h0]
      · have : ¬ (64 * r + j = 64 * q + i) := by omega
        simp [this]; omega

@[simp] theorem Ctl.sreg_sregSet_self (c : Ctl) (q i : Nat) (v : Word) (h : i ≠ 0) : (c.sregSet q i v).sreg q i = v := by
  simp [Ctl.sregSet, Ctl.sreg, h]

/-- A predicate register after a write: p0 discards it. -/
@[simp] theorem Ctl.preg_pregSet_self (c : Ctl) (q i : Nat) (v : BitVec 64) (h : i ≠ 0) : (c.pregSet q i v).preg q i = v := by
  simp [Ctl.pregSet, Ctl.preg, h]

@[simp] theorem Ctl.vreg_vregSet_self (c : Ctl) (q i : Nat) (v : BitVec 1024) : (c.vregSet q i v).vreg q i = v := by
  simp [Ctl.vregSet, Ctl.vreg]

@[simp] theorem Ctl.areg_aregSet_self (c : Ctl) (q i r j : Nat) (v : Word) : (c.aregSet q i r j v).areg q i r j = v := by
  simp [Ctl.aregSet, Ctl.areg]

theorem Ctl.sregSet_zero (c : Ctl) (q : Nat) (v : Word) : c.sregSet q 0 v = c := rfl
theorem Ctl.pregSet_zero (c : Ctl) (q : Nat) (v : BitVec 64) : c.pregSet q 0 v = c := rfl

/-! The register files read nothing that a register write, a core's bookkeeping or an output changes. -/

@[simp] theorem Ctl.sreg_put (c : Ctl) (f : Fld) (x q i : Nat) : (c.put f x).sreg q i = c.sreg q i := rfl
@[simp] theorem Ctl.vreg_put (c : Ctl) (f : Fld) (x q i : Nat) : (c.put f x).vreg q i = c.vreg q i := rfl
@[simp] theorem Ctl.preg_put (c : Ctl) (f : Fld) (x q i : Nat) : (c.put f x).preg q i = c.preg q i := rfl
@[simp] theorem Ctl.areg_put (c : Ctl) (f : Fld) (x q i r j : Nat) : (c.put f x).areg q i r j = c.areg q i r j := rfl
@[simp] theorem Ctl.sreg_wr (c : Ctl) (a : Nat) (v : Word) (q i : Nat) : (c.wr a v).sreg q i = c.sreg q i := rfl
@[simp] theorem Ctl.vreg_wr (c : Ctl) (a : Nat) (v : Word) (q i : Nat) : (c.wr a v).vreg q i = c.vreg q i := rfl
@[simp] theorem Ctl.preg_wr (c : Ctl) (a : Nat) (v : Word) (q i : Nat) : (c.wr a v).preg q i = c.preg q i := rfl
@[simp] theorem Ctl.areg_wr (c : Ctl) (a : Nat) (v : Word) (q i r j : Nat) : (c.wr a v).areg q i r j = c.areg q i r j := rfl
@[simp] theorem Ctl.sreg_coreSet (c : Ctl) (p : Nat) (v : CoreSt) (q i : Nat) : (c.coreSet p v).sreg q i = c.sreg q i := rfl
@[simp] theorem Ctl.vreg_coreSet (c : Ctl) (p : Nat) (v : CoreSt) (q i : Nat) : (c.coreSet p v).vreg q i = c.vreg q i := rfl
@[simp] theorem Ctl.preg_coreSet (c : Ctl) (p : Nat) (v : CoreSt) (q i : Nat) : (c.coreSet p v).preg q i = c.preg q i := rfl
@[simp] theorem Ctl.areg_coreSet (c : Ctl) (p : Nat) (v : CoreSt) (q i r j : Nat) : (c.coreSet p v).areg q i r j = c.areg q i r j := rfl
@[simp] theorem Ctl.core_sregSet (c : Ctl) (q i : Nat) (v : Word) (p : Nat) : (c.sregSet q i v).core p = c.core p := by
  unfold Ctl.sregSet; split <;> rfl
@[simp] theorem Ctl.core_pregSet (c : Ctl) (q i : Nat) (v : BitVec 64) (p : Nat) : (c.pregSet q i v).core p = c.core p := by
  unfold Ctl.pregSet; split <;> rfl
@[simp] theorem Ctl.core_vregSet (c : Ctl) (q i : Nat) (v : BitVec 1024) (p : Nat) : (c.vregSet q i v).core p = c.core p := rfl
@[simp] theorem Ctl.core_aregSet (c : Ctl) (q i r j : Nat) (v : Word) (p : Nat) : (c.aregSet q i r j v).core p = c.core p := rfl

end Sys2Proof.Machine
end

