-- ==== Sys2Proof/Laws/Ops.lean ====
section
/-! SUPPORT. What each shared operation can do, said once: counters, epochs, unit states, MSI-X, and the posting of records
and events. -/

namespace Sys2Proof.Machine

/-! What posting a record can touch. -/

theorem Posted.refl (c : Ctl) : Posted c c :=
  ⟨fun _ _ => rfl, rfl, rfl, rfl, rfl, rfl, rfl, rfl, rfl, rfl, rfl, rfl, rfl, rfl, rfl, rfl, rfl, rfl, rfl, rfl⟩

theorem Posted.trans {c d e : Ctl} (h : Posted c d) (g : Posted d e) : Posted c e :=
  ⟨fun a ha => (g.rd a ha).trans (h.rd a ha), g.now.trans h.now, g.fab.trans h.fab, g.cnp.trans h.cnp, g.vid.trans h.vid,
    g.ras.trans h.ras, g.ports.trans h.ports, g.img.trans h.img, g.und.trans h.und, g.gld.trans h.gld, g.hng.trans h.hng,
    g.pwr.trans h.pwr, g.boot.trans h.boot, g.jobs.trans h.jobs, g.dmas.trans h.dmas, g.linkUp.trans h.linkUp,
    g.timeBase.trans h.timeBase, g.taken.trans h.taken, g.rest.trans h.rest, g.tap.trans h.tap⟩

/-- A field outside the posting window reads as before. -/
theorem Posted.get {c d : Ctl} (h : Posted c d) (f : Fld) (hf : postAddr f.addr = false) : d.get f = c.get f := by
  simp [Ctl.get, h.rd _ hf]

theorem Posted.vc {c d : Ctl} (h : Posted c d) (s : Nat) : d.vc s = c.vc s := by simp [Ctl.vc, h.vid]
theorem Posted.rc {c d : Ctl} (h : Posted c d) (s : Nat) : d.rc s = c.rc s := by simp [Ctl.rc, h.ras]
theorem Posted.core {c d : Ctl} (h : Posted c d) (q : Nat) : d.core q = c.core q := by simp [Ctl.core, h.fab]
theorem Posted.sreg {c d : Ctl} (h : Posted c d) (q i : Nat) : d.sreg q i = c.sreg q i := by simp [Ctl.sreg, h.fab]
theorem Posted.vreg {c d : Ctl} (h : Posted c d) (q i : Nat) : d.vreg q i = c.vreg q i := by simp [Ctl.vreg, h.fab]
theorem Posted.preg {c d : Ctl} (h : Posted c d) (q i : Nat) : d.preg q i = c.preg q i := by simp [Ctl.preg, h.fab]

theorem posted_wr (c : Ctl) (a : Nat) (v : Word) (h : postAddr a = true) : Posted c (c.wr a v) := by
  refine ⟨fun b hb => Ctl.rd_wr_ne c v ?_, rfl, rfl, rfl, rfl, rfl, rfl, rfl, rfl, rfl, rfl, rfl, rfl, rfl, rfl, rfl, rfl, rfl, rfl, rfl⟩
  rintro rfl; simp [h] at hb

theorem posted_put (c : Ctl) (f : Fld) (x : Nat) (h : postAddr f.addr = true) : Posted c (c.put f x) := posted_wr c _ _ h

theorem posted_ringSet (c : Ctl) (r : Nat) (v : RingSt) : Posted c (c.ringSet r v) :=
  ⟨fun _ _ => rfl, rfl, rfl, rfl, rfl, rfl, rfl, rfl, rfl, rfl, rfl, rfl, rfl, rfl, rfl, rfl, rfl, rfl, rfl, rfl⟩

theorem posted_emit (c : Ctl) (o : Output) : Posted c (c.emit o) :=
  ⟨fun _ _ => rfl, rfl, rfl, rfl, rfl, rfl, rfl, rfl, rfl, rfl, rfl, rfl, rfl, rfl, rfl, rfl, rfl, rfl, rfl, rfl⟩

theorem posted_queue (c : Ctl) (q : List (Nat × List Word)) : Posted c { c with host := { c.host with queue := q } } :=
  ⟨fun _ _ => rfl, rfl, rfl, rfl, rfl, rfl, rfl, rfl, rfl, rfl, rfl, rfl, rfl, rfl, rfl, rfl, rfl, rfl, rfl, rfl⟩

theorem posted_diag (c : Ctl) (d : Diag) (h : d.tap = c.diag.tap) : Posted c { c with diag := d } :=
  ⟨fun _ _ => rfl, rfl, rfl, rfl, rfl, rfl, rfl, rfl, rfl, rfl, rfl, rfl, rfl, rfl, rfl, rfl, rfl, rfl, rfl, h⟩

theorem posted_log (c : Ctl) (l : List (List Word)) : Posted c { c with diag := { c.diag with log := l } } := posted_diag c _ rfl
theorem posted_logEvent (c : Ctl) (ws : List Word) : Posted c (c.logEvent ws) := by
  unfold Ctl.logEvent
  exact posted_log c _
theorem posted_suppress (c : Ctl) (code : Nat) : Posted c (c.suppressEvent code) := posted_diag c _ rfl
theorem posted_count (c : Ctl) (code : Nat) : Posted c (c.countPosted code) := posted_diag c _ rfl

/-- A counter of the window counts, or saturates with DBG_SAT, and nothing else changes (R494). -/
theorem posted_bump (c : Ctl) (f : Fld) (n : Nat) (h : postAddr f.addr = true) : Posted c (c.bump f n) := by
  unfold Ctl.bump
  dsimp only
  split
  · exact Posted.refl c
  · split
    · exact (posted_put c f _ h).trans (posted_wr _ _ _ rfl)
    · exact posted_put c f _ h

/-- Registers of ring r lie in the window. -/
theorem postAddr_ring {a : Nat} (h : 0x20000 ≤ a) (h' : a < 0x28000) : postAddr a = true := by
  simp [postAddr]; omega

/-- A vector signalled is a message or a pending bit. -/
theorem posted_msix (c : Ctl) (v : Nat) (hv : v < 64) : Posted c (c.msix v) := by
  unfold Ctl.msix
  split
  · exact posted_emit c _
  · refine posted_wr c _ _ ?_
    simp [postAddr, R.pba]
    omega

theorem posted_moveFill (c : Ctl) (r old new : Nat) (hr : r < 512) : Posted c (c.moveFill r old new).1 := by
  have hp (f : Fld) (x : Nat) (d : Ctl) (h : 0x20000 ≤ f.addr) (h' : f.addr < 0x28000) : Posted d (d.put f x) :=
    posted_put d f x (postAddr_ring h h')
  have hb (f : Fld) (x : Nat) (d : Ctl) (h : 0x20000 ≤ f.addr) (h' : f.addr < 0x28000) : Posted d (d.bump f x) :=
    posted_bump d f x (postAddr_ring h h')
  unfold Ctl.moveFill
  dsimp only
  have h0 : Posted c ((c.put (F.rngFillFill r) new).ringSet r
      { c.ring r with minFill := min (c.ring r).minFill new, maxFill := max (c.ring r).maxFill new }) :=
    (hp _ _ c (by simp [R.rngFill]; omega) (by simp [R.rngFill]; omega)).trans (posted_ringSet _ _ _)
  generalize (c.put (F.rngFillFill r) new).ringSet r _ = d at h0 ⊢
  have h1 : Posted d (if decide (old < d.get (F.rngWmHi r) ∧ d.get (F.rngWmHi r) ≤ new) then
      (d.put (F.rngWmstatHiX r) 1).bump (F.rngWmstatHiCnt r) 1
      else if decide (d.get (F.rngWmLo r) < old ∧ new ≤ d.get (F.rngWmLo r)) then
        (d.put (F.rngWmstatLoX r) 1).bump (F.rngWmstatLoCnt r) 1 else d) := by
    split
    · exact (hp _ _ d (by simp [R.rngWmstat]; omega) (by simp [R.rngWmstat]; omega)).trans
        (hb _ _ _ (by simp [R.rngWmstat]; omega) (by simp [R.rngWmstat]; omega))
    · split
      · exact (hp _ _ d (by simp [R.rngWmstat]; omega) (by simp [R.rngWmstat]; omega)).trans
          (hb _ _ _ (by simp [R.rngWmstat]; omega) (by simp [R.rngWmstat]; omega))
      · exact Posted.refl d
  generalize (if decide (old < d.get (F.rngWmHi r) ∧ d.get (F.rngWmHi r) ≤ new) then
      (d.put (F.rngWmstatHiX r) 1).bump (F.rngWmstatHiCnt r) 1
      else if decide (d.get (F.rngWmLo r) < old ∧ new ≤ d.get (F.rngWmLo r)) then
        (d.put (F.rngWmstatLoX r) 1).bump (F.rngWmstatLoCnt r) 1 else d) = e at h1 ⊢
  split
  · exact (h0.trans h1).trans (hp _ _ _ (by simp [R.rngWmstat]; omega) (by simp [R.rngWmstat]; omega))
  · exact h0.trans h1

theorem posted_ringIrq (c : Ctl) (r : Nat) : Posted c (c.ringIrq r) := by
  unfold Ctl.ringIrq
  dsimp only
  split
  · exact Posted.refl c
  · split
    · exact posted_ringSet _ _ _
    · have h := posted_msix c (c.get (F.rngCfgVec r)) (Ctl.get_lt c (F.rngCfgVec r))
      split
      · exact h
      · exact h.trans (posted_ringSet _ _ _)

theorem posted_ringWrite (c : Ctl) (r : Nat) (ws : List Word) (hr : r < 512) : Posted c (c.ringWrite r ws).1 := by
  unfold Ctl.ringWrite
  dsimp only
  refine Posted.trans ?_ (posted_ringIrq _ r)
  refine Posted.trans ?_ (posted_moveFill _ r _ _ hr)
  refine Posted.trans ?_ (posted_ringSet _ _ _)
  exact (posted_emit c _).trans (posted_put _ _ _ (postAddr_ring (by simp [R.rngTail]; omega) (by simp [R.rngTail]; omega)))

theorem posted_ringPost (c : Ctl) (r : Nat) (ws : List Word) : Posted c (c.ringPost r ws).1 := by
  unfold Ctl.ringPost
  dsimp only
  split
  · exact Posted.refl c
  · rename_i h
    have hr : r < 512 := by simp [Ctl.ringOn] at h; exact h.1
    have hd : Posted c (((c.bump (F.rngDropCount r) 1).put (F.rngStatOvf r) 1).ringSet r
        { c.ring r with dropsSince := (c.ring r).dropsSince + 1 }) :=
      ((posted_bump c _ 1 (postAddr_ring (by simp [R.rngDrop]; omega) (by simp [R.rngDrop]; omega))).trans
        (posted_put _ _ _ (postAddr_ring (by simp [R.rngStat]; omega) (by simp [R.rngStat]; omega)))).trans (posted_ringSet _ _ _)
    split
    · split
      · exact posted_queue c _
      · exact hd
    · split
      · exact hd
      · exact posted_ringWrite c r ws hr

/-- A posting that folds over crossings touches what each does. -/
theorem posted_foldl {α : Type} (l : List α) (f : Ctl → α → Ctl) (h : ∀ c x, Posted c (f c x)) :
    ∀ c : Ctl, Posted c (l.foldl f c) := by
  induction l with
  | nil => exact Posted.refl
  | cons x t ih => intro c; exact (h c x).trans (ih _)

/-- An event, for a code of Table 16.2. -/
theorem posted_eventN (fuel : Nat) : ∀ (c : Ctl) (code src : Nat) (a0 a1 : Word) (st : Nat), code < 0x1000 →
    Posted c (Ctl.eventN fuel c code src a0 a1 st) := by
  induction fuel with
  | zero => intro c _ _ _ _ _ _; exact Posted.refl c
  | succ n ih =>
    intro c code src a0 a1 st hc
    have hD (f : Fld) (x : Nat) (d : Ctl) (h : 0x300000 ≤ f.addr) : Posted d (d.bump f x) :=
      posted_bump d f x (by simp [postAddr]; omega)
    unfold Ctl.eventN
    dsimp only
    have h0 : Posted c ((c.bump (F.dbgEvtRaised code) 1).logEvent
        [w32 (9 + 256 * st), w32 (code + 65536 * src), a0, a1, w32 (c.epochOf src), 0]) :=
      (hD _ _ c (by simp [R.dbgEvt]; omega)).trans (posted_logEvent _ _)
    refine h0.trans ?_
    generalize (c.bump (F.dbgEvtRaised code) 1).logEvent _ = e
    split
    · exact (posted_suppress e _).trans (hD _ _ _ (by simp [R.dbgEvt]; omega))
    · split
      · exact hD _ _ _ (by simp [R.dbgEvt]; omega)
      · have hr := posted_ringPost e (e.eventRing code)
          ([w32 (9 + 256 * st), w32 (code + 65536 * src), a0, a1, w32 (c.epochOf src), 0])
        split
        · exact hr.trans (hD _ _ _ (by simp [R.dbgEvt]; omega))
        · exact (hr.trans (posted_count _ _)).trans (posted_foldl _ _ (fun c x => ih c _ _ _ _ _ (by decide)) _)

theorem posted_crossings (c : Ctl) (xs : List Cross) : Posted c (c.crossings xs) :=
  posted_foldl _ _ (fun c x => posted_eventN 3 c _ _ _ _ _ (by decide)) c

theorem posted_event (c : Ctl) (code src : Nat) (a0 a1 : Word) (h : code < 0x1000) : Posted c (c.event code src a0 a1) :=
  posted_eventN 4 c code src a0 a1 stOk h

theorem posted_epochStale (c : Ctl) (src exp path : Nat) : Posted c (c.epochStale src exp path) :=
  posted_event c evEpochStale src _ _ (by decide)

theorem posted_post (c : Ctl) (r : Nat) (ws : List Word) : Posted c (c.post r ws) :=
  (posted_ringPost c r ws).trans (posted_crossings _ _)

theorem posted_postNormal (c : Ctl) (ws : List Word) : Posted c (c.postNormal ws) := by
  unfold Ctl.postNormal
  split
  · exact posted_post c _ ws
  · exact Posted.refl c

theorem posted_postReport (c : Ctl) (s : Nat) (ws : List Word) : Posted c (c.postReport s ws) := by
  unfold Ctl.postReport
  split
  · exact posted_post c _ ws
  · exact Posted.refl c

theorem posted_postFreeSrc (c : Ctl) (k st : Nat) (d : List Word) : Posted c (c.postFreeSrc k st d) := by
  unfold Ctl.postFreeSrc Ctl.freeWord
  dsimp only
  refine Posted.trans ?_ (posted_postNormal _ _)
  exact ⟨fun _ _ => rfl, rfl, rfl, rfl, rfl, rfl, rfl, rfl, rfl, rfl, rfl, rfl, rfl, rfl, rfl, rfl, rfl, rfl, rfl, rfl⟩

/-- A power-status record posts and does nothing else (R419). -/
theorem posted_powerRec (c : Ctl) (cause obj value : Nat) : Posted c (c.powerRec cause obj value) := posted_postFreeSrc c _ _ _

/-- An alert bit touches the diagnostics alone. -/
theorem posted_alert (c : Ctl) (i : Nat) : Posted c (c.alert i) := posted_diag c _ rfl

/-! Counters, epochs and unit states. -/

/-- Where a counter and DBG_SAT aside, a bump leaves every register. -/
theorem Ctl.rd_bump_ne (c : Ctl) (f : Fld) (n : Nat) {a : Nat} (h : a ≠ f.addr) (h' : a ≠ R.dbgSat) :
    (c.bump f n).rd a = c.rd a := by
  unfold Ctl.bump
  dsimp only
  split
  · rfl
  · split
    · rw [Ctl.rd_wr_ne _ _ h', Ctl.rd_put_ne _ _ _ h]
    · rw [Ctl.rd_put_ne _ _ _ h]

/-- A counter raised changes registers alone. -/
theorem Ctl.bump_eq (c : Ctl) (f : Fld) (n : Nat) : ∃ r, c.bump f n = { c with regs := r } := by
  unfold Ctl.bump
  dsimp only
  split
  · exact ⟨_, rfl⟩
  · split <;> exact ⟨_, rfl⟩

/-- A counter below its largest value counts. -/
theorem Ctl.get_bump (c : Ctl) (f : Fld) (n : Nat) (hf : f.lo + f.n ≤ 32) (ha : f.addr ≠ R.dbgSat) :
    (c.bump f n).get f = min (c.get f + n) (2 ^ f.n - 1) := by
  have hl := Ctl.get_lt c f
  unfold Ctl.bump
  dsimp only
  split
  · rename_i h; subst h; omega
  · split
    · rename_i h1 h2
      rw [Ctl.get, Ctl.rd_wr_ne _ _ ha, ← Ctl.get, Ctl.get_put_self _ _ _ hf, Nat.mod_eq_of_lt (by omega)]
      omega
    · rename_i h1 h2
      rw [Ctl.get_put_self _ _ _ hf, Nat.mod_eq_of_lt (by omega)]
      omega

@[simp] theorem Ctl.fab_bump (c : Ctl) (f : Fld) (n : Nat) : (c.bump f n).fab = c.fab := by
  unfold Ctl.bump; dsimp only; split
  · rfl
  · split <;> rfl
@[simp] theorem Ctl.vid_bump (c : Ctl) (f : Fld) (n : Nat) : (c.bump f n).vid = c.vid := by
  unfold Ctl.bump; dsimp only; split
  · rfl
  · split <;> rfl
@[simp] theorem Ctl.pwr_bump (c : Ctl) (f : Fld) (n : Nat) : (c.bump f n).pwr = c.pwr := by
  unfold Ctl.bump; dsimp only; split
  · rfl
  · split <;> rfl
@[simp] theorem Ctl.host_bump (c : Ctl) (f : Fld) (n : Nat) : (c.bump f n).host = c.host := by
  unfold Ctl.bump; dsimp only; split
  · rfl
  · split <;> rfl
@[simp] theorem Ctl.hng_bump (c : Ctl) (f : Fld) (n : Nat) : (c.bump f n).hng = c.hng := by
  unfold Ctl.bump; dsimp only; split
  · rfl
  · split <;> rfl
@[simp] theorem Ctl.out_bump (c : Ctl) (f : Fld) (n : Nat) : (c.bump f n).out = c.out := by
  unfold Ctl.bump; dsimp only; split
  · rfl
  · split <;> rfl
@[simp] theorem Ctl.core_bump (c : Ctl) (f : Fld) (n q : Nat) : (c.bump f n).core q = c.core q := by simp [Ctl.core]
@[simp] theorem Ctl.sreg_bump (c : Ctl) (f : Fld) (n q i : Nat) : (c.bump f n).sreg q i = c.sreg q i := by simp [Ctl.sreg]
@[simp] theorem Ctl.vreg_bump (c : Ctl) (f : Fld) (n q i : Nat) : (c.bump f n).vreg q i = c.vreg q i := by simp [Ctl.vreg]
@[simp] theorem Ctl.preg_bump (c : Ctl) (f : Fld) (n q i : Nat) : (c.bump f n).preg q i = c.preg q i := by simp [Ctl.preg]
@[simp] theorem Ctl.areg_bump (c : Ctl) (f : Fld) (n q i r j : Nat) : (c.bump f n).areg q i r j = c.areg q i r j := by
  simp [Ctl.areg]
@[simp] theorem Ctl.vc_bump (c : Ctl) (f : Fld) (n s : Nat) : (c.bump f n).vc s = c.vc s := by simp [Ctl.vc]

/-! Boot configuration copies (R449). -/

/-- A copy that firmware writes is valid. -/
theorem bootCfg_make_valid (seq slot dram xspi : Nat) : (BootCfg.make seq slot dram xspi).valid = true := by
  unfold BootCfg.make BootCfg.valid BootCfg.field
  have zeros : (List.replicate 4081 (0 : Byte)).length = 4081 := List.length_replicate
  generalize List.replicate 4081 (0 : Byte) = z at zeros
  generalize hb : ([0x46, 0x42, 0x43, 0x46] ++ toBytes 4 seq ++ toBytes 1 slot ++ toBytes 1 dram ++ toBytes 1 xspi ++ z : List Byte) = body
  have len : body.length = 0xFFC := by simp [← hb, toBytes, zeros]
  have magic : body.take 4 = [0x46, 0x42, 0x43, 0x46] := by simp [← hb]
  have rest : ((toBytes 4 (crc32 body).toNat).take 4) = toBytes 4 (crc32 body).toNat := List.take_of_length_le (by simp [toBytes])
  simp only [List.take_append_of_le_length (by omega : 4 ≤ body.length), magic, List.take_left' len, List.drop_left' len, rest,
    ofBytes_toBytes, beq_self_eq_true, Bool.and_self]

/-- A copy that firmware writes names the slot it was written for. -/
theorem bootCfg_make_slot (seq slot dram xspi : Nat) : (BootCfg.make seq slot dram xspi).slot = (slot % 256 == 1) := by
  unfold BootCfg.make BootCfg.slot BootCfg.field
  generalize List.replicate 4081 (0 : Byte) = z
  simp [toBytes, List.range_succ, ofBytes]

end Sys2Proof.Machine
end

