-- ==== Sys2Proof/Laws/Tile.lean ====
section
/-! SUPPORT. Lanes and predicates bit by bit; what a bundle of one slot does once it issues, said once for every operation. -/

namespace Sys2Proof.Machine

/-! Lanes and bits. -/

theorem getLsbD_ofLanes_aux (f : Nat → BitVec 16) (n : Nat) : ∀ j,
    ((List.range n).foldl (fun a i => a ||| ((f i).setWidth 1024 <<< (16 * i))) (0 : BitVec 1024)).getLsbD j =
      (decide (j < 1024) && decide (j / 16 < n) && (f (j / 16)).getLsbD (j % 16)) := by
  induction n with
  | zero => intro j; simp
  | succ n ih =>
    intro j
    rw [List.range_succ, List.foldl_append, List.foldl_cons, List.foldl_nil, BitVec.getLsbD_or, ih,
      BitVec.getLsbD_shiftLeft, BitVec.getLsbD_setWidth]
    by_cases hj : j < 1024
    · simp only [hj, decide_true, Bool.true_and]
      by_cases h1 : j / 16 < n
      · have h2 : j < 16 * n := by omega
        simp [h1, h2, show j / 16 < n + 1 by omega]
      · by_cases h3 : j / 16 = n
        · have h4 : ¬ j < 16 * n := by omega
          have h5 : j - 16 * n = j % 16 := by omega
          subst h3
          simp [h4, h5, show j % 16 < 1024 by omega]
        · have h4 : ¬ j < 16 * n := by omega
          have h6 : (f n).getLsbD (j - 16 * n) = false := BitVec.getLsbD_of_ge _ _ (by omega)
          simp [h1, h4, h6, show ¬ j / 16 < n + 1 by omega]
    · simp [hj]

/-- Lane l of the vector whose lanes f gives is f l. -/
theorem lane_ofLanes (f : Nat → BitVec 16) (l : Nat) (h : l < 64) : lane (ofLanes f) l = f l := by
  apply BitVec.eq_of_getLsbD_eq
  intro i hi
  unfold lane ofLanes
  rw [BitVec.getLsbD_setWidth, BitVec.getLsbD_ushiftRight, getLsbD_ofLanes_aux]
  have h1 : (16 * l + i) / 16 = l := by omega
  have h2 : (16 * l + i) % 16 = i := by omega
  simp [hi, h1, h2, h, show 16 * l + i < 1024 by omega]

/-- Lane l of a merge is the new one where the guard bit is 1, else the old one (R130). -/
theorem lane_mergeLanes (g : BitVec 64) (old new : BitVec 1024) (l : Nat) (h : l < 64) :
    lane (mergeLanes g old new) l = if g.getLsbD l then lane new l else lane old l := lane_ofLanes _ l h

/-- Bit l of a predicate merge is the new one where the guard bit is 1, else the old one (R130). -/
theorem getLsbD_mergeBits (g old new : BitVec 64) (l : Nat) :
    (mergeBits g old new).getLsbD l = if g.getLsbD l then new.getLsbD l else old.getLsbD l := by
  by_cases h : l < 64
  · cases hg : g.getLsbD l <;> (rw [BitVec.getLsbD_eq_getElem h] at hg; simp [mergeBits, hg, h])
  · have h1 (v : BitVec 64) : v.getLsbD l = false := BitVec.getLsbD_of_ge _ _ (by omega)
    simp [h1]

theorem ofBits_aux (f : Nat → Bool) (n : Nat) :
    (List.range n).foldl (fun a i => if f i then a + 2 ^ i else a) 0 < 2 ^ n ∧
      ∀ j, ((List.range n).foldl (fun a i => if f i then a + 2 ^ i else a) 0).testBit j = (decide (j < n) && f j) := by
  induction n with
  | zero => simp
  | succ n ih =>
    rw [List.range_succ, List.foldl_append, List.foldl_cons, List.foldl_nil]
    generalize (List.range n).foldl (fun a i => if f i then a + 2 ^ i else a) 0 = a at ih ⊢
    obtain ⟨h1, h2⟩ := ih
    constructor
    · split <;> (rw [Nat.pow_succ]; omega)
    · intro j
      by_cases hf : f n
      · rw [if_pos hf, Nat.add_comm]
        by_cases hj : j = n
        · subst hj
          rw [Nat.testBit_two_pow_add_eq, Nat.testBit_lt_two_pow h1]; simp [hf]
        · by_cases hlt : j < n
          · rw [Nat.testBit_two_pow_add_gt hlt, h2]; simp [hlt, show j < n + 1 by omega]
          · rw [Nat.testBit_lt_two_pow]
            · simp [show ¬ j < n + 1 by omega]
            · calc 2 ^ n + a < 2 ^ n + 2 ^ n := by omega
                _ = 2 ^ (n + 1) := by rw [Nat.pow_succ]; omega
                _ ≤ 2 ^ j := Nat.pow_le_pow_right (by decide) (by omega)
      · rw [if_neg hf, h2]
        by_cases hj : j = n
        · subst hj; simp [hf]
        · by_cases hlt : j < n
          · simp [hlt, show j < n + 1 by omega]
          · simp [hlt, show ¬ j < n + 1 by omega]

/-- Bit l of the predicate whose bits f gives is f l. -/
theorem getLsbD_ofBits (f : Nat → Bool) (l : Nat) (h : l < 64) : (ofBits f).getLsbD l = f l := by
  unfold ofBits
  rw [BitVec.getLsbD_ofNat, (ofBits_aux f 64).2]
  simp [h]

/-! A bundle of one slot. -/

/-- Where a logical core runs: a physical core of the 17 stands that holds the task, at its PC. -/
theorem atCore_q {c : Ctl} {k : Nat} {x : At} (h : c.atCore k = some x) :
    x.k = k ∧ x.q < 136 ∧ (c.core x.q).task = some x.t ∧ x.pc = c.get (F.stdCorePcPc (x.q / 8) (x.q % 8)) ∧
      c.physOf k = some x.q := by
  unfold Ctl.atCore at h
  cases hp : c.physOf k with
  | none => simp [hp] at h
  | some q =>
    rw [hp] at h
    cases ht : (c.core q).task with
    | none => simp [ht] at h
    | some t =>
      simp only [ht, Option.some.injEq] at h
      subst h
      refine ⟨rfl, ?_, ht, rfl, rfl⟩
      unfold Ctl.physOf Ctl.standOf at hp
      rw [Option.map_eq_some_iff] at hp
      obtain ⟨n, hn, hq⟩ := hp
      have := List.mem_of_find?_eq_some hn
      rw [List.mem_range] at this
      show q < 136
      omega

/-- What follows the effect of the bundle's slots. -/
def W.settle (w : W) (x : At) : W :=
  let w := w.on (fun c => c.tryAll x.q x.k)
  let w := if (w.ctl.core x.q).waiting.any (fun i => !(i.op == .sendV || i.op == .sendS) || (w.ctl.core x.q).nacked) then
      w.on (fun c => c.countWait x) else w
  w.finish x

/-- A bundle of one slot that passes its checks acts by its slot's effect and settles (R136, R142). -/
theorem slot_issues {s : State} {x : At} {i : Issued} (h : Issues s x i) :
    W.slot ⟨s.hw.ctl, s.hw.mem, []⟩ x.k i = (fx (begun s x i) x i (begun s x i)).settle x := by
  obtain ⟨hr, hc, hw, he, hl, hp, hf, hs, hm⟩ := h
  have hready : (s.hw.ctl.core x.q).ready = false := by simp [CoreSt.ready, he]
  have hstage : stage (s.hw.ctl.core x.q).staged i = [i] := by simp [stage, he]
  have hgo : (!s.hw.ctl.running || (s.hw.ctl.core x.q).waiting != [] || (s.hw.ctl.core x.q).ready) = false := by
    simp [hr, hw, hready]
  unfold W.slot
  rw [hc]
  dsimp only
  rw [hgo, if_neg (by simp), if_pos hl, hstage]
  show W.tryIssue ⟨s.hw.ctl.staged1 x i, s.hw.mem, []⟩ x = _
  have hb : ((s.hw.ctl.staged1 x i).core x.q).staged = [i] := by simp [Ctl.staged1]
  unfold W.tryIssue
  simp only [hb, hp, hf, List.findSome?_cons, hs, List.findSome?_nil, if_false, Bool.false_eq_true, List.foldl_cons, List.foldl_nil, hm,
    W.mergeUpset]
  rfl

/-- d is c but for the four register files. -/
def FilesOnly (c d : Ctl) : Prop :=
  ∃ sr vr ar pr, d = { c with fab := { c.fab with sregs := sr, vregs := vr, aregs := ar, pregs := pr } }

theorem FilesOnly.refl (c : Ctl) : FilesOnly c c := ⟨_, _, _, _, rfl⟩

theorem FilesOnly.trans {c d e : Ctl} (h : FilesOnly c d) (g : FilesOnly d e) : FilesOnly c e := by
  obtain ⟨_, _, _, _, rfl⟩ := h
  obtain ⟨_, _, _, _, rfl⟩ := g
  exact ⟨_, _, _, _, rfl⟩

theorem filesOnly_sregSet (c : Ctl) (q i : Nat) (v : Word) : FilesOnly c (c.sregSet q i v) := by
  unfold Ctl.sregSet; split <;> exact ⟨_, _, _, _, rfl⟩
theorem filesOnly_pregSet (c : Ctl) (q i : Nat) (v : BitVec 64) : FilesOnly c (c.pregSet q i v) := by
  unfold Ctl.pregSet; split <;> exact ⟨_, _, _, _, rfl⟩
theorem filesOnly_vregSet (c : Ctl) (q i : Nat) (v : BitVec 1024) : FilesOnly c (c.vregSet q i v) := ⟨_, _, _, _, rfl⟩
theorem filesOnly_aregSet (c : Ctl) (q i r j : Nat) (v : Word) : FilesOnly c (c.aregSet q i r j v) := ⟨_, _, _, _, rfl⟩

theorem filesOnly_foldl {α : Type} (l : List α) (f : Ctl → α → Ctl) (h : ∀ c a, FilesOnly c (f c a)) :
    ∀ c, FilesOnly c (l.foldl f c) := by
  induction l with
  | nil => exact FilesOnly.refl
  | cons a t ih => intro c; exact (h c a).trans (ih _)

theorem filesOnly_rowSet (c : Ctl) (q a r : Nat) (f : Nat → Word) : FilesOnly c (c.rowSet q a r f) :=
  filesOnly_foldl _ _ (fun c _ => filesOnly_aregSet c _ _ _ _ _) c
theorem filesOnly_tileSet (c : Ctl) (q a : Nat) (f : Nat → Nat → Word) : FilesOnly c (c.tileSet q a f) :=
  filesOnly_foldl _ _ (fun c _ => filesOnly_rowSet c _ _ _ _) c

/-! The energy estimates of a bundle touch nothing else (R415). -/

@[simp] theorem Ctl.rd_bundleEnergy (c : Ctl) (x : At) (b : List Issued) (a : Nat) : (c.bundleEnergy x b).rd a = c.rd a := rfl
@[simp] theorem Ctl.get_bundleEnergy (c : Ctl) (x : At) (b : List Issued) (f : Fld) : (c.bundleEnergy x b).get f = c.get f := rfl
@[simp] theorem Ctl.core_bundleEnergy (c : Ctl) (x : At) (b : List Issued) (q : Nat) : (c.bundleEnergy x b).core q = c.core q := rfl
@[simp] theorem Ctl.sreg_bundleEnergy (c : Ctl) (x : At) (b : List Issued) (q i : Nat) : (c.bundleEnergy x b).sreg q i = c.sreg q i := rfl
@[simp] theorem Ctl.vreg_bundleEnergy (c : Ctl) (x : At) (b : List Issued) (q i : Nat) : (c.bundleEnergy x b).vreg q i = c.vreg q i := rfl
@[simp] theorem Ctl.preg_bundleEnergy (c : Ctl) (x : At) (b : List Issued) (q i : Nat) : (c.bundleEnergy x b).preg q i = c.preg q i := rfl
@[simp] theorem Ctl.areg_bundleEnergy (c : Ctl) (x : At) (b : List Issued) (q i r j : Nat) :
    (c.bundleEnergy x b).areg q i r j = c.areg q i r j := rfl

@[simp] theorem begun_mem (s : State) (x : At) (i : Issued) : (begun s x i).mem = s.hw.mem := rfl
@[simp] theorem begun_acts (s : State) (x : At) (i : Issued) : (begun s x i).acts = [] := rfl
@[simp] theorem begun_sreg (s : State) (x : At) (i : Issued) (q j : Nat) : (begun s x i).ctl.sreg q j = s.hw.ctl.sreg q j := by
  simp [begun, Ctl.staged1]
@[simp] theorem begun_vreg (s : State) (x : At) (i : Issued) (q j : Nat) : (begun s x i).ctl.vreg q j = s.hw.ctl.vreg q j := by
  simp [begun, Ctl.staged1]
@[simp] theorem begun_preg (s : State) (x : At) (i : Issued) (q j : Nat) : (begun s x i).ctl.preg q j = s.hw.ctl.preg q j := by
  simp [begun, Ctl.staged1]
@[simp] theorem begun_areg (s : State) (x : At) (i : Issued) (q j r l : Nat) :
    (begun s x i).ctl.areg q j r l = s.hw.ctl.areg q j r l := by
  simp [begun, Ctl.staged1]
@[simp] theorem begun_guard (s : State) (x : At) (i : Issued) (q : Nat) (sl : Slot) :
    (begun s x i).ctl.guard q sl = s.hw.ctl.guard q sl := by simp [Ctl.guard]
@[simp] theorem begun_guard0 (s : State) (x : At) (i : Issued) (q : Nat) (sl : Slot) :
    (begun s x i).ctl.guard0 q sl = s.hw.ctl.guard0 q sl := by simp [Ctl.guard0]

theorem begun_eq (s : State) (x : At) (i : Issued) :
    ∃ r cs ef em, (begun s x i).ctl = { s.hw.ctl with regs := r, fab := { s.hw.ctl.fab with cores := cs, enFab := ef, enMem := em } } := by
  obtain ⟨r, hr⟩ := Ctl.bump_eq ((((s.hw.ctl.staged1 x i)).coreSet x.q { (s.hw.ctl.staged1 x i).core x.q with staged := [] }).bundleEnergy x [i])
    (F.stdCoreIssueCount x.n (x.q % 8)) 1
  simp only [begun, W.on_ctl, hr]
  exact ⟨_, _, _, _, rfl⟩

theorem begun_core (s : State) (x : At) (i : Issued) (q : Nat) :
    (begun s x i).ctl.core q = if q = x.q then { s.hw.ctl.core x.q with staged := [], nextPc := (x.pc + 1) % 4096, halting := false, nacked := false, waited := false }
      else s.hw.ctl.core q := by
  by_cases h : q = x.q
  · subst h
    simp [begun, Ctl.staged1]
  · simp [begun, Ctl.staged1, Ctl.core_coreSet, h]

theorem begun_rd (s : State) (x : At) (i : Issued) {a : Nat} (h : a ≠ x.issueAddr) (h' : a ≠ R.dbgSat) :
    (begun s x i).ctl.rd a = s.hw.ctl.rd a := by
  simp only [begun, W.on_ctl, Ctl.rd_coreSet]
  refine (Ctl.rd_bump_ne _ _ _ h h').trans ?_
  simp [Ctl.staged1]

theorem issueAddr_ne_dbgSat (x : At) : x.issueAddr ≠ R.dbgSat := by
  unfold At.issueAddr
  show stdBase (x.q / 8) + 0x108 + 0x40 * (x.q % 8) ≠ _
  unfold stdBase
  split <;> simp [R.dbgSat] <;> omega

theorem begun_issue (s : State) (x : At) (i : Issued) :
    (begun s x i).ctl.get (F.stdCoreIssueCount (x.q / 8) (x.q % 8)) =
      min (s.hw.ctl.get (F.stdCoreIssueCount (x.q / 8) (x.q % 8)) + 1) (2 ^ 32 - 1) := by
  simp only [begun, W.on_ctl, Ctl.get_coreSet, At.n]
  rw [Ctl.get_bump _ _ _ (by simp) (issueAddr_ne_dbgSat x)]
  simp [Ctl.staged1]

/-- A bundle with no waiting slot and no HALT goes on at its next PC. -/
theorem settle_plain (w : W) (x : At) (h : (w.ctl.core x.q).waiting = []) (hh : (w.ctl.core x.q).halting = false) :
    w.settle x = w.on (fun c => c.put (F.stdCorePcPc x.n (x.q % 8)) (w.ctl.core x.q).nextPc) := by
  have ht : w.ctl.tryAll x.q x.k = w.ctl := by simp [Ctl.tryAll, h]
  unfold W.settle W.finish
  simp [W.on, ht, h, hh]

/-- What a slot whose effect is in the register files alone leaves: the bundle retires, and the files are the effect's. -/
theorem retired_files {s : State} {x : At} {i : Issued} (h : Issues s x i) {d : Ctl} (hd : FilesOnly (begun s x i).ctl d)
    (hfx : fx (begun s x i) x i (begun s x i) = (begun s x i).on (fun _ => d)) :
    ∃ t, onHw s (fun w => w.slot x.k i) = .next t ∧ Retired x (x.pc + 1) [] s t ∧ t.hw.ctl.fab = d.fab := by
  have hcore := atCore_q h.core
  obtain ⟨sr, vr, ar, pr, hd⟩ := hd
  have hcd (q : Nat) : d.core q = (begun s x i).ctl.core q := by subst hd; rfl
  have hrd : d.regs = (begun s x i).ctl.regs := by subst hd; rfl
  have hset : (fx (begun s x i) x i (begun s x i)).settle x =
      ⟨d.put (F.stdCorePcPc x.n (x.q % 8)) ((x.pc + 1) % 4096), s.hw.mem, []⟩ := by
    rw [hfx, settle_plain]
    · simp only [W.on, hcd, begun_core, if_pos, begun_mem, begun_acts]
    · simp [hcd, begun_core, h.waits]
    · simp [hcd, begun_core]
  refine ⟨⟨⟨d.put (F.stdCorePcPc x.n (x.q % 8)) ((x.pc + 1) % 4096), s.hw.mem⟩, s.pending⟩, ?_, ?_, rfl⟩
  · unfold onHw
    simp only [slot_issues h, hset, List.reverse_nil, MAct.run, List.foldl_nil]
  · refine ⟨rfl, rfl, ?_, ?_, ?_, ?_, ?_, ?_, ?_⟩
    · show (d.put _ _).get _ = _
      simp only [At.n]
      rw [Ctl.get_put_self _ _ _ (by simp)]
      simp
    · show (d.put _ _).get _ = _
      rw [Ctl.get_put_ne d (F.stdCorePcPc x.n (x.q % 8)) (F.stdCoreIssueCount (x.q / 8) (x.q % 8)) _ (by simp) (Or.inl (by simp [At.n])), Ctl.get_of_regs hrd, begun_issue]
    · intro a ha
      simp only [List.mem_cons, not_or] at ha
      show (d.put _ _).rd a = _
      refine (Ctl.rd_put_ne _ _ _ ha.1).trans ?_
      rw [Ctl.rd_of_regs hrd, begun_rd s x i ha.2.1 ha.2.2.1]
    · show (d.core x.q).task = _
      rw [hcd, begun_core, if_pos rfl]
      exact hcore.2.2.1
    · show (d.core x.q).waiting = _ ∧ (d.core x.q).staged = _
      rw [hcd, begun_core, if_pos rfl]
      exact ⟨h.waits, rfl⟩
    · intro q hq
      show d.core q = _
      rw [hcd, begun_core, if_neg hq]
    · obtain ⟨r, cs, ef, em, hb⟩ := begun_eq s x i
      rw [hb] at hd
      subst hd
      exact ⟨_, _, _, _, _, _, _, _, rfl⟩
theorem sreg_of_fab {c d : Ctl} (h : c.fab = d.fab) (q j : Nat) : c.sreg q j = d.sreg q j := by simp [Ctl.sreg, h]
theorem vreg_of_fab {c d : Ctl} (h : c.fab = d.fab) (q j : Nat) : c.vreg q j = d.vreg q j := by simp [Ctl.vreg, h]
theorem preg_of_fab {c d : Ctl} (h : c.fab = d.fab) (q j : Nat) : c.preg q j = d.preg q j := by simp [Ctl.preg, h]
theorem areg_of_fab {c d : Ctl} (h : c.fab = d.fab) (q j r l : Nat) : c.areg q j r l = d.areg q j r l := by simp [Ctl.areg, h]

theorem begun_files (s : State) (x : At) (i : Issued) : (begun s x i).ctl.fab.sregs = s.hw.ctl.fab.sregs ∧ (begun s x i).ctl.fab.vregs = s.hw.ctl.fab.vregs ∧
   (begun s x i).ctl.fab.pregs = s.hw.ctl.fab.pregs ∧ (begun s x i).ctl.fab.aregs = s.hw.ctl.fab.aregs := by
  obtain ⟨r, cs, ef, em, h⟩ := begun_eq s x i
  rw [h]; exact ⟨rfl, rfl, rfl, rfl⟩

/-- A slot that issues names a destination in its file. -/
theorem issues_file {s : State} {x : At} {i : Issued} (h : Issues s x i) (f : RFile) (hf : i.op.form.d = some f) : i.sl.d.val < f.size := by
  have hp := h.passes
  unfold Ctl.bundleCause at hp
  split at hp
  · simp at hp
  · simp only [List.foldl_cons, List.foldl_nil] at hp
    split at hp
    · rename_i hr
      unfold Ctl.slotCause at hr
      split at hr
      · simp at hr
      split at hr
      · simp at hr
      split at hr
      · simp at hr
      · rename_i hb
        simp [Issued.badReg, inFile, hf] at hb
        exact hb.1.1.1.1
    · simp at hp

/-! Gather buffers (R170, R171). -/

/-- The registers a flush may write besides those of a posting. -/
def flushRegs : List Nat := [R.cnpGbRmw, R.cnpDetCount, R.cnpDetAddr, R.cnpDetSrc, R.cnpClrPending]

/-- d is c but for what a flush may change outside the gather buffers: of the fabric, the detections to repair (R180). -/
structure Flushed (c d : Ctl) : Prop where
  rd : ∀ a, postAddr a = false → a ∉ flushRegs → d.rd a = c.rd a
  fab : ∃ r, d.fab = { c.fab with repairs := r }
  cnp : d.cnp = c.cnp
  units : SameUnits c d

theorem SameUnits.refl (c : Ctl) : SameUnits c c := ⟨rfl, rfl, rfl, rfl, rfl, rfl, rfl, rfl, rfl, rfl, rfl, rfl, rfl⟩
theorem SameUnits.trans {c d e : Ctl} (h : SameUnits c d) (g : SameUnits d e) : SameUnits c e :=
  ⟨g.now.trans h.now, g.vid.trans h.vid, g.ras.trans h.ras, g.ports.trans h.ports, g.img.trans h.img, g.und.trans h.und,
    g.gld.trans h.gld, g.hng.trans h.hng, g.pwr.trans h.pwr, g.boot.trans h.boot, g.jobs.trans h.jobs, g.dmas.trans h.dmas,
    g.taken.trans h.taken⟩
theorem Posted.units {c d : Ctl} (h : Posted c d) : SameUnits c d :=
  ⟨h.now, h.vid, h.ras, h.ports, h.img, h.und, h.gld, h.hng, h.pwr, h.boot, h.jobs, h.dmas, h.taken⟩
theorem Posted.flushed {c d : Ctl} (h : Posted c d) : Flushed c d := ⟨fun a ha _ => h.rd a ha, ⟨_, h.fab⟩, h.cnp, h.units⟩
theorem Flushed.refl (c : Ctl) : Flushed c c := ⟨fun _ _ _ => rfl, ⟨_, rfl⟩, rfl, SameUnits.refl c⟩
theorem Flushed.trans {c d e : Ctl} (h : Flushed c d) (g : Flushed d e) : Flushed c e :=
  ⟨fun a ha hl => (g.rd a ha hl).trans (h.rd a ha hl), by
    obtain ⟨r, hr⟩ := g.fab
    obtain ⟨q, hq⟩ := h.fab
    exact ⟨r, by rw [hr, hq]⟩, g.cnp.trans h.cnp, h.units.trans g.units⟩

theorem flushed_wr (c : Ctl) (a : Nat) (v : Word) (h : a ∈ flushRegs) : Flushed c (c.wr a v) :=
  ⟨fun _ _ hb => Ctl.rd_wr_ne c v (fun e => hb (e ▸ h)), ⟨_, rfl⟩, rfl,
    ⟨rfl, rfl, rfl, rfl, rfl, rfl, rfl, rfl, rfl, rfl, rfl, rfl, rfl⟩⟩

theorem flushed_bump (c : Ctl) (f : Fld) (n : Nat) (h : f.addr ∈ flushRegs) : Flushed c (c.bump f n) := by
  obtain ⟨r, hr⟩ := Ctl.bump_eq c f n
  refine ⟨fun b hb hl => Ctl.rd_bump_ne c f n (fun e => hl (e ▸ h)) ?_, ⟨c.fab.repairs, by rw [hr]⟩, by rw [hr], ?_⟩
  · rintro rfl; exact absurd hb (by decide)
  · rw [hr]; exact ⟨rfl, rfl, rfl, rfl, rfl, rfl, rfl, rfl, rfl, rfl, rfl, rfl, rfl⟩

/-- A detection of a unit counts, records and posts, and may queue a repair (R176, R180). -/
theorem flushed_detPost (c : Ctl) (key core : Nat) (a src : Word) : Flushed c (c.detPost key core a src) := by
  unfold Ctl.detPost
  dsimp only
  have hr : Flushed c (if c.residentKey key then c.repairLater 2 key a core else c) := by
    split
    · exact ⟨fun _ _ _ => rfl, ⟨_, rfl⟩, rfl, ⟨rfl, rfl, rfl, rfl, rfl, rfl, rfl, rfl, rfl, rfl, rfl, rfl, rfl⟩⟩
    · exact Flushed.refl c
  refine hr.trans (Flushed.trans ?_ (posted_event _ _ _ _ _ (by decide)).flushed)
  exact ((flushed_bump _ _ 1 (by decide)).trans (flushed_wr _ _ _ (by decide))).trans (flushed_wr _ _ _ (by decide))

/-- A merge read that finds poison is such a detection (R176). -/
theorem flushed_detAcc (c : Ctl) (key core h : Nat) : Flushed c (c.detAcc key core h) := flushed_detPost _ _ _ _ _

theorem flushed_clrCount (w : W) : Flushed w.ctl w.clrCount.ctl := flushed_wr _ _ _ (by decide)

/-- Bytes put one by one at offsets below n from a key: the controllers stay, and so does every byte outside. -/
theorem foldl_puts (key n : Nat) (f : Nat → Byte) (l : List Nat) (hl : ∀ j ∈ l, j < n) : ∀ w : W,
    (l.foldl (fun w j => w.act (.put (key + j) [f j])) w).ctl = w.ctl ∧
    ∀ a, a < key ∨ key + n ≤ a → (l.foldl (fun w j => w.act (.put (key + j) [f j])) w).mem.rd a = w.mem.rd a := by
  induction l with
  | nil => intro w; exact ⟨rfl, fun _ _ => rfl⟩
  | cons j t ih =>
    intro w
    obtain ⟨h1, h2⟩ := ih (fun i hi => hl i (List.mem_cons_of_mem _ hi)) (w.act (.put (key + j) [f j]))
    refine ⟨h1, fun a ha => (h2 a ha).trans ?_⟩
    have hj := hl j List.mem_cons_self
    rw [W.act_mem, MAct.rd_put, if_neg]
    simp only [List.length_cons, List.length_nil]
    omega

/-- Counting a merge and reporting its poison change no byte. -/
theorem flushed_report (w v : W) (merge bad : Bool) (key core : Nat) (P : Nat → Prop)
    (h : Flushed w.ctl v.ctl ∧ ∀ a, P a → v.mem.rd a = w.mem.rd a) :
    Flushed w.ctl (if bad then (if merge then v.on (fun c => c.bump F.cnpGbRmwCount 1) else v).on (fun c => c.detAcc key core 0)
      else if merge then v.on (fun c => c.bump F.cnpGbRmwCount 1) else v).ctl ∧
    ∀ a, P a → (if bad then (if merge then v.on (fun c => c.bump F.cnpGbRmwCount 1) else v).on (fun c => c.detAcc key core 0)
      else if merge then v.on (fun c => c.bump F.cnpGbRmwCount 1) else v).mem.rd a = w.mem.rd a := by
  have h1 : Flushed v.ctl (v.ctl.bump F.cnpGbRmwCount 1) := flushed_bump _ _ 1 (by decide)
  cases bad <;> cases merge <;> simp only [if_true, if_false, Bool.false_eq_true, W.on_ctl, W.on_mem]
  · exact h
  · exact ⟨h.1.trans h1, h.2⟩
  · exact ⟨h.1.trans (flushed_detAcc v.ctl key core 0), h.2⟩
  · exact ⟨(h.1.trans h1).trans (flushed_detAcc (v.ctl.bump F.cnpGbRmwCount 1) key core 0), h.2⟩

/-- A word of an entry flushed changes no byte outside the word. -/
theorem flushWord_frame (w : W) (e : GbEntry) (pend : Bool) (i : Nat) :
    Flushed w.ctl (w.flushWord e pend i).ctl ∧
      ∀ a, (a < e.line + 32 * i ∨ e.line + 32 * i + 32 ≤ a) → (w.flushWord e pend i).mem.rd a = w.mem.rd a := by
  unfold W.flushWord
  dsimp only
  split
  · exact ⟨Flushed.refl _, fun _ _ => rfl⟩
  · generalize hen : (List.range 32).filter (fun j => mget 256 e.bytes (32 * i + j) != 256) = en
    have hlt : ∀ j ∈ en, j < 32 := by
      intro j hj; rw [← hen, List.mem_filter, List.mem_range] at hj; exact hj.1
    have h0 : Flushed w.ctl (if en.length = 32 then
          w.act (.put (e.line + 32 * i) ((List.range 32).map (fun j => (BitVec.ofNat 8 (mget 256 e.bytes (32 * i + j)) : Byte))))
        else en.foldl (fun w j => w.act (.put (e.line + 32 * i + j) [BitVec.ofNat 8 (mget 256 e.bytes (32 * i + j))])) w).ctl ∧
        ∀ a, (a < e.line + 32 * i ∨ e.line + 32 * i + 32 ≤ a) → (if en.length = 32 then
          w.act (.put (e.line + 32 * i) ((List.range 32).map (fun j => (BitVec.ofNat 8 (mget 256 e.bytes (32 * i + j)) : Byte))))
        else en.foldl (fun w j => w.act (.put (e.line + 32 * i + j) [BitVec.ofNat 8 (mget 256 e.bytes (32 * i + j))])) w).mem.rd a =
          w.mem.rd a := by
      split
      · refine ⟨Flushed.refl _, fun a ha => ?_⟩
        rw [W.act_mem, MAct.rd_put, if_neg]
        simp only [List.length_map, List.length_range]
        omega
      · obtain ⟨g1, g2⟩ := foldl_puts (e.line + 32 * i) 32 (fun j => BitVec.ofNat 8 (mget 256 e.bytes (32 * i + j))) en hlt w
        exact ⟨by rw [g1]; exact Flushed.refl _, g2⟩
    exact flushed_report w _ (en.length != 32 && !pend)
      (en.length != 32 && !pend && w.mem.poisonAt (e.line + 32 * i)) _ _ _ h0

/-- An entry flushed changes no byte outside its line. -/
theorem flushEntry_frame (w : W) (e : GbEntry) :
    Flushed w.ctl (w.flushEntry e).ctl ∧ ∀ a, (a < e.line ∨ e.line + 256 ≤ a) → (w.flushEntry e).mem.rd a = w.mem.rd a := by
  have aux : ∀ l : List Nat, (∀ i ∈ l, i < 8) → ∀ v : W,
      Flushed v.ctl (l.foldl (fun x i => x.flushWord e (w.mem.pendingAt e.line) i) v).ctl ∧
        ∀ a, (a < e.line ∨ e.line + 256 ≤ a) → (l.foldl (fun x i => x.flushWord e (w.mem.pendingAt e.line) i) v).mem.rd a = v.mem.rd a := by
    intro l
    induction l with
    | nil => intro _ v; exact ⟨Flushed.refl _, fun _ _ => rfl⟩
    | cons i t ih =>
      intro hl v
      have hi := hl i List.mem_cons_self
      obtain ⟨f1, f2⟩ := flushWord_frame v e (w.mem.pendingAt e.line) i
      obtain ⟨g1, g2⟩ := ih (fun j hj => hl j (List.mem_cons_of_mem _ hj)) (v.flushWord e (w.mem.pendingAt e.line) i)
      exact ⟨f1.trans g1, fun a ha => (g2 a ha).trans (f2 a (by omega))⟩
  obtain ⟨f1, f2⟩ := aux (List.range 8) (fun i hi => List.mem_range.mp hi) w
  exact ⟨f1.trans (flushed_clrCount _), f2⟩

/-- The entries a condition picks are flushed and gone; no byte outside their lines changes, and of the controllers only what a
flush may write. -/
theorem flushWhere_frame (w : W) (n : Nat) (p : GbEntry → Bool) :
    Flushed (w.ctl.gatherSet n ((w.ctl.gather n).filter (fun e => !p e))) (w.flushWhere n p).ctl ∧
    (w.flushWhere n p).ctl.gather n = (w.ctl.gather n).filter (fun e => !p e) ∧
    (∀ m, m ≠ n → (w.flushWhere n p).ctl.gather m = w.ctl.gather m) ∧
    ∀ a, (∀ e ∈ w.ctl.gather n, p e = true → a < e.line ∨ e.line + 256 ≤ a) → (w.flushWhere n p).mem.rd a = w.mem.rd a := by
  have aux : ∀ (l : List GbEntry) (v : W), Flushed v.ctl (l.foldl W.flushEntry v).ctl ∧
      ∀ a, (∀ e ∈ l, a < e.line ∨ e.line + 256 ≤ a) → (l.foldl W.flushEntry v).mem.rd a = v.mem.rd a := by
    intro l
    induction l with
    | nil => intro v; exact ⟨Flushed.refl _, fun _ _ => rfl⟩
    | cons e t ih =>
      intro v
      obtain ⟨f1, f2⟩ := flushEntry_frame v e
      obtain ⟨g1, g2⟩ := ih (v.flushEntry e)
      exact ⟨f1.trans g1, fun a ha => (g2 a (fun x hx => ha x (List.mem_cons_of_mem _ hx))).trans (f2 a (ha e List.mem_cons_self))⟩
  obtain ⟨f1, f2⟩ := aux ((w.ctl.gather n).filter p) (w.on (fun c => c.gatherSet n ((w.ctl.gather n).filter (fun e => !p e))))
  refine ⟨f1, ?_, ?_, ?_⟩
  · show mget [] (W.flushWhere w n p).ctl.cnp.gather n = _
    rw [show (W.flushWhere w n p).ctl.cnp = _ from f1.cnp]
    simp [W.on, Ctl.gatherSet]
  · intro m hm
    show mget [] (W.flushWhere w n p).ctl.cnp.gather m = _
    rw [show (W.flushWhere w n p).ctl.cnp = _ from f1.cnp]
    simp [W.on, Ctl.gatherSet, mget_mset, hm, Ctl.gather]
  · intro a ha
    exact f2 a (fun e he => by rw [List.mem_filter] at he; exact ha e he.1 he.2)

/-- Where a condition picks no entry nothing is flushed. -/
theorem flushWhere_none (w : W) (n : Nat) (p : GbEntry → Bool) (h : ∀ e ∈ w.ctl.gather n, p e = false) :
    w.flushWhere n p = w.on (fun c => c.gatherSet n (c.gather n)) := by
  have h1 : (w.ctl.gather n).filter p = [] := by
    rw [List.filter_eq_nil_iff]; intro e he; simp [h e he]
  have h2 : (w.ctl.gather n).filter (fun e => !p e) = w.ctl.gather n := by
    rw [List.filter_eq_self]; intro e he; simp [h e he]
  unfold W.flushWhere
  dsimp only
  rw [h1, h2]
  rfl

end Sys2Proof.Machine
end

