-- ==== Sys2Proof/Tests/Slice0.lean ====
section
/-! SUPPORT. Tests: concrete states that meet the hypotheses of the statements (one theorem for each, a list's entries being the
premises of its clauses), ill-formed terms that WellFormed refuses, and single steps with the outcome the spec gives. -/

namespace Sys2Proof.Tests
set_option Elab.async false
open Sys2Proof Sys2Proof.Machine

/-! Small states. -/

/-- The block at reset with its controllers changed. -/
def st (f : Ctl → Ctl) : State := ⟨⟨f Ctl.reset, Mem.reset⟩, []⟩

/-- What the CRC of a small image covers: 32 reserved bytes, the directory of the seven required sections, all empty, and padding. -/
def imgBody : List Byte :=
  List.replicate 32 0 ++ [1, 2, 4, 6, 9, 10, 12].flatMap (fun t => toBytes 4 t ++ toBytes 4 0xB0 ++ List.replicate 8 0) ++ List.replicate 80 0

/-- A header and directory (Table 7.1): IMAGE_ID 0, LENGTH 256, CODE_SZ 1, RES_SZ 1, one model slot. Its CRC-32 is computed apart from the
model. -/
def imgBytes : List Byte :=
  [0x43, 0x52, 0x49, 0x4C] ++ toBytes 4 3 ++ toBytes 4 0x6B720021 ++ toBytes 4 0 ++ toBytes 4 256 ++ toBytes 4 0x9707C8A8 ++ [1, 1, 0, 0, 1, 7, 0, 0] ++
    imgBody

/-- An image with a page of code, one of resident data and a model slot without a schedule, and nothing declared. -/
def img0 : Image :=
  { bytes := imgBytes, models := [⟨0, 0, [], []⟩], batches := [], templates := [], groups := [], routes := [], pools := [],
    rings := [], sems := [], pairs := [], handles := [], code := [], resident := [], consts := [], deps := [], hc8 := [] }

/-- The CRC of the body so far, byte n of it next. -/
def imgCrc (r n k : Nat) : Nat := ((imgBody.drop n).take k).foldl crc32Byte r

/-- Table 7.1: the CRC-32 over 0x20 … LENGTH − 1 is the one in the header. -/
theorem test_img_crc : img0.crcOf = img0.crc := by
  have b : (img0.bytes.take img0.length).drop 0x20 = imgBody := by decide +kernel
  have n : imgBody.length = 224 := by decide +kernel
  have p : ∀ r n k m, imgCrc r n (k + m) = imgCrc (imgCrc r n k) (n + k) m := by
    intro r n k m; rw [imgCrc, imgCrc, imgCrc, ← List.foldl_append, ← List.drop_drop, List.take_add]
  have s6 : imgCrc 0x829D0805 192 32 = 0x68F83757 := by decide +kernel
  have s5 : imgCrc 0x7AF2BC1E 160 64 = 0x68F83757 := (p _ _ 32 32).trans ((congrArg (imgCrc · 192 32) (by decide +kernel)).trans s6)
  have s4 : imgCrc 0xD48F1398 128 96 = 0x68F83757 := (p _ _ 32 64).trans ((congrArg (imgCrc · 160 64) (by decide +kernel)).trans s5)
  have s3 : imgCrc 0xA0BDA20A 96 128 = 0x68F83757 := (p _ _ 32 96).trans ((congrArg (imgCrc · 128 96) (by decide +kernel)).trans s4)
  have s2 : imgCrc 0x7FF81914 64 160 = 0x68F83757 := (p _ _ 32 128).trans ((congrArg (imgCrc · 96 128) (by decide +kernel)).trans s3)
  have s1 : imgCrc 0xE6F5AA52 32 192 = 0x68F83757 := (p _ _ 32 160).trans ((congrArg (imgCrc · 64 160) (by decide +kernel)).trans s2)
  have s0 : imgCrc 0xFFFFFFFF 0 224 = 0x68F83757 := (p _ _ 32 192).trans ((congrArg (imgCrc · 32 192) (by decide +kernel)).trans s1)
  have w : imgBody.foldl crc32Byte 0xFFFFFFFF = 0x68F83757 := by rw [← s0, imgCrc, List.drop_zero, List.take_of_length_le (by rw [n])]
  rw [Image.crcOf, b, crc32, w]
  decide +kernel

/-- Every check of a load but that of the CRC (R218). -/
def passes (c : Ctl) (buf : Nat) : Bool :=
  imgHead img0 buf && decide (img0.ident = c.rd R.glbIdent) && imgSizes img0 && c.imgLayout img0 && (c.routesWrite img0 c.img.cur.isNone).2 &&
    img0.pools.all (poolOk img0) && img0.rings.all (ringOk img0) && pairsOk img0 && c.declsOk img0 && !img0.templates.any (fun t => descReserved t) &&
    schedsOk img0 && depsOk img0

theorem passes_sound {c : Ctl} {buf : Nat} (h : passes c buf = true) : c.imgCheck img0 buf = none := by
  simp only [passes, Bool.and_eq_true, decide_eq_true_eq, Bool.not_eq_true'] at h
  obtain ⟨⟨⟨⟨⟨⟨⟨⟨⟨⟨⟨h1, h3⟩, h4⟩, h5⟩, h6⟩, h7⟩, h7'⟩, h8⟩, h9⟩, h10⟩, h11⟩, h12⟩ := h
  simp [Ctl.imgCheck, h1, test_img_crc, h3, h4, h5, h6, h7, h7', h8, h9, h10, h11, h12]

/-- A host job's task in handle mode. -/
def task0 : Task :=
  { entry := 0, core := 0, tmode := false, spec := false, owner := 0x40, task := 7, frame := 0, line := 0, bbHandle := 0, bbBase := 0,
    bbBound := 0, startSem := 0, startN := 0, startEn := false, done := [(4, 2, true), (6, 1, false)], args := [], template := 0, phase := 0, item := 0,
    inCommit := false, recurrent := false }

/-- Core 0 runs task0 on stand 0; handle 0 is a Canopy handle of 256 KiB the task may write; handle 1 is the output ring of context 0;
channels 0 and 1 lead from core 0 to itself; s1 and s2 point at the handles. -/
def tileCtl (c : Ctl) : Ctl :=
  let c := { c with img := { c.img with cur := some img0 } }
  let c := (c.put (F.stdStateState 0) 3).put (F.stdStateLogical 0) 0
  let c := c.coreSet 0 { CoreSt.idle with task := some task0 }
  let c := (c.wr (R.cnpHtW0 0) (htWord true false true false 0x40)).put (F.cnpHtW2SizeM1 0) 1023
  let c := ((c.wr (R.cnpHtW0 1) (htWord true false true false 0x40)).put (F.cnpHtW1Base 1) 1024).put (F.cnpHtW2SizeM1 1) 1023
  let c := (c.put (F.chnRouteValid 0) 1).put (F.chnRouteWidth 0) 1
  let c := c.put (F.chnRouteValid 1) 1
  let c := ((c.put (F.stcCtrlArm 0) 1).put (F.stcCtrlDir 0) 1).put (F.stcCtrlSrc 0) 4
  let c := ((c.put (F.stcRingHandle 0) 1).put (F.stcRingDepth 0) 10).put (F.stcGeomHact 0) 640
  (c.sregSet 0 1 0x80000000).sregSet 0 2 0x80800000

/-- The state of tileCtl. -/
def tile : State := st tileCtl

/-- Core 0 in it. -/
def at0 : At := ⟨0, 0, task0, 0⟩

/-- A slot of an operation, alone in its bundle, with the guard p0. -/
def slotFor (op : Op) (d a b : Fin 64) (c : Fin 64) (imm : Word) : Slot :=
  { slot := Fin.ofNat 8 (op.slots.headD 0), pn := false, ps := 0, d := d, a := a, b := b, c := c, resv := 0, imm := imm, upset := false, last := true }

/-- Issues as a test. -/
def issues (s : State) (x : At) (i : Issued) : Bool :=
  s.hw.ctl.running && s.hw.ctl.atCore x.k == some x && (s.hw.ctl.core x.q).waiting == [] && (s.hw.ctl.core x.q).staged == [] &&
  i.sl.last && (s.hw.ctl.staged1 x i).bundleCause x.q x.k x.t x.pc [i] == none && !(s.hw.ctl.staged1 x i).bundleBusy x.q x.k x.t [i] &&
  W.slotDetects ⟨s.hw.ctl.staged1 x i, s.hw.mem, []⟩ x i == none && i.sl.mergeUpset == none

/-- A slot of an operation with these fields, alone in its bundle. -/
def one (op : Op) (d a b c : Fin 64) (imm : Word) : Issued := ⟨op, slotFor op d a b c imm⟩

theorem issues_sound {s : State} {x : At} {i : Issued} (h : issues s x i = true) : Issues s x i := by
  simp only [issues, Bool.and_eq_true, beq_iff_eq, Bool.not_eq_true'] at h
  obtain ⟨⟨⟨⟨⟨⟨⟨⟨h1, h2⟩, h3⟩, h4⟩, h5⟩, h6⟩, h7⟩, h8⟩, h9⟩ := h
  exact ⟨h1, h2, h3, h4, h5, h6, h7, h8, h9⟩

/-- Every operation with operands that Table 4.6 gives it, alone in a bundle. -/
def slots : List Issued :=
  [one .nop 0 0 0 0 0, one .ldS 63 0 0 0 0x7FFC, one .stS 0 0 63 0 0x7FFC, one .ldV 31 0 0 0 0x7F80, one .stV 0 0 31 0 0x7F80, one .ldVb 31 0 0 0 2,
   one .ldVx 31 0 63 0 2, one .ldAr 7 0 0 15 0x7F80, one .stAr 0 0 7 15 0x7F80, one .stAh 0 0 7 15 0x7FC0, one .stAcc 0 1 7 15 0x80000080,
   one .mma 7 31 31 7 0, one .mmaz 7 31 31 7 0, one .azero 7 0 0 0 0, one .amov 7 6 0 0 0, one .aadd 7 6 0 0 0, one .ard 31 7 0 7 0, one .awr 7 31 0 7 0,
   one .vadd 31 31 30 0 0, one .vsub 31 31 30 0 0, one .vmul 31 31 30 0 0, one .vfma 31 31 30 29 0, one .vmax 31 31 30 0 0, one .vmin 31 31 30 0 0,
   one .vmov 31 30 0 0 0, one .vbcst 31 63 0 0 0, one .vsel 31 30 29 15 0, one .vcmplt 15 31 30 0 0, one .vcmpeq 15 31 30 0 0, one .vshift 31 30 0 0 63,
   one .vcvti 31 30 0 0 31, one .vcvtp 31 30 0 0 0x1F1F, one .vsum 63 31 0 0 0,
   one .add 63 1 2 0 0, one .sub 63 1 2 0 0, one .mul 63 1 2 0 0, one .and 63 1 2 0 0, one .or 63 1 2 0 0, one .xor 63 1 2 0 0, one .shl 63 1 2 0 0,
   one .shr 63 1 2 0 0, one .sra 63 1 2 0 0, one .min 63 1 2 0 0, one .max 63 1 2 0 0, one .addi 63 1 0 0 0xFFFFFFFF, one .li 63 0 0 0 0xFFFFFFFF,
   one .cmplt 15 1 2 0 0, one .cmpeq 15 1 2 0 0, one .pand 15 14 13 0 0, one .por 15 14 13 0 0, one .pnot 15 14 0 0 0, one .ptail 15 1 0 0 0,
   one .rdsr 63 0 0 4 0, one .sendV 15 31 0 0 0, one .sendS 15 63 0 0 1, one .recvV 31 0 0 0 0, one .recvS 63 0 0 0 1, one .trecvV 31 0 0 15 0,
   one .br 0 0 0 0 0xFFFFFFFF, one .jmp 0 1 0 0 0, one .call 0 0 0 0 4095, one .ret 0 0 0 0 0, one .hint 0 0 0 0 4095, one .swait 0 0 0 0 0x1FF,
   one .ssig 0 0 0 0 0x1FF, one .stry 15 0 0 0 0x1FF, one .crget 0 0 0 0 0x1FF, one .crput 0 0 0 0 0xFF, one .fence 0 0 0 0 0, one .tagw 0 2 63 0 0,
   one .halt 0 0 0 0 0]

/-- Premises of ScalarResults, PredicateResults, VectorResults, VectorCompares, TensorResults, ControlFlow, TakesCounts and Receives, the
guard on: every operation but TRAP issues. -/
theorem test_every_slot_issues : slots.all (fun i => issues tile at0 i && tile.hw.ctl.guard0 0 i.sl) = true := by decide +kernel

theorem test_every_operation_listed : ((slots.map (·.op)).eraseDups.length, slots.length) = (71, 71) := by decide +kernel

/-- A guard that enables nothing: p1 is 0 at reset. -/
def off (i : Issued) : Issued := ⟨i.op, { i.sl with ps := 1 }⟩

theorem test_witness_GuardOffNoEffect : slots.all (fun i => issues tile at0 (off i) && !tile.hw.ctl.active 0 (off i)) = true := by decide +kernel

theorem test_witness_Issues : Issues tile at0 (one .add 63 1 2 0 0) := issues_sound (by decide +kernel)

theorem test_witness_SlotStaged : tile.hw.ctl.running = true ∧ tile.hw.ctl.atCore 0 = some at0 ∧ (tile.hw.ctl.core 0).waiting = [] ∧
    (tile.hw.ctl.core 0).ready = false ∧ ({ slotFor .add 63 1 2 0 0 with last := false } : Slot).last = false := by decide +kernel

/-- The core holds a bundle that waits in slot i. -/
def holding (i : Issued) (f : CoreSt → CoreSt) : State :=
  st (fun c => let c := tileCtl c; c.coreSet 0 (f { c.core 0 with waiting := [i], nextPc := 4095 }))

theorem test_witness_SlotNeedsRunningCore :
    (st (fun c => { c with boot := { c.boot with inReset := true } })).hw.ctl.running = false ∧ State.reset.hw.ctl.atCore 127 = none ∧
    (holding (one .swait 0 0 0 0 0x1FF) id).hw.ctl.atCore 0 = some at0 ∧ ((holding (one .swait 0 0 0 0 0x1FF) id).hw.ctl.core 0).waiting ≠ [] := by
  decide +kernel

/-- LD.S at an address that is not a multiple of 4. -/
def skewed : Issued := one .ldS 63 0 0 0 2

theorem test_witness_CoreFault : Arrives tile at0 skewed ∧
    ((tile.hw.ctl.staged1 at0 skewed).bundleCause 0 0 task0 0 [skewed]).isSome = true := by
  refine ⟨⟨?_, ?_, ?_, ?_, ?_⟩, ?_⟩ <;> decide +kernel

theorem test_witness_Trap : Arrives tile at0 (one .trap 0 0 0 0 0) ∧ tile.hw.ctl.guard0 0 (slotFor .trap 0 0 0 0 0) = true ∧
    0 < tile.hw.ctl.codeEnd ∧ Issued.illegal (one .trap 0 0 0 0 0) = false ∧ Issued.badReg (one .trap 0 0 0 0 0) = false := by
  refine ⟨⟨?_, ?_, ?_, ?_, ?_⟩, ?_⟩ <;> decide +kernel

theorem test_witness_Trap_off : Issues tile at0 (off (one .trap 0 0 0 0 0)) := issues_sound (by decide +kernel)

theorem test_witness_BundleReadsFirst : tile.hw.ctl.running = true ∧ tile.hw.ctl.atCore 0 = some at0 ∧ (tile.hw.ctl.core 0).waiting = [] ∧
    (tile.hw.ctl.core 0).staged = [] ∧ 128 * at0.pc < tile.hw.ctl.codeEnd ∧ (0 : Fin 32) ≠ 31 := by decide +kernel

/-- The tile state with further changes. -/
def tileW (f : Ctl → Ctl) : State := st (fun c => f (tileCtl c))

/-- A semaphore with exactly the count asked and one with one less; a pool with exactly the credits asked. -/
theorem test_witness_TakesCounts :
    let s := tileW (fun c => (c.put (F.semCountCount 255) 1).put (F.chnCpCountFree 255) 1)
    (issues s at0 (one .swait 0 0 0 0 0x1FF) && (s.hw.ctl.held1 at0 (one .swait 0 0 0 0 0x1FF)).semTurn 0 255 &&
      issues s at0 (one .crget 0 0 0 0 0x1FF) && issues s at0 (one .stry 15 0 0 0 0x1FF) &&
      issues s at0 (one .swait 0 0 0 0 0x2FF) && issues s at0 (one .crget 0 0 0 0 0x2FF) && issues s at0 (one .stry 15 0 0 0 0x2FF)) = true := by
  decide +kernel

theorem test_drained : Drained tile 0 0 := by
  have h : tile.hw.ctl.gather 0 = [] := by decide +kernel
  intro e he; rw [h] at he; cases he

/-- SSIG on semaphore 255, CRPUT of one credit lodged to the consumer's pool 255, FENCE. -/
theorem test_witness_GivesCounts :
    let s := tileW (fun c => (c.put (F.chnCpLodgedLodged 255) 1).put (F.chnCpCountFree 255) 65534)
    (issues s at0 (one .ssig 0 0 0 0 0x1FF) && issues s at0 (one .crput 0 0 0 0 0x1FF) && issues s at0 (one .fence 0 0 0 0 0) &&
      (List.range 128).all (fun r => !s.hw.ctl.on (F.chnSrStateValid r)) && (List.range 24).all (fun i => !s.hw.ctl.armedAs i 0) &&
      (List.range 256).all (fun p => !s.hw.ctl.on (F.chnCpGuardValid p)) && decide (s.hw.ctl.get (F.chnCpCountFree 255) + 1 < 65536)) = true := by
  decide +kernel

/-- The stand's gather buffer holds one entry that core 0 wrote: byte 255 of the first line of Canopy. -/
def gathered : State := tileW (fun c => c.gatherSet 0 [⟨canopyKey 0, [0], [(255, 7)]⟩])

theorem test_witness_FenceFlushes_FlushWrites : issues gathered at0 (one .fence 0 0 0 0 0) = true ∧
    gathered.hw.ctl.guard0 0 (slotFor .fence 0 0 0 0 0) = true ∧ gathered.hw.ctl.gather 0 = [⟨canopyKey 0, [0], [(255, 7)]⟩] ∧ 0 ∈ [0] := by
  decide +kernel

/-- Slot ring 127 of two slots, its full semaphore 254, on handle 2. -/
def ringTile : State := tileW (fun c =>
  let c := ((c.wr (R.cnpHtW0 2) (htWord true false true false 0x40)).put (F.cnpHtW1Base 2) 2048).put (F.cnpHtW2SizeM1 2) 1023
  let c := ((c.put (F.chnSrStateValid 127) 1).put (F.chnSrCfgFullSem 127) 254).put (F.chnSrCfgSlotsM1 127) 1
  let c := (c.put (F.chnSrCfgHandle 127) 2).put (F.chnSrCfgSlotSize 127) 1
  c.sregSet 0 3 0x81000000)

theorem test_witness_SignalFillsSlot :
    let c := ringTile.hw.ctl
    (issues ringTile at0 (one .ssig 0 0 0 0 0x1FE) && c.on (F.chnSrStateValid 127) && c.get (F.chnSrCfgFullSem 127) == 254 &&
      (List.range 128).all (fun q => q == 127 || !c.on (F.chnSrStateValid q)) && (List.range 24).all (fun i => !c.armedAs i 0) &&
      (List.range 256).all (fun p => !c.on (F.chnCpGuardValid p)) &&
      !(c.get (F.chnSrStateFill 127)).testBit (c.get (F.chnSrStateTail 127))) = true := by decide +kernel

/-- Channel 0 with its capacity checked, at its cap of one message; channel 1 holds one too. -/
def capped : State := tileW (fun c =>
  let c := (c.put (F.chnRouteMode 0) 1).put (F.chnOrderCapM1 0) 0
  { c with fab := { c.fab with fifos := mset [] (mset [] c.fab.fifos 0 [5]) 128 [5] } })

theorem test_witness_SendHolds :
    let isCapped := fun (s : State) => s.hw.ctl.on (F.chnRouteMode 0) && decide (s.hw.ctl.get (F.chnOrderCapM1 0) + 1 ≤ s.hw.ctl.level 0)
    (issues tile at0 (one .sendV 15 31 0 0 0) && issues tile at0 (one .sendS 15 63 0 0 1) && !isCapped tile &&
      issues capped at0 (one .sendV 15 31 0 0 0) && isCapped capped && !capped.hw.ctl.on (F.chnRouteRetry 0)) = true := by decide +kernel

theorem test_witness_SendAnswered :
    let i := one .sendV 15 31 0 0 0
    let ok := fun (s : State) (again : Bool) => s.hw.ctl.running && s.hw.ctl.atCore 0 == some at0 && (s.hw.ctl.core 0).waiting == [i] &&
      !(s.hw.ctl.core 0).halting && (s.hw.ctl.core 0).nacked == again
    (ok (holding i id) false && ok (holding i (fun m => { m with nacked := true })) true) = true := by decide +kernel

theorem test_witness_Receives :
    (issues capped at0 (one .recvV 31 0 0 0 0) && issues capped at0 (one .recvS 63 0 0 0 1) && issues capped at0 (one .trecvV 31 0 0 15 0) &&
      decide (capped.hw.ctl.fifo 0 0 = [5]) && decide (tile.hw.ctl.fifo 0 0 = [])) = true := by decide +kernel

theorem test_witness_HeldBundleCompletes : ([one .swait 0 0 0 0 0x1FF, one .crget 0 0 0 0 0x1FF, one .recvV 31 0 0 0 0, one .recvS 31 0 0 0 1]).all
    (fun i => let s := holding i id; s.hw.ctl.running && s.hw.ctl.atCore 0 == some at0 && (s.hw.ctl.core 0).waiting == [i] &&
      !(s.hw.ctl.core 0).halting) = true := by decide +kernel

theorem test_witness_TagAndHalt :
    let i := one .tagw 0 2 63 0 0
    (issues tile at0 i && (begun tile at0 i).ctl.tagSlot 0 0 task0 i == some (0, 0) && issues tile at0 (one .halt 0 0 0 0 0) &&
      !tile.hw.ctl.on F.phcCurStatusShed && (List.range 128).all (fun r => !tile.hw.ctl.on (F.chnSrStateValid r)) &&
      (List.range 24).all (fun n => !tile.hw.ctl.armedAs n 0) && (List.range 256).all (fun p => !tile.hw.ctl.on (F.chnCpGuardValid p))) = true := by
  decide +kernel

/-- Late: output 0 has drained line 5 of frame 0, and the word names that line. -/
theorem test_witness_TagAndHalt_late :
    let s := tileW (fun c => (c.rcSet 0 { c.rc 0 with drained := some (0, 5) }).sregSet 0 63 0x80000005)
    (issues s at0 (one .tagw 0 2 63 0 0) && s.hw.ctl.drained 0 8 0 5 && !s.hw.ctl.drained 0 8 0 6) = true := by decide +kernel

/-- Where an access goes, with no ring slot unfilled or filled there. -/
def goes (s : State) (i : Issued) (how : Acc) (n : Nat) (g : Tgt) : Bool :=
  issues s at0 i && s.hw.ctl.active 0 i && (begun s at0 i).ctl.xlate 0 0 task0 how (s.hw.ctl.ea 0 i) n == some g &&
  (begun s at0 i).ctl.unfilled g == none && (List.range n).all (fun j => ((begun s at0 i).ctl.refAt g j).isNone)

/-- The last bytes of handle 0 in Canopy, and of the core's operand buffer (LD.S 0x7FFC). -/
theorem test_witness_Loads :
    (goes gathered (one .ldS 63 1 0 0 0x3FFFC) .load 4 ⟨canopyKey 0x3FFFC, 2, false, some 0, 0x3FFFC, none⟩ &&
      goes gathered (one .ldV 31 1 0 0 0) .load 128 ⟨canopyKey 0, 2, false, some 0, 0, none⟩ &&
      goes gathered (one .ldVb 31 1 0 0 2) .load 2 ⟨canopyKey 2, 2, false, some 0, 2, none⟩ &&
      goes gathered (one .ldAr 7 1 0 15 128) .load 128 ⟨canopyKey 128, 2, false, some 0, 128, none⟩) = true := by decide +kernel

/-- A stride of 0: every lane reads the same two bytes. -/
theorem test_witness_LoadStrided :
    (goes tile (one .ldVx 31 1 0 0 0) .load 2 ⟨canopyKey 0, 2, false, some 0, 0, none⟩ && tile.hw.ctl.sreg 0 0 == 0 &&
      (tile.hw.ctl.gather 0).isEmpty) = true := by decide +kernel

theorem test_witness_StoresDirect :
    (goes tile (one .stS 0 0 63 0 0x7FFC) .store 4 ⟨opbufKey 0 0x7FFC, 0, false, none, 0x7FFC, none⟩ &&
      goes tile (one .stV 0 0 31 0 0x7F80) .store 128 ⟨opbufKey 0 0x7F80, 0, false, none, 0x7F80, none⟩ &&
      goes tile (one .stAr 0 0 7 15 0x7F80) .store 128 ⟨opbufKey 0 0x7F80, 0, false, none, 0x7F80, none⟩ &&
      goes tile (one .stAh 0 0 7 15 0x7FC0) .store 64 ⟨opbufKey 0 0x7FC0, 0, false, none, 0x7FC0, none⟩) = true := by decide +kernel

/-- A line held (the entry of gathered) and one not held. -/
theorem test_witness_StoresGather :
    (goes gathered (one .stS 0 1 63 0 252) .store 4 ⟨canopyKey 252, 2, false, some 0, 252, none⟩ &&
      goes gathered (one .stV 0 1 31 0 256) .store 128 ⟨canopyKey 256, 2, false, some 0, 256, none⟩ &&
      (gathered.hw.ctl.gather 0).length == 1 && lineKey (canopyKey 252) == canopyKey 0 && lineKey (canopyKey 256) == canopyKey 256) = true := by
  decide +kernel

theorem test_witness_Accumulates :
    (goes tile (one .stAcc 0 1 7 15 0x80) .acc 128 ⟨canopyKey 0x80, 2, false, some 0, 0x80, none⟩ &&
      goes tile (one .stAcc 0 1 7 15 0x60000040) .acc 64 ⟨canopyKey 0x40, 2, false, some 0, 0x40, none⟩ &&
      goes tile (one .stAcc 0 1 7 15 0x80000080) .acc 128 ⟨canopyKey 0x80, 2, false, some 0, 0x80, none⟩ &&
      (List.range 4).all (fun j => !tile.hw.mem.poisonAt (canopyKey 0x80 + 32 * j))) = true := by decide +kernel

/-- The slot an access lies in, and whether it is filled. -/
def lies (s : State) (i : Issued) (how : Acc) (r : SlotRef) (filled : Bool) : Bool :=
  match (begun s at0 i).ctl.xlate 0 0 task0 how (s.hw.ctl.ea 0 i) 4 with
  | some g => issues s at0 i && s.hw.ctl.guard0 0 i.sl && g.remote.isNone && (begun s at0 i).ctl.filled r == filled &&
    (match g.handle with | some h => (begun s at0 i).ctl.slotRef h g.off == some r | none => false) &&
    (List.range 4).all (fun j => (begun s at0 i).ctl.refAt g j == some r)
  | none => false

/-- An empty slot loaded, a filled one stored to, of a slot ring and an output ring; a store for a drained line. -/
theorem test_witness_RingMisuse :
    let full := st (fun _ => (ringTile.hw.ctl.put (F.chnSrStateFill 127) 2).tagSet 0 0 0x80000000)
    let late := tileW (fun c => c.rcSet 0 { c.rc 0 with drained := some (0, 0) })
    (lies ringTile (one .ldS 63 3 0 0 0x100) .load (.ring 127 1) false && lies full (one .stS 0 3 1 0 0x100) .store (.ring 127 1) true &&
      lies tile (one .ldS 63 2 0 0 0) .load (.out 0 0) false && lies full (one .stS 0 2 1 0 0) .store (.out 0 0) true &&
      !(begun full at0 (one .stS 0 2 1 0 0)).ctl.lateTask task0 0 &&
      lies late (one .stS 0 2 1 0 0) .store (.out 0 0) false && (begun late at0 (one .stS 0 2 1 0 0)).ctl.lateTask task0 0) = true := by
  decide +kernel

/-! Premises of the statements about the other commands: each list says one premise of a clause after another, at concrete states. -/

/-- The controllers at reset. -/
def rst : Ctl := Ctl.reset

/-- A change of a ring outside its registers. -/
def rg (r : Nat) (f : RingSt → RingSt) (c : Ctl) : Ctl := c.ringSet r (f (c.ring r))

/-- A change of the power block. -/
def pw (f : Pwr → Pwr) (c : Ctl) : Ctl := { c with pwr := f c.pwr }

/-- Context 0 an enabled output on transmitter 0's source, in frame 7; context 1 an armed input of receiver 0. -/
def video : Ctl :=
  let c := ((rst.put (F.stcCtrlArm 0) 1).put (F.stcCtrlDir 0) 1).put (F.stcCtrlSrc 0) 4
  let c := ((c.put (F.stcGeomHact 0) 640).put (F.stcGeomVact 0) 480).put (F.stcRingDepth 0) 10
  let c := c.vcSet 0 { VCtx.init with outOn := true, locked := true, frame := 7 }
  let c := ((c.put (F.stcCtrlArm 1) 1).put (F.stcGeomHact 1) 2).put (F.stcGeomVact 1) 3
  let c := (c.put (F.stcRingDepth 1) 8).put (F.vidRxStatusHpd 0) 1
  c.vcSet 1 { VCtx.init with measured := true, inFrame := 1, started := true, frames := [⟨1, 0, 0⟩] }

def witness_AvsMaster : List Bool :=
  let fly (tries : Nat) : Ctl := rst.put F.phcGovStatusInFlight 1 |> pw (fun p => { p with inFlight := some 805, avsTries := tries })
  let settle (seen : Bool) : Ctl := rst.put F.phcGovStatusInFlight 1 |> pw (fun p => { p with settleSeen := seen })
  [(fly 2).pwr.inFlight == some 805, decide ((fly 2).pwr.avsTries < 3), decide (3 ≤ (fly 3).pwr.avsTries),
   (rst.put F.phcAvsStatusFail 1).on F.phcAvsStatusFail, (settle false).settling, (settle true).settling,
   (settle false).pwr.target.isNone, decide (rst.setMv + 20 ≤ rst.setMv + 20), !(settle false).excluded, ((settle true).put F.phcGovCtrlEn 1).on F.phcGovCtrlEn,
   !rst.pwr.startIval, (fly 3).pwr.inFlight == some 805]

theorem test_witness_AvsMaster : witness_AvsMaster.all id = true := by decide +kernel

def witness_GovernorLaw : List Bool :=
  let c := (((video.put F.wktFwFwstate 1).put F.phcGovCtrlEn 1).put F.phcGovCtrlInterval 1) |> pw (fun p => { p with running := true, lines := 32 })
  [c.fwRun, c.pwr.running, decide (c.intervalLines ≤ c.pwr.lines), c.lawOn, c.mode == 0, !c.inFlight, !c.on F.phcCurStatusVeto]

theorem test_witness_GovernorLaw : witness_GovernorLaw.all id = true := by decide +kernel

def witness_GovernorBounds : List Bool :=
  let c := (video.put F.wktFwFwstate 1).put F.phcGovCtrlEn 0
  let low := ((video.put F.phcGovCeilMgmtMv 600).put F.phcGovFloorHostMv 900)
  [c.running, !c.on F.phcGovCtrlEn, c.anyOut, c.fwRun, low.anyOut, decide (600 ≤ low.get F.phcGovCeilMgmtMv)]

theorem test_witness_GovernorBounds : witness_GovernorBounds.all id = true := by decide +kernel

def witness_PowerAndThermal : List Bool :=
  let c := (rst.put (F.stcReportRing 23) 447).put (F.rngCfgEn 447) 1
  let c := (c.put (F.rngCfgKind 447) 4).vcSet 23 { VCtx.init with energyOn := true }
  let t := rst.put F.phcThermStatusTrip 1
  [c.running, (c.vc 23).energyOn, !c.frameOpen 24 0, c.ringKind (c.get (F.stcReportRing 23)) 4, !c.on F.phcThermStatusTrip, t.on F.phcThermStatusTrip]

theorem test_witness_PowerAndThermal : witness_PowerAndThermal.all id = true := by decide +kernel

def witness_StandUpkeep : List Bool :=
  let c (off step : Nat) : Ctl := (rst |> pw (fun p => { p with standOff := mset 0 p.standOff 16 off, routine := mset 0 p.routine 16 step })).put
    (F.phcAgeDrive 16) 7
  [rst.running, mget 0 (c 3 0).pwr.standOff 16 == 3, decide ((c 3 0).scratchAt ≤ Config.coreMemBytes), mget 0 (c 0 2).pwr.routine 16 == 2,
   mget 0 (c 0 4).pwr.routine 16 == 4, mget 0 (c 0 5).pwr.routine 16 == 5, mget 0 (c 0 1).pwr.routine 16 == 1, (c 0 1).get (F.phcAgeDrive 16) == 7,
   decide (eolRate 700 ≤ eolRate 700)]

theorem test_witness_StandUpkeep : witness_StandUpkeep.all id = true := by decide +kernel

def witness_Rotation : List Bool :=
  let c := rst |> pw (fun p => { p with rotPair := some (0, 16) })
  let l := (rst |> pw (fun p => { p with rotPair := some (0, 16), leavingNow := true, quietDone := true }))
  [c.running, c.pwr.rotPair == some (0, 16), !c.pwr.copyDone, c.pwr.bistOn != some 16, l.pwr.leavingNow, l.pwr.quietDone,
   (List.range 8).all (fun i => (l.core i).task == none && mget [] l.fab.queues i == []), l.fab.fifos.isEmpty,
   (State.mk ⟨l, Mem.reset⟩ []).memWf, decide (l.scratchAt ≤ Config.coreMemBytes), !rst.anyOut, video.anyOut]

theorem test_witness_Rotation : witness_Rotation.all id = true := by decide +kernel

/-- A line step of one tile on logical core 0, from input context 1 to output context 0. -/
def stepping : Ctl :=
  let lsr : LineStep := ⟨0, 0, 1, 0, 0, 0, 0, false, true⟩
  let im := { img0 with models := [⟨3, 0, [⟨nth 0 bucketLines 0, [lsr], [⟨0, 4096, 640, 8, [0], [0], true⟩], 0⟩], []⟩] }
  let c := ((video.put (F.stcSchedActModel 1) 3).put (F.stcCtrlLink 1) 0)
  let c := (c.put (F.stdStateState 0) 3).put (F.stdStateLogical 0) 0
  { c with img := { c.img with cur := some im } }

def witness_Tasks : List Bool :=
  let v : TileVariant := ⟨0, 4096, 640, 8, [0], [0], true⟩
  let c := stepping.vcSet 1 { stepping.vc 1 with variant := some v, hactSel := 640 }
  let arm := (rst.wr (R.cnpHtW0 255) (htWord true false true false 0x40)).put (F.cnpHtW2SizeM1 255) 1
  let words : List Word := List.replicate 32 0
  let t := { task0 with startEn := true, startSem := 255, startN := 1 }
  let q := ({ c with fab := { c.fab with queues := mset [] c.fab.queues 0 [t] } })
  let j := { c with host := { c.host with jobs := mset none c.host.jobs 63 (some ⟨0, 0, 0, [task0], 1, 0, 0, 0, false, false, false, false⟩) } }
  let busy := (c.coreSet 0 { CoreSt.idle with task := some task0 }).put (F.stdWdogLimit 0) 1
  let held := (c.coreSet 0 { CoreSt.idle with task := some task0, waiting := [one .swait 0 0 0 0 0x1FF] }).put (F.stdWdogJobWait 0) 1
  [c.running, c.placeable 0, !descReserved words, descReserved (words.set 0 0x00200000),
   (c.schedule (c.get (F.stcSchedActModel 1)) (c.get (F.stcSchedActBucket 1))).isSome,
   (c.schedule 3 0).any (fun sc => sc.steps.length == 1),
   c.armedAs 1 0, c.outOf 1 == some 0, c.stepsOn 1,
   (c.vc 1).variant == some v, tvTiles v (c.vc 1).hactSel == 1, tvCore v 0 0 0 == 0,
   arm.on (F.cnpHtW0Valid 255), arm.htOk (arm.rd (R.cnpHtW0 255)) 1 1, arm.ownerHolds (arm.get (F.cnpHtW0Owner 255)) (arm.on (F.cnpHtW0Target 255)) 1 1,
   (j.job 63).isSome, j.placeable task0.core, q.physOf 0 == some 0, mget [] q.fab.queues 0 == [t], (q.core 0).task == none, q.mayRun 0,
   !q.headReady 0 t, (q.put (F.semCountCount 255) 1).headReady 0 t, (busy.core 0).task.isSome, (busy.core 0).waiting == [],
   !(busy.core 0).ready, busy.get (F.stdWdogLimit 0) == 1, busy.get (F.stdStateState 0) == 3,
   held.atCore 0 == some at0, (held.core 0).waiting != [], task0.isJob, held.get (F.stdWdogJobWait 0) == 1]

theorem test_witness_Tasks : witness_Tasks.all id = true := by decide +kernel

def witness_SourceSelected : List Bool :=
  let c := video.put (F.stcCtrlLink 0) 1
  [c.running, (c.vc 0).outOn, decide (479 < c.get (F.stcGeomVact 0)), c.mode != 2, c.lossOf 0 == (0, c.get (F.stcCtrlLossPol 1)),
   (c.vcSet 1 { c.vc 1 with lossMode := 2 }).lossOf 0 != (0, 0)]

theorem test_witness_SourceSelected : witness_SourceSelected.all id = true := by decide +kernel

def witness_RasterLines : List Bool :=
  let e : Egress := ⟨479, 7, .lintel, 0, [], 0, false, [], []⟩
  let c := video.rcSet 0 { video.rc 0 with egress := [e] }
  let off := video.vcSet 0 { video.vc 0 with offPend := true }
  let r := { stepping with fab := { stepping.fab with repairs := [⟨2, canopyKey 0, 0, 0⟩] } }
  [c.running, (c.vc 0).outOn, (c.rc 0).egress.find? (fun x => x.m == 479) == some e, (c.rc 0).egress.all (fun x => !x.await), c.mode == 0,
   c.isShort 0, c.hng.mirPend == [], c.hng.roleAt == none, c.hng.promAt == none, !(c.vc 0).offPend, (off.vc 0).offPend, r.fab.repairs.length == 1, r.img.cur.isSome,
   (r.vc 0).outOn]

theorem test_witness_RasterLines : witness_RasterLines.all id = true := by decide +kernel

def witness_Streams : List Bool :=
  let c := (video.put (F.stcRingHandle 1) 0).put (F.cnpHtW0Valid 0) 1
  let px : Line := [[1, 2], [3, 4], [5, 6]]
  let back := c.vcSet 1 { c.vc 1 with lossMode := 1 }
  let pl := (((c.put (F.stcCtrlArm 23) 1).put (F.stcCtrlSrc 23) 3).put (F.stcGeomVact 23) 1).put (F.stcCtrlLink 23) 0
  let hd : InTiming := ⟨2200, 1125, 60000, 2, 3⟩
  [c.running, c.mode == 0, !c.on (F.stcCtrlArm 2), c.on (F.stcCtrlArm 1), c.on (F.stcCtrlArm 0), c.kind 0 == 1, c.armedAs 1 0,
   decide (c.get (F.stcCtrlSrc 1) ≤ 1), c.on (F.vidRxStatusHpd (c.get (F.stcCtrlSrc 1))), decide (1 + 1 ≠ c.get (F.stcGeomVact 1)),
   (c.vc 1).measured, (c.vc 1).lossMode == 0, (c.vc 1).started, !c.on (F.stcCtrlMode 1), c.lineOk 1 1 px, !tbit (c.vc 1).ringFill (c.vc 1).ringTail,
   c.rxCarries 1 hd none, !c.rxCarries 1 ⟨8800, 4500, 120000, 7680, 4320⟩ none,
   (pl.vc (pl.get (F.stcCtrlLink 23))).outOn, pl.get (F.stcCtrlLink 23) == 0, !pl.drained 0 32 7 0, c.kind 1 == 0, (back.vc 1).lossMode != 0, !(back.vc 1).back, (back.vc 1).lastGood.isSome,
   pl.on (F.stcCtrlArm 23), pl.kind 23 == 2, pl.planeRow 23 0 == some 0]

theorem test_witness_Streams : witness_Streams.all id = true := by decide +kernel

def witness_ReceiverPorts : List Bool :=
  let c := ((rst.put (F.vidRxStatusHpd 1) 1).put (F.vidRxCtrlMstEn 1) 1)
  let c := (c.put (F.vidRxCtrlMaxRate 1) 5).put (F.vidRxCtrlMaxLanes 1) 2
  let c := { c with ports := { c.ports with edidPub := mset [] c.ports.edidPub 1 (List.replicate 128 5) } }
  let four := c.payloadsSet 1 [(8, 1, 9), (9, 2, 9), (10, 3, 9), (11, 4, 9)]
  [c.running, c.on (F.vidRxStatusHpd 1), decide (5 ≤ c.get (F.vidRxCtrlMaxRate 1)), decide (2 ≤ c.get (F.vidRxCtrlMaxLanes 1)),
   mget [] c.ports.edidPub 1 != [], mget 0 c.ports.i2cSeg 1 == 0, c.on (F.vidRxCtrlMstEn 1), sinkPort 8, sinkPort 11, (c.payloads 1).length == 0,
   ((four.payloads 1).filter (fun p => p.2.1 != 127)).length == 4,
   (four.payloads 1).find? (fun p => p.1 == 11 && p.2.1 == 4) == some (11, 4, 9), (0x100 : Word).getLsbD 8, decide (384 + 128 ≤ 512), decide (512 < 385 + 128),
   mget [] c.ports.edidPub 0 == [], decide (1 < mget 0 { c.ports with i2cSeg := [(1, 2)] }.i2cSeg 1), !sinkPort 7, !sinkPort 12,
   !(c.put (F.vidRxCtrlMstEn 1) 0).on (F.vidRxCtrlMstEn 1), !rst.on (F.vidRxStatusHpd 1), !decide (6 ≤ c.get (F.vidRxCtrlMaxRate 1))]

theorem test_witness_ReceiverPorts : witness_ReceiverPorts.all id = true := by decide +kernel

def witness_CameraAndTransmitters : List Bool :=
  let c := rst.put F.vidCsiCtrlEn 1
  let t := video.put (F.vidTxStatusHpdIn 0) 1
  let cam := ((c.put (F.stcCtrlArm 23) 1).put (F.stcCtrlSrc 23) 2).put (F.stcCtrlSub 23) 3
  let cam := ((cam.put (F.stcGeomHact 23) 2).put (F.stcGeomVact 23) 3).put (F.stcCtrlMode 23) 1
  let cam := ((cam.put (F.stcFmtSamp 23) 2).put (F.stcFmtBpc 23) 0).vcSet 23 { VCtx.init with measured := true, inFrame := 1 }
  let cam := { cam with ports := { cam.ports with csiFrame := [3], csiY := [(3, 1)] } }
  [cam.csiCtx 3 == some 23, csiType 0x1E == some (cam.get (F.stcFmtSamp 23), cam.get (F.stcFmtBpc 23)), cam.ports.csiFrame.contains 3, mget 0 cam.ports.csiY 3 == 1,
   cam.lineOk 23 1 [[1, 2], [3], [5]], (cam.vc 23).inFrame == 1, (cam.vc 23).measured, cam.on (F.stcCtrlMode 23), t.txAble 0,
   !((t.put (F.vidTxCtrlEdp 0) 1).put (F.vidTxCtrlRate 0) 4).txAble 0, mget 0 t.ports.txTrained 0 == 0, c.running, c.on F.vidCsiCtrlEn, c.csiCtx 3 == none, !c.on (F.vidTxStatusHpdIn 1), (t.txOut 0).isSome, t.on (F.vidTxStatusHpdIn 0),
   !t.on (F.vidTxStatusTrained 0), !t.ports.txRetrain.contains 0]

theorem test_witness_CameraAndTransmitters : witness_CameraAndTransmitters.all id = true := by decide +kernel

/-- Handle 255 a Canopy handle of owner 0x80 and one unit at the start of Canopy, its link up. -/
def shared : Ctl :=
  let c := rst.wr (R.cnpHtW0 255) (htWord true false true false 0x80)
  { c with host := { c.host with linkUp := true } }

def witness_CanopyAndDram : List Bool :=
  let lc := { rst with cnp := { rst.cnp with lc := [⟨0, 0, true⟩], revoked := [(canopyKey 0, 256)], refresh := mset 0 rst.cnp.refresh 511 8 } }
  [rst.running, shared.on (F.cnpHtW0Valid 255), !shared.on (F.cnpHtW0Target 255), (List.range 256).all (fun e => !rst.on (F.cnpHtW0Valid e)),
   Mem.reset.nextPending.isSome, decide (0 < rst.dramSize), rst.lcBanks != 0, lc.cnp.lc.any (fun l => l.addr == 0 && l.dirty),
   mget 0 lc.cnp.refresh 511 == 8, mget 0 rst.cnp.refresh 511 == 0, (rst.put F.drcStatusTrained 1).on F.drcStatusTrained, shared.host.linkUp,
   (List.range 256).all (fun i => shared.apertureOk i true && shared.apertureOk i false), !shared.apertureOk 256 true, !shared.apertureOk 256 false,
   lc.cnp.revoked == [(canopyKey 0, 256)], decide ([0, 63] : List (Fin 64)).Nodup]

theorem test_witness_CanopyAndDram : witness_CanopyAndDram.all id = true := by decide +kernel

def witness_RegisterAccess : List Bool :=
  let ok := fun x : Nat => decide ((0x100004 ≤ x ∧ x < 0x140000) ∨ 0x200000 ≤ x) && (regRow x).isSome
  [rst.running, ok (R.cnpHtW0 0), ok (R.cnpHtW0 0 + 4), R.cnpHtW0 0 % 8 == 0, !rst.occupied 0x3FFFFFC]

theorem test_witness_RegisterAccess : witness_RegisterAccess.all id = true := by decide +kernel

def witness_Rings : List Bool :=
  let cfg : Word := 0x11
  let en (kind dir : Nat) : Ctl := (((rst.put (F.rngCfgEn 446) 1).put (F.rngCfgKind 446) kind).put (F.rngCfgDir 446) dir).put (F.rngCfgLog2sz 446) 4
  let up (c : Ctl) : Ctl := { c with host := { c.host with linkUp := true } }
  let ev := up (en 2 1)
  let drops := ev |> rg 446 (fun r => { r with dropsSince := 1 })
  let sub := up ((en 0 0).put (F.rngTailIdx 446) 1)
  let win (posted : Bool) := (en 2 1) |> rg 446 (fun r => { r with windowOpen := true, windowPosted := posted })
  [rst.running, !rst.on (F.rngCfgEn 446), ringCfgOk cfg, !ringCfgOk 0xFFFFFFFF, (en 0 0).on (F.rngCfgEn 446),
   (((en 0 0).rd (R.rngCfg 446) - 1) ^^^ (en 0 0).rd (R.rngCfg 446)) &&& 0x003F073E == 0, !(en 0 0).on (F.rngCfgDir 446), (en 0 0).ringSize 446 == 16,
   (en 0 0).ringFill 446 == 0, sub.ringFill 446 == 1, (en 2 1).on (F.rngCfgDir 446), (ev.ring 446).dropsSince == 0, (drops.ring 446).dropsSince == 1,
   drops.host.linkUp, !ev.on (F.rngWmEvEn 446), sub.host.linkUp, decide (sub.get (F.rngCfgKind 446) ≤ 1), !(sub.ring 446).stopped, (sub.ring 446).fetched == none,
   !sub.ringKind (cplOf 0 []) 2, ((win false).ring 446).windowOpen, !((win false).ring 446).windowPosted, ((win true).ring 446).windowPosted,
   ((win true).put (F.rngCfgIrqEn 446) 1).on (F.rngCfgIrqEn 446), rst.get (F.wktStateState 15) == 0, (rst.put (F.wktStateState 15) 1).get (F.wktStateState 15) == 1,
   cfg.getLsbD 0, { rst.host with doorbells := [3, 9], bellTail := 1 }.doorbells == [3] ++ [9]]

theorem test_witness_Rings : witness_Rings.all id = true := by decide +kernel

/-- Submission ring 0 and completion ring 0 of a host that is up, with words fetched; job 63 of batch 0 in the image. -/
def submitting (kind : Nat) (ws : List Word) : Ctl :=
  let c := ((rst.put (F.rngCfgEn 1) 1).put (F.rngCfgKind 1) kind).put (F.rngCfgLog2sz 1) 4
  let c := ((c.put (F.rngCfgEn 0) 1).put (F.rngCfgKind 0) 2).put (F.rngCfgDir 0) 1
  let c := (c.put (F.rngCfgLog2sz 0) 4) |> rg 1 (fun r => { r with fetched := some ws })
  let im := { img0 with batches := [⟨0, 1, 1, 1, 0, [0], 0, []⟩] }
  { c with host := { c.host with linkUp := true }, img := { c.img with cur := some im } }

def witness_JobsAndDma : List Bool :=
  let job : List Word := [0x3F01, 7] ++ List.replicate 14 0
  let c := submitting 0 job
  let dma : List Word := [0x3F22, 7, 0, 0, 0xFF, 0, 64, 0x1FF] ++ List.replicate 8 0
  let good := (submitting 1 dma).wr (R.cnpHtW0 255) (htWord true false true false 0x80)
  let jb : Job := ⟨7, 0, 0, [], 1, 1, 1, 0, false, false, false, false⟩
  let done := { c with host := { c.host with jobs := mset none c.host.jobs 63 (some jb) } }
  let t : Dma := ⟨3, 7, 0, 0, false, 0, 0, canopyKey 0, 64, none⟩
  let moving := { c with host := { c.host with dmas := [t] } }
  [c.running, (c.ring 1).fetched == some job, c.ringKind 1 0, cplOf 0 job == 0, c.ringKind 0 2, c.mayTake 0, descOk 0 job,
   (c.put (F.rngCfgEn 0) 0).ringKind 0 2 == false, (c.job 63).isNone, c.img.cur.any (fun im => im.batches.map c.listFits == [true]), descOk 0 (job.set 0 0x3F00) == false,
   (submitting 1 dma).ringKind 1 1, cplOf 1 dma == 0, (submitting 1 dma).dmaBad dma, !good.dmaBad dma, good.get (F.chnCpCountFree 255) == 0,
   (good.put (F.chnCpCountFree 255) 1).get (F.chnCpCountFree 255) == 1, jb.over, (done.job 63) == some jb, moving.host.dmas.length == 1,
   !c.listBusy job, { c with img := { c.img with cur := some { img0 with batches := [⟨0, 2, 1, 1, 0, [0], 0, []⟩] } } }.put (F.cnpHtW0Busy 0) 1 |>.listBusy job,
   moving.ringKind t.cplRing 2, !moving.on (F.cnpHtW0Busy 0), (moving.put (F.cnpHtW0Busy 0) 1).on (F.cnpHtW0Busy 0)]

theorem test_witness_JobsAndDma : witness_JobsAndDma.all id = true := by decide +kernel

def witness_LinkAndResets : List Bool :=
  let t : Dma := ⟨3, 7, 0, 0, false, 0, 0, canopyKey 0, 64, none⟩
  let up := submitting 0 []
  let up := { up with host := { up.host with dmas := [t] } }
  let down := { up with boot := { up.boot with epReleased := true, perstN := true }, host := { up.host with linkUp := false, queue := [(0, [8])] } }
  let card := { up with host := { up.host with dmas := [{ t with toHost := true }] } }
  [up.host.linkUp, up.host.dmas == [t], !t.toHost, card.host.dmas.all (·.toHost), up.ringKind t.cplRing 2, !rst.host.linkUp, down.running, down.boot.epReleased, down.boot.perstN, !down.host.linkUp, down.on (F.rngCfgEn 0),
   shared.on (F.cnpHtW0Valid 255), shared.get (F.cnpHtW0Owner 255) == 0x80, !shared.on (F.cnpHtW0Target 255),
   decide (shared.hBase 255 + shared.hSize 255 ≤ shared.canopySpace)]

theorem test_witness_LinkAndResets : witness_LinkAndResets.all id = true := by decide +kernel

def witness_ManagementReadings : List Bool :=
  let c := { rst with diag := { rst.diag with alert := 0x80000000, alertMask := 0xFFFFFFFF } }
  [c.running, c.diag.alert &&& c.diag.alertMask != 0, rst.diag.alert &&& rst.diag.alertMask == 0, (unitReg 0x0110).isSome, (unitReg 0x0111).isNone,
   0x58 + c.get F.phcStrapsMgmtAddr == 0x58, decide ((0x05 : Nat) ∉ [0x01, 0x02, 0x03, 0x04, 0x10, 0x20, 0x21, 0x22, 0x30, 0x31])]

theorem test_witness_ManagementReadings : witness_ManagementReadings.all id = true := by decide +kernel

def witness_ManagementRequests : List Bool :=
  let st (n x : Nat) (c : Ctl) : Ctl := c.put (F.stdStateState n) x
  let serve := (List.range 17).foldl (fun c n => st n 3 c) rst
  let trip := (rst.put F.phcThermStatusTrip 1).put (F.phcShutCause 1) 2
  [rst.running, !hasAct 0x0111 1, !hasAct 0x0400 1, !hasAct 0x0302 2, hasAct 0x0110 1, hasAct 0x0400 2, hasAct 0x0301 2, rst.epochOf 0x0400 != 0xFFFF,
   rst.epochOf 0x0110 != 0xFFFF, rst.epochOf 0x0301 != 0xFFFF, (st 16 0 rst).get (F.stdStateState 16) == 0, (st 16 1 rst).get (F.stdStateState 16) == 1,
   (List.range 17).all (fun n => serve.get (F.stdStateState n) == 3), (st 0 1 serve).get (F.stdStateState 0) == 1,
   (st 16 5 rst).get (F.stdStateState 16) == 5, trip.on F.phcThermStatusTrip, trip.get (F.phcShutCause 1) == 2]

theorem test_witness_ManagementRequests : witness_ManagementRequests.all id = true := by decide +kernel

/-- A state with Warden firmware in RUN and a command taken from mailbox 15. -/
def wk (c : Ctl) (ws : List Word) : Ctl :=
  let c := c.put F.wktFwFwstate 1
  { c with host := { c.host with linkUp := true, taken := mset none c.host.taken 15 (some ⟨ws, none, false⟩), takeOrder := [15] } }

/-- The words of a command. -/
def rq (op : Nat) (args : List Word) : List Word := (w32 op :: 0 :: args) ++ List.replicate (14 - args.length) 0

/-- Starts as a test. -/
def starts (c : Ctl) (op : Nat) (ws : List Word) : Bool :=
  c.running && c.taken 15 == some ⟨ws, none, false⟩ && c.mayStart 15 ⟨ws, none, false⟩ && c.get F.wktFwFwstate == 1 && reqOp ws == op &&
  reqDefined ws ((argMasks ws).getD []) && !(nth 0 ws 0).getLsbD 24 && !c.secRefuses op

/-- A command starts, and what else its clause asks holds. -/
def runs (c : Ctl) (op : Nat) (args : List Word) (p : Ctl → Bool) : Bool := let d := wk c (rq op args); starts d op (rq op args) && p d

def witness_WardenMailboxes : List Bool :=
  let door := (rst.put F.wktFwFwstate 1)
  let door := { door with host := { door.host with doorbells := [15] } }
  let done := { rst with host := { rst.host with taken := mset none rst.host.taken 15 (some ⟨rq 1 [], some (0, 0, 0, []), true⟩) } }
  let rec2 := (wk rst (rq 0x0101 [])).put F.wktFwFwstate 2
  let bad := wk rst (rq 0x0001 [1])
  let stale := wk rst ([0x01000101, 0xFFFF] ++ List.replicate 14 0)
  let sec := ((wk rst (rq 0x0101 [])).put F.hngPairStatusMode 1).put F.hngPairStatusRole 2
  [door.running, door.get F.wktFwFwstate != 0, door.host.doorbells == [15], rst.host.doorbells.head? != some 15, (done.taken 15).isSome,
   !done.fwdPending (rq 1 []), (rst.taken 15).isNone, rec2.get F.wktFwFwstate == 2, !recoveryOps.contains 0x0101, rec2.mayStart 15 ⟨rq 0x0101 [], none, false⟩,
   !reqDefined (rq 0x0001 [1]) ((argMasks (rq 0x0001 [1])).getD []), bad.pwr.bist.isNone, bad.img.promote.isNone,
   hasEpoch (reqObj [0x01000101, 0xFFFF]), stale.epochOf (reqObj [0x01000101, 0xFFFF]) != 0xFFFF, stale.mayStart 15 ⟨[0x01000101, 0xFFFF] ++ List.replicate 14 0, none, false⟩,
   !(wk rst (rq 0x0301 [0x80, 1])).allocWaits 15 255, sec.secRefuses 0x0101, sec.mayStart 15 ⟨rq 0x0101 [], none, false⟩]

theorem test_witness_WardenMailboxes : witness_WardenMailboxes.all id = true := by decide +kernel

/-- R450, R451: an image of release 3.4 without a body, signed with a key made for this test by OpenSSL. -/
def signed : FwImage := ⟨[0x57, 0x46, 0x57, 0x31, 0x04, 0x03] ++ List.replicate 26 0 ++
  (toBytes 32 0x4d707fdc80be82f031dca47b2f852975a37ad4ac54b148939806f13910fe6c71).reverse ++
  (toBytes 32 0x268f3ae959fe4f9fa3eb63d9f424287b1036c4e7b2d724829fb5bae108528ad9).reverse ++
  (toBytes 32 0x60986d12262b8ff44800081f0e708b5f5bc30cbb1de728911155575d8806976f).reverse ++
  (toBytes 32 0x2b98ea799516f304fde830a930a162308aa1bc708716b47957880dce325aef87).reverse ++
  List.replicate 96 0⟩

/-- The SHA-256 of that key, as OpenSSL gives it. -/
def signedKey : Nat := 0xbb4ed57024e44c760ca2c413c305217cd7b3d51300e3bd164587af1660710cce

theorem test_sha256 : signed.keyDigest = signedKey := by decide +kernel

theorem test_witness_authentic : FwImage.authentic signedKey signed = true := by decide +kernel

/-- A changed RELEASE leaves the signature without its image. -/
theorem test_forged : FwImage.authentic signedKey ⟨signed.bytes.set 4 5⟩ = false := by decide +kernel

/-- A part with that key's digest fused. -/
def fused : Ctl := { rst with boot := { rst.boot with keyDigest := signedKey } }

def witness_WardenSystem : List Bool :=
  let yes : Ctl → Bool := fun _ => true
  let pair := (rst.put F.hngPairStatusMode 1).put F.hngPairStatusRole 1
  let linked := (pair.put (F.hngStateState 0) 2).put (F.hngStateState 1) 2
  let live := linked.vcSet 0 { VCtx.init with outOn := true }
  let staged := { rst with boot := { rst.boot with staged := some 1 } }
  let arch := { rst with boot := { rst.boot with archived := true } }
  let spare := rst.put (F.stdStateState 16) 1
  let twin : IdentRec := ⟨rst.rd R.glbIdent, rst.hng.fwDigest, 2, 1, 2, 0, 1, true, 0, 2, false, 0⟩
  let lame : Ctl := { rst with img := { rst.img with cur := some { img0 with hc8 := [⟨0, 0, 0, 0, 63, false, 0, false, false, 0, true⟩] } } }
  [runs rst 0x0401 [2] (fun c => c.lcEntriesOk 2 && c.hng.roleAt == none && twin.ident == c.rd R.glbIdent && twin.digest == c.hng.fwDigest && twin.mode == 2),
   runs lame 0x0401 [2] (fun c => !c.rasterBusy && !c.lcEntriesOk 2), runs rst 0x0401 [1] (fun c => c.lcEntriesOk 1 && c.hng.roleAt == none),
   runs linked 0x0801 [2] (fun c => c.hng.roleAt == none && c.get F.hngPairStatusRole == 1), runs rst 0x0001 [] yes, runs rst 0x0002 [64, 0, 0x00400000] (fun c => hostAddr (rq 0x0002 [64, 0, 0x00400000]) 0 % 64 == 0 && c.host.linkUp),
   runs fused 0x0002 [64, 0, 0x00400000] (fun c => c.boot.keyDigest == signedKey && decide (256 + signed.length ≤ 0x00400000) &&
     decide (fieldGet (c.rd R.wktFw) 0 16 ≤ signed.release)), runs rst 0x0002 [65, 0, 0] yes, runs rst 0x0002 [64, 0, 0x00400001] yes, runs staged 0x0003 [] (fun c => c.boot.staged == some 1),
   runs rst 0x0003 [] (fun c => c.boot.staged.isNone), runs rst 0x0601 [0x3F00, 64, 0] (fun _ => fieldGet (0x3F00 : Word) 8 6 + 1 == 64),
   runs rst 0x0602 [1, 64, 0, 0] (fun c => !c.boot.archived), runs arch 0x0602 [63, 64, 0, 0] (fun c => c.boot.archived),
   runs rst 0x0603 [] yes, runs rst 0x0501 [100, 0x03840258] (fun _ => fieldGet (0x03840258 : Word) 0 10 == 600 && fieldGet (0x03840258 : Word) 16 10 == 900),
   runs rst 0x0501 [99, 0x03840258] yes, runs rst 0x0502 [] yes, runs rst 0x0503 [0x117] yes, runs rst 0x0703 [60] yes, runs rst 0x0703 [0] yes,
   runs video 0x0402 [] (fun c => c.rasterBusy), runs rst 0x0402 [] (fun c => !c.rasterBusy), runs rst 0x0401 [1] (fun c => !c.rasterBusy),
   runs rst 0x0401 [2] (fun c => !c.rasterBusy), runs video 0x0401 [0] (fun c => c.rasterBusy), runs rst 0x0801 [1] (fun c => !c.paired),
   runs rst 0x0802 [] (fun c => !c.paired), runs rst 0x0803 [] (fun c => !c.paired), runs pair 0x0801 [2] (fun c => c.paired && !c.linkIsUp 0),
   runs linked 0x0801 [1] (fun c => c.linkIsUp 0 && c.get F.hngPairStatusRole == 1), runs linked 0x0801 [2] (fun c => c.linkIsUp 0 && !c.anyOut),
   runs live 0x0801 [2] (fun c => c.linkIsUp 0 && c.anyOut), runs live 0x0802 [] (fun c => c.linkIsUp 0 && c.anyOut && !c.isSecondary), runs pair 0x0803 [] (fun c => c.paired),
   runs rst 0x0701 [0x44000010] (fun c => c.pwr.bist.isNone && c.bistTargetOk 16 0x4400 && (List.range 17).all (fun n => c.get (F.stdStateState n) != 1)),
   runs spare 0x0701 [0x44000010] (fun c => c.pwr.bist.isNone && c.bistTargetOk 16 0x4400), runs rst 0x0702 [16] yes,
   runs live 0x0901 [64, 0, 0x1FFF, 0] (fun c => c.anyOut), runs rst 0x0901 [64, 0, 0x1FFF, 1] (fun c => !c.anyOut && c.host.linkUp),
   runs rst 0x0A01 [64, 0, 0x00100000] (fun c => !c.anyOut && c.host.linkUp), runs rst 0x0A02 [3] yes]

theorem test_witness_WardenSystem : witness_WardenSystem.all id = true := by decide +kernel

def witness_WardenStreams : List Bool :=
  let armed := rst.put (F.stcCtrlArm 23) 1
  let wrote := { (rst.put (F.stcGeomHact 23) 640) with ports := { rst.ports with stcWritten := [(23, 7)] } }
  let noted : MgmtReq := ⟨0x0301, 1, false, 0, 0⟩
  let set := { rst with img := { rst.img with setup := [23] } }
  let im := { img0 with models := [⟨3, 0, [⟨nth 0 bucketLines 0, [], [⟨0, 4096, 640, 8, [], [], true⟩], 0⟩], []⟩] }
  let shadow := { rst with img := { rst.img with shadow := some im } }
  let cur := { rst with img := { rst.img with cur := some im } }
  let plan := (shadow.vcSet 23 { VCtx.init with scenePlan := some 3 })
  let spec := { rst with fab := { rst.fab with specRun := some (23, 3) } }
  let out := rst.put (F.stcCtrlDir 23) 1
  let hold := rst.put (F.phcShutHold 1) 1
  let job := { rst with host := { rst.host with jobs := mset none rst.host.jobs 63 (some ⟨7, 0, 0, [], 1, 1, 1, 0, false, false, false, false⟩) } }
  let quiet (sh : Option Image) : Ctl := let c := wk rst (rq 0x0202 [])
    { c with img := { c.img with shadow := sh, prefetched := true, promote := some (some 15, none) },
             host := { c.host with taken := mset none c.host.taken 15 (some ⟨rq 0x0202 [], none, true⟩) } }
  let lead (t : Nat) : Ctl := let c := ((quiet (some im)).put F.hngPairStatusMode 1).put F.hngPairStatusRole 1
    { c.vcSet 0 { VCtx.init with outOn := true } with now := t }
  let task (o : Nat) := ((rst.wr (R.cnpHtW0 255) (htWord true false true false 0)).put (F.cnpHtW0Owner 255) o)
  [runs rst 0x0101 [0x0817] (fun c => !c.on (F.stcCtrlArm 23) && c.kind 23 == 0 && c.img.setup == [] && c.freePair 23 == some 0 && c.get (F.cnpHtW0Owner 255) != 0x80),
   runs wrote 0x0101 [0x0817] (fun c => let n := 8 * c.lineSlot 23 / 256
     c.entryPick 255 == some 255 && (c.placePick 0 n).isSome && mget 0 c.ports.stcWritten 23 % 8 == 7 && decide (1 ≤ n ∧ n ≤ 32768) && c.freePair 23 == some 0 &&
     c.get (F.cnpHtW0Owner 255) != 0x80),
   runs rst 0x0101 [0x0817] (fun c => mget 0 c.ports.stcWritten 23 % 8 != 7),
   runs rst 0x0104 [0x101] (fun _ => match exec (.unitReqHoldOff true noted.unit noted.action noted.check noted.reason noted.exp) (st (fun _ => wk rst (rq 0x0104 [0x101]))) with
     | .next _ => true
     | _ => false),
   runs armed 0x0101 [0x0817] (fun c => c.on (F.stcCtrlArm 23)), runs armed 0x0102 [23] (fun c => c.on (F.stcCtrlArm 23)), runs set 0x0102 [23] (fun c => c.img.setup == [23]),
   runs rst 0x0103 [23] (fun _ => true), runs rst 0x0104 [0x101] (fun c => !c.on (F.phcShutClosed 1) || c.on (F.phcShutClosed 1)), runs rst 0x0104 [0x301] (fun _ => true),
   runs hold 0x0104 [0x201] (fun c => c.on (F.phcShutHold 1)), runs rst 0x0104 [0x201] (fun c => !c.on (F.phcShutHold 1)),
   runs out 0x0105 [23] (fun c => c.kind 23 == 1), runs rst 0x0105 [23] (fun c => c.kind 23 == 0 && c.fab.specRun.isNone),
   runs rst 0x0105 [0x10017] (fun c => c.img.shadow.isNone),
   runs shadow 0x0105 [0x10317] (fun c => imgHasSlot im 3 && (List.range 24).all (fun y => !c.armedAs y 0)),
   runs plan 0x0106 [0x117] (fun c => c.img.promote.isNone && c.planFits im 23 3), runs (plan.vcSet 23 { VCtx.init with scenePlan := some 4 }) 0x0106 [0x117] (fun c =>
     !c.planFits im 23 4 && !c.specOn), runs rst 0x0106 [0x217] (fun c => c.fab.specRun.map (·.1) != some 23), runs spec 0x0106 [0x217] (fun c => c.fab.specRun.map (·.1) == some 23),
   runs rst 0x0201 [64, 0, 0] (fun c => c.host.linkUp && c.imgCheck img0 0 == some 1), runs rst 0x0201 [64, 0, 0x2000] (fun c => passes c 0x2000),
   runs cur 0x0201 [64, 0, 0x2000] (fun c => passes c 0x2000 && c.img.cur.isSome),
   runs rst 0x0202 [] (fun c => c.img.promote.isNone && c.img.shadow.isNone), runs shadow 0x0202 [] (fun c => c.img.shadow.isSome && c.mode == 0),
   runs cur 0x0203 [1] (fun c => (List.range 24).all (fun y => !c.armedAs y 0)), runs shadow 0x0203 [0] (fun c => c.img.shadow.isSome), runs cur 0x0204 [0] (fun c => c.img.cur.isSome),
   runs rst 0x0301 [0x80, 1] (fun c => !c.on (F.cnpHtW0Valid 255) && c.get (F.cnpHtW0Owner 255) != 0x80 && c.entryPick 255 == some 255 && (c.placePick 0 1).isSome && !c.allocWaits 15 255),
   runs rst 0x0301 [0x140, 32768, 0] (fun c => c.dramFree 0 32768 && c.entryPick 255 == some 255 && !c.allocWaits 15 255),
   runs rst 0x0302 [255] (fun c => !c.on (F.cnpHtW0Valid 255)), runs (task 1) 0x0302 [255] (fun c => c.on (F.cnpHtW0Valid 255) && c.get (F.cnpHtW0Owner 255) == 1),
   runs (task 0x80) 0x0302 [255] (fun c => c.get (F.cnpHtW0Owner 255) == 0x80 && !c.on (F.cnpHtW0Target 255) && decide (c.hBase 255 + c.hSize 255 ≤ c.canopySpace)),
   runs rst 0x0303 [63] (fun c => (c.job 63).isNone), runs job 0x0303 [63] (fun c => (c.job 63).isSome), runs rst 0x0304 [0x10000] (fun c => c.img.shadow.isNone),
   runs cur 0x0304 [3, 0, 0, 1, 1] (fun c => c.img.cur == some im && (im.models.find? (fun y => y.slot == 3)).isSome),
   !shadow.img.prefetched, shadow.img.shadow == some im, im.consts == [], im.resident == [], !rst.curHas 0,
   (quiet none).boundaryNow, (quiet (some im)).boundaryNow, !((quiet none).paired && (quiet none).isPrimary), (lead 0).paired, (lead 0).isPrimary, (lead 0).anyOut,
   (lead 0).hng.promAt == none, (lead 0).boundaryNow, (lead 0).streamsQuiet, (lead 0).img.prefetched, (lead 0).fwRun, !(lead 1).boundaryNow,
   (lead 0).taken 15 == some ⟨rq 0x0202 [], none, true⟩, (quiet none).fwRun, (quiet none).streamsQuiet, (quiet none).taken 15 == some ⟨rq 0x0202 [], none, true⟩,
   (quiet (some im)).img.shadow == some im, im.pools.all (poolOk im), im.rings.all (ringOk im), im.routes == []]

theorem test_witness_WardenStreams : witness_WardenStreams.all id = true := by decide +kernel

def witness_Understorey : List Bool :=
  let src := (((rst.wr (R.cnpHtW0 255) (htWord true false true false 0x7F)).put (F.cnpHtW2SizeM1 255) 511).put (F.undRwsrcHandle 63) 255)
  let src := { src with gld := { src.gld with isolated := false } }
  let busy := src.put (F.undStatusRw 63) 1
  let bad := src.put (F.undStatusBad1 63) 1
  let rwr := { rst with und := { rst.und with rewrite := mset none rst.und.rewrite 63 (some (canopyKey 0, 1)), evalBusy := [7] } }
  let en := rst.put (F.undNetCfgEn 7) 1
  [rst.running, src.undReach 63, !rst.undReach 63, rst.undReach 59, src.on (F.cnpHtW0Valid 255), src.get (F.cnpHtW0Owner 255) == 0x7F, decide (131072 ≤ src.hSize 255),
   busy.get (F.undStatusRw 63) == 1, src.get (F.undStatusRw 63) != 1, bad.inactiveBad 63, !src.inactiveBad 63, !src.arrayUsed 63, (mget none rwr.und.rewrite 63).isSome,
   !rst.on (F.undNetCfgEn 7), !rst.netOk 7 0x7D, rst.netOk 7 1, en.on (F.undNetCfgEn 7),
   ((0x80 + 1 : Word) ^^^ en.rd (R.undNetCfg 7)) &&& netCfgMask != 0, rwr.und.evalBusy.contains 7, !rst.und.evalBusy.contains 7]

theorem test_witness_Understorey : witness_Understorey.all id = true := by decide +kernel

def witness_GladeIsland : List Bool :=
  let g (f : Gld → Gld) (c : Ctl) : Ctl := { c with gld := f c.gld }
  let open' := (rst.put F.wktFwFwstate 1) |> g (fun x => { x with isolated := false })
  let ready := ((open'.put F.gldStateProg 1).put F.gldMicMic1 1).wr (R.gldNetL 0) 60
  let lis := (ready.put F.gldStateState 2).put F.gldCtrlListenEn 1
  let busy := lis |> g (fun x => { x with evalIn := some [], window := true, wakeRun := 0 })
  let one := open' |> g (fun x => { x with fifo := [(0, 5)], refract := true })
  [open'.gldReach, !rst.gldReach, rst.running, !ready.on F.gldCtrlListenEn, ready.gldMayListen, !open'.gldMayListen, lis.on F.gldCtrlListenEn,
   one.gld.fifo == [(0, 5)], lis.gldListens, lis.gld.evalIn.isNone, busy.gld.evalIn.isSome, !rst.gldListens, busy.gld.window, !busy.gld.refract,
   one.gld.refract, decide (max 1 ((busy.put F.gldThrNWake 1).get F.gldThrNWake) ≤ busy.gld.wakeRun + 1), decide (busy.gld.fifo.length < 4)]

theorem test_witness_GladeIsland : witness_GladeIsland.all id = true := by decide +kernel

/-- A pair in mirror mode whose bond is up, as primary or secondary. -/
def bonded (mode role : Nat) : Ctl :=
  let c := ((rst.put F.wktFwFwstate 1).put F.hngPairStatusMode mode).put F.hngPairStatusRole role
  (c.put (F.hngStateState 0) 2).put (F.hngStateState 1) 2

def witness_HingeFrames : List Bool :=
  let c := bonded 1 2
  let init := (c.put (F.hngStateState 1) 1).portSet 1 { PortSt.init with identSent := true }
  let mine := init.ownIdent
  let sent := c.portSet 0 { PortSt.init with unacked := [(5, .nak 0)], pendAck := true, replaySeq := 5, replays := 3 }
  let again := c.portSet 0 { PortSt.init with unacked := [(5, .nak 0)], replaySeq := 5, replays := 4 }
  let wall := ((bonded 3 0).put (F.hngStateState 2) 2).put F.hngGridRow 1
  let live := c.vcSet 0 { VCtx.init with outOn := true }
  let lc := (c.put (F.hngLcCfgValid 63) 1).put (F.hngLcCfgDir 63) 1
  let halo := (wall.put (F.stcCtrlArm 23) 1).vcSet 23 { VCtx.init with inFrame := 9 }
  let run := c.vcSet 23 { VCtx.init with locked := true, frame := 5 }
  let got := { c with hng := { c.hng with fwdGot := 2 } }
  let join := { c with hng := { c.hng with joined := true }, img := { c.img with cur := some img0 } }
  [c.running, c.fwRun, c.portUsed 1, decide (init.get (F.hngStateState 1) ≤ 1), (c.put (F.hngStateState 1) 0).get (F.hngStateState 1) == 0, !c.portUsed 2,
   (init.port 1).identSent, init.identOk 1 mine, !init.identOk 1 { mine with mode := mine.mode + 1 }, c.linkIsUp 0, (sent.port 0).unacked.any (fun e => e.1 == 5),
   !(fromSeq 5 (sent.port 0).unacked).isEmpty, decide ((sent.port 0).replays + 1 ≤ 4), (again.port 0).replaySeq == 5, decide (4 < (again.port 0).replays + 1), c.paired,
   (sent.port 0).pendAck, c.get (F.hngStateState 1) != 3, (c.port (c.linkOf 1)).rxSeq == 0, c.mode == 1, wall.mode == 3, wall.get F.hngGridRow == 1, wall.portUsed 2,
   wall.linkIsUp 2, wall.hng.syncSeen.isNone, c.isSecondary, !c.anyOut, live.anyOut, live.isSecondary, lc.on (F.hngLcCfgValid 63), lc.on (F.hngLcCfgDir 63),
   !c.on (F.hngLcCfgValid 63), ofBytes [0, 1, 0, 0, 0, 0, 0, 0] % 256 == lc.get (F.hngLcCfgTensor 63), !c.haloed 23, halo.haloed 23, halo.armedAs 23 0,
   (halo.vc 23).ownDone == [], (halo.vc 23).inFrame == 9, decide ((halo.vc 23).inFrame < 10), (run.vc 23).locked, (run.vc 23).frame == 5, run.isSecondary,
   (sent.port 0).txq == [], fwdParts img0 == 1, fwdParts { img0 with bytes := imgBytes.set 18 1 } == 8, got.hng.fwdGot == 2, c.hng.fwdGot != 1,
   live.hng.roleAt == none, passes { c with img := { c.img with cur := none } } img0.length, (halo.port (halo.linkOf 2)).rxSeq == 0, join.hng.joined, passes join img0.length,
   join.img.cur.isSome, !rst.isSecondary, rst.mode != 1]

theorem test_witness_HingeFrames : witness_HingeFrames.all id = true := by decide +kernel

def witness_HingeTiming : List Bool :=
  let c := bonded 1 2
  let out := (((c.put (F.stcGeomVact 0) 480).put (F.stcRateFrate 0) 60).put (F.stcTotalVtotal 0) 500).vcSet 0 { VCtx.init with outOn := true, frame := 7 }
  let out := { out with hng := { out.hng with joined := true } }
  let apart := (bonded 2 2).vcSet 0 { VCtx.init with outOn := true, frame := 7 }
  let second := out.rcSet 0 { out.rc 0 with hbMissed := some (7, 478) }
  let heard := out.rcSet 0 { out.rc 0 with peer := [(7, 479, 0, 0)] }
  let split := (bonded 2 2).rcSet 0 { RCtx.init with egress := [⟨479, 7, .neural, 0, [], 0, true, [], []⟩] }
  let hold := ((bonded 1 1).put (F.hngStateState 0) 0).put (F.hngStateState 1) 0
  let hold := { hold with hng := { hold.hng with hold391 := true } }
  let lc := ((c.put (F.hngLcCfgValid 63) 1).put (F.chnSrStateValid 0) 1).put (F.chnSrCfgFullSem 0) 255
  let lc := (lc.put (F.semCountCount 255) 1).put (F.chnSrStateFill 0) 1
  let snap := rst.put F.hngHistCtrlBusy 1
  [out.running, out.paired, (out.vc 0).outOn, out.hng.joined, (out.rc 0).own.all (fun e => e.2.1 != 479), (hbFind (out.rc 0).peer 7 479).isNone,
   (hbFind (heard.rc 0).peer 7 479).isSome, second.isSecondary, second.mode == 1, (second.rc 0).hbMissed == some (7, 478), second.isShort 0, (bonded 1 1).isPrimary,
   split.mode == 2, ((split.rc 0).egress.find? (fun e => e.m == 479 && e.await)).isSome, rst.mode != 2, c.mode != 0, !c.timingMaster, out.anyOut, !out.hng.fsyncLost,
   hold.mode == 1, hold.hng.hold391, (List.range 4).all (fun n => hold.get (F.hngStateState n) != 2), !c.hng.hold391, lc.on (F.hngLcCfgValid 63),
   !lc.on (F.hngLcCfgDir 63), lc.on (F.chnSrStateValid (lc.get (F.hngLcCfgRing 63))), lc.get (F.semCountCount 255) == 1,
   tbit (lc.get (F.chnSrStateFill 0)) (lc.get (F.chnSrStateHead 0)), !lc.on (F.hngLcCfgProbe 63), !lc.on (F.cnpHtW0Spec (lc.get (F.chnSrCfgHandle 0))),
   (lc.put (F.hngLcCfgProbe 63) 1).on (F.hngLcCfgProbe 63), !lc.on (F.cnpHtW0Busy (lc.get (F.chnSrCfgHandle 0))), lc.linkIsUp (lc.linkOf (lc.get (F.hngLcCfgPort 63))),
   apart.running, apart.paired, (apart.vc 0).outOn, apart.mode == 2, !apart.hng.joined, (hbFind (apart.rc 0).peer 7 479).isNone,
   out.outputs == [0], decide ((out.vc 0).lastB ≤ out.now + 20 ∧ out.now ≤ (out.vc 0).lastB + 20), decide (101 ≤ { out with now := 121 }.now), (out.vc 0).lastB == 0, snap.on F.hngHistCtrlBusy, !rst.on F.hngHistCtrlBusy]

theorem test_witness_HingeTiming : witness_HingeTiming.all id = true := by decide +kernel

def witness_ResetAndBoot : List Bool :=
  let b (f : BootSt → BootSt) (c : Ctl) : Ctl := { c with boot := f c.boot }
  let fw (n : Nat) : Ctl := rst.put F.wktFwFwstate n
  let held := rst |> b (fun x => { x with inReset := true })
  let rec' := rst |> b (fun x => { x with straps := { x.straps with bootRec := true } })
  let dogs := rst.put F.phcBootCauseWdogSeq 3
  [(fw 1).get F.wktFwFwstate == 1, rst.get F.wktFwFwstate == 0, !rst.boot.straps.testEn, !rst.boot.straps.bootRec, !held.running, (fw 2).get F.wktFwFwstate == 2,
   held.boot.inReset, held.boot.pwrOk, held.boot.rstHigh, !rst.boot.inReset, rec'.boot.straps.bootRec, dogs.get F.phcBootCauseWdogSeq == 3,
   !FwImage.authentic rst.boot.keyDigest noFw, decide (rst.get F.phcBootCauseWdogSeq < 3), rst.boot.cfg.isEmpty, fused.boot.keyDigest == signedKey,
   fused.running && fused.boot.cfg.isEmpty && fused.boot.slots.isEmpty,
   (shared |> b (fun x => { x with epReleased := true })).boot.epReleased]

theorem test_witness_ResetAndBoot : witness_ResetAndBoot.all id = true := by decide +kernel

/-- The ROM takes a valid copy that stands twice. -/
theorem pickCfg_twice (b : BootCfg) (h : b.valid = true) : pickCfg [b, b] = some b := by simp [pickCfg, h]

theorem test_witness_bootConfig : ∃ u : BootCfg, pickCfg [u, u] = some u ∧ u.slot = false :=
  ⟨BootCfg.make 1 0 0 0, pickCfg_twice _ (bootCfg_make_valid 1 0 0 0), bootCfg_make_slot 1 0 0 0⟩

def witness_PinsAndTap : List Bool :=
  let c := (rst.put F.phcAmbCfgHiMv 1800).put F.phcAmbCfgDeb 2
  let next := { c with boot := { c.boot with ambCount := 1 } }
  let low := { rst with boot := { rst.boot with inReset := true, rstHigh := false } }
  let en := rst.put F.dbgCtrlJtagEn 1
  [c.running, c.get F.phcAmbStatusLevel != 1, decide (c.get F.phcAmbCfgHiMv ≤ min 1800 2047), !decide (c.get F.phcAmbCfgHiMv ≤ 1799), decide (c.boot.ambCount + 1 < 2),
   decide (2 ≤ next.boot.ambCount + 1), fieldGet (0x07080000 : Word) 16 11 == 1800, fieldGet (0x00130000 : Word) 16 11 == 19, low.pinReset, !rst.pinReset,
   !rst.on F.dbgCtrlJtagEn, en.on F.dbgCtrlJtagEn, (regRow (R.cnpHtW0 255)).isSome, R.cnpHtW0 255 % 4 == 0, decide (0x100004 ≤ R.cnpHtW0 255 ∧ R.cnpHtW0 255 < 0x140000)]

theorem test_witness_PinsAndTap : witness_PinsAndTap.all id = true := by decide +kernel

/-! The witness that needs the store's CRC. -/

/-- A part whose calibration store has been read whole. -/
def archived : Ctl := { rst with boot := { rst.boot with archived := true } }

theorem wk_boot (c : Ctl) (ws : List Word) : (wk c ws).boot = c.boot := rfl

theorem wk_crc (c : Ctl) (ws : List Word) : (wk c ws).storeCrc = c.storeCrc := by simp only [Ctl.storeCrc, Ctl.calBytes, wk_boot]

theorem calWrite_defined (x : Word) : reqDefined (rq 0x0602 [63, 64, 0, x]) ((argMasks (rq 0x0602 [63, 64, 0, 0])).getD []) = true := by
  have h : x &&& ~~~allW = 0 := by simp [allW]
  have r : List.range 14 = [0, 1, 2, 3, 4, 5, 6, 7, 8, 9, 10, 11, 12, 13] := by decide
  have m : (argMasks (rq 0x0602 [63, 64, 0, 0])).getD [] = [0x3F3F, allW, allW, allW] := by decide
  have a : reqArg (rq 0x0602 [63, 64, 0, x]) 3 &&& ~~~nth 0 [0x3F3F, allW, allW, allW] 3 = 0 := h
  have e : ∀ i ∈ [0, 1, 2, 4, 5, 6, 7, 8, 9, 10, 11, 12, 13], reqArg (rq 0x0602 [63, 64, 0, x]) i = reqArg (rq 0x0602 [63, 64, 0, 0]) i := by
    intro i hi
    simp only [List.mem_cons, List.not_mem_nil, or_false] at hi
    rcases hi with rfl | rfl | rfl | rfl | rfl | rfl | rfl | rfl | rfl | rfl | rfl | rfl | rfl <;> rfl
  have z : ∀ i ∈ [0, 1, 2, 4, 5, 6, 7, 8, 9, 10, 11, 12, 13],
      reqArg (rq 0x0602 [63, 64, 0, 0]) i &&& ~~~nth 0 [0x3F3F, allW, allW, allW] i = 0 := by decide
  have b : ∀ i ∈ [0, 1, 2, 4, 5, 6, 7, 8, 9, 10, 11, 12, 13],
      reqArg (rq 0x0602 [63, 64, 0, x]) i &&& ~~~nth 0 [0x3F3F, allW, allW, allW] i = 0 := fun i hi => by rw [e i hi]; exact z i hi
  rw [m, reqDefined, r]
  have w : (nth 0 (rq 0x0602 [63, 64, 0, x]) 0 &&& 0xFE000000 == 0 && nth 0 (rq 0x0602 [63, 64, 0, x]) 1 &&& 0xFFFF0000 == 0) = true := by
    rw [show nth 0 (rq 0x0602 [63, 64, 0, x]) 0 = nth 0 (rq 0x0602 [63, 64, 0, 0]) 0 from rfl,
      show nth 0 (rq 0x0602 [63, 64, 0, x]) 1 = nth 0 (rq 0x0602 [63, 64, 0, 0]) 1 from rfl]; decide
  rw [w, Bool.true_and, List.all_eq_true]
  intro i hi
  by_cases h3 : i = 3
  · subst h3; exact beq_iff_eq.mpr a
  · exact beq_iff_eq.mpr (b i (by revert hi; simp; omega))

/-- CAL_WRITE of page 63 with the CRC of the store. -/
theorem test_witness_calWrite : let ws := rq 0x0602 [63, 64, 0, archived.storeCrc]
    starts (wk archived ws) 0x0602 ws = true ∧ reqArg ws 3 = (wk archived ws).storeCrc ∧ (wk archived ws).boot.archived = true := by
  have h : ∀ x, starts (wk archived (rq 0x0602 [63, 64, 0, x])) 0x0602 (rq 0x0602 [63, 64, 0, x]) = true := by
    intro x
    have t : (wk archived (rq 0x0602 [63, 64, 0, x])).taken 15 = some ⟨rq 0x0602 [63, 64, 0, x], none, false⟩ := rfl
    have p : (wk archived (rq 0x0602 [63, 64, 0, x])).running = true := rfl
    have q : (wk archived (rq 0x0602 [63, 64, 0, x])).mayStart 15 ⟨rq 0x0602 [63, 64, 0, x], none, false⟩ = true := rfl
    have f : ((wk archived (rq 0x0602 [63, 64, 0, x])).get F.wktFwFwstate == 1) = true := by
      rw [show (wk archived (rq 0x0602 [63, 64, 0, x])).get F.wktFwFwstate = (wk archived []).get F.wktFwFwstate from rfl]; decide +kernel
    have o : (reqOp (rq 0x0602 [63, 64, 0, x]) == 0x0602) = true := rfl
    have d : reqDefined (rq 0x0602 [63, 64, 0, x]) ((argMasks (rq 0x0602 [63, 64, 0, x])).getD []) = true := calWrite_defined x
    have c : ((nth 0 (rq 0x0602 [63, 64, 0, x]) 0).getLsbD 24) = false := by
      rw [show nth 0 (rq 0x0602 [63, 64, 0, x]) 0 = nth 0 (rq 0x0602 [63, 64, 0, 0]) 0 from rfl]; decide
    have u : (wk archived (rq 0x0602 [63, 64, 0, x])).secRefuses 0x0602 = false := by
      rw [show (wk archived (rq 0x0602 [63, 64, 0, x])).secRefuses 0x0602 = (wk archived []).secRefuses 0x0602 from rfl]; decide +kernel
    rw [starts, t, p, q, f, o, d, c, u]; simp
  exact ⟨h _, (wk_crc archived _).symm, rfl⟩

/-! Terms that are not well formed, one for each check. -/

theorem test_wf_nativeAux : Instr.wf (.nativeAux 0 true 0 16 [0]) = false ∧ Instr.wf (.nativeAux 0 false 0 1 [0]) = false ∧
    Instr.wf (.nativeAux 0 true 0 1 [0]) = true := by decide
theorem test_wf_i2cOverAux : Instr.wf (.i2cOverAux 1 true 0x50 2 [0]) = false ∧ Instr.wf (.i2cOverAux 1 false 0x50 16 []) = true := by decide
theorem test_wf_apertureAccess : Instr.wf (.apertureAccess true 0 4 [0, 0, 0] []) = false ∧ Instr.wf (.apertureAccess false 0 512 [] []) = true := by decide
theorem test_wf_taskEnqueue : Instr.wf (.taskEnqueue (.raw 0 (List.replicate 31 0)) []) = false ∧
    Instr.wf (.taskEnqueue (.raw 0 (List.replicate 32 0)) []) = true := by decide

/-! Single steps with the outcome the spec gives. -/

/-- What a command from a state gives, of a next state. -/
def gives (i : Instr) (s : State) (p : State → Bool) : Bool := match exec i s with
  | .next t => p t
  | _ => false

/-- R294, Table 17: GLB_IDENT is 0x6B720021; IDENT at address 0x58 answers it, its lowest byte first, with the PEC 0x90 (computed apart from the model
over B0 01 B1 04 21 00 72 6B, polynomial x^8 + x^2 + x + 1); a code outside Table 9.9 gets a NACK, another address nothing. -/
theorem test_ident : gives (.ident 0x58 1) State.reset (fun t => t.hw.ctl.out == [.smbus [0x21, 0x00, 0x72, 0x6B, 0x90]]) &&
    gives (.ident 0x58 5) State.reset (fun t => t.hw.ctl.out == [.smbusNack]) && gives (.ident 0x59 1) State.reset (fun t => t.hw.ctl.out == []) = true := by
  decide +kernel

/-- R500: IDCODE is 0x172006D7, shifted out from bit 0. -/
theorem test_idcode : gives .idcode State.reset (fun t => t.hw.ctl.out == [.tdo [true, true, true, false, true, false, true, true, false, true, true,
    false, false, false, false, false, false, false, false, false, false, true, false, false, true, true, true, false, true, false, false, false]]) = true := by
  decide +kernel

/-- R438: a power-up out of order is not defined. -/
theorem test_powerup : exec (.pwrOkRise false) State.reset = .fault .powerUpUndefined := rfl

/-- Tables 4.5 and 4.6 bit by bit: ADDI (0x6B) under not p2, D 5, A 3, IMM −1, in slot 5 of a bundle; 0xFF is no operation. -/
theorem test_slot_bits :
    let bits : BitVec 128 := 0b01101011#8 ++ 0b1#1 ++ 0b0010#4 ++ 0b000101#6 ++ 0b000011#6 ++ 0b000000#6 ++ 0b000000#6 ++ 0#59 ++ 0xFFFFFFFF#32
    bundleCommands 7 (bits.setWidth 1024 <<< 640) = [.addi 7 { slotFor .addi 5 3 0 0 0xFFFFFFFF with pn := true, ps := 2 }] ∧
      slotWord ⟨.addi, { slotFor .addi 5 3 0 0 0xFFFFFFFF with pn := true, ps := 2 }⟩ = bits ∧
      Issued.illegal (slotOp 5 (0xFF#8 ++ 0#120) true) = true := by decide +kernel

/-- R310: of two doorbells of one arbitration event the lower mailbox is first; a third, of a later event, follows. -/
theorem test_doorbells : gives (.wicketDoorbell 9 1 false) State.reset (fun t => gives (.wicketDoorbell 4 1 true) t (fun u =>
    gives (.wicketDoorbell 2 1 false) u (fun v => v.hw.ctl.host.doorbells == [4, 9, 2]))) = true := by decide +kernel

/-- R210: a re-arm before a task moves BASE and SIZE of a host job's handle within its owner's ranges; outside them it does nothing. -/
theorem test_rearm :
    let s := st (fun c => (c.wr (R.cnpHtW0 9) (htWord true false true false 0x40)).put (F.cnpHtW2SizeM1 9) 3)
    gives (.taskEnqueue (.raw 0 (List.replicate 32 0)) [⟨9, 1, 2⟩]) s (fun t => t.hw.ctl.hBase 9 == 256 && t.hw.ctl.hSize 9 == 512) &&
      gives (.taskEnqueue (.raw 0 (List.replicate 32 0)) [⟨9, 4, 1⟩]) s (fun t => t.hw.ctl.hBase 9 == 0) = true := by decide +kernel

/-- R130, R131: ADD wraps modulo 2^32, its destination one of its sources; s0 stays 0. -/
theorem test_add : gives (.add 0 (slotFor .add 1 1 1 0 0)) tile (fun t => t.hw.ctl.sreg 0 1 == 0) &&
    gives (.addi 0 (slotFor .addi 0 1 0 0 5)) tile (fun t => t.hw.ctl.sreg 0 0 == 0) = true := by decide +kernel

/-- R131: SRA keeps the sign of 0x80000000, SHR does not; a shift uses sB modulo 32. -/
theorem test_shift :
    let s := tileW (fun c => c.sregSet 0 5 33)
    gives (.sra 0 (slotFor .sra 6 1 5 0 0)) s (fun t => t.hw.ctl.sreg 0 6 == 0xC0000000) &&
      gives (.shr 0 (slotFor .shr 6 1 5 0 0)) s (fun t => t.hw.ctl.sreg 0 6 == 0x40000000) = true := by decide +kernel

/-- R170: a store to Canopy stays in the gather buffer until a FENCE writes it. -/
theorem test_gather : gives (.stS 0 (slotFor .stS 0 1 2 0 0)) tile (fun t => t.hw.mem.rd (canopyKey 3) == 0 &&
    gives (.fence 0 (slotFor .fence 0 0 0 0 0)) t (fun u => u.hw.mem.rd (canopyKey 3) == 0x80 && (u.hw.ctl.gather 0).isEmpty)) = true := by decide +kernel

/-- R241: 1 + 1 is 2 in binary16. -/
theorem test_add16 : add16 0x3C00 0x3C00 = 0x4000 := by decide +kernel

/-- The commands wait first in, first out, and an empty queue lets a nanosecond pass (log entry 2). -/
theorem test_queue : (match step { State.reset with pending := [.idcode, .bypass] } with
    | .next t => t.pending == [.bypass] && t.hw.ctl.out.length == 1
    | _ => false) = true ∧ (match step State.reset with
    | .next t => t.hw.ctl.now == State.reset.hw.ctl.now + 1
    | _ => false) = true := by decide +kernel

end Sys2Proof.Tests
end

section
/-! The state at reset, read part by part, and the statement about it (00_scope.md). Every map of the reset state lists nothing, so a
read gives the default that its accessor names. -/

namespace Sys2Proof.Machine

/-- A map that lists nothing reads as its default at every key. -/
@[simp] theorem mget_nil {α : Type} (d : α) (k : Nat) : mget d ([] : SMap α) k = d := rfl

/-- A map that lists nothing is canonical. -/
@[simp] theorem mwf_nil {α : Type} [DecidableEq α] (d : α) : mwf d ([] : SMap α) = true := rfl

/-! The controllers at reset. -/

/-- R17: the reset state lists no register, so each reads the reset value of its table row. -/
@[simp] theorem Ctl.rd_reset (a : Nat) : Ctl.reset.rd a = regReset a := mget_nil (regReset a) a

@[simp] theorem Ctl.vreg_reset (q i : Nat) : Ctl.reset.vreg q i = 0 := mget_nil 0 (32 * q + i)

@[simp] theorem Ctl.core_reset (q : Nat) : Ctl.reset.core q = CoreSt.idle := mget_nil CoreSt.idle q

/-! The memories at reset. -/

theorem Mem.reset_wf : Mem.reset.wf = true := (Mem.wf_iff Mem.reset).mpr ⟨mwf_nil 0, mwf_nil false, mwf_nil false⟩

@[simp] theorem Mem.rd_reset (k : Nat) : Mem.reset.rd k = 0 := mget_nil 0 k

/-- R443: no line is listed as cleared, so exactly the lines outside DRAM, which has no clear bits, are pending. -/
@[simp] theorem Mem.pendingAt_reset (k : Nat) : Mem.reset.pendingAt k = !isDram k := by
  simp [Mem.pendingAt, Mem.reset]

/-! The statement. -/

/-- Settles O32: the parts of the reset state are `Ctl.reset` and `Mem.reset`, and the lemmas above read each of them. -/
theorem resetState : Obligations.ResetState := by
  unfold Obligations.ResetState
  have hclear : ∀ a, isDram a = false → Mem.reset.pendingAt a = true := fun a ha => by simp [ha]
  exact ⟨Mem.reset_wf, rfl, rfl, Ctl.rd_reset, Mem.rd_reset, hclear, fun q i _ => Ctl.vreg_reset q i, Ctl.core_reset⟩

end Sys2Proof.Machine
end

section
/-! The ready tag and the end of a task (01_raster_contract.md R32, R134; 06_channels_and_semaphores.md R185): what a slot that waits
for nothing leaves once its bundle completes, what a TAGW writes, and what a HALT signals. -/

namespace Sys2Proof.Machine

/-! A bundle of one slot whose effect changes the controllers alone. -/

@[simp] theorem Ctl.core_gatherSet (c : Ctl) (n : Nat) (l : List GbEntry) (q : Nat) : (c.gatherSet n l).core q = c.core q := rfl

/-- Changes of the controllers one after another. -/
theorem W.on_on (w : W) (f g : Ctl → Ctl) : (w.on f).on g = w.on (fun c => g (f c)) := rfl

/-- A change of the controllers looks at no controllers but those there are. -/
theorem W.on_at (w : W) (f : Ctl → Ctl) : w.on f = w.on (fun _ => f w.ctl) := rfl

theorem begun_gather (s : State) (x : At) (i : Issued) (n : Nat) : (begun s x i).ctl.gather n = s.hw.ctl.gather n := by
  obtain ⟨r, cs, ef, em, h⟩ := begun_eq s x i
  rw [h]; rfl

theorem begun_ras (s : State) (x : At) (i : Issued) : (begun s x i).ctl.ras = s.hw.ctl.ras := by
  obtain ⟨r, cs, ef, em, h⟩ := begun_eq s x i
  rw [h]

theorem begun_reruns (s : State) (x : At) (i : Issued) : (begun s x i).ctl.fab.reruns = s.hw.ctl.fab.reruns := by
  obtain ⟨r, cs, ef, em, h⟩ := begun_eq s x i
  rw [h]

/-- The FENCE of a core with nothing left in its stand's gather buffer flushes nothing (R170). -/
theorem fence_begun {s : State} {x : At} (h : Drained s x.n x.k) (i : Issued) :
    (begun s x i).fence x.n x.k = (begun s x i).on (fun c => c.gatherSet x.n (c.gather x.n)) := by
  refine flushWhere_none _ _ _ fun e he => ?_
  rw [begun_gather] at he
  exact Bool.eq_false_iff.mpr fun hk => h e he (List.contains_iff_mem.mp hk)

/-- A slot whose effect changes the controllers alone, with nothing to wait for: its bundle completes and the PC moves (R140). -/
theorem slot_completes {s : State} {x : At} {i : Issued} (h : Issues s x i) {d : Ctl}
    (hfx : fx (begun s x i) x i (begun s x i) = (begun s x i).on (fun _ => d))
    (hw : (d.core x.q).waiting = []) (hh : (d.core x.q).halting = false) :
    onHw s (fun w => w.slot x.k i) =
      .next ⟨⟨d.put (F.stdCorePcPc x.n (x.q % 8)) (d.core x.q).nextPc, s.hw.mem⟩, s.pending⟩ := by
  refine onHw_eq s _ ⟨d.put (F.stdCorePcPc x.n (x.q % 8)) (d.core x.q).nextPc, s.hw.mem, []⟩ ?_
  rw [slot_issues h, hfx, settle_plain _ _ hw hh]
  rfl

/-- A slot whose effect changes the controllers alone and halts, with nothing to wait for and nothing shed: the task ends (R185). -/
theorem slot_halts {s : State} {x : At} {i : Issued} (h : Issues s x i) {d : Ctl}
    (hfx : fx (begun s x i) x i (begun s x i) = (begun s x i).on (fun _ => d))
    (hw : (d.core x.q).waiting = []) (hh : (d.core x.q).halting = true)
    (hs : (d.taskDone x.q x.k x.t).on F.phcCurStatusShed = false) :
    onHw s (fun w => w.slot x.k i) = .next ⟨⟨d.taskDone x.q x.k x.t, s.hw.mem⟩, s.pending⟩ := by
  refine onHw_eq s _ ⟨d.taskDone x.q x.k x.t, s.hw.mem, []⟩ ?_
  have ht : d.tryAll x.q x.k = d := by simp [Ctl.tryAll, hw]
  rw [slot_issues h, hfx]
  simp [W.settle, W.finish, W.shedQuiet, W.on, ht, hw, hh, hs]

/-! TAGW. -/

theorem fieldGet_eq (v : Word) (lo n : Nat) : fieldGet v lo n = v.toNat / 2 ^ lo % 2 ^ n := by
  rw [fieldGet, Nat.shiftRight_eq_div_pow]

theorem bit_lt (p : Bool) : bit p < 2 := by cases p <;> decide

/-- Bit j of a word that fits 32 bits, as a quotient. -/
theorem getLsbD_w32 (x j : Nat) (hx : x < 2 ^ 32) : (w32 x).getLsbD j = decide (x / 2 ^ j % 2 = 1) := by
  rw [w32, BitVec.getLsbD, BitVec.toNat_ofNat, Nat.mod_eq_of_lt hx, Nat.testBit_eq_decide_div_mod_eq]

/-- The fields of a ready tag as TAGW packs them (R134): none overlaps another. -/
theorem tagValue_fields (old b : Word) (stand : Nat) (rerun : Bool) (hs : stand < 32) :
    (tagValue old b stand rerun).getLsbD 31 = b.getLsbD 31 ∧
    (tagValue old b stand rerun).getLsbD 30 = (old.getLsbD 30 && decide (old.toNat % 2 ^ 13 = b.toNat % 2 ^ 13) &&
      decide (old.toNat / 2 ^ 13 % 256 = b.toNat / 2 ^ 13 % 256)) ∧
    (tagValue old b stand rerun).getLsbD 29 = rerun ∧
    (tagValue old b stand rerun).toNat / 2 ^ 24 % 32 = stand ∧
    (tagValue old b stand rerun).toNat / 2 ^ 13 % 256 = b.toNat / 2 ^ 13 % 256 ∧
    (tagValue old b stand rerun).toNat % 2 ^ 13 = b.toNat % 2 ^ 13 := by
  have h31 : b.getLsbD 31 = decide (b.toNat / 2 ^ 31 % 2 = 1) := by rw [BitVec.getLsbD, Nat.testBit_eq_decide_div_mod_eq]
  simp only [tagValue, fieldGet_eq, h31]
  generalize hkeep : (_ && old.getLsbD 30) = keep
  have hp := bit_lt keep
  have hr := bit_lt rerun
  have hw : b.toNat / 2 ^ 31 % 2 ^ 1 * 2 ^ 31 + bit keep * 2 ^ 30 + bit rerun * 2 ^ 29 + stand * 2 ^ 24 +
      b.toNat / 2 ^ 13 % 2 ^ 8 * 2 ^ 13 + b.toNat % 2 ^ 13 < 2 ^ 32 := by omega
  have bit_eq_one (p : Bool) : decide (bit p = 1) = p := by cases p <;> rfl
  rw [getLsbD_w32 _ _ hw, getLsbD_w32 _ _ hw, getLsbD_w32 _ _ hw, w32, BitVec.toNat_ofNat, Nat.mod_eq_of_lt hw]
  refine ⟨?_, ?_, ?_, ?_, ?_, ?_⟩
  · exact decide_eq_decide.mpr (by omega)
  · refine (decide_eq_decide.mpr (?_ : _ ↔ bit keep = 1)).trans ((bit_eq_one keep).trans ?_)
    · omega
    · simp [← hkeep, beq_eq_decide, Bool.and_comm, Bool.and_left_comm, Bool.and_assoc]
  · exact (decide_eq_decide.mpr (by omega : _ ↔ bit rerun = 1)).trans (bit_eq_one rerun)
  all_goals omega

/-- Slot j of output o takes tag v now. -/
def Ctl.tagStamp (c : Ctl) (o j : Nat) (v : Word) : Ctl :=
  let c := c.tagSet o j v
  { c with ras := { c.ras with tagTime := mset 0 c.ras.tagTime (64 * o + j) c.now } }

/-- What a TAGW of the task of x does at slot j of output o once its core has drained: a late write counts and leaves the tag (R32),
another writes it and notes the instant (R134). -/
def Ctl.tagWrite (c : Ctl) (x : At) (b : Word) (o j : Nat) : Ctl :=
  if c.drained o 8 (fieldGet b 13 8) (b.toNat % 2 ^ 13) then c.bump (F.rasLateWrCount o) 1
  else c.tagStamp o j (tagValue (c.tag o j) b x.n (c.fab.reruns.contains x.t.lineKey))

@[simp] theorem Ctl.fab_tagStamp (c : Ctl) (o j : Nat) (v : Word) : (c.tagStamp o j v).fab = c.fab := rfl

/-- The tags after one is written: the slot's is the new one, every other one is as before. -/
theorem Ctl.tag_tagStamp (c : Ctl) (o j p i : Nat) (v : Word) :
    (c.tagStamp o j v).tag p i = if 64 * p + i = 64 * o + j then v else c.tag p i := mget_mset _ _ _ _ _

@[simp] theorem Ctl.fab_tagWrite (c : Ctl) (x : At) (b : Word) (o j : Nat) : (c.tagWrite x b o j).fab = c.fab := by
  unfold Ctl.tagWrite
  split
  · exact Ctl.fab_bump c _ 1
  · exact Ctl.fab_tagStamp c o j _

@[simp] theorem Ctl.core_tagWrite (c : Ctl) (x : At) (b : Word) (o j q : Nat) : (c.tagWrite x b o j).core q = c.core q := by
  simp [Ctl.core]

@[simp] theorem Ctl.tag_put (c : Ctl) (f : Fld) (v p i : Nat) : (c.put f v).tag p i = c.tag p i := rfl

theorem Ctl.tag_bump (c : Ctl) (f : Fld) (n p i : Nat) : (c.bump f n).tag p i = c.tag p i := by
  obtain ⟨r, h⟩ := Ctl.bump_eq c f n
  rw [h]; rfl

theorem Ctl.tagWrite_late {c : Ctl} {x : At} {b : Word} {o : Nat} (j : Nat)
    (h : c.drained o 8 (fieldGet b 13 8) (b.toNat % 2 ^ 13) = true) : c.tagWrite x b o j = c.bump (F.rasLateWrCount o) 1 := if_pos h

theorem Ctl.tagWrite_intime {c : Ctl} {x : At} {b : Word} {o : Nat} (j : Nat)
    (h : c.drained o 8 (fieldGet b 13 8) (b.toNat % 2 ^ 13) = false) :
    c.tagWrite x b o j = c.tagStamp o j (tagValue (c.tag o j) b x.n (c.fab.reruns.contains x.t.lineKey)) :=
  if_neg (Bool.eq_false_iff.mp h)

/-- The core of a task in its commit section (R177). -/
theorem Ctl.commit_eq {c : Ctl} {q : Nat} {t : Task} (h : (c.core q).task = some t) :
    c.commit q = c.coreSet q { c.core q with task := some { t with inCommit := true } } := by
  unfold Ctl.commit
  rw [h]

theorem Ctl.tag_of_ras {c d : Ctl} (h : c.ras = d.ras) (p i : Nat) : c.tag p i = d.tag p i := by rw [Ctl.tag, Ctl.tag, h]

theorem Ctl.drained_of_ras {c d : Ctl} (h : c.ras = d.ras) (o n f m : Nat) : c.drained o n f m = d.drained o n f m := by
  simp only [Ctl.drained, Ctl.rc, h]

/-- The controllers as the implicit FENCE of a slot of a drained core leaves them: nothing flushed, the task in its commit section. -/
def fenced (s : State) (x : At) (i : Issued) : Ctl :=
  ((begun s x i).ctl.gatherSet x.n ((begun s x i).ctl.gather x.n)).commit x.q

theorem fenced_eq {s : State} {x : At} (h : s.hw.ctl.atCore x.k = some x) (i : Issued) :
    fenced s x i = ((begun s x i).ctl.gatherSet x.n ((begun s x i).ctl.gather x.n)).coreSet x.q
      { (begun s x i).ctl.core x.q with task := some { x.t with inCommit := true } } := by
  obtain ⟨-, -, ht, -, -⟩ := atCore_q h
  exact Ctl.commit_eq (t := x.t) (by rw [Ctl.core_gatherSet, begun_core, if_pos rfl]; exact ht)

theorem fenced_core {s : State} {x : At} (h : s.hw.ctl.atCore x.k = some x) (i : Issued) (q : Nat) :
    (fenced s x i).core q = if q = x.q then { s.hw.ctl.core x.q with
      task := some { x.t with inCommit := true }, staged := [], nextPc := (x.pc + 1) % 4096, halting := false, nacked := false,
      waited := false } else s.hw.ctl.core q := by
  rw [fenced_eq h, Ctl.core_coreSet, begun_core, if_pos rfl]
  by_cases hq : q = x.q
  · rw [if_pos hq, if_pos hq]
  · rw [if_neg hq, if_neg hq, Ctl.core_gatherSet, begun_core, if_neg hq]

theorem fenced_ras {s : State} {x : At} (h : s.hw.ctl.atCore x.k = some x) (i : Issued) : (fenced s x i).ras = s.hw.ctl.ras := by
  rw [fenced_eq h]; exact begun_ras s x i

theorem fenced_reruns {s : State} {x : At} (h : s.hw.ctl.atCore x.k = some x) (i : Issued) :
    (fenced s x i).fab.reruns = s.hw.ctl.fab.reruns := by
  rw [fenced_eq h]; exact begun_reruns s x i

theorem fenced_files {s : State} {x : At} (h : s.hw.ctl.atCore x.k = some x) (i : Issued) :
    (fenced s x i).fab.sregs = s.hw.ctl.fab.sregs ∧ (fenced s x i).fab.vregs = s.hw.ctl.fab.vregs ∧
    (fenced s x i).fab.pregs = s.hw.ctl.fab.pregs ∧ (fenced s x i).fab.aregs = s.hw.ctl.fab.aregs := by
  rw [fenced_eq h]; exact begun_files s x i

theorem fenced_rd {s : State} {x : At} (h : s.hw.ctl.atCore x.k = some x) (i : Issued) {a : Nat} (h1 : a ≠ x.issueAddr)
    (h2 : a ≠ R.dbgSat) : (fenced s x i).rd a = s.hw.ctl.rd a := by
  rw [fenced_eq h]; exact begun_rd s x i h1 h2

/-- A TAGW under its guard whose slot is known. -/
theorem fxTagw_eq {w0 w : W} {x : At} {i : Issued} {o j : Nat} (hg : w0.ctl.guard0 x.q i.sl = true)
    (ht : w0.ctl.tagSlot x.q x.k x.t i = some (o, j)) :
    fxTagw w0 x i w = ((w.fence x.n x.k).on (fun c => c.commit x.q)).on
      (fun c => c.tagWrite x (w0.ctl.sreg x.q i.sl.b.val) o j) := by
  unfold fxTagw gated
  rw [if_pos hg, ht]
  rfl

/-- A TAGW under its guard, on a drained core, acts on the controllers alone. -/
theorem fx_tagw {s : State} {x : At} {sl : Slot} {o j : Nat} (hg : s.hw.ctl.guard0 x.q sl = true) (hd : Drained s x.n x.k)
    (ht : (begun s x ⟨.tagw, sl⟩).ctl.tagSlot x.q x.k x.t ⟨.tagw, sl⟩ = some (o, j)) :
    fx (begun s x ⟨.tagw, sl⟩) x ⟨.tagw, sl⟩ (begun s x ⟨.tagw, sl⟩) =
      (begun s x ⟨.tagw, sl⟩).on (fun _ => (fenced s x ⟨.tagw, sl⟩).tagWrite x (s.hw.ctl.sreg x.q sl.b.val) o j) := by
  refine (fxTagw_eq ((begun_guard0 ..).trans hg) ht).trans ?_
  rw [fence_begun hd, begun_sreg, W.on_on, W.on_on]
  exact W.on_at _ _

/-- The registers of a stand's cores lie outside the windows of the raster, the semaphores, the channels and the streams. -/
theorem coreAddr_ge (x : At) : 0x78000 ≤ x.pcAddr ∧ 0x78000 ≤ x.issueAddr := by
  have h : 0x78000 ≤ stdBase (x.q / 8) := by unfold stdBase; split <;> omega
  show 0x78000 ≤ stdBase (x.q / 8) + 0x100 + 0x40 * (x.q % 8) ∧ 0x78000 ≤ stdBase (x.q / 8) + 0x108 + 0x40 * (x.q % 8)
  omega

theorem curStatus_ne_issueAddr {x : At} (hq : x.q < 136) : R.phcCurStatus ≠ x.issueAddr := by
  show 0x1c0088 ≠ stdBase (x.q / 8) + 0x108 + 0x40 * (x.q % 8)
  unfold stdBase
  split <;> omega

/-- TAGW (R32, R134): the tag of the slot, or the count of late writes, and nothing else but the bundle's own completion. -/
theorem tagw_completes {s : State} {x : At} {sl : Slot} {o j : Nat} (hi : Issues s x ⟨.tagw, sl⟩)
    (hg : s.hw.ctl.guard0 x.q sl = true) (hd : Drained s x.n x.k)
    (ht : (begun s x ⟨.tagw, sl⟩).ctl.tagSlot x.q x.k x.t ⟨.tagw, sl⟩ = some (o, j)) :
    onHw s (fun w => w.slot x.k ⟨.tagw, sl⟩) = .next ⟨⟨((fenced s x ⟨.tagw, sl⟩).tagWrite x (s.hw.ctl.sreg x.q sl.b.val) o j).put
      (F.stdCorePcPc x.n (x.q % 8)) ((x.pc + 1) % 4096), s.hw.mem⟩, s.pending⟩ := by
  have hcore := fenced_core hi.core ⟨.tagw, sl⟩ x.q
  rw [if_pos rfl] at hcore
  rw [slot_completes hi (fx_tagw hg hd ht) (by rw [Ctl.core_tagWrite, hcore]; exact hi.waits)
    (by rw [Ctl.core_tagWrite, hcore]), Ctl.core_tagWrite, hcore]

/-- What TAGW leaves at its slot (R32, R134): a late write is counted and the tag stays; another gives the tag its fields. -/
def TagLeft (s : State) (x : At) (sl : Slot) (o j : Nat) (t : State) : Prop :=
  let b := s.hw.ctl.sreg x.q sl.b.val
  let old := s.hw.ctl.tag o j
  if s.hw.ctl.drained o 8 (b.toNat / 2 ^ 13 % 256) (b.toNat % 2 ^ 13) then
    t.hw.ctl.tag o j = old ∧ Counts s.hw.ctl t.hw.ctl (F.rasLateWrCount o)
  else
    (t.hw.ctl.tag o j).getLsbD 31 = b.getLsbD 31 ∧
    (t.hw.ctl.tag o j).getLsbD 30 = (old.getLsbD 30 && decide (old.toNat % 2 ^ 13 = b.toNat % 2 ^ 13) &&
      decide (old.toNat / 2 ^ 13 % 256 = b.toNat / 2 ^ 13 % 256)) ∧
    (t.hw.ctl.tag o j).getLsbD 29 = s.hw.ctl.fab.reruns.contains x.t.lineKey ∧
    (t.hw.ctl.tag o j).toNat / 2 ^ 24 % 32 = x.q / 8 ∧
    (t.hw.ctl.tag o j).toNat / 2 ^ 13 % 256 = b.toNat / 2 ^ 13 % 256 ∧ (t.hw.ctl.tag o j).toNat % 2 ^ 13 = b.toNat % 2 ^ 13

/-- A late write counts once and moves no tag; the PC that moves after it is another register. -/
theorem tagWrite_late_left {s : State} {x : At} (hc : s.hw.ctl.atCore x.k = some x) (i : Issued) {b : Word} {o j : Nat} (ho : o < 24)
    (hl : s.hw.ctl.drained o 8 (fieldGet b 13 8) (b.toNat % 2 ^ 13) = true) (pc : Nat) :
    (∀ p i', (((fenced s x i).tagWrite x b o j).put (F.stdCorePcPc x.n (x.q % 8)) pc).tag p i' = s.hw.ctl.tag p i') ∧
    Counts s.hw.ctl (((fenced s x i).tagWrite x b o j).put (F.stdCorePcPc x.n (x.q % 8)) pc) (F.rasLateWrCount o) := by
  have hras := fenced_ras hc i
  obtain ⟨hpc, hissue⟩ := coreAddr_ge x
  rw [Ctl.tagWrite_late j ((Ctl.drained_of_ras hras ..).trans hl)]
  constructor
  · exact fun p i' => (Ctl.tag_bump _ _ _ p i').trans (Ctl.tag_of_ras hras p i')
  · have hne : R.rasLateWr o < 0x78000 := by unfold R.rasLateWr; omega
    have hsat : R.rasLateWr o ≠ R.dbgSat := by unfold R.dbgSat; omega
    unfold Counts
    rw [Ctl.get_put_ne _ _ _ _ (by simp) (Or.inl (show R.rasLateWr o ≠ x.pcAddr by omega)), Ctl.get_bump _ _ _ (by simp) hsat]
    simp only [Ctl.get, fenced_rd hc i (show R.rasLateWr o ≠ x.issueAddr by omega) hsat]

/-- The tags after TAGW: the slot's as `TagLeft` says, every other one as before. -/
theorem tagWrite_left {s t : State} {x : At} {sl : Slot} (hc : s.hw.ctl.atCore x.k = some x) {o j : Nat} (ho : o < 24) (hj : j < 64)
    {pc : Nat} (ht : t.hw.ctl = ((fenced s x ⟨.tagw, sl⟩).tagWrite x (s.hw.ctl.sreg x.q sl.b.val) o j).put
      (F.stdCorePcPc x.n (x.q % 8)) pc) :
    (∀ p i, i < 64 → ¬(p = o ∧ i = j) → t.hw.ctl.tag p i = s.hw.ctl.tag p i) ∧ TagLeft s x sl o j t := by
  have hras := fenced_ras hc ⟨.tagw, sl⟩
  unfold TagLeft
  dsimp only
  rw [ht]
  have hframe := congrArg (s.hw.ctl.drained o 8 · ((s.hw.ctl.sreg x.q sl.b.val).toNat % 2 ^ 13)) (fieldGet_eq (s.hw.ctl.sreg x.q sl.b.val) 13 8)
  cases hl : s.hw.ctl.drained o 8 ((s.hw.ctl.sreg x.q sl.b.val).toNat / 2 ^ 13 % 256) ((s.hw.ctl.sreg x.q sl.b.val).toNat % 2 ^ 13) with
  | true =>
    obtain ⟨htag, hcount⟩ := tagWrite_late_left (j := j) hc ⟨.tagw, sl⟩ ho (hframe.trans hl) pc
    exact ⟨fun p i _ _ => htag p i, by rw [if_pos rfl]; exact ⟨htag o j, hcount⟩⟩
  | false =>
    have htag (p i : Nat) := Ctl.tag_tagStamp (fenced s x ⟨.tagw, sl⟩) o j p i
      (tagValue (s.hw.ctl.tag o j) (s.hw.ctl.sreg x.q sl.b.val) x.n (s.hw.ctl.fab.reruns.contains x.t.lineKey))
    have hwr := Ctl.tagWrite_intime (x := x) j ((Ctl.drained_of_ras hras ..).trans (hframe.trans hl))
    rw [Ctl.tag_of_ras hras, fenced_reruns hc] at hwr
    rw [hwr, if_neg Bool.false_ne_true]
    refine ⟨fun p i hi hne => ?_, ?_⟩
    · exact (htag p i).trans ((if_neg (by omega)).trans (Ctl.tag_of_ras hras p i))
    · have hq : x.n < 32 := by have := (atCore_q hc).2.1; unfold At.n; omega
      have hself := (htag o j).trans (if_pos rfl)
      rw [Ctl.tag_put, hself]
      exact tagValue_fields _ _ _ _ hq

/-! Signals on semaphores that no ring or pool uses (R198). -/

theorem OnlyRegs.refl (l : List Nat) (c : Ctl) : OnlyRegs l c c := ⟨fun _ _ => rfl, c.regs, rfl⟩

theorem OnlyRegs.trans {l : List Nat} {c d e : Ctl} (h : OnlyRegs l c d) (g : OnlyRegs l d e) : OnlyRegs l c e := by
  obtain ⟨hr, r, rfl⟩ := h
  obtain ⟨gr, r', hg⟩ := g
  exact ⟨fun a ha => (gr a ha).trans (hr a ha), r', hg⟩

theorem OnlyRegs.mono {l m : List Nat} {c d : Ctl} (h : OnlyRegs l c d) (hlm : ∀ a, a ∈ l → a ∈ m) : OnlyRegs m c d :=
  ⟨fun a ha => h.1 a (fun hl => ha (hlm a hl)), h.2⟩

theorem onlyRegs_put (c : Ctl) (f : Fld) (v : Nat) : OnlyRegs [f.addr] c (c.put f v) :=
  ⟨fun _ ha => Ctl.rd_put_ne c f v (by simpa using ha), _, rfl⟩

/-- A fold whose every step leaves the state as it is. -/
theorem foldl_unchanged {α β : Type} (f : β → α → β) (c : β) (l : List α) (h : ∀ a ∈ l, f c a = c) : l.foldl f c = c := by
  induction l with
  | nil => rfl
  | cons a t ih =>
    rw [List.foldl_cons, h a List.mem_cons_self]
    exact ih fun b hb => h b (List.mem_cons_of_mem _ hb)

/-- The count of a semaphore raised is the whole of what changes. -/
theorem semAdd_onlyRegs (c : Ctl) (sem n : Nat) : OnlyRegs [R.semCount sem] c (c.semAdd sem n) := by
  unfold Ctl.semAdd
  dsimp only
  split
  · exact (onlyRegs_put c (F.semCountCount sem) _).trans (onlyRegs_put _ (F.semCountOvf sem) _)
  · exact onlyRegs_put c (F.semCountCount sem) _

/-- A semaphore's count stays at 65 535 (R198). -/
theorem get_semAdd (c : Ctl) (sem n : Nat) :
    (c.semAdd sem n).get (F.semCountCount sem) = min (c.get (F.semCountCount sem) + n) 65535 := by
  have hn : 2 ^ (F.semCountCount sem).n = 65536 := rfl
  unfold Ctl.semAdd
  dsimp only
  split
  · rw [Ctl.get_put_ne _ (F.semCountOvf sem) (F.semCountCount sem) _ (by simp) (by simp), Ctl.get_put_self _ _ _ (by simp), hn]
    omega
  · rw [Ctl.get_put_self _ _ _ (by simp), hn, Nat.mod_eq_of_lt (by omega)]
    omega

/-- Registers that a semaphore's use by rings and pools is read from. -/
def linkAddr (a : Nat) : Prop := a < 0x70000 ∨ 0x71000 ≤ a ∧ a < 0x78000

theorem Ctl.on_of_rd {c d : Ctl} {f : Fld} (h : d.rd f.addr = c.rd f.addr) : d.on f = c.on f := by simp only [Ctl.on, Ctl.get, h]
theorem Ctl.get_of_rd {c d : Ctl} {f : Fld} (h : d.rd f.addr = c.rd f.addr) : d.get f = c.get f := by simp only [Ctl.get, h]

/-- Whether a ring or pool uses a semaphore is read from registers that the counts of semaphores and cores are not among. -/
theorem plainSem_of_rd {c d : Ctl} {sem : Nat} (h : ∀ a, linkAddr a → d.rd a = c.rd a) (hc : c.plainSem sem) : d.plainSem sem := by
  obtain ⟨hrings, hlines, hpools⟩ := hc
  refine ⟨fun r hr hv => ?_, fun i hi hv => ?_, fun p hp hv => ?_⟩
  · have hcfg : d.rd (R.chnSrCfg r) = c.rd (R.chnSrCfg r) := h _ (by unfold linkAddr R.chnSrCfg; omega)
    have hst : d.rd (R.chnSrState r) = c.rd (R.chnSrState r) := h _ (by unfold linkAddr R.chnSrState; omega)
    rw [Ctl.get_of_rd (f := F.chnSrCfgFullSem r) hcfg]
    exact hrings r hr ((Ctl.on_of_rd (f := F.chnSrStateValid r) hst).symm.trans hv)
  · have hctl : d.rd (R.stcCtrl i) = c.rd (R.stcCtrl i) := h _ (by unfold linkAddr R.stcCtrl; omega)
    have hring : d.rd (R.stcRing i) = c.rd (R.stcRing i) := h _ (by unfold linkAddr R.stcRing; omega)
    rw [Ctl.get_of_rd (f := F.stcCtrlSrc i) hctl, Ctl.get_of_rd (f := F.stcRingSem i) hring]
    refine hlines i hi (Eq.trans ?_ hv)
    simp only [Ctl.armedAs, Ctl.on_of_rd (f := F.stcCtrlArm i) hctl, Ctl.get_of_rd (f := F.stcCtrlDir i) hctl]
  · have hg : d.rd (R.chnCpGuard p) = c.rd (R.chnCpGuard p) := h _ (by unfold linkAddr R.chnCpGuard; omega)
    rw [Ctl.get_of_rd (f := F.chnCpGuardLinksem p) hg]
    exact hpools p hp ((Ctl.on_of_rd (f := F.chnCpGuardValid p) hg).symm.trans hv)

/-- A signal on a semaphore that no ring or pool uses moves its count alone (R198, R201, R205). -/
theorem signal_plain {c : Ctl} {sem : Nat} (hs : sem < 256) (h : c.plainSem sem) (n k : Nat) : c.signal sem n k = c.semAdd sem n := by
  obtain ⟨hrings, hlines, hpools⟩ : (c.semAdd sem n).plainSem sem :=
    plainSem_of_rd (fun a ha => (semAdd_onlyRegs c sem n).1 a (by simp [linkAddr, R.semCount] at ha ⊢; omega)) h
  unfold Ctl.signal
  generalize c.semAdd sem n = d at hrings hlines hpools ⊢
  have htags : d.signalTags sem n k = d := by
    unfold Ctl.signalTags
    dsimp only
    rw [foldl_unchanged _ d (List.range 128) fun r hr => ?_, foldl_unchanged _ d (List.range 24) fun i hi => ?_]
    · cases hv : d.armedAs i 0 with
      | false => rfl
      | true =>
        rcases hlines i (List.mem_range.mp hi) hv with hsrc | hsem
        · simp [hsrc]
        · simp [hsem]
    · cases hv : d.on (F.chnSrStateValid r) with
      | false => simp
      | true =>
        obtain ⟨hfull, hempty⟩ := hrings r (List.mem_range.mp hr) hv
        simp [hfull, hempty]
  rw [htags]
  refine foldl_unchanged _ d (List.range 256) fun p hp => ?_
  cases hv : d.on (F.chnCpGuardValid p) with
  | false => rfl
  | true => simp [hpools p (List.mem_range.mp hp) hv]

/-- One completion signal of a descriptor (R185): DONE_N where DONE_EN is 1. -/
def Ctl.doneSignal (c : Ctl) (k : Nat) (d : Nat × Nat × Bool) : Ctl := if d.2.2 then c.signal d.1 d.2.1 k else c

theorem Ctl.doneSignals_pair {t : Task} {a b : Nat × Nat × Bool} (h : t.done = [a, b]) (c : Ctl) (k : Nat) :
    c.doneSignals t k = (c.doneSignal k a).doneSignal k b := by
  unfold Ctl.doneSignals
  rw [h]
  rfl

/-- A completion signal on a plain semaphore: its count, and nothing else. -/
theorem doneSignal_plain {c : Ctl} {d : Nat × Nat × Bool} (hs : d.1 < 256) (h : c.plainSem d.1) (k : Nat) :
    OnlyRegs [R.semCount d.1] c (c.doneSignal k d) ∧
    (c.doneSignal k d).get (F.semCountCount d.1) = min (c.get (F.semCountCount d.1) + if d.2.2 then d.2.1 else 0) 65535 := by
  unfold Ctl.doneSignal
  cases d.2.2 with
  | true =>
    rw [if_pos rfl, if_pos rfl, signal_plain hs h]
    exact ⟨semAdd_onlyRegs c d.1 d.2.1, get_semAdd c d.1 d.2.1⟩
  | false =>
    have hlt : c.get (F.semCountCount d.1) < 65536 := Ctl.get_lt c (F.semCountCount d.1)
    refine ⟨OnlyRegs.refl _ c, ?_⟩
    simp only [Bool.false_eq_true, if_false, Nat.add_zero]
    omega

/-- The two completion signals of a descriptor on two plain semaphores: each count takes its own DONE_N (R185). -/
theorem doneSignals_plain {c : Ctl} {t : Task} {a b : Nat × Nat × Bool} (ht : t.done = [a, b]) (hab : a.1 ≠ b.1) (ha : a.1 < 256)
    (hb : b.1 < 256) (hpa : c.plainSem a.1) (hpb : c.plainSem b.1) (k : Nat) :
    OnlyRegs [R.semCount a.1, R.semCount b.1] c (c.doneSignals t k) ∧ ∀ d, d = a ∨ d = b →
      (c.doneSignals t k).get (F.semCountCount d.1) = min (c.get (F.semCountCount d.1) + if d.2.2 then d.2.1 else 0) 65535 := by
  rw [Ctl.doneSignals_pair ht]
  obtain ⟨ga, hcounta⟩ := doneSignal_plain ha hpa k
  have hpb' : (c.doneSignal k a).plainSem b.1 :=
    plainSem_of_rd (fun x hx => ga.1 x (by simp [linkAddr, R.semCount] at hx ⊢; omega)) hpb
  obtain ⟨gb, hcountb⟩ := doneSignal_plain hb hpb' k
  refine ⟨(ga.mono (by simp)).trans (gb.mono (by simp)), ?_⟩
  rintro d (rfl | rfl)
  · rw [← hcounta]
    exact Ctl.get_of_rd (gb.1 _ (by simp [R.semCount]; omega))
  · rw [hcountb, Ctl.get_of_rd (f := F.semCountCount d.1) (ga.1 _ (by simp [R.semCount]; omega))]

/-! HALT. -/

/-- The end of an item of a host job is kept with the host's jobs alone. -/
theorem itemEnd_host (c : Ctl) (t : Task) (e : ItemEnd) : ∃ h, c.itemEnd t e = { c with host := h } := by
  unfold Ctl.itemEnd
  split
  · exact ⟨_, rfl⟩
  · split <;> exact ⟨_, rfl⟩

/-- A core that its task leaves: idle, the task's owner remembered; the registers, the other cores and the register files stay. -/
theorem leaveCore_frame {c : Ctl} {q : Nat} {t : Task} (h : (c.core q).task = some t) (stopped : Bool) :
    (c.leaveCore q stopped).regs = c.regs ∧
    (c.leaveCore q stopped).core q = { CoreSt.idle with prevOwner := t.owner, stopped := stopped } ∧
    (∀ p, p ≠ q → (c.leaveCore q stopped).core p = c.core p) ∧
    (c.leaveCore q stopped).fab.sregs = c.fab.sregs ∧ (c.leaveCore q stopped).fab.vregs = c.fab.vregs ∧
    (c.leaveCore q stopped).fab.pregs = c.fab.pregs ∧ (c.leaveCore q stopped).fab.aregs = c.fab.aregs := by
  unfold Ctl.leaveCore
  rw [h]
  dsimp only
  refine ⟨?_, Ctl.core_coreSet_self .., fun p hp => ?_, ?_, ?_, ?_, ?_⟩
  · split <;> rfl
  · rw [Ctl.core_coreSet, if_neg hp]
    split <;> rfl
  all_goals split <;> rfl

/-- The controllers as HALT's FENCE leaves them on a drained core: nothing flushed, the bundle to halt. -/
def fencedHalt (s : State) (x : At) (i : Issued) : Ctl :=
  ((begun s x i).ctl.gatherSet x.n ((begun s x i).ctl.gather x.n)).coreSet x.q { (begun s x i).ctl.core x.q with halting := true }

theorem fencedHalt_core (s : State) (x : At) (i : Issued) (q : Nat) :
    (fencedHalt s x i).core q = if q = x.q then { s.hw.ctl.core x.q with
      staged := [], nextPc := (x.pc + 1) % 4096, halting := true, nacked := false, waited := false } else s.hw.ctl.core q := by
  unfold fencedHalt
  rw [Ctl.core_coreSet, begun_core, if_pos rfl]
  by_cases hq : q = x.q
  · rw [if_pos hq, if_pos hq]
  · rw [if_neg hq, if_neg hq, Ctl.core_gatherSet, begun_core, if_neg hq]

theorem fencedHalt_files (s : State) (x : At) (i : Issued) : (fencedHalt s x i).fab.sregs = s.hw.ctl.fab.sregs ∧
    (fencedHalt s x i).fab.vregs = s.hw.ctl.fab.vregs ∧ (fencedHalt s x i).fab.pregs = s.hw.ctl.fab.pregs ∧
    (fencedHalt s x i).fab.aregs = s.hw.ctl.fab.aregs := begun_files s x i

theorem fencedHalt_rd (s : State) (x : At) (i : Issued) {a : Nat} (h : a < 0x78000) : (fencedHalt s x i).rd a = s.hw.ctl.rd a := by
  obtain ⟨-, hissue⟩ := coreAddr_ge x
  exact begun_rd s x i (by omega) (by unfold R.dbgSat; omega)

/-- A HALT under its guard, on a drained core, acts on the controllers alone. -/
theorem fx_halt {s : State} {x : At} {sl : Slot} (hg : s.hw.ctl.guard0 x.q sl = true) (hd : Drained s x.n x.k) :
    fx (begun s x ⟨.halt, sl⟩) x ⟨.halt, sl⟩ (begun s x ⟨.halt, sl⟩) =
      (begun s x ⟨.halt, sl⟩).on (fun _ => fencedHalt s x ⟨.halt, sl⟩) := by
  show fxHalt _ _ _ _ = _
  unfold fxHalt gated
  rw [begun_guard0, if_pos hg]
  dsimp only
  rw [fence_begun hd, W.on_on]
  exact W.on_at _ _

/-- What the end of the task of x leaves, its completion signals going to two plain semaphores: their counts alone of the registers of
the fence before it, an idle core that remembers the owner, the other cores and the register files as they were (R185). -/
theorem taskDone_plain {c : Ctl} {q k : Nat} {t : Task} {a b : Nat × Nat × Bool} (hq : (c.core q).task = some t) (ht : t.done = [a, b])
    (hab : a.1 ≠ b.1) (ha : a.1 < 256) (hb : b.1 < 256) (hpa : c.plainSem a.1) (hpb : c.plainSem b.1) :
    RegsBut [R.semCount a.1, R.semCount b.1] c (c.taskDone q k t) ∧
    (∀ d, d = a ∨ d = b → (c.taskDone q k t).get (F.semCountCount d.1) =
      min (c.get (F.semCountCount d.1) + if d.2.2 then d.2.1 else 0) 65535) ∧
    (c.taskDone q k t).core q = { CoreSt.idle with prevOwner := t.owner, stopped := false } ∧
    (∀ p, p ≠ q → (c.taskDone q k t).core p = c.core p) ∧
    (c.taskDone q k t).fab.sregs = c.fab.sregs ∧ (c.taskDone q k t).fab.vregs = c.fab.vregs ∧
    (c.taskDone q k t).fab.pregs = c.fab.pregs ∧ (c.taskDone q k t).fab.aregs = c.fab.aregs := by
  obtain ⟨⟨hrd, r, hr⟩, hcount⟩ := doneSignals_plain ht hab ha hb hpa hpb k
  obtain ⟨h, hi⟩ := itemEnd_host (c.doneSignals t k) t .completed
  unfold Ctl.taskDone
  rw [hi]
  rw [hr] at hrd hcount ⊢
  obtain ⟨hregs, hself, hothers, hfiles⟩ := leaveCore_frame (c := { c with regs := r, host := h }) (q := q) hq false
  exact ⟨fun x hx => (Ctl.rd_of_regs hregs x).trans (hrd x hx), fun d hd => (Ctl.get_of_regs hregs _).trans (hcount d hd),
    hself, hothers, hfiles⟩

/-! The statement. -/

/-- TAGW, by `tagw_completes` and what the write leaves at its slot. -/
theorem exec_tagw {k : Fin 128} {sl : Slot} {s : State} {x : At} (hk : x.k = k.val) (hg : s.hw.ctl.guard0 x.q sl = true)
    (hd : Drained s x.n x.k) {o j : Nat} (hi : Issues s x ⟨.tagw, sl⟩) (ho : o < 24) (hj : j < 64)
    (ht : (begun s x ⟨.tagw, sl⟩).ctl.tagSlot x.q x.k x.t ⟨.tagw, sl⟩ = some (o, j)) :
    Completes (exec (.tagw k sl) s) (fun t => t.hw.mem = s.hw.mem ∧ t.pending = s.pending ∧ Done x (x.pc + 1) t ∧
      SameS s t ∧ SameV s t ∧ SameA s t ∧ SameP s t ∧ (t.hw.ctl.core x.q).task = some { x.t with inCommit := true } ∧
      (∀ q, q ≠ x.q → t.hw.ctl.core q = s.hw.ctl.core q) ∧
      (∀ p i, i < 64 → ¬(p = o ∧ i = j) → t.hw.ctl.tag p i = s.hw.ctl.tag p i) ∧ TagLeft s x sl o j t) := by
  have hrun := tagw_completes hi hg hd ht
  rw [hk] at hrun
  obtain ⟨hsr, hvr, hpr, har⟩ := fenced_files hi.core ⟨.tagw, sl⟩
  have hcore (q : Nat) : (((fenced s x ⟨.tagw, sl⟩).tagWrite x (s.hw.ctl.sreg x.q sl.b.val) o j).put
      (F.stdCorePcPc x.n (x.q % 8)) ((x.pc + 1) % 4096)).core q = _ := (Ctl.core_tagWrite ..).trans (fenced_core hi.core ⟨.tagw, sl⟩ q)
  have hfab := Ctl.fab_tagWrite (fenced s x ⟨.tagw, sl⟩) x (s.hw.ctl.sreg x.q sl.b.val) o j
  refine ⟨_, hrun, rfl, rfl, ⟨?_, ?_⟩, ?_, ?_, ?_, ?_, ?_, fun q hq => (hcore q).trans (if_neg hq), tagWrite_left hi.core ho hj rfl⟩
  · exact (Ctl.get_put_self _ (F.stdCorePcPc x.n (x.q % 8)) _ (by simp)).trans (Nat.mod_mod _ _)
  · rw [hcore, if_pos rfl]; exact hi.waits
  · exact (congrArg Fab.sregs hfab).trans hsr
  · exact (congrArg Fab.vregs hfab).trans hvr
  · exact (congrArg Fab.aregs hfab).trans har
  · exact (congrArg Fab.pregs hfab).trans hpr
  · rw [hcore, if_pos rfl]

/-- HALT, by `slot_halts` and what the end of the task leaves. -/
theorem exec_halt {k : Fin 128} {sl : Slot} {s : State} {x : At} (hk : x.k = k.val) (hg : s.hw.ctl.guard0 x.q sl = true)
    (hd : Drained s x.n x.k) {a b : Nat × Nat × Bool} (hi : Issues s x ⟨.halt, sl⟩) (hshed : s.hw.ctl.on F.phcCurStatusShed = false)
    (hdone : x.t.done = [a, b]) (hab : a.1 ≠ b.1) (ha : a.1 < 256) (hb : b.1 < 256) (hpa : s.hw.ctl.plainSem a.1)
    (hpb : s.hw.ctl.plainSem b.1) :
    Completes (exec (.halt k sl) s) (fun t => t.hw.mem = s.hw.mem ∧ t.pending = s.pending ∧
      (t.hw.ctl.core x.q).task = none ∧ (t.hw.ctl.core x.q).prevOwner = x.t.owner ∧ (t.hw.ctl.core x.q).waiting = [] ∧
      (t.hw.ctl.core x.q).stopped = false ∧ (∀ q, q ≠ x.q → t.hw.ctl.core q = s.hw.ctl.core q) ∧
      (∀ d, d = a ∨ d = b → t.hw.ctl.get (F.semCountCount d.1) =
        min (s.hw.ctl.get (F.semCountCount d.1) + if d.2.2 then d.2.1 else 0) 65535) ∧
      SameS s t ∧ SameV s t ∧ SameA s t ∧ SameP s t) := by
  obtain ⟨-, hq, htask, -, -⟩ := atCore_q hi.core
  have hcore := fencedHalt_core s x ⟨.halt, sl⟩
  have hself := (hcore x.q).trans (if_pos rfl)
  have hplain {sem : Nat} (h : s.hw.ctl.plainSem sem) : (fencedHalt s x ⟨.halt, sl⟩).plainSem sem :=
    plainSem_of_rd (fun r hr => fencedHalt_rd s x _ (by unfold linkAddr at hr; omega)) h
  obtain ⟨hrd, hcount, hidle, hothers, hsr, hvr, hpr, har⟩ :=
    taskDone_plain (k := x.k) (c := fencedHalt s x ⟨.halt, sl⟩) (by rw [hself]; exact htask) hdone hab ha hb (hplain hpa) (hplain hpb)
  obtain ⟨bsr, bvr, bpr, bar⟩ := fencedHalt_files s x ⟨.halt, sl⟩
  have hnoshed : ((fencedHalt s x ⟨.halt, sl⟩).taskDone x.q x.k x.t).on F.phcCurStatusShed = false := by
    rw [← hshed]
    have hsem : R.phcCurStatus ∉ [R.semCount a.1, R.semCount b.1] := by
      simp only [List.mem_cons, List.not_mem_nil, or_false, R.phcCurStatus, R.semCount]
      omega
    exact Ctl.on_of_rd (f := F.phcCurStatusShed) ((hrd _ hsem).trans (begun_rd s x _ (curStatus_ne_issueAddr hq) (by decide)))
  have hrun := (congrArg (fun j => onHw s (fun w => w.slot j ⟨.halt, sl⟩)) hk.symm).trans
    (slot_halts hi (fx_halt hg hd) (by rw [hself]; exact hi.waits) (by rw [hself]) hnoshed)
  refine ⟨_, hrun, rfl, rfl, ?_, ?_, ?_, ?_, fun q hne => ?_, fun d hd => ?_, hsr.trans bsr, hvr.trans bvr, har.trans bar, hpr.trans bpr⟩
  · exact congrArg CoreSt.task hidle
  · exact congrArg CoreSt.prevOwner hidle
  · exact congrArg CoreSt.waiting hidle
  · exact congrArg CoreSt.stopped hidle
  · exact (hothers q hne).trans ((hcore q).trans (if_neg hne))
  · have hlt : R.semCount d.1 < 0x78000 := by rcases hd with rfl | rfl <;> (unfold R.semCount; omega)
    exact (hcount d hd).trans (by rw [Ctl.get_of_rd (f := F.semCountCount d.1) (fencedHalt_rd s x _ hlt)])

/-- Settles O21: TAGW by its slot's tag, HALT by the end of its task. -/
theorem tagAndHalt : Obligations.TagAndHalt := by
  unfold Obligations.TagAndHalt
  intro k sl s x hk hg hd
  exact ⟨fun o j hi ho hj ht => exec_tagw hk hg hd hi ho hj ht,
    fun a b hi hshed hdone hab ha hb hpa hpb => exec_halt hk hg hd hi hshed hdone hab ha hb hpa hpb⟩

end Sys2Proof.Machine
end

section
/-! Source selection at a deadline (01_raster_contract.md R30 … R38, Table 1.4): what the services of a deadline other than its choice
may touch, what a fallback counts, and the choice by the rows of Table 1.4. -/

namespace Sys2Proof.Machine

/-! What the services of a deadline leave alone. -/

/-- The registers that the services of a deadline may write besides the fallback counters: those of a posting, SLACK, SLACK_NEG and
FB_LAST of an output, MISS of a stream context, semaphores, channels and slot rings, detections and line-cache counts of Canopy. -/
def serviceAddr (a : Nat) : Bool :=
  postAddr a || decide (0x50000 ≤ a ∧ a < 0x50600 ∧ (a % 0x40 = 0x18 ∨ a % 0x40 = 0x20 ∨ a % 0x40 = 0x24)) ||
    decide (0x41000 ≤ a ∧ a < 0x42000 ∧ a % 0x80 = 0x38) || decide (0x70000 ≤ a ∧ a < 0x78000) ||
    decide (0x100000 ≤ a ∧ a < 0x100040)

/-- d is c but for what the services of a deadline may change: of the registers those of `serviceAddr` and of a list; the tags, the
frame number of every output, and of its raster engine the line drained last, the egress buffer and Lintel's output buffer stay. -/
structure Served (l : List Nat) (c d : Ctl) : Prop where
  rd : ∀ a, serviceAddr a = false → a ∉ l → d.rd a = c.rd a
  tags : d.ras.tags = c.ras.tags
  frame : ∀ o, (d.vc o).frame = (c.vc o).frame
  drained : ∀ o, (d.rc o).drained = (c.rc o).drained
  lintelOut : ∀ o, (d.rc o).lintelOut = (c.rc o).lintelOut
  egress : ∀ o, (d.rc o).egress = (c.rc o).egress

theorem Served.refl (l : List Nat) (c : Ctl) : Served l c c :=
  ⟨fun _ _ _ => rfl, rfl, fun _ => rfl, fun _ => rfl, fun _ => rfl, fun _ => rfl⟩

theorem Served.trans {l : List Nat} {c d e : Ctl} (h : Served l c d) (g : Served l d e) : Served l c e :=
  ⟨fun a ha hl => (g.rd a ha hl).trans (h.rd a ha hl), g.tags.trans h.tags, fun o => (g.frame o).trans (h.frame o),
    fun o => (g.drained o).trans (h.drained o), fun o => (g.lintelOut o).trans (h.lintelOut o),
    fun o => (g.egress o).trans (h.egress o)⟩

theorem Served.mono {c d : Ctl} (l : List Nat) (h : Served [] c d) : Served l c d :=
  ⟨fun a ha _ => h.rd a ha List.not_mem_nil, h.tags, h.frame, h.drained, h.lintelOut, h.egress⟩

/-- A field whose register the services leave reads as before. -/
theorem Served.get {l : List Nat} {c d : Ctl} (h : Served l c d) {f : Fld} (hf : serviceAddr f.addr = false) (hl : f.addr ∉ l) :
    d.get f = c.get f := Ctl.get_of_rd (h.rd _ hf hl)

/-- A change of neither the contexts nor the raster, its registers among those of the services. -/
theorem Served.of_parts {l : List Nat} {c d : Ctl} (hrd : ∀ a, serviceAddr a = false → a ∉ l → d.rd a = c.rd a)
    (hras : d.ras = c.ras) (hvid : d.vid = c.vid) : Served l c d := by
  refine ⟨hrd, by rw [hras], fun o => ?_, fun o => ?_, fun o => ?_, fun o => ?_⟩ <;> simp only [Ctl.vc, Ctl.rc, hras, hvid]

theorem postAddr_of_service {a : Nat} (h : serviceAddr a = false) : postAddr a = false := by
  unfold serviceAddr at h
  cases hp : postAddr a with
  | false => rfl
  | true => simp [hp] at h

theorem Posted.served {c d : Ctl} (h : Posted c d) : Served [] c d :=
  .of_parts (fun a ha _ => h.rd a (postAddr_of_service ha)) h.ras h.vid

theorem OnlyRegs.served {l : List Nat} {c d : Ctl} (h : OnlyRegs l c d) : Served l c d := by
  obtain ⟨hrd, r, rfl⟩ := h
  exact .of_parts (fun a _ hl => hrd a hl) rfl rfl

theorem served_foldl {α : Type} (l : List α) (f : Ctl → α → Ctl) (h : ∀ a ∈ l, ∀ c, Served [] c (f c a)) :
    ∀ c, Served [] c (l.foldl f c) := by
  induction l with
  | nil => exact Served.refl []
  | cons a t ih =>
    intro c
    exact (h a List.mem_cons_self c).trans (ih (fun b hb => h b (List.mem_cons_of_mem _ hb)) _)

theorem served_forN (n : Nat) (f : Nat → Ctl → Ctl) (h : ∀ i c, Served [] c (f i c)) (c : Ctl) : Served [] c (forN n f c) :=
  served_foldl _ _ (fun i _ c => h i c) c

theorem served_wr (c : Ctl) (a : Nat) (v : Word) (h : serviceAddr a = true) : Served [] c (c.wr a v) := by
  refine .of_parts (fun b hb _ => Ctl.rd_wr_ne c v ?_) rfl rfl
  rintro rfl
  rw [h] at hb
  exact absurd hb (by decide)

theorem served_put (c : Ctl) (f : Fld) (v : Nat) (h : serviceAddr f.addr = true) : Served [] c (c.put f v) := served_wr c _ _ h

/-- A counter outside the list of the services: it and DBG_SAT are all that is written (R494). -/
theorem served_bump_list (c : Ctl) (f : Fld) (n : Nat) : Served [f.addr] c (c.bump f n) := by
  obtain ⟨r, hr⟩ := Ctl.bump_eq c f n
  refine .of_parts (fun a ha hl => Ctl.rd_bump_ne c f n (by simpa using hl) ?_) (by rw [hr]) (by rw [hr])
  rintro rfl
  exact absurd ha (by decide)

theorem served_bump (c : Ctl) (f : Fld) (n : Nat) (h : serviceAddr f.addr = true) : Served [] c (c.bump f n) := by
  have hb := served_bump_list c f n
  refine ⟨fun a ha _ => hb.rd a ha ?_, hb.tags, hb.frame, hb.drained, hb.lintelOut, hb.egress⟩
  simp only [List.mem_singleton]
  rintro rfl
  rw [h] at ha
  exact absurd ha (by decide)

/-- A change of an output's raster engine that keeps its line drained last, its egress buffer and Lintel's output buffer. -/
theorem served_rcMod (c : Ctl) (s : Nat) (f : RCtx → RCtx) (hd : ∀ r, (f r).drained = r.drained) (hl : ∀ r, (f r).lintelOut = r.lintelOut)
    (he : ∀ r, (f r).egress = r.egress) : Served [] c (c.rcMod s f) := by
  unfold Ctl.rcMod
  refine ⟨fun _ _ _ => rfl, rfl, fun _ => rfl, fun o => ?_, fun o => ?_, fun o => ?_⟩ <;> rw [Ctl.rc_rcSet] <;> split
  · rename_i h; rw [h, hd]
  · rfl
  · rename_i h; rw [h, hl]
  · rfl
  · rename_i h; rw [h, he]
  · rfl

/-- A change of a stream context that keeps its frame number. -/
theorem served_vcSet (c : Ctl) (s : Nat) (v : VCtx) (hv : v.frame = (c.vc s).frame) : Served [] c (c.vcSet s v) := by
  refine ⟨fun _ _ _ => rfl, rfl, fun o => ?_, fun _ => rfl, fun _ => rfl, fun _ => rfl⟩
  rw [Ctl.vc_vcSet]
  split
  · rename_i h; rw [hv, h]
  · rfl

/-! Slack (R69, R70). -/

theorem served_slackRecord (c : Ctl) {s : Nat} (hs : s < 24) (x : Int) : Served [] c (c.slackRecord s x) := by
  have hlast : Served [] c (c.put (F.rasSlackLast s) (ofSigned 16 x)) := served_put c _ _ (by simp [serviceAddr, R.rasSlack]; omega)
  unfold Ctl.slackRecord
  dsimp only
  have hmin := hlast.trans (served_rcMod (c.put (F.rasSlackLast s) (ofSigned 16 x)) s (fun r =>
    { r with runMin := some (min x (r.runMin.getD x)), negLine := r.negLine || decide (x < 0) }) (fun _ => rfl) (fun _ => rfl)
    (fun _ => rfl))
  split
  · exact hmin.trans (served_bump _ _ 1 (by simp [serviceAddr, R.rasSlackNeg]; omega))
  · exact hmin

theorem served_slackLine (c : Ctl) {s : Nat} (hs : s < 24) (m : Nat) : Served [] c (c.slackLine s m) := by
  unfold Ctl.slackLine
  dsimp only
  split
  · split
    · exact Served.refl [] c
    · exact served_slackRecord c hs _
  · split
    · exact Served.refl [] c
    · exact served_slackRecord c hs _

/-! Fallback (R37, R38). -/

/-- The counter of a fallback's cause (R37). -/
def fbCounter (s cause : Nat) : Fld :=
  match cause with
  | 3 => F.rasFbDetCount s
  | 4 => F.rasFbStandCount s
  | _ => F.rasFbLateCount s

/-- What a fallback records besides its count: FB_LAST (R38), and LINE_FALLBACK for the frame's first where FB_EVENT_EN is 1 (R37). -/
def Ctl.fbRecord (c : Ctl) (s m : Nat) (frame : Word) (cause stand : Nat) : Ctl :=
  let c := (((c.put (F.rasFbLastStand s) stand).put (F.rasFbLastLine s) m).put (F.rasFbLastFrame s) frame.toNat).put (F.rasFbLastCause s) cause
  let first := !(c.rc s).fbPosted
  let c := c.rcMod s (fun r => { r with fbPosted := true })
  if c.on (F.rasPolicyFbEventEn s) && first then c.event evLineFallback (0x0200 + s) frame (w32 (m + 65536 * cause)) else c

theorem Ctl.fallback_eq (c : Ctl) (s m : Nat) (frame : Word) (cause stand : Nat) :
    c.fallback s m frame cause stand = (c.bump (fbCounter s cause) 1).fbRecord s m frame cause stand := by
  unfold Ctl.fallback
  rcases cause with _ | _ | _ | _ | _ | n <;> rfl

theorem served_fbRecord (c : Ctl) {s : Nat} (hs : s < 24) (m : Nat) (frame : Word) (cause stand : Nat) :
    Served [] c (c.fbRecord s m frame cause stand) := by
  have hlast : serviceAddr (R.rasFbLast s) = true := by simp [serviceAddr, R.rasFbLast]; omega
  unfold Ctl.fbRecord
  dsimp only
  have hput := (((served_put c (F.rasFbLastStand s) stand hlast).trans (served_put _ (F.rasFbLastLine s) m hlast)).trans
    (served_put _ (F.rasFbLastFrame s) frame.toNat hlast)).trans (served_put _ (F.rasFbLastCause s) cause hlast)
  have hposted := hput.trans (served_rcMod _ s (fun r => { r with fbPosted := true }) (fun _ => rfl) (fun _ => rfl) (fun _ => rfl))
  split
  · exact hposted.trans (posted_event _ _ _ _ _ (by decide)).served
  · exact hposted

/-! The neural line (R157, R176, R213, R239). -/

/-- A flush's registers are among those of the services. -/
theorem Flushed.served {c d : Ctl} (h : Flushed c d) : Served [] c d := by
  refine .of_parts (fun a ha _ => h.rd a (postAddr_of_service ha) fun hl => ?_) h.units.ras h.units.vid
  have hall : ∀ b ∈ flushRegs, serviceAddr b = true := by decide
  rw [hall a hl] at ha
  exact absurd ha (by decide)

theorem served_cnp (c : Ctl) (x : Cnp) : Served [] c { c with cnp := x } := .of_parts (fun _ _ _ => rfl) rfl rfl
theorem served_fab (c : Ctl) (x : Fab) : Served [] c { c with fab := x } := .of_parts (fun _ _ _ => rfl) rfl rfl
theorem served_hng (c : Ctl) (x : Hng) : Served [] c { c with hng := x } := .of_parts (fun _ _ _ => rfl) rfl rfl
theorem served_free (c : Ctl) (x : Nat) : Served [] c { c with free := x } := .of_parts (fun _ _ _ => rfl) rfl rfl

theorem served_lcTouch (c : Ctl) (addr : Nat) (core dirty : Bool) : Served [] c (c.lcTouch addr core dirty) := by
  have hcount (d : Ctl) (b : Bool) (f : Fld) (hf : serviceAddr f.addr = true) : Served [] d (if b = true then d.bump f 1 else d) := by
    split
    · exact served_bump d f 1 hf
    · exact Served.refl [] d
  unfold Ctl.lcTouch
  dsimp only
  split
  · exact Served.refl [] c
  · split
    · exact (hcount c core F.cnpLcHitCount (by decide)).trans (served_cnp _ _)
    · have hmiss := hcount c core F.cnpLcMissCount (by decide)
      generalize (if core = true then c.bump F.cnpLcMissCount 1 else c) = d at hmiss ⊢
      refine Served.trans ?_ (served_cnp _ _)
      refine hmiss.trans ?_
      split
      · split
        · rename_i v _
          exact (hcount d v.dirty F.cnpLcWbCount (by decide)).trans (served_cnp _ _)
        · exact Served.refl [] d
      · exact Served.refl [] d

theorem served_lcUnit (c : Ctl) (key n : Nat) (dirty : Bool) : Served [] c (c.lcUnit key n dirty) := by
  unfold Ctl.lcUnit Ctl.lcSpan
  split
  · split
    · exact Served.refl [] c
    · exact served_forN _ _ (fun _ _ => served_lcTouch _ _ _ _) c
  · exact Served.refl [] c

theorem served_detWord (c : Ctl) (acc : Bool) (key core h : Nat) : Served [] c (c.detWord acc key core h) := by
  unfold Ctl.detWord
  exact (flushed_detPost _ _ _ _ _).served

/-- What a unit's read does to the work area: it may detect a poisoned word (R176), then it passes the line-cache tags (R158). -/
theorem unitRead_fst (w : W) (k n : Nat) : ∃ v, (v = w ∨ ∃ j, v = w.on (fun c => c.detWord false j 0 0)) ∧
    (w.unitRead k n).1 = v.on (fun c => c.lcUnit k n false) := by
  cases hc : isCanopy k with
  | false => exact ⟨w, .inl rfl, by simp only [W.unitRead, hc]⟩
  | true =>
    cases hp : w.mem.poisonFirst k n with
    | none => exact ⟨w, .inl rfl, by simp only [W.unitRead, hc, hp]⟩
    | some j => exact ⟨_, .inr ⟨j, rfl⟩, by simp only [W.unitRead, hc, hp]⟩

theorem served_unitRead (w : W) (k n : Nat) : Served [] w.ctl (w.unitRead k n).1.ctl ∧ (w.unitRead k n).1.acts = w.acts := by
  obtain ⟨v, hv, h⟩ := unitRead_fst w k n
  rw [h, W.on_ctl, W.on_acts]
  rcases hv with rfl | ⟨j, rfl⟩
  · exact ⟨served_lcUnit _ k n false, rfl⟩
  · rw [W.on_ctl, W.on_acts]
    exact ⟨(served_detWord w.ctl false j 0 0).trans (served_lcUnit _ k n false), rfl⟩

theorem served_neuralLine (w : W) (s i : Nat) : Served [] w.ctl (w.neuralLine s i).1.ctl ∧ (w.neuralLine s i).1.acts = w.acts := by
  unfold W.neuralLine
  dsimp only
  split
  · exact ⟨served_free _ _, rfl⟩
  · obtain ⟨hserved, hacts⟩ := served_unitRead w (w.ctl.hKey (w.ctl.get (F.stcRingHandle s)) (i * w.ctl.outSlot s))
      (6 * w.ctl.get (F.stcGeomHact s))
    exact ⟨hserved.trans (served_fab _ _), hacts⟩

/-! The planes' lines (R102). -/

/-- A fold that carries a value beside the controllers. -/
theorem served_foldl_fst {α β : Type} (l : List α) (f : Ctl × β → α → Ctl × β) (h : ∀ a ∈ l, ∀ q, Served [] q.1 (f q a).1) :
    ∀ q, Served [] q.1 (l.foldl f q).1 := by
  induction l with
  | nil => exact fun q => Served.refl [] q.1
  | cons a t ih =>
    intro q
    exact (h a List.mem_cons_self q).trans (ih (fun b hb => h b (List.mem_cons_of_mem _ hb)) _)

theorem planesOn_lt {c : Ctl} {s p : Nat} (h : p ∈ c.planesOn s) : p < 24 := by
  unfold Ctl.planesOn at h
  obtain ⟨_, _, hp⟩ := List.mem_flatMap.mp h
  exact List.mem_range.mp (List.mem_filter.mp hp).1

theorem served_planesTake (c : Ctl) (s m : Nat) : Served [] c (c.planesTake s m).1 := by
  unfold Ctl.planesTake
  refine served_foldl_fst _ _ (fun p hp q => ?_) (c, [])
  obtain ⟨d, l⟩ := q
  dsimp only
  split
  · exact served_vcSet d p _ rfl
  · have hp24 := planesOn_lt hp
    exact served_bump d (F.stcMissPlaneLate p) 1 (by simp [serviceAddr, R.stcMiss]; omega)
  · exact Served.refl [] d

/-! The slot's drain (R31, R198, R205 … R207). -/

theorem Served.event {c d : Ctl} (h : Served [] c d) {code : Nat} (hcode : code < 0x1000) (src : Nat) (a0 a1 : Word) :
    Served [] c (d.event code src a0 a1) := h.trans (posted_event d code src a0 a1 hcode).served

/-- A register of the window of semaphores, channels and slot rings. -/
theorem serviceAddr_fabric {a : Nat} (h : 0x70000 ≤ a) (h' : a < 0x78000) : serviceAddr a = true := by
  simp [serviceAddr, h, h']

theorem served_slotUnder_ring (c : Ctl) {r : Nat} (hr : r < 128) (i core : Nat) : Served [] c (c.slotUnder (.ring r i) core) := by
  have hcount := served_bump c (F.chnSrUnderCount r) 1 (serviceAddr_fabric (by simp [R.chnSrUnder]; omega) (by simp [R.chnSrUnder]; omega))
  unfold Ctl.slotUnder
  dsimp only
  split
  · exact hcount
  · exact (hcount.trans (served_fab _ _)).event (by decide) _ _ _

theorem served_slotUnder_line (c : Ctl) {s : Nat} (hs : s < 24) (i core : Nat) : Served [] c (c.slotUnder (.line s i) core) := by
  have hcount := served_bump c (F.chnStrmUnderCount s) 1
    (serviceAddr_fabric (by simp [R.chnStrmUnder]; omega) (by simp [R.chnStrmUnder]; omega))
  unfold Ctl.slotUnder
  dsimp only
  split
  · exact hcount
  · exact (hcount.trans (served_fab _ _)).event (by decide) _ _ _

theorem served_slotOver_ring (c : Ctl) {r : Nat} (hr : r < 128) (i core : Nat) : Served [] c (c.slotOver (.ring r i) core) := by
  have hcount := served_bump c (F.chnSrOverCount r) 1 (serviceAddr_fabric (by simp [R.chnSrOver]; omega) (by simp [R.chnSrOver]; omega))
  unfold Ctl.slotOver
  dsimp only
  split
  · exact hcount
  · exact (hcount.trans (served_fab _ _)).event (by decide) _ _ _

theorem served_fillOne (c : Ctl) {r : Nat} (hr : r < 128) (core : Nat) : Served [] c (c.fillOne r core) := by
  have hst : serviceAddr (R.chnSrState r) = true := serviceAddr_fabric (by unfold R.chnSrState; omega) (by unfold R.chnSrState; omega)
  have hput (x y : Nat) := (served_put c (F.chnSrStateFill r) x hst).trans (served_put _ (F.chnSrStateTail r) y hst)
  unfold Ctl.fillOne
  dsimp only
  split
  · exact (hput _ _).trans (served_slotOver_ring _ hr _ core)
  · exact hput _ _

theorem served_drainOne (c : Ctl) {r : Nat} (hr : r < 128) (core : Nat) : Served [] c (c.drainOne r core) := by
  have hst : serviceAddr (R.chnSrState r) = true := serviceAddr_fabric (by unfold R.chnSrState; omega) (by unfold R.chnSrState; omega)
  have hput (x y : Nat) := (served_put c (F.chnSrStateFill r) x hst).trans (served_put _ (F.chnSrStateHead r) y hst)
  unfold Ctl.drainOne
  dsimp only
  split
  · exact hput _ _
  · exact (hput _ _).trans (served_slotUnder_ring _ hr _ core)

theorem served_drainLine (c : Ctl) {s : Nat} (hs : s < 24) (core : Nat) : Served [] c (c.drainLine s core) := by
  unfold Ctl.drainLine
  dsimp only
  split
  · exact served_vcSet c s _ rfl
  · refine Served.trans ?_ (served_slotUnder_line _ hs _ core)
    exact served_vcSet c s _ rfl

theorem served_signalTags (c : Ctl) (sem n core : Nat) : Served [] c (c.signalTags sem n core) := by
  unfold Ctl.signalTags
  refine Served.trans (served_foldl (List.range 128) _ (fun r hr d => ?_) c) (served_foldl (List.range 24) _ (fun s hs d => ?_) _)
  · have hr := List.mem_range.mp hr
    split
    · exact Served.refl [] d
    · split
      · exact served_forN n _ (fun _ e => served_fillOne e hr core) d
      · split
        · exact served_forN n _ (fun _ e => served_drainOne e hr core) d
        · exact Served.refl [] d
  · have hs := List.mem_range.mp hs
    split
    · exact served_forN n _ (fun _ e => served_drainLine e hs core) d
    · exact Served.refl [] d

theorem served_signalHw (c : Ctl) {sem : Nat} (hs : sem < 256) (n : Nat) : Served [] c (c.signalHw sem n) := by
  have hsem : serviceAddr (R.semCount sem) = true := serviceAddr_fabric (by unfold R.semCount; omega) (by unfold R.semCount; omega)
  have hadd := (semAdd_onlyRegs c sem n).served
  refine Served.trans ⟨fun a ha _ => hadd.rd a ha ?_, hadd.tags, hadd.frame, hadd.drained, hadd.lintelOut, hadd.egress⟩
    (served_signalTags _ _ _ _)
  simp only [List.mem_singleton]
  rintro rfl
  rw [hsem] at ha
  exact absurd ha (by decide)

/-! The heartbeat (R380). -/

theorem served_hngTry (c : Ctl) (l : Nat) : Served [] c (c.hngTry l) := by
  have hemit (d : Ctl) (f : HngOut) : Served [] d (d.hngEmit l f) := by
    unfold Ctl.hngEmit
    dsimp only
    split
    · exact (served_hng d _).trans (posted_emit _ _).served
    · exact (posted_emit d _).served
  unfold Ctl.hngTry
  split
  · exact Served.refl [] c
  · split
    · exact (served_hng c _).trans (hemit _ _)
    · exact Served.refl [] c

theorem served_hngSend (c : Ctl) (l : Nat) (f : HngOut) : Served [] c (c.hngSend l f) := by
  unfold Ctl.hngSend
  split
  · exact Served.refl [] c
  · exact (served_hng c _).trans (served_forN _ _ (fun _ d => served_hngTry d l) _)

theorem served_heartbeatSend (c : Ctl) (s m : Nat) (e : Egress) : Served [] c (c.heartbeatSend s m e) := by
  unfold Ctl.heartbeatSend
  dsimp only
  have hsent (p : Bool) (f : HngOut) : Served [] c (if p = true then c.hngSend 0 f else c) := by
    split
    · exact served_hngSend c 0 f
    · exact Served.refl [] c
  have hlast (d : Ctl) (crc : Word) (x : Nat × Nat × Nat × Word) : Served [] d (if (!d.paired) = true then d
      else d.rcMod s (fun r => { r with lastCrc := crc, own := hbAdd r.own x })) := by
    split
    · exact Served.refl [] d
    · exact served_rcMod d s _ (fun _ => rfl) (fun _ => rfl) (fun _ => rfl)
  refine Served.trans ?_ (hlast _ _ _)
  exact hsent _ _

/-! The choice by Table 1.4. -/

/-- The rows of Table 1.4 that come before the tag's, outside split mode: black while the output locks, the input's loss policy, Lintel
under a shed or FORCE_LINTEL. -/
def Ctl.early (c : Ctl) (o : Nat) : Option LineSrc :=
  if (c.vc o).locked = false then some .black
  else if (c.lossOf o).1 = 2 ∧ (c.lossOf o).2 = 1 then some .lintel
  else if (c.lossOf o).1 = 2 ∧ (c.lossOf o).2 ≠ 2 then some .black
  else if c.on F.phcCurStatusShed = true ∨ c.on (F.rasPolicyForceLintel o) = true then some .lintel else none

/-- The choice outside split mode: one of those rows takes the line and does not count it (R33), or the tag's rows do. -/
theorem choose_cases {c : Ctl} {o : Nat} (hm : c.mode ≠ 2) (m : Nat) :
    (∃ src, c.early o = some src ∧ (c.choose o m).src = src ∧ (c.choose o m).counted = false) ∨
    (c.early o = none ∧ c.choose o m = c.rowsTag o m (c.vc o).frame ((c.lossOf o).1 == 0)) := by
  unfold Ctl.early Ctl.choose
  simp only [hm, false_and, if_false]
  cases hl : (c.vc o).locked with
  | false => exact .inl ⟨.black, rfl, rfl, rfl⟩
  | true =>
    simp only [Bool.not_true, Bool.false_eq_true, reduceCtorEq, if_false]
    by_cases h1 : (c.lossOf o).1 = 2 ∧ (c.lossOf o).2 = 1
    · rw [if_pos h1, if_pos h1]
      exact .inl ⟨.lintel, rfl, rfl, rfl⟩
    rw [if_neg h1, if_neg h1]
    by_cases h2 : (c.lossOf o).1 = 2 ∧ (c.lossOf o).2 ≠ 2
    · rw [if_pos h2, if_pos h2]
      exact .inl ⟨.black, rfl, rfl, rfl⟩
    rw [if_neg h2, if_neg h2]
    by_cases h3 : c.on F.phcCurStatusShed = true
    · rw [if_pos (.inl h3), if_pos h3]
      exact .inl ⟨.lintel, rfl, rfl, rfl⟩
    by_cases h4 : c.on (F.rasPolicyForceLintel o) = true
    · rw [if_pos (.inr h4), if_neg h3, if_pos h4]
      exact .inl ⟨.lintel, rfl, rfl, rfl⟩
    rw [if_neg (not_or.mpr ⟨h3, h4⟩), if_neg h3, if_neg h4]
    exact .inr ⟨rfl, rfl⟩

/-- Whether a tag is valid for line m of a frame, by the bits of the tag (R30). -/
theorem tagValid_eq (tag frame : Word) (m : Nat) : tagValid tag frame m =
    (tag.getLsbD 31 && decide (tag.toNat / 2 ^ 13 % 256 = frame.toNat % 256) && decide (tag.toNat % 2 ^ 13 = m)) := by
  simp [tagValid, fieldGet_eq, beq_eq_decide]

/-- The tag's rows of Table 1.4: not valid, BAD, of a FAILED stand, each Lintel with its cause and counter; else neural. -/
theorem rowsTag_cases (c : Ctl) (o m : Nat) (frame : Word) (counted : Bool) :
    let tag := c.tag o (c.slotOfLine o m)
    let stand := tag.toNat / 2 ^ 24 % 32
    let x := c.rowsTag o m frame counted
    (tagValid tag frame m = false ∧ x.src = .lintel ∧ x.counted = counted ∧ fbCounter o x.cause = F.rasFbLateCount o) ∨
    (tagValid tag frame m = true ∧ tag.getLsbD 30 = true ∧ x.src = .lintel ∧ x.counted = counted ∧
      fbCounter o x.cause = F.rasFbDetCount o) ∨
    (tagValid tag frame m = true ∧ tag.getLsbD 30 = false ∧ c.get (F.stdStateState stand) = 5 ∧ x.src = .lintel ∧ x.counted = counted ∧
      fbCounter o x.cause = F.rasFbStandCount o) ∨
    (tagValid tag frame m = true ∧ tag.getLsbD 30 = false ∧ c.get (F.stdStateState stand) ≠ 5 ∧ x.src = .neural ∧ x.counted = false) := by
  dsimp only
  unfold Ctl.rowsTag
  dsimp only
  cases hv : tagValid (c.tag o (c.slotOfLine o m)) frame m with
  | false =>
    refine .inl ⟨rfl, rfl, rfl, ?_⟩
    rw [if_pos (by decide)]
    dsimp only
    split <;> rfl
  | true =>
    rw [if_neg (by decide)]
    cases hb : (c.tag o (c.slotOfLine o m)).getLsbD 30 with
    | true => exact .inr (.inl ⟨rfl, rfl, rfl, rfl, rfl⟩)
    | false =>
      rw [if_neg (by decide), fieldGet_eq]
      by_cases hs : c.get (F.stdStateState ((c.tag o (c.slotOfLine o m)).toNat / 2 ^ 24 % 2 ^ 5)) = 5
      · rw [if_pos hs]
        exact .inr (.inr (.inl ⟨rfl, rfl, hs, rfl, rfl, rfl⟩))
      · rw [if_neg hs]
        exact .inr (.inr (.inr ⟨rfl, rfl, hs, rfl, rfl⟩))

/-! The deadline, stage by stage (R31, R33, R39). -/

/-- Slack and, for a choice that counts, the fallback (R37, R69). -/
def W.recorded (w : W) (s m : Nat) (frame : Word) (x : Choice) : W :=
  if x.counted then (w.on (fun c => c.slackLine s m)).on (fun c => c.fallback s m frame x.cause x.stand)
  else w.on (fun c => c.slackLine s m)

/-- The pixels of a source: the neural line of slot i, Lintel's line m, black. -/
def W.lineFrom (w : W) (s m i : Nat) (src : LineSrc) : W × Line :=
  match src with
  | .neural => w.neuralLine s i
  | .lintel => (w, (w.ctl.rc s).lintel m)
  | .black => (w, w.ctl.blackLine s)

/-- A line put last in the egress buffer, which keeps the two latest (R23). -/
def Ctl.egressPut (c : Ctl) (s m : Nat) (e : Egress) : Ctl :=
  c.rcMod s (fun r =>
    let l := r.egress.filter (fun (y : Egress) => y.m != m)
    { r with egress := (l ++ [e]).drop (l.length - 1) })

/-- The planes' lines taken, the slot drained, the line in the egress buffer, the heartbeat sent. -/
def Ctl.deadlineEnd (c : Ctl) (s m : Nat) (frame : Word) (x : Choice) (px : Line) : Ctl :=
  let (c, pl) := c.planesTake s m
  let c := c.slotDrain s m
  let e : Egress := { m := m, frame := frame, src := x.src, cause := x.cause, px := px, hbSrc := x.hb, await := false, planes := pl,
                      shut := (c.outTxs s).filter (fun t => c.on (F.phcShutClosed t)) }
  ((c.egressPut s m e).heartbeatSend s m e).splitJudge s m e

theorem W.deadline_eq (w : W) (s m : Nat) :
    w.deadline s m =
      let v := w.on (fun c => c.lintelReady s m)
      let x := v.ctl.choose s m
      let p := (v.recorded s m (v.ctl.vc s).frame x).lineFrom s m (v.ctl.slotOfLine s m) x.src
      p.1.on (fun c => c.deadlineEnd s m (v.ctl.vc s).frame x p.2) := by
  unfold W.deadline W.recorded W.lineFrom
  rfl

/-- Lintel's part of a deadline (R39) changes Lintel's output buffer alone: the choice, every register, every stream context and every
tag are as before. -/
theorem lintelReady_keeps (c : Ctl) (s m : Nat) : (c.lintelReady s m).choose s m = c.choose s m ∧
    (c.lintelReady s m).regs = c.regs ∧ (c.lintelReady s m).vid = c.vid ∧ (c.lintelReady s m).ras.tags = c.ras.tags := by
  unfold Ctl.lintelReady
  split
  · exact ⟨rfl, rfl, rfl, rfl⟩
  · exact ⟨rfl, rfl, rfl, rfl⟩

/-- The latest entries of a list that ends in the only one a test picks: the test still finds it. -/
theorem find_latest {α : Type} (p : α → Bool) (l : List α) (x : α) (n : Nat) (hl : ∀ y ∈ l, p y = false) (hx : p x = true) :
    ((l ++ [x]).drop ((l ++ [x]).length - (n + 1))).find? p = some x := by
  have hdrop : (l ++ [x]).length - (n + 1) ≤ l.length := by simp
  rw [List.drop_append_of_le_length hdrop, List.find?_append, List.find?_eq_none.mpr]
  · simp [hx]
  · intro y hy
    simp [hl y (List.mem_of_mem_drop hy)]

/-- Where Lintel's output buffer held no line m, it holds the one made from Lintel's store (R39, R40). -/
theorem lintelReady_lintel {c : Ctl} {s m : Nat} (h : ∀ p ∈ (c.rc s).lintelOut, p.1 ≠ m) :
    ((c.lintelReady s m).rc s).lintel m = c.lintelPx s m := by
  have hnone : (c.rc s).lintelOut.any (fun p => p.1 == m) = false := by
    simpa using h
  unfold Ctl.lintelReady
  rw [hnone, if_neg (by decide)]
  unfold Ctl.lintelPut Ctl.rcMod RCtx.lintel
  dsimp only
  rw [Ctl.rc_rcSet_self, find_latest (fun p => p.1 == m) _ (m, c.lintelPx s m) 15 (fun y hy => by simpa using (List.mem_filter.mp hy).2) (by simp)]

/-- What is recorded at a deadline: services, and the counter of the fallback's cause. -/
theorem served_recorded (w : W) {s : Nat} (hs : s < 24) (m : Nat) (frame : Word) (x : Choice) :
    Served [(fbCounter s x.cause).addr] w.ctl (w.recorded s m frame x).ctl ∧ (w.recorded s m frame x).acts = w.acts := by
  unfold W.recorded
  split
  · refine ⟨?_, rfl⟩
    rw [W.on_ctl, W.on_ctl, Ctl.fallback_eq]
    exact (((served_slackLine w.ctl hs m).mono _).trans (served_bump_list _ _ 1)).trans ((served_fbRecord _ hs m frame _ _).mono _)
  · exact ⟨(served_slackLine w.ctl hs m).mono _, rfl⟩

/-- The fallback counters (R37). -/
def fbCounters (s : Nat) : List Fld := [F.rasFbLateCount s, F.rasFbDetCount s, F.rasFbStandCount s]

theorem fbCounter_mem (s cause : Nat) : fbCounter s cause ∈ fbCounters s := by
  unfold fbCounter
  split <;> simp [fbCounters]

/-- The fallback counters are no registers of the services, each has a register of its own, and no other field. -/
theorem fbCounters_apart {s : Nat} (hs : s < 24) {f : Fld} (hf : f ∈ fbCounters s) :
    serviceAddr f.addr = false ∧ f.lo = 0 ∧ f.n = 32 ∧ ∀ g ∈ fbCounters s, g.addr = f.addr → g = f := by
  simp only [fbCounters, List.mem_cons, List.not_mem_nil, or_false] at hf
  have hfree (a : Nat) (h : a = R.rasFbLate s ∨ a = R.rasFbDet s ∨ a = R.rasFbStand s) : serviceAddr a = false := by
    simp only [R.rasFbLate, R.rasFbDet, R.rasFbStand] at h
    simp [serviceAddr, postAddr]
    omega
  have hinj : ∀ g ∈ fbCounters s, g.addr = f.addr → g = f := by
    simp only [fbCounters, List.forall_mem_cons]
    rcases hf with rfl | rfl | rfl <;> simp
  rcases hf with rfl | rfl | rfl
  · exact ⟨hfree _ (.inl rfl), rfl, rfl, hinj⟩
  · exact ⟨hfree _ (.inr (.inl rfl)), rfl, rfl, hinj⟩
  · exact ⟨hfree _ (.inr (.inr rfl)), rfl, rfl, hinj⟩

/-- Of the fallback counters a deadline raises that of the cause of a choice that counts, and no other. -/
theorem recorded_counts (w : W) {s : Nat} (hs : s < 24) (m : Nat) (frame : Word) (x : Choice) {f : Fld} (hf : f ∈ fbCounters s) :
    (w.recorded s m frame x).ctl.get f =
      if x.counted = true ∧ f = fbCounter s x.cause then min (w.ctl.get f + 1) (2 ^ f.n - 1) else w.ctl.get f := by
  obtain ⟨hfree, hlo, hn, hinj⟩ := fbCounters_apart hs hf
  have hslack := (served_slackLine w.ctl hs m).get hfree List.not_mem_nil
  unfold W.recorded
  cases x.counted with
  | false => exact hslack
  | true =>
    rw [if_pos rfl, W.on_ctl, W.on_ctl, Ctl.fallback_eq, (served_fbRecord _ hs m frame _ _).get hfree List.not_mem_nil]
    by_cases hc : f = fbCounter s x.cause
    · have hsat : f.addr ≠ R.dbgSat := by
        intro h
        rw [h] at hfree
        exact absurd hfree (by decide)
      rw [if_pos ⟨rfl, hc⟩, ← hc, Ctl.get_bump _ f 1 (by omega) hsat, hslack]
    · rw [if_neg (fun h => hc h.2)]
      have hne : f.addr ∉ [(fbCounter s x.cause).addr] := by
        simp only [List.mem_singleton]
        exact fun h => hc (hinj _ (fbCounter_mem s x.cause) h.symm).symm
      exact ((served_bump_list _ _ 1).get hfree hne).trans hslack

theorem served_lineFrom (w : W) (s m i : Nat) (src : LineSrc) :
    Served [] w.ctl (w.lineFrom s m i src).1.ctl ∧ (w.lineFrom s m i src).1.acts = w.acts := by
  cases src with
  | neural => exact served_neuralLine w s i
  | lintel => exact ⟨Served.refl [] _, rfl⟩
  | black => exact ⟨Served.refl [] _, rfl⟩

/-- The slot of line m marked as drained: its tag's VALID cleared, the line noted as drained last (R31). -/
def Ctl.drainMark (c : Ctl) (s m : Nat) : Ctl :=
  (c.tagSet s (c.slotOfLine s m) (c.tag s (c.slotOfLine s m) &&& 0x7FFFFFFF)).rcMod s
    (fun r => { r with drained := some ((c.vc s).frame, m) })

/-- SLOT_DRAIN marks the slot; the signal of the empty semaphore is a service (R31). -/
theorem served_slotDrain (c : Ctl) (s m : Nat) : Served [] (c.drainMark s m) (c.slotDrain s m) := by
  unfold Ctl.slotDrain
  exact served_signalHw _ (Nat.mod_lt _ (by decide)) 1

theorem drainMark_drained (c : Ctl) (s m : Nat) : ((c.drainMark s m).rc s).drained = some ((c.vc s).frame, m) := by
  unfold Ctl.drainMark Ctl.rcMod
  rw [Ctl.rc_rcSet_self]

/-- The VALID bit of a drained slot's tag is 0 (R31). -/
theorem drainMark_valid (c : Ctl) (s m : Nat) : ((c.drainMark s m).tag s (c.slotOfLine s m)).getLsbD 31 = false := by
  have htag : (c.drainMark s m).tag s (c.slotOfLine s m) = c.tag s (c.slotOfLine s m) &&& 0x7FFFFFFF := mget_mset_self _ _ _ _
  rw [htag, BitVec.getLsbD_and, show (0x7FFFFFFF : Word).getLsbD 31 = false by decide, Bool.and_false]

/-- The line just put is the last of the egress buffer. -/
theorem egressPut_last (c : Ctl) (s m : Nat) (e : Egress) : ((c.egressPut s m e).rc s).egress.getLast? = some e := by
  unfold Ctl.egressPut Ctl.rcMod
  rw [Ctl.rc_rcSet_self]
  dsimp only
  rw [List.drop_append_of_le_length (Nat.sub_le _ _), List.getLast?_concat]

theorem egressPut_drained (c : Ctl) (s m : Nat) (e : Egress) : ((c.egressPut s m e).rc s).drained = (c.rc s).drained := by
  unfold Ctl.egressPut Ctl.rcMod
  rw [Ctl.rc_rcSet_self]

/-- Outside split mode the line goes as it is. -/
theorem splitJudge_of_mode {c : Ctl} (h : c.mode ≠ 2) (s m : Nat) (e : Egress) : c.splitJudge s m e = c := if_pos (.inl h)

/-- What the end of a deadline leaves outside split mode: the line last in the egress buffer, its slot drained with VALID 0, the frame
number and every register that the services leave as before. -/
theorem deadlineEnd_leaves {c : Ctl} (hm : c.mode ≠ 2) {s : Nat} (hs : s < 24) (m : Nat) (frame : Word) (x : Choice) (px : Line) :
    (∃ e, ((c.deadlineEnd s m frame x px).rc s).egress.getLast? = some e ∧ e.m = m ∧ e.frame = frame ∧ e.src = x.src ∧ e.px = px) ∧
    ((c.deadlineEnd s m frame x px).rc s).drained = some ((c.vc s).frame, m) ∧
    ((c.deadlineEnd s m frame x px).tag s (c.slotOfLine s m)).getLsbD 31 = false ∧
    ((c.deadlineEnd s m frame x px).vc s).frame = (c.vc s).frame ∧
    ∀ a, serviceAddr a = false → (c.deadlineEnd s m frame x px).rd a = c.rd a := by
  have htake := served_planesTake c s m
  unfold Ctl.deadlineEnd
  generalize c.planesTake s m = q at htake ⊢
  obtain ⟨c1, pl⟩ := q
  dsimp only at htake ⊢
  have hdrain := served_slotDrain c1 s m
  generalize c1.slotDrain s m = c2 at hdrain ⊢
  generalize he : Egress.mk m frame x.src x.cause px x.hb false pl _ = e
  have hbeat := served_heartbeatSend (c2.egressPut s m e) s m e
  generalize (c2.egressPut s m e).heartbeatSend s m e = d at hbeat ⊢
  have hrd (a : Nat) (ha : serviceAddr a = false) : d.rd a = c.rd a :=
    (hbeat.rd a ha List.not_mem_nil).trans ((hdrain.rd a ha List.not_mem_nil).trans (htake.rd a ha List.not_mem_nil))
  have hmode : d.mode ≠ 2 := by
    rw [Ctl.mode, Ctl.get_of_rd (f := F.hngPairStatusMode) (hrd _ (by decide))]
    exact hm
  have hslot : c1.slotOfLine s m = c.slotOfLine s m := by
    rw [Ctl.slotOfLine, Ctl.slotOfLine, htake.get (f := F.stcRingDepth s) (by simp [serviceAddr, postAddr, R.stcRing]; omega) List.not_mem_nil]
  rw [splitJudge_of_mode hmode]
  refine ⟨⟨e, (congrArg List.getLast? (hbeat.egress s)).trans (egressPut_last c2 s m e), ?_, ?_, ?_, ?_⟩, ?_, ?_, ?_, hrd⟩
  · rw [← he]
  · rw [← he]
  · rw [← he]
  · rw [← he]
  · rw [hbeat.drained, egressPut_drained, hdrain.drained, drainMark_drained, htake.frame]
  · rw [← hslot, ← drainMark_valid c1 s m, Ctl.tag, Ctl.tag, hbeat.tags, ← hdrain.tags]
    rfl
  · rw [hbeat.frame, ← htake.frame]
    exact hdrain.frame s

/-- The fallback counters' registers. -/
def fbAddrs (s : Nat) : List Nat := (fbCounters s).map Fld.addr

/-- Black is made from the GEOM and FMT of its output. -/
theorem blackLine_of_rd {c d : Ctl} {s : Nat} (hgeom : d.rd (R.stcGeom s) = c.rd (R.stcGeom s)) (hfmt : d.rd (R.stcFmt s) = c.rd (R.stcFmt s)) :
    d.blackLine s = c.blackLine s := by
  unfold Ctl.blackLine Ctl.bpc Ctl.on
  dsimp only
  rw [Ctl.get_of_rd (f := F.stcGeomHact s) hgeom, Ctl.get_of_rd (f := F.stcFmtFull s) hfmt, Ctl.get_of_rd (f := F.stcFmtSamp s) hfmt,
    Ctl.get_of_rd (f := F.stcFmtBpc s) hfmt]

/-- A register of the table of stream contexts, MISS aside, that neither the services nor the fallback write. -/
theorem stcAddr_kept {s a : Nat} (h : 0x41000 ≤ a ∧ a < 0x42000 ∧ a % 0x80 ≠ 0x38) : serviceAddr a = false ∧ a ∉ fbAddrs s := by
  constructor
  · simp [serviceAddr, postAddr]
    omega
  · simp [fbAddrs, fbCounters, R.rasFbLate, R.rasFbDet, R.rasFbStand]
    omega

/-- The services and the fallback leave what black is made from. -/
theorem blackLine_served {c d : Ctl} {s : Nat} (hs : s < 24) (h : Served (fbAddrs s) c d) : d.blackLine s = c.blackLine s := by
  have hkept {a : Nat} (ha : 0x41000 ≤ a ∧ a < 0x42000 ∧ a % 0x80 ≠ 0x38) : d.rd a = c.rd a :=
    h.rd a (stcAddr_kept (s := s) ha).1 (stcAddr_kept ha).2
  exact blackLine_of_rd (hkept (by simp [R.stcGeom]; omega)) (hkept (by simp [R.stcFmt]; omega))

/-- The pixels chosen, after a recording: black and Lintel's line are those there were before it. -/
theorem lineFrom_px {w r : W} {s : Nat} (hs : s < 24) (h : Served (fbAddrs s) w.ctl r.ctl) (m i : Nat) (src : LineSrc) :
    (src = .black → (r.lineFrom s m i src).2 = w.ctl.blackLine s) ∧
    (src = .lintel → (r.lineFrom s m i src).2 = (w.ctl.rc s).lintel m) := by
  cases src with
  | neural => exact ⟨nofun, nofun⟩
  | lintel =>
    refine ⟨nofun, fun _ => ?_⟩
    show (r.ctl.rc s).lintel m = _
    rw [RCtx.lintel, RCtx.lintel, h.lintelOut]
  | black => exact ⟨fun _ => blackLine_served hs h, nofun⟩

theorem fbCounters_addr {s : Nat} {f : Fld} (hf : f ∈ fbCounters s) : f.addr ∈ fbAddrs s := List.mem_map_of_mem hf

/-- A deadline after Lintel's part, outside split mode, for the choice x of the line (R31, R33, R37): no memory is touched; the line
stands last in the egress buffer, its slot is drained with VALID 0, and of the fallback counters that of a counted choice's cause is
raised. -/
theorem deadline_stages {v : W} (hm : v.ctl.mode ≠ 2) {s : Nat} (hs : s < 24) (m : Nat) (x : Choice) :
    let p := (v.recorded s m (v.ctl.vc s).frame x).lineFrom s m (v.ctl.slotOfLine s m) x.src
    let d := p.1.ctl.deadlineEnd s m (v.ctl.vc s).frame x p.2
    p.1.acts = v.acts ∧
    (∃ e, (d.rc s).egress.getLast? = some e ∧ e.m = m ∧ e.frame = (v.ctl.vc s).frame ∧ e.src = x.src ∧
      (x.src = .black → e.px = v.ctl.blackLine s) ∧ (x.src = .lintel → e.px = (v.ctl.rc s).lintel m)) ∧
    (d.rc s).drained = some ((v.ctl.vc s).frame, m) ∧ (d.tag s (v.ctl.slotOfLine s m)).getLsbD 31 = false ∧
    (d.vc s).frame = (v.ctl.vc s).frame ∧
    ∀ f ∈ fbCounters s, d.get f =
      if x.counted = true ∧ f = fbCounter s x.cause then min (v.ctl.get f + 1) (2 ^ f.n - 1) else v.ctl.get f := by
  dsimp only
  obtain ⟨hrec, hracts⟩ := served_recorded v hs m (v.ctl.vc s).frame x
  have hcount := fun f hf => recorded_counts v hs m (v.ctl.vc s).frame x (f := f) hf
  replace hrec : Served (fbAddrs s) v.ctl (v.recorded s m (v.ctl.vc s).frame x).ctl :=
    ⟨fun a ha hl => hrec.rd a ha (by simp only [List.mem_singleton]; rintro rfl; exact hl (fbCounters_addr (fbCounter_mem s x.cause))),
      hrec.tags, hrec.frame, hrec.drained, hrec.lintelOut, hrec.egress⟩
  generalize v.recorded s m (v.ctl.vc s).frame x = r at hrec hracts hcount ⊢
  obtain ⟨hblack, hlintel⟩ := lineFrom_px hs hrec m (v.ctl.slotOfLine s m) x.src
  obtain ⟨hline, hlacts⟩ := served_lineFrom r s m (v.ctl.slotOfLine s m) x.src
  generalize r.lineFrom s m (v.ctl.slotOfLine s m) x.src = p at hblack hlintel hline hlacts ⊢
  have hkept {a : Nat} (ha : serviceAddr a = false) (hl : a ∉ fbAddrs s) : p.1.ctl.rd a = v.ctl.rd a :=
    (hline.rd a ha List.not_mem_nil).trans (hrec.rd a ha hl)
  have hmode : p.1.ctl.mode ≠ 2 := by
    rw [Ctl.mode, Ctl.get_of_rd (f := F.hngPairStatusMode) (hkept (by decide) ?_)]
    · exact hm
    · simp [fbAddrs, fbCounters, R.rasFbLate, R.rasFbDet, R.rasFbStand, R.hngPairStatus]
      omega
  have hslot : p.1.ctl.slotOfLine s m = v.ctl.slotOfLine s m := by
    obtain ⟨hfree, hno⟩ := stcAddr_kept (s := s) (a := R.stcRing s) (by simp [R.stcRing]; omega)
    rw [Ctl.slotOfLine, Ctl.slotOfLine, Ctl.get_of_rd (f := F.stcRingDepth s) (hkept hfree hno)]
  have hframe : (p.1.ctl.vc s).frame = (v.ctl.vc s).frame := (hline.frame s).trans (hrec.frame s)
  obtain ⟨⟨e, hlast, hem, hef, hes, hpx⟩, hdrained, hvalid, hnumber, hrd⟩ := deadlineEnd_leaves hmode hs m (v.ctl.vc s).frame x p.2
  rw [hframe] at hdrained hnumber
  rw [hslot] at hvalid
  refine ⟨hlacts.trans hracts, ⟨e, hlast, hem, hef, hes, fun h => hpx.trans (hblack h), fun h => hpx.trans (hlintel h)⟩, hdrained, hvalid,
    hnumber, fun f hf => ?_⟩
  obtain ⟨hfree, -⟩ := fbCounters_apart hs hf
  rw [← hcount f hf, Ctl.get_of_rd (hrd _ hfree), hline.get hfree List.not_mem_nil]

/-- A deadline outside split mode (R31, R33, R37): no memory is touched; the line chosen stands last in the egress buffer, its slot is
drained with VALID 0, and of the fallback counters that of a counted choice's cause is raised. -/
theorem deadline_leaves {w : W} (hm : w.ctl.mode ≠ 2) {s : Nat} (hs : s < 24) (m : Nat) :
    let c := w.ctl
    let x := c.choose s m
    let d := (w.deadline s m).ctl
    (w.deadline s m).acts = w.acts ∧
    (∃ e, (d.rc s).egress.getLast? = some e ∧ e.m = m ∧ e.frame = (c.vc s).frame ∧ e.src = x.src ∧
      (x.src = .black → e.px = c.blackLine s) ∧
      (x.src = .lintel → (∀ p ∈ (c.rc s).lintelOut, p.1 ≠ m) → e.px = c.lintelPx s m)) ∧
    (d.rc s).drained = some ((c.vc s).frame, m) ∧ (d.tag s (c.slotOfLine s m)).getLsbD 31 = false ∧
    (d.vc s).frame = (c.vc s).frame ∧
    ∀ f ∈ fbCounters s, d.get f =
      if x.counted = true ∧ f = fbCounter s x.cause then min (c.get f + 1) (2 ^ f.n - 1) else c.get f := by
  dsimp only
  obtain ⟨hchoose, hregs, hvid, -⟩ := lintelReady_keeps w.ctl s m
  have hlintel := lintelReady_lintel (c := w.ctl) (s := s) (m := m)
  have hmode : (w.ctl.lintelReady s m).mode ≠ 2 := by
    rw [Ctl.mode, Ctl.get_of_regs hregs]
    exact hm
  have hframe : ((w.ctl.lintelReady s m).vc s).frame = (w.ctl.vc s).frame := by rw [Ctl.vc, hvid, Ctl.vc]
  have hslot : (w.ctl.lintelReady s m).slotOfLine s m = w.ctl.slotOfLine s m := by
    rw [Ctl.slotOfLine, Ctl.get_of_regs hregs, Ctl.slotOfLine]
  have hline : (w.ctl.lintelReady s m).blackLine s = w.ctl.blackLine s :=
    blackLine_of_rd (Ctl.rd_of_regs hregs _) (Ctl.rd_of_regs hregs _)
  have hstages := deadline_stages (v := w.on (fun c => c.lintelReady s m)) hmode hs m (w.ctl.choose s m)
  rw [W.deadline_eq]
  dsimp only at hstages ⊢
  rw [W.on_ctl, W.on_acts, hframe, hslot, hline] at hstages
  rw [W.on_ctl, W.on_ctl, W.on_acts, hchoose, hframe, hslot]
  obtain ⟨hacts, ⟨e, hlast, hem, hef, hes, hblack, hpx⟩, hdrained, hvalid, hnumber, hcount⟩ := hstages
  refine ⟨hacts, ⟨e, hlast, hem, hef, hes, hblack, fun h hno => (hpx h).trans (hlintel hno)⟩, hdrained, hvalid, hnumber, fun f hf => ?_⟩
  rw [hcount f hf, Ctl.get_of_regs hregs]

/-! The statement. -/

/-- The selection by Table 1.4 outside split mode: the source of each row, and the row that each fallback counter counts (R33, R37). -/
theorem choose_spec {c : Ctl} {o : Nat} (hm : c.mode ≠ 2) (m : Nat) :
    let tag := c.tag o (c.slotOfLine o m)
    let failed := c.get (F.stdStateState (tag.toNat / 2 ^ 24 % 32)) = 5
    let valid := tagValid tag (c.vc o).frame m
    let x := c.choose o m
    x.src = (c.early o).getD (if valid = false ∨ tag.getLsbD 30 = true ∨ failed then .lintel else .neural) ∧
    (x.counted = true ∧ F.rasFbLateCount o = fbCounter o x.cause ↔ c.early o = none ∧ valid = false ∧ (c.lossOf o).1 = 0) ∧
    (x.counted = true ∧ F.rasFbDetCount o = fbCounter o x.cause ↔
      c.early o = none ∧ valid = true ∧ tag.getLsbD 30 = true ∧ (c.lossOf o).1 = 0) ∧
    (x.counted = true ∧ F.rasFbStandCount o = fbCounter o x.cause ↔
      c.early o = none ∧ valid = true ∧ tag.getLsbD 30 = false ∧ failed ∧ (c.lossOf o).1 = 0) := by
  dsimp only
  rcases choose_cases (o := o) hm m with ⟨src, hearly, hsrc, hcounted⟩ | ⟨hearly, hrows⟩
  · simp [hearly, hsrc, hcounted]
  rw [hearly, hrows]
  rcases rowsTag_cases c o m (c.vc o).frame ((c.lossOf o).1 == 0) with ⟨hv, hsrc, hcounted, hcause⟩ | ⟨hv, hbad, hsrc, hcounted, hcause⟩ |
    ⟨hv, hbad, hst, hsrc, hcounted, hcause⟩ | ⟨hv, hbad, hst, hsrc, hcounted⟩
  · rw [hv, hsrc, hcounted, hcause]
    simp
  · rw [hv, hbad, hsrc, hcounted, hcause]
    simp
  · rw [hv, hbad, hsrc, hcounted, hcause]
    generalize c.get (F.stdStateState _) = state at hst ⊢
    simp [hst]
  · rw [hv, hbad, hsrc, hcounted]
    generalize c.get (F.stdStateState _) = state at hst ⊢
    simp [hst]

/-- Settles O40: the deadline's stages, and for each row of Table 1.4 the source it takes and the counter it raises. -/
theorem sourceSelected : Obligations.SourceSelected := by
  unfold Obligations.SourceSelected
  intro s o m c v tag stand loss pol valid early src counts hrun hon hlt hm
  have hrow : (c.running && (c.vc o).outOn && decide (m.val < c.get (F.stcGeomVact o))) = true := by
    simp only [Bool.and_eq_true, decide_eq_true_eq]
    exact ⟨⟨hrun, hon⟩, hlt⟩
  have hearly : early = c.early o := rfl
  have hvtag : valid = tagValid tag v.frame m := (tagValid_eq tag v.frame m).symm
  have hstep : exec (.sourceSelection o m) s = .next ⟨⟨(W.deadline ⟨c, s.hw.mem, []⟩ o m).ctl,
      MAct.run s.hw.mem (W.deadline ⟨c, s.hw.mem, []⟩ o m).acts.reverse⟩, s.pending⟩ := onHw_eq s _ _ (if_pos hrow)
  obtain ⟨hacts, ⟨e, hlast, hem, hef, hes, hblack, hlintel⟩, hdrained, hvalid, hnumber, hcount⟩ :=
    deadline_leaves (w := ⟨c, s.hw.mem, []⟩) hm o.isLt m.val
  rw [hacts] at hstep
  obtain ⟨hsrc, hlate, hdet, hstand⟩ := choose_spec (o := o) hm m.val
  rw [← hearly, ← hvtag] at hsrc hlate hdet hstand
  have hx : (c.choose o m).src = src := by
    rw [hsrc]
    clear_value early
    cases early <;> rfl
  have counted {f : Fld} {cond : Prop} (hf : f ∈ fbCounters o)
      (hc : (c.choose o m).counted = true ∧ f = fbCounter o (c.choose o m).cause ↔ cond) :
      counts (W.deadline ⟨c, s.hw.mem, []⟩ o m).ctl f cond :=
    ⟨fun h => (hcount f hf).trans (if_pos (hc.mpr h)), fun h => (hcount f hf).trans (if_neg (mt hc.mp h))⟩
  exact ⟨_, hstep, rfl, rfl, ⟨e, hlast, hem, hef, hes.trans hx, fun h => hblack (hx.trans h), fun h => hlintel (hx.trans h)⟩, hdrained,
    hvalid, hnumber, counted (by simp [fbCounters]) hlate, counted (by simp [fbCounters]) hdet, counted (by simp [fbCounters]) hstand⟩

end Sys2Proof.Machine
end

section
/-! The deadline governor (02_clockless_timing.md R72 … R79): what its operations may change, the bounds and requests said once, the
write of PHC_GOV_CTRL, and the law at the end of an interval. -/

namespace Sys2Proof.Machine

/-! What the governor may change. -/

/-- d is c but for registers of a list, the power block, the raster engines and what left the part. -/
def Governed (l : List Nat) (c d : Ctl) : Prop := RegsBut l c d ∧ ∃ r p a o, d = { c with regs := r, pwr := p, ras := a, out := o }

theorem Governed.refl (l : List Nat) (c : Ctl) : Governed l c c := ⟨fun _ _ => rfl, c.regs, c.pwr, c.ras, c.out, rfl⟩

theorem Governed.trans {l m : List Nat} {c d e : Ctl} (h : Governed l c d) (g : Governed m d e) : Governed (l ++ m) c e := by
  obtain ⟨hr, r, p, a, o, rfl⟩ := h
  obtain ⟨gr, r', p', a', o', hg⟩ := g
  refine ⟨fun b hb => ?_, r', p', a', o', hg⟩
  rw [List.mem_append, not_or] at hb
  exact (gr b hb.2).trans (hr b hb.1)

theorem Governed.mono {l m : List Nat} {c d : Ctl} (h : Governed l c d) (hlm : l ⊆ m) : Governed m c d :=
  ⟨fun a ha => h.1 a (fun hl => ha (hlm hl)), h.2⟩

theorem governed_wr (c : Ctl) (a : Nat) (v : Word) : Governed [a] c (c.wr a v) :=
  ⟨fun _ hb => Ctl.rd_wr_ne c v (by simpa using hb), _, c.pwr, c.ras, c.out, rfl⟩

theorem governed_put (c : Ctl) (f : Fld) (x : Nat) : Governed [f.addr] c (c.put f x) := governed_wr c _ _

/-- A change that leaves the registers. -/
theorem governed_parts (c : Ctl) (p : Pwr) (a : Ras) (o : List Output) : Governed [] c { c with pwr := p, ras := a, out := o } :=
  ⟨fun _ _ => rfl, c.regs, p, a, o, rfl⟩

theorem Governed.frame {l : List Nat} {c d : Ctl} (h : Governed l c d) : Frame false [.pwr, .ras, .out] l c d := by
  obtain ⟨hr, r, p, a, o, rfl⟩ := h
  refine ⟨fun q hq _ => ?_, fun b hb _ => hr b hb⟩
  simp only [List.mem_cons, List.not_mem_nil, or_false, not_or] at hq
  obtain ⟨hpwr, hras, hout⟩ := hq
  cases q with
  | pwr => exact absurd rfl hpwr
  | ras => exact absurd rfl hras
  | out => exact absurd rfl hout
  | link => exact ⟨rfl, rfl⟩
  | rings => exact ⟨rfl, rfl⟩
  | _ => rfl

theorem Governed.vid {l : List Nat} {c d : Ctl} (h : Governed l c d) : d.vid = c.vid := by
  obtain ⟨_, r, p, a, o, rfl⟩ := h
  rfl

theorem Governed.get {l : List Nat} {c d : Ctl} (h : Governed l c d) {f : Fld} (hf : f.addr ∉ l) : d.get f = c.get f :=
  Ctl.get_of_rd (h.1 _ hf)

theorem outputs_of_vid {c d : Ctl} (h : d.vid = c.vid) : d.outputs = c.outputs := by simp only [Ctl.outputs, Ctl.vc, h]

theorem anyOut_of_vid {c d : Ctl} (h : d.vid = c.vid) : d.anyOut = c.anyOut := by rw [Ctl.anyOut, Ctl.anyOut, outputs_of_vid h]

/-- A command that acts on the controllers leaves memories and queue. -/
theorem completesCtl_onCtl {s : State} {f : Ctl → Ctl} {P : Ctl → Prop} (h : P (f s.hw.ctl)) : CompletesCtl s (onCtl s f) P :=
  ⟨_, rfl, rfl, rfl, h⟩

/-! The bounds (R79). -/

theorem clampN_eq {lo hi : Nat} (h : lo ≤ hi) (x : Nat) : clampN lo hi x = min hi (max lo x) := by
  unfold clampN
  split <;> [skip; split] <;> omega

theorem hostMv_eq (v : Nat) : hostMv v = min 900 (max 600 v) := clampN_eq (by decide) v

/-- Where the floor wanted is at most 900 mV, it acts. -/
theorem Ctl.floorEff_eq {c : Ctl} (hout : c.anyOut = true)
    (h : max (max (hostMv (c.get F.phcGovFloorHostMv)) (c.get F.phcGovCalCalMv)) 700 ≤ 900) :
    c.floorEff = max (max (hostMv (c.get F.phcGovFloorHostMv)) (c.get F.phcGovCalCalMv)) 700 := by
  rw [Ctl.floorEff, if_pos hout, clampN_eq (by decide)]
  omega

/-- Where management asks for at least 600 mV, the lowest ceiling acts. -/
theorem Ctl.ceilEff_eq {c : Ctl} (h : 600 ≤ c.get F.phcGovCeilMgmtMv) :
    c.ceilEff = min (min (hostMv (c.get F.phcGovCeilHostMv)) (c.get F.phcGovCeilMgmtMv)) 900 := by
  rw [Ctl.ceilEff, clampN_eq (by decide), hostMv_eq]
  omega

theorem clampN_bounds {lo hi : Nat} (h : lo ≤ hi) (x : Nat) : lo ≤ clampN lo hi x ∧ clampN lo hi x ≤ hi := by
  rw [clampN_eq h]
  omega

theorem Ctl.floorEff_le (c : Ctl) : c.floorEff ≤ 900 := by
  unfold Ctl.floorEff
  split
  · exact (clampN_bounds (by decide) _).2
  · decide

theorem Ctl.ceilEff_le (c : Ctl) : c.ceilEff ≤ 900 := (clampN_bounds (by decide) _).2

theorem Ctl.floorEff_congr {c d : Ctl} (hv : d.vid = c.vid) (hhost : d.get F.phcGovFloorHostMv = c.get F.phcGovFloorHostMv)
    (hcal : d.get F.phcGovCalCalMv = c.get F.phcGovCalCalMv) : d.floorEff = c.floorEff := by
  simp only [Ctl.floorEff, anyOut_of_vid hv, hhost, hcal]

theorem Ctl.ceilEff_congr {c d : Ctl} (h : d.rd R.phcGovCeil = c.rd R.phcGovCeil) : d.ceilEff = c.ceilEff := by
  simp only [Ctl.ceilEff, Ctl.get_of_rd (f := F.phcGovCeilHostMv) h, Ctl.get_of_rd (f := F.phcGovCeilMgmtMv) h]

/-- A setpoint held in the bounds stays where it is when held again. -/
theorem Ctl.clampMv_idem (c : Ctl) (t : Nat) : c.clampMv (c.clampMv t) = c.clampMv t := by
  unfold Ctl.clampMv
  dsimp only
  generalize c.floorEff = f
  generalize c.ceilEff = g
  omega

/-! What the law reads. -/

/-- The registers the law reads. -/
def lawAddrs : List Nat := [R.phcGovCtrl, R.phcGovFloor, R.phcGovCeil, R.phcGovBand, R.phcGovStatus, R.phcGovCal, R.wktFw, R.phcAvsStatus,
  R.phcCurStatus, R.hngPairStatus]

/-- Two states the law cannot tell apart but by its counts quiet and hold. -/
structure SameInputs (c d : Ctl) : Prop where
  vid : d.vid = c.vid
  rd : ∀ a ∈ lawAddrs, d.rd a = c.rd a

theorem Governed.inputs {l : List Nat} {c d : Ctl} (h : Governed l c d) (hl : ∀ a ∈ lawAddrs, a ∉ l) : SameInputs c d :=
  ⟨h.vid, fun a ha => h.1 a (hl a ha)⟩

theorem SameInputs.get {c d : Ctl} (h : SameInputs c d) {f : Fld} (hf : f.addr ∈ lawAddrs) : d.get f = c.get f :=
  Ctl.get_of_rd (h.rd _ hf)

theorem SameInputs.on {c d : Ctl} (h : SameInputs c d) {f : Fld} (hf : f.addr ∈ lawAddrs) : d.on f = c.on f := Ctl.on_of_rd (h.rd _ hf)

theorem SameInputs.setMv {c d : Ctl} (h : SameInputs c d) : d.setMv = c.setMv := h.get (by simp [lawAddrs])

theorem SameInputs.stepMv {c d : Ctl} (h : SameInputs c d) : d.stepMv = c.stepMv := by
  rw [Ctl.stepMv, Ctl.stepMv, h.get (by simp [lawAddrs])]

theorem SameInputs.inFlight {c d : Ctl} (h : SameInputs c d) : d.inFlight = c.inFlight := h.on (by simp [lawAddrs])

theorem SameInputs.veto {c d : Ctl} (h : SameInputs c d) : d.on F.phcCurStatusVeto = c.on F.phcCurStatusVeto := h.on (by simp [lawAddrs])

theorem SameInputs.mode {c d : Ctl} (h : SameInputs c d) : d.mode = c.mode := h.get (by simp [lawAddrs])

theorem SameInputs.govLive {c d : Ctl} (h : SameInputs c d) : d.govLive = c.govLive := by
  rw [Ctl.govLive, Ctl.govLive, Ctl.fwRun, Ctl.fwRun, h.get (f := F.wktFwFwstate) (by simp [lawAddrs]),
    h.on (f := F.phcAvsStatusFail) (by simp [lawAddrs])]

theorem SameInputs.lawOn {c d : Ctl} (h : SameInputs c d) : d.lawOn = c.lawOn := by
  rw [Ctl.lawOn, Ctl.lawOn, h.govLive, anyOut_of_vid h.vid, h.on (f := F.phcGovCtrlEn) (by simp [lawAddrs]),
    h.on (f := F.phcGovCtrlHold) (by simp [lawAddrs])]

theorem SameInputs.clampMv {c d : Ctl} (h : SameInputs c d) (t : Nat) : d.clampMv t = c.clampMv t := by
  rw [Ctl.clampMv, Ctl.clampMv, Ctl.ceilEff_congr (h.rd _ (by simp [lawAddrs])),
    Ctl.floorEff_congr h.vid (h.get (by simp [lawAddrs])) (h.get (by simp [lawAddrs]))]

/-- Between states with the same inputs and counts the law asks for the same. -/
theorem SameInputs.lawStep {c d : Ctl} (h : SameInputs c d) (hq : d.pwr.quiet = c.pwr.quiet) (hh : d.pwr.hold = c.pwr.hold)
    (urgent : Bool) (smin : Int) : d.lawStep urgent smin = c.lawStep urgent smin := by
  simp only [Ctl.lawStep, h.setMv, h.stepMv, hq, hh, h.get (f := F.phcGovCtrlDownHold) (by simp [lawAddrs]),
    h.get (f := F.phcGovCtrlUrgentHold) (by simp [lawAddrs]), h.get (f := F.phcGovBandLo) (by simp [lawAddrs]),
    h.get (f := F.phcGovBandHi) (by simp [lawAddrs])]

/-! Requests (R76, R78). -/

/-- What one AVSBus write towards t asks for: at most 80 mV from the setpoint (R76). -/
def Ctl.avsChunk (c : Ctl) (t : Nat) : Nat := if c.setMv < t then min t (c.setMv + 80) else max t (c.setMv - 80)

/-- All that a request can do, whatever becomes of it: IN_FLIGHT or CUR_VETO set, the power block's request, a write sent; the governor's
interval goes on as it was. -/
theorem Ctl.govPump_cases (c : Ctl) : ∃ p o, p.lines = c.pwr.lines ∧ p.running = c.pwr.running ∧
    (c.govPump = { c with pwr := p, out := o } ∨ c.govPump = { c.put F.phcGovStatusCurVeto 1 with pwr := p, out := o } ∨
      c.govPump = { c.put F.phcGovStatusInFlight 1 with pwr := p, out := o }) := by
  unfold Ctl.govPump
  split
  · exact ⟨c.pwr, c.out, rfl, rfl, .inl rfl⟩
  · dsimp only
    split
    · exact ⟨c.pwr, c.out, rfl, rfl, .inl rfl⟩
    · split
      · exact ⟨{ c.pwr with target := none }, c.out, rfl, rfl, .inl rfl⟩
      · split
        · exact ⟨{ c.pwr with target := none }, c.out, rfl, rfl, .inr (.inl rfl)⟩
        · exact ⟨{ c.pwr with inFlight := some _, avsTries := 0 }, c.out ++ [_], rfl, rfl, .inr (.inr rfl)⟩

theorem Ctl.govRequest_cases (c : Ctl) (t : Nat) : ∃ p o, p.lines = c.pwr.lines ∧ p.running = c.pwr.running ∧
    (c.govRequest t = { c with pwr := p, out := o } ∨ c.govRequest t = { c.put F.phcGovStatusCurVeto 1 with pwr := p, out := o } ∨
      c.govRequest t = { c.put F.phcGovStatusInFlight 1 with pwr := p, out := o }) := by
  unfold Ctl.govRequest
  split
  · exact Ctl.govPump_cases { c with pwr := { c.pwr with target := some (c.clampMv t) } }
  · exact ⟨c.pwr, c.out, rfl, rfl, .inl rfl⟩

/-- A request that differs from the setpoint, with no request in flight and no veto, sends its first write (R76, R78). -/
theorem Ctl.govRequest_sent {c : Ctl} {t : Nat} (hlive : c.govLive = true) (hfly : c.inFlight = false)
    (hveto : c.on F.phcCurStatusVeto = false) (hne : c.clampMv t ≠ c.setMv) :
    c.govRequest t = ({ c.put F.phcGovStatusInFlight 1 with pwr := { c.pwr with target := some (c.clampMv t)
                                                                                inFlight := some (c.avsChunk (c.clampMv t))
                                                                                avsTries := 0 } }).emit
      (.avsWrite (c.avsChunk (c.clampMv t))) := by
  have hin (p : Pwr) : SameInputs c { c with pwr := p } := ⟨rfl, fun _ _ => rfl⟩
  simp only [Ctl.govRequest, hlive, if_true, Ctl.govPump, (hin _).clampMv, (hin _).setMv, (hin _).govLive, (hin _).inFlight, (hin _).veto,
    Ctl.clampMv_idem, hfly, hveto, hne]
  simp [Ctl.avsChunk, Ctl.put, Ctl.wr, Ctl.rd]

/-! The write of PHC_GOV_CTRL (R74). -/

/-- Slack begun anew changes the raster engines alone. -/
theorem foldl_runMin_ras (l : List Nat) : ∀ c : Ctl,
    ∃ a, l.foldl (fun c o => c.rcSet o { c.rc o with runMin := none }) c = { c with ras := a } := by
  induction l with
  | nil => exact fun c => ⟨c.ras, rfl⟩
  | cons o t ih =>
    intro c
    obtain ⟨a, h⟩ := ih (c.rcSet o { c.rc o with runMin := none })
    exact ⟨a, h⟩

/-- An interval begun anew changes the raster engines and the power block, whose lines count from 0 (R74). -/
theorem Ctl.startInterval_parts (c : Ctl) : ∃ p a, c.startInterval = { c with pwr := p, ras := a } ∧ p.lines = 0 ∧ p.running = true := by
  obtain ⟨a, h⟩ := foldl_runMin_ras c.outputs c
  exact ⟨{ c.pwr with lines := 0, running := true, startIval := false }, a, by simp only [Ctl.startInterval, h], rfl, rfl⟩

/-- GOV_ENABLE up to the bounds: the bits taken, what is left of a request dropped, a new interval. -/
def Ctl.ctrlTaken (c : Ctl) (v : Word) : Ctl :=
  let was := c.on F.phcGovCtrlEn
  let c := c.wr R.phcGovCtrl (v &&& w32 0x00FFFF73)
  let c := if was && !c.on F.phcGovCtrlEn then { c with pwr := { c.pwr with target := none } } else c
  if !was && c.on F.phcGovCtrlEn && c.anyOut && c.fwRun then c.startInterval else c

theorem Ctl.govCtrlWrite_eq (c : Ctl) (v : Word) : c.govCtrlWrite v = (c.ctrlTaken v).govBounds := rfl

theorem Ctl.ctrlTaken_parts (c : Ctl) (v : Word) :
    ∃ p a, c.ctrlTaken v = { c.wr R.phcGovCtrl (v &&& w32 0x00FFFF73) with pwr := p, ras := a } := by
  have hstart (d : Ctl) (b : Bool) : ∃ p a, (if b then d.startInterval else d) = { d with pwr := p, ras := a } := by
    obtain ⟨p, a, h, _⟩ := d.startInterval_parts
    cases b with
    | true => exact ⟨p, a, h⟩
    | false => exact ⟨d.pwr, d.ras, rfl⟩
  unfold Ctl.ctrlTaken
  dsimp only
  split
  · obtain ⟨p, a, h⟩ := hstart { c.wr R.phcGovCtrl (v &&& w32 0x00FFFF73) with pwr := { c.pwr with target := none } } _
    exact ⟨p, a, h⟩
  · exact hstart _ _

theorem ctrlTaken_governed (c : Ctl) (v : Word) : Governed [R.phcGovCtrl] c (c.ctrlTaken v) := by
  obtain ⟨p, a, h⟩ := c.ctrlTaken_parts v
  rw [h]
  exact (governed_wr c _ _).trans (governed_parts _ p a c.out)

theorem Ctl.ctrlTaken_ctrl (c : Ctl) (v : Word) : (c.ctrlTaken v).rd R.phcGovCtrl = v &&& 0x00FFFF73 := by
  obtain ⟨p, a, h⟩ := c.ctrlTaken_parts v
  rw [h]
  exact Ctl.rd_wr_self c _ _

/-- Bit 0 is among the bits PHC_GOV_CTRL takes. -/
theorem Ctl.on_en_wr (c : Ctl) {v : Word} (h : v.getLsbD 0 = true) : (c.wr R.phcGovCtrl (v &&& w32 0x00FFFF73)).on F.phcGovCtrlEn = true := by
  have hbit : fieldGet (v &&& w32 0x00FFFF73) 0 1 = 1 := by
    apply Nat.eq_of_testBit_eq
    intro i
    rw [fieldGet_testBit]
    cases i with
    | zero => simp [h, w32]
    | succ i => simp [Nat.testBit_succ]
  rw [Ctl.on, Ctl.get, Ctl.rd_wr_self, hbit]
  rfl

/-- EN from 0 to 1 with an output enabled starts an interval (R74). -/
theorem Ctl.ctrlTaken_starts {c : Ctl} {v : Word} (hen : c.on F.phcGovCtrlEn = false) (hv : v.getLsbD 0 = true) (hout : c.anyOut = true)
    (hfw : c.fwRun = true) : (c.ctrlTaken v).pwr.lines = 0 ∧ (c.ctrlTaken v).pwr.running = true := by
  have hw := governed_wr c R.phcGovCtrl (v &&& w32 0x00FFFF73)
  have hout' := (anyOut_of_vid hw.vid).trans hout
  have hfw' : (c.wr R.phcGovCtrl (v &&& w32 0x00FFFF73)).fwRun = true := by
    rw [Ctl.fwRun, hw.get (by simp)]
    exact hfw
  obtain ⟨p, a, h, hlines, hrun⟩ := (c.wr R.phcGovCtrl (v &&& w32 0x00FFFF73)).startInterval_parts
  have htaken : c.ctrlTaken v = (c.wr R.phcGovCtrl (v &&& w32 0x00FFFF73)).startInterval := by
    simp [Ctl.ctrlTaken, hen, c.on_en_wr hv, hout', hfw']
  rw [htaken, h]
  exact ⟨hlines, hrun⟩

/-! The bounds shown and acted upon (R74, R79). -/

/-- FLOOR_CLAMP where the ceiling lies below the floor. -/
def Ctl.clampFlagged (c : Ctl) : Ctl := if c.ceilEff < c.floorEff then c.put F.phcGovStatusFloorClamp 1 else c

/-- What changed bounds ask for, once they are shown. -/
def Ctl.boundsRequest (c : Ctl) : Ctl :=
  if !c.fwRun then c
  else if !c.on F.phcGovCtrlEn then
    if c.excluded then c.govRequest c.setMv else c
  else if c.on F.phcGovCtrlHold then c.govRequest (c.get F.phcGovTargetMv)
  else if !c.anyOut then c.govRequest (hostMv (c.get F.phcGovIdleMv))
  else c

theorem Ctl.govBounds_eq (c : Ctl) : c.govBounds = c.clampFlagged.govRegs.boundsRequest := rfl

theorem Ctl.pwr_clampFlagged (c : Ctl) : c.clampFlagged.pwr = c.pwr := by
  unfold Ctl.clampFlagged
  split <;> rfl

theorem clampFlagged_governed (c : Ctl) : Governed [R.phcGovStatus] c c.clampFlagged := by
  unfold Ctl.clampFlagged
  split
  · exact governed_put c F.phcGovStatusFloorClamp 1
  · exact Governed.refl _ c

theorem Ctl.setMv_clampFlagged (c : Ctl) : c.clampFlagged.setMv = c.setMv := by
  unfold Ctl.clampFlagged
  split
  · exact Ctl.get_put_ne c F.phcGovStatusFloorClamp F.phcGovStatusSetMv 1 (by decide) (by decide)
  · rfl

theorem Ctl.clampFlagged_on {c : Ctl} (h : c.ceilEff < c.floorEff) : c.clampFlagged.on F.phcGovStatusFloorClamp = true := by
  rw [Ctl.clampFlagged, if_pos h, Ctl.on, Ctl.get_put_self _ _ _ (by decide)]
  rfl

theorem govRegs_governed (c : Ctl) : Governed [R.phcGovStatus, R.phcGovFloor] c c.govRegs :=
  ((((governed_put c F.phcGovFloorEffMv _).trans (governed_put _ F.phcGovStatusCeilEff _)).trans
    (governed_put _ F.phcGovStatusAtFloor _)).trans (governed_put _ F.phcGovStatusAtCeil _)).mono (by simp)

/-- Bits of PHC_GOV_STATUS below AT_FLOOR, or between AT_CEIL and CEIL_EFF, stay. -/
theorem Ctl.get_govRegs {c : Ctl} {f : Fld} (ha : f.addr = R.phcGovStatus) (hf : f.lo + f.n ≤ 11 ∨ 13 ≤ f.lo ∧ f.lo + f.n ≤ 16) :
    c.govRegs.get f = c.get f := by
  have hfloor : f.addr ≠ R.phcGovFloor := by rw [ha]; decide
  unfold Ctl.govRegs
  rw [Ctl.get_put_ne _ _ f _ (by decide) (by simp only; omega), Ctl.get_put_ne _ _ f _ (by decide) (by simp only; omega),
    Ctl.get_put_ne _ _ f _ (by decide) (by simp only; omega), Ctl.get_put_ne _ _ f _ (by decide) (.inl hfloor)]

theorem Ctl.govRegs_floor (c : Ctl) : c.govRegs.get F.phcGovFloorEffMv = c.floorEff := by
  have h := c.floorEff_le
  unfold Ctl.govRegs
  rw [Ctl.get_put_ne _ _ _ _ (by decide) (by decide), Ctl.get_put_ne _ _ _ _ (by decide) (by decide),
    Ctl.get_put_ne _ _ _ _ (by decide) (by decide), Ctl.get_put_self _ _ _ (by decide), Nat.mod_eq_of_lt (by simp only; omega)]

theorem Ctl.govRegs_ceil (c : Ctl) : c.govRegs.get F.phcGovStatusCeilEff = c.ceilEff := by
  have h := c.ceilEff_le
  unfold Ctl.govRegs
  rw [Ctl.get_put_ne _ _ _ _ (by decide) (by decide), Ctl.get_put_ne _ _ _ _ (by decide) (by decide),
    Ctl.get_put_self _ _ _ (by decide), Nat.mod_eq_of_lt (by simp only; omega)]

/-- What a request after shown bounds may change: IN_FLIGHT and CUR_VETO of the registers, and of the power block not the interval. -/
structure RequestOnly (c d : Ctl) : Prop where
  governed : Governed [R.phcGovStatus] c d
  get : ∀ f : Fld, (f.lo + f.n ≤ 10 ∨ 14 ≤ f.lo) → d.get f = c.get f
  lines : d.pwr.lines = c.pwr.lines
  running : d.pwr.running = c.pwr.running

theorem RequestOnly.refl (c : Ctl) : RequestOnly c c := ⟨Governed.refl _ c, fun _ _ => rfl, rfl, rfl⟩

theorem requestOnly_put (c : Ctl) {f : Fld} (ha : f.addr = R.phcGovStatus) (hlo : 10 ≤ f.lo) (hn : f.lo + f.n ≤ 14) (x : Nat) {p : Pwr}
    (hl : p.lines = c.pwr.lines) (hr : p.running = c.pwr.running) (o : List Output) :
    RequestOnly c { c.put f x with pwr := p, out := o } :=
  ⟨((ha ▸ governed_put c f x).trans (governed_parts _ p c.ras o)).mono (by simp),
    fun g hg => Ctl.get_put_ne c f g x (by omega) (by omega), hl, hr⟩

theorem govRequest_requestOnly (c : Ctl) (t : Nat) : RequestOnly c (c.govRequest t) := by
  obtain ⟨p, o, hl, hr, h | h | h⟩ := c.govRequest_cases t
  · rw [h]
    exact ⟨(governed_parts c p c.ras o).mono (List.nil_subset _), fun _ _ => rfl, hl, hr⟩
  · rw [h]
    exact requestOnly_put c rfl (by decide) (by decide) 1 hl hr o
  · rw [h]
    exact requestOnly_put c rfl (by decide) (by decide) 1 hl hr o

theorem boundsRequest_requestOnly (c : Ctl) : RequestOnly c c.boundsRequest := by
  unfold Ctl.boundsRequest
  split
  · exact RequestOnly.refl c
  · split
    · split
      · exact govRequest_requestOnly c _
      · exact RequestOnly.refl c
    · split
      · exact govRequest_requestOnly c _
      · split
        · exact govRequest_requestOnly c _
        · exact RequestOnly.refl c

/-- Changed bounds acting: the floor and the ceiling in force are shown, a ceiling below the floor sets FLOOR_CLAMP, and neither the
setpoint nor the interval moves. -/
structure BoundsActed (c d : Ctl) : Prop where
  governed : Governed [R.phcGovStatus, R.phcGovFloor] c d
  setMv : d.setMv = c.setMv
  floor : d.get F.phcGovFloorEffMv = c.floorEff
  ceil : d.get F.phcGovStatusCeilEff = c.ceilEff
  flag : c.ceilEff < c.floorEff → d.on F.phcGovStatusFloorClamp = true
  lines : d.pwr.lines = c.pwr.lines
  running : d.pwr.running = c.pwr.running

theorem govBounds_acted (c : Ctl) : BoundsActed c c.govBounds := by
  have hflag := clampFlagged_governed c
  have hregs := govRegs_governed c.clampFlagged
  have hreq := boundsRequest_requestOnly c.clampFlagged.govRegs
  have hfloor : c.clampFlagged.floorEff = c.floorEff := Ctl.floorEff_congr hflag.vid (hflag.get (by decide)) (hflag.get (by decide))
  have hceil : c.clampFlagged.ceilEff = c.ceilEff := Ctl.ceilEff_congr (hflag.1 _ (by decide))
  rw [Ctl.govBounds_eq]
  refine ⟨((hflag.trans hregs).trans hreq.governed).mono (by simp), ?_, ?_, ?_, fun h => ?_, ?_, ?_⟩
  · rw [← c.setMv_clampFlagged, Ctl.setMv, hreq.get _ (by decide), Ctl.get_govRegs rfl (by decide)]
    rfl
  · rw [hreq.get _ (by decide), Ctl.govRegs_floor, hfloor]
  · rw [hreq.get _ (by decide), Ctl.govRegs_ceil, hceil]
  · rw [Ctl.on, hreq.get _ (by decide), Ctl.get_govRegs rfl (by decide)]
    exact Ctl.clampFlagged_on h
  · exact hreq.lines.trans (congrArg Pwr.lines c.pwr_clampFlagged)
  · exact hreq.running.trans (congrArg Pwr.running c.pwr_clampFlagged)

/-- Settles O35: the write takes its bits and may begin an interval (`ctrlTaken`); then the bounds act (`govBounds_acted`), which the
write does not touch. -/
theorem governorBounds : Obligations.GovernorBounds := by
  unfold Obligations.GovernorBounds
  intro s w c host floor ceil hrun
  have htaken := ctrlTaken_governed c w
  have hacted := govBounds_acted (c.ctrlTaken w)
  have hfloor (hout : c.anyOut = true) (h : floor ≤ 900) : (c.ctrlTaken w).floorEff = floor := by
    rw [Ctl.floorEff_congr htaken.vid (htaken.get (by decide)) (htaken.get (by decide))]
    simp only [floor, host, ← hostMv_eq] at h ⊢
    exact Ctl.floorEff_eq hout h
  have hceil (h : 600 ≤ c.get F.phcGovCeilMgmtMv) : (c.ctrlTaken w).ceilEff = ceil := by
    rw [Ctl.ceilEff_congr (htaken.1 _ (by decide))]
    simp only [ceil, host, ← hostMv_eq]
    exact Ctl.ceilEff_eq h
  have hexec : exec (.govEnable w) s = onCtl s (fun c => if c.running then c.govCtrlWrite w else c) := rfl
  rw [hexec]
  apply completesCtl_onCtl
  rw [if_pos hrun, Ctl.govCtrlWrite_eq]
  refine ⟨?_, ?_, fun hen hw hout hfw => ?_, fun hout h => ?_, fun h => ?_, fun hout hf hm hlt => ?_, ?_⟩
  · rw [hacted.governed.1 _ (by decide)]
    exact c.ctrlTaken_ctrl w
  · exact hacted.setMv.trans (htaken.get (by decide))
  · obtain ⟨hlines, hrunning⟩ := Ctl.ctrlTaken_starts hen hw hout hfw
    exact ⟨hacted.lines.trans hlines, hacted.running.trans hrunning⟩
  · exact hacted.floor.trans (hfloor hout h)
  · exact hacted.ceil.trans (hceil h)
  · exact hacted.flag (by rw [hfloor hout hf, hceil hm]; exact hlt)
  · exact (htaken.trans hacted.governed).frame

/-! The end of an interval (R72). -/

/-- What one output publishes at the end of an interval: its least slack, which begins anew. -/
def Ctl.slackPublish (c : Ctl) (o : Nat) : Ctl :=
  (c.put (F.rasSlackMin o) (ofSigned 16 (c.slackMin o))).rcSet o { c.rc o with runMin := none }

/-- What outputs that publish their slack change, and what those of them and the others then show. -/
theorem slackPublish_foldl (l : List Nat) : ∀ c : Ctl, l.Nodup →
    Governed (l.map R.rasSlack) c (l.foldl Ctl.slackPublish c) ∧ (l.foldl Ctl.slackPublish c).pwr = c.pwr ∧
      (l.foldl Ctl.slackPublish c).out = c.out ∧
      ∀ o ∈ l, (l.foldl Ctl.slackPublish c).get (F.rasSlackMin o) = ofSigned 16 (c.slackMin o) % 2 ^ 16 := by
  induction l with
  | nil => exact fun c _ => ⟨Governed.refl _ c, rfl, rfl, by simp⟩
  | cons a t ih =>
    intro c hnd
    obtain ⟨hat, ht⟩ := List.nodup_cons.mp hnd
    obtain ⟨hgov, hpwr, hout, hslack⟩ := ih (c.slackPublish a) ht
    have hfirst : Governed [R.rasSlack a] c (c.slackPublish a) :=
      (governed_put c (F.rasSlackMin a) _).trans (governed_parts _ c.pwr _ c.out)
    rw [List.foldl_cons]
    refine ⟨hfirst.trans hgov, hpwr, hout, fun o ho => ?_⟩
    rcases List.mem_cons.mp ho with rfl | hot
    · have hlater : (F.rasSlackMin o).addr ∉ t.map R.rasSlack := by
        simp only [List.mem_map, not_exists, not_and]
        rintro b hb heq
        exact hat ((show b = o by simp only [R.rasSlack] at heq; omega) ▸ hb)
      rw [hgov.get hlater]
      exact Ctl.get_put_self c (F.rasSlackMin o) _ (by decide : 0 + 16 ≤ 32)
    · have hne : o ≠ a := fun h => hat (h ▸ hot)
      rw [hslack o hot, Ctl.slackMin, Ctl.slackPublish, Ctl.rc_rcSet, if_neg hne]
      rfl

/-- What the end of an interval publishes before the law acts. -/
def Ctl.intervalShown (c : Ctl) (lo hi : BitVec 16) : Ctl :=
  let c := c.outputs.foldl Ctl.slackPublish c
  let c := (c.put F.phcGovRateMin lo.toNat).put F.phcGovRateMax hi.toNat
  { c with pwr := { c.pwr with lines := c.pwr.lines - c.intervalLines } }

theorem outputs_lt {c : Ctl} {o : Nat} (h : o ∈ c.outputs) : o < 24 := List.mem_range.mp (List.mem_filter.mp h).1

theorem Ctl.outputs_nodup (c : Ctl) : c.outputs.Nodup := List.nodup_range.filter _

/-- A register at or above the PHC window, or below the raster's, is no output's SLACK. -/
theorem not_mem_slackAddrs (c : Ctl) {a : Nat} (ha : a < 0x50000 ∨ 0x51000 ≤ a) : a ∉ c.outputs.map R.rasSlack := by
  simp only [List.mem_map, not_exists, not_and]
  intro o ho heq
  have := outputs_lt ho
  simp only [R.rasSlack] at heq
  omega

/-- The registers an interval's end publishes in. -/
def Ctl.intervalAddrs (c : Ctl) : List Nat := R.phcGovRate :: c.outputs.map R.rasSlack

theorem lawAddrs_apart (c : Ctl) : ∀ a ∈ lawAddrs, a ∉ c.intervalAddrs := by
  intro a ha
  have hsplit : a ≠ R.phcGovRate ∧ (a < 0x50000 ∨ 0x51000 ≤ a) := by
    revert a
    decide
  rw [Ctl.intervalAddrs, List.mem_cons, not_or]
  exact ⟨hsplit.1, not_mem_slackAddrs c hsplit.2⟩

theorem intervalShown_governed (c : Ctl) (lo hi : BitVec 16) : Governed c.intervalAddrs c (c.intervalShown lo hi) := by
  have hpub := (slackPublish_foldl c.outputs c c.outputs_nodup).1
  exact (((hpub.trans (governed_put _ F.phcGovRateMin lo.toNat)).trans (governed_put _ F.phcGovRateMax hi.toNat)).trans
    (governed_parts _ _ _ _)).mono (by simp [Ctl.intervalAddrs])

theorem Ctl.pwr_intervalShown (c : Ctl) (lo hi : BitVec 16) :
    (c.intervalShown lo hi).pwr = { c.pwr with lines := c.pwr.lines - c.intervalLines } := by
  obtain ⟨_, hpwr, _⟩ := slackPublish_foldl c.outputs c c.outputs_nodup
  have hsame : (c.intervalShown lo hi).intervalLines = c.intervalLines := by
    rw [Ctl.intervalLines, Ctl.intervalLines, ((intervalShown_governed c lo hi).inputs (lawAddrs_apart c)).get (by simp [lawAddrs])]
  rw [← hsame, ← hpwr]
  rfl

theorem Ctl.out_intervalShown (c : Ctl) (lo hi : BitVec 16) : (c.intervalShown lo hi).out = c.out := by
  obtain ⟨_, _, hout, _⟩ := slackPublish_foldl c.outputs c c.outputs_nodup
  exact hout

theorem Ctl.intervalShown_rateMin (c : Ctl) (lo hi : BitVec 16) : (c.intervalShown lo hi).get F.phcGovRateMin = lo.toNat := by
  change (((c.outputs.foldl Ctl.slackPublish c).put F.phcGovRateMin lo.toNat).put F.phcGovRateMax hi.toNat).get F.phcGovRateMin = _
  rw [Ctl.get_put_ne _ _ _ _ (by decide) (by decide), Ctl.get_put_self _ _ _ (by decide), Nat.mod_eq_of_lt lo.isLt]

theorem Ctl.intervalShown_rateMax (c : Ctl) (lo hi : BitVec 16) : (c.intervalShown lo hi).get F.phcGovRateMax = hi.toNat := by
  change (((c.outputs.foldl Ctl.slackPublish c).put F.phcGovRateMin lo.toNat).put F.phcGovRateMax hi.toNat).get F.phcGovRateMax = _
  rw [Ctl.get_put_self _ _ _ (by decide), Nat.mod_eq_of_lt hi.isLt]

theorem Ctl.intervalShown_slack {c : Ctl} {o : Nat} (ho : o ∈ c.outputs) (lo hi : BitVec 16) :
    (c.intervalShown lo hi).get (F.rasSlackMin o) = ofSigned 16 (c.slackMin o) % 2 ^ 16 := by
  obtain ⟨_, _, _, hslack⟩ := slackPublish_foldl c.outputs c c.outputs_nodup
  have hrate : R.rasSlack o ≠ R.phcGovRate :=
    ne_of_mem_of_not_mem (List.mem_map_of_mem ho) (not_mem_slackAddrs c (a := R.phcGovRate) (by decide))
  rw [← hslack o ho]
  exact (Ctl.get_put_ne _ F.phcGovRateMax (F.rasSlackMin o) _ (by decide) (.inl hrate)).trans
    (Ctl.get_put_ne _ F.phcGovRateMin (F.rasSlackMin o) _ (by decide) (.inl hrate))

/-! The law (R72). -/

/-- The counts quiet and hold after an evaluation. -/
def Ctl.counted (c : Ctl) (q h : Nat) : Ctl := { c with pwr := { c.pwr with quiet := q, hold := h } }

theorem inputs_counted (c : Ctl) (q h : Nat) : SameInputs c (c.counted q h) := ⟨rfl, fun _ _ => rfl⟩

/-- With no line over its deadline the law looks at the least slack alone (R72). -/
theorem Ctl.lawStep_calm (c : Ctl) (smin : Int) : c.lawStep false smin =
    if smin < (c.get F.phcGovBandLo : Int) then (c.setMv + c.stepMv, 0, c.pwr.hold - 1)
    else if (c.get F.phcGovBandHi : Int) < smin then
      (if max 1 (c.get F.phcGovCtrlDownHold) ≤ min 255 (c.pwr.quiet + 1) ∧ c.pwr.hold = 0 then (c.setMv - c.stepMv, 0, 0)
        else (c.setMv, min 255 (c.pwr.quiet + 1), c.pwr.hold - 1))
    else (c.setMv, 0, c.pwr.hold - 1) := by
  unfold Ctl.lawStep
  exact if_neg Bool.false_ne_true

/-- The law with no veto in force: its counts, and the setpoint it asks for held in the bounds (R72, R79). -/
theorem Ctl.lawOwn_calm {c : Ctl} (hveto : c.on F.phcCurStatusVeto = false) (smin : Int) {t q h : Nat} (hstep : c.lawStep false smin = (t, q, h)) :
    c.lawOwn false smin = (c.counted q h, c.clampMv t) := by
  have hv : (c.counted q h).on F.phcCurStatusVeto = false := (inputs_counted c q h).veto.trans hveto
  have ht : (c.counted q h).clampMv t = c.clampMv t := (inputs_counted c q h).clampMv t
  unfold Ctl.lawOwn
  rw [hstep]
  simp only [Bool.false_eq_true, false_and, if_false]
  rw [← Ctl.counted, hv, ht]
  simp

/-- An evaluation of a part alone, with no request in flight and no veto: the law's counts, and a request where the setpoint held in the
bounds is another than the one in force (R72, R78). -/
theorem Ctl.govEvaluate_alone {c : Ctl} (hlaw : c.lawOn = true) (hmode : c.mode = 0) (hfly : c.inFlight = false)
    (hveto : c.on F.phcCurStatusVeto = false) (smin : Int) {t q h : Nat} (hstep : c.lawStep false smin = (t, q, h)) :
    c.govEvaluate false smin = if c.clampMv t = c.setMv then c.counted q h else (c.counted q h).govRequest (c.clampMv t) := by
  have hin := inputs_counted c q h
  rw [Ctl.govEvaluate, Ctl.ownRequest, if_pos hlaw, Ctl.lawOwn_calm hveto smin hstep]
  simp [hin.mode, hin.setMv, hin.inFlight, hmode, hfly]

theorem Ctl.govLive_of_lawOn {c : Ctl} (h : c.lawOn = true) : c.govLive = true := by
  simp only [Ctl.lawOn, Bool.and_eq_true] at h
  obtain ⟨⟨⟨hlive, _⟩, _⟩, _⟩ := h
  exact hlive

/-- What an evaluation leaves where the law asks for t and the counts q and h: the setpoint stays, and a write leaves only for another
setpoint, at most 80 mV away. -/
structure LawActed (t q h : Nat) (c d : Ctl) : Prop where
  governed : Governed [R.phcGovStatus] c d
  setMv : d.setMv = c.setMv
  quiet : d.pwr.quiet = q
  hold : d.pwr.hold = h
  lines : d.pwr.lines = c.pwr.lines
  sent : if c.clampMv t = c.setMv then d.out = c.out ∧ d.inFlight = false
    else d.out = c.out ++ [.avsWrite (c.avsChunk (c.clampMv t))] ∧ d.inFlight = true ∧ d.pwr.inFlight = some (c.avsChunk (c.clampMv t))

theorem govEvaluate_acted {c : Ctl} (hlaw : c.lawOn = true) (hmode : c.mode = 0) (hfly : c.inFlight = false)
    (hveto : c.on F.phcCurStatusVeto = false) (smin : Int) {t q h : Nat} (hstep : c.lawStep false smin = (t, q, h)) :
    LawActed t q h c (c.govEvaluate false smin) := by
  have hin := inputs_counted c q h
  have hlive := Ctl.govLive_of_lawOn hlaw
  rw [Ctl.govEvaluate_alone hlaw hmode hfly hveto smin hstep]
  by_cases ht : c.clampMv t = c.setMv
  · rw [if_pos ht]
    exact ⟨(governed_parts c _ c.ras c.out).mono (List.nil_subset _), rfl, rfl, rfl, rfl, by rw [if_pos ht]; exact ⟨rfl, hfly⟩⟩
  · have hheld : (c.counted q h).clampMv (c.clampMv t) = c.clampMv t := (hin.clampMv _).trans (c.clampMv_idem t)
    have hsend := Ctl.govRequest_sent (hin.govLive.trans hlive) (hin.inFlight.trans hfly) (hin.veto.trans hveto)
      (t := c.clampMv t) (by rw [hheld, hin.setMv]; exact ht)
    have hchunk : (c.counted q h).avsChunk (c.clampMv t) = c.avsChunk (c.clampMv t) := rfl
    rw [hheld, hchunk] at hsend
    rw [if_neg ht, hsend]
    refine ⟨(governed_put c F.phcGovStatusInFlight 1).trans (governed_parts _ _ c.ras _) |>.mono (by simp), ?_, rfl, rfl, rfl, ?_⟩
    · exact Ctl.get_put_ne c F.phcGovStatusInFlight F.phcGovStatusSetMv 1 (by decide) (by decide)
    · rw [if_neg ht]
      refine ⟨rfl, ?_, rfl⟩
      change (c.put F.phcGovStatusInFlight 1).on F.phcGovStatusInFlight = true
      rw [Ctl.on, Ctl.get_put_self _ _ _ (by decide)]
      rfl

theorem execGovernorIntervalEnd_eq {s : State} {lo hi : BitVec 16} (hfw : s.hw.ctl.fwRun = true) (hrun : s.hw.ctl.pwr.running = true)
    (hlines : s.hw.ctl.intervalLines ≤ s.hw.ctl.pwr.lines) : exec (.governorIntervalEnd lo hi) s =
      onCtl s (fun c => (c.intervalShown lo hi).govEvaluate false ((c.outputs.map c.slackMin).foldl min 0x7FFF)) := by
  have hexec : exec (.governorIntervalEnd lo hi) s = execGovernorIntervalEnd lo hi s := rfl
  rw [hexec]
  unfold execGovernorIntervalEnd onCtl
  dsimp only
  rw [hfw, hrun, decide_eq_true hlines]
  rfl

/-- Settles O34: the end of the interval publishes (`intervalShown`) in registers the law does not read, so the law evaluates as at the
start (`govEvaluate_acted`). -/
theorem governorLaw : Obligations.GovernorLaw := by
  unfold Obligations.GovernorLaw
  intro s lo hi c smin q asked t v hfw hrun hlines hlaw hmode hfly hveto
  have hshown := intervalShown_governed c lo hi
  have hin := hshown.inputs (lawAddrs_apart c)
  have hpwr := c.pwr_intervalShown lo hi
  have hstep : (c.intervalShown lo hi).lawStep false smin = (asked.1, asked.2.1, asked.2.2) :=
    (hin.lawStep (by rw [hpwr]) (by rw [hpwr]) false smin).trans (c.lawStep_calm smin)
  have hacted := govEvaluate_acted (hin.lawOn.trans hlaw) (hin.mode.trans hmode) (hin.inFlight.trans hfly) (hin.veto.trans hveto) smin hstep
  have hchunk : (c.intervalShown lo hi).avsChunk t = v := by simp only [Ctl.avsChunk, hin.setMv, v]
  have hsent := hacted.sent
  rw [hin.clampMv, hin.setMv, c.out_intervalShown, hchunk] at hsent
  rw [execGovernorIntervalEnd_eq hfw hrun hlines]
  apply completesCtl_onCtl
  refine ⟨hacted.setMv.trans hin.setMv, hacted.quiet, hacted.hold, hacted.lines.trans (by rw [hpwr]), ?_, ?_, fun o ho => ?_, hsent, ?_⟩
  · exact (hacted.governed.get (by decide)).trans (c.intervalShown_rateMin lo hi)
  · exact (hacted.governed.get (by decide)).trans (c.intervalShown_rateMax lo hi)
  · have hstatus : R.rasSlack o ≠ R.phcGovStatus :=
      ne_of_mem_of_not_mem (List.mem_map_of_mem ho) (not_mem_slackAddrs c (a := R.phcGovStatus) (by decide))
    exact (hacted.governed.get (by simpa using hstatus)).trans (Ctl.intervalShown_slack ho lo hi)
  · exact ((hshown.trans hacted.governed).mono (by simp [Ctl.intervalAddrs])).frame

end Sys2Proof.Machine
end

section
/-! Frames by parts: what a frame says of a change made in pieces, and the frame of each piece (registers, one part, a posting). -/

namespace Sys2Proof.Machine

/-! Parts as before. -/

theorem Part.same_refl (c : Ctl) (p : Part) : p.Same c c := by
  cases p with
  | link => exact ⟨rfl, rfl⟩
  | rings => exact ⟨rfl, rfl⟩
  | _ => rfl

theorem Part.Same.trans {c d e : Ctl} {p : Part} (h : p.Same c d) (g : p.Same d e) : p.Same c e := by
  cases p with
  | link => exact ⟨g.1.trans h.1, g.2.trans h.2⟩
  | rings => exact ⟨g.1.trans h.1, g.2.trans h.2⟩
  | log => exact Eq.trans g (by rw [show d.diag = _ from h])
  | _ => exact Eq.trans g h

/-! Frames in steps. -/

theorem Frame.refl (b : Bool) (ps : List Part) (l : List Nat) (c : Ctl) : Frame b ps l c c :=
  ⟨fun p _ _ => p.same_refl c, fun _ _ _ => rfl⟩

theorem Frame.trans {b : Bool} {ps : List Part} {l : List Nat} {c d e : Ctl} (h : Frame b ps l c d) (g : Frame b ps l d e) : Frame b ps l c e :=
  ⟨fun p hp hb => (h.1 p hp hb).trans (g.1 p hp hb), fun a ha hb => (g.2 a ha hb).trans (h.2 a ha hb)⟩

theorem Frame.mono {b : Bool} {ps qs : List Part} {l m : List Nat} {c d : Ctl} (h : Frame b ps l c d) (hps : ps ⊆ qs) (hl : l ⊆ m) :
    Frame b qs m c d :=
  ⟨fun p hp hb => h.1 p (fun hq => hp (hps hq)) hb, fun a ha hb => h.2 a (fun hm => ha (hl hm)) hb⟩

theorem Frame.foldl {α : Type} {b : Bool} {ps : List Part} {m : List Nat} (l : List α) (f : Ctl → α → Ctl)
    (h : ∀ a ∈ l, ∀ c, Frame b ps m c (f c a)) : ∀ c, Frame b ps m c (l.foldl f c) := by
  induction l with
  | nil => exact Frame.refl b ps m
  | cons a t ih => intro c; exact (h a List.mem_cons_self c).trans (ih (fun x hx => h x (List.mem_cons_of_mem a hx)) _)

/-- A register outside the list and the posting window reads as before. -/
theorem Frame.rd {b : Bool} {ps : List Part} {l : List Nat} {c d : Ctl} (h : Frame b ps l c d) {a : Nat} (ha : a ∉ l)
    (hp : postAddr a = false) : d.rd a = c.rd a := h.2 a ha (by simp [hp])

theorem Frame.get {b : Bool} {ps : List Part} {l : List Nat} {c d : Ctl} (h : Frame b ps l c d) {f : Fld} (ha : f.addr ∉ l)
    (hp : postAddr f.addr = false) : d.get f = c.get f := Ctl.get_of_rd (h.rd ha hp)

theorem Frame.on {b : Bool} {ps : List Part} {l : List Nat} {c d : Ctl} (h : Frame b ps l c d) {f : Fld} (ha : f.addr ∉ l)
    (hp : postAddr f.addr = false) : d.on f = c.on f := Ctl.on_of_rd (h.rd ha hp)

theorem Frame.vid {b : Bool} {ps : List Part} {l : List Nat} {c d : Ctl} (h : Frame b ps l c d) (hp : Part.vid ∉ ps) : d.vid = c.vid :=
  h.1 .vid hp (by simp [Part.byPosting])

theorem Frame.vc {b : Bool} {ps : List Part} {l : List Nat} {c d : Ctl} (h : Frame b ps l c d) (hp : Part.vid ∉ ps) (i : Nat) :
    d.vc i = c.vc i := by simp only [Ctl.vc, h.vid hp]

theorem Frame.ras {b : Bool} {ps : List Part} {l : List Nat} {c d : Ctl} (h : Frame b ps l c d) (hp : Part.ras ∉ ps) : d.ras = c.ras :=
  h.1 .ras hp (by simp [Part.byPosting])

theorem Frame.ports {b : Bool} {ps : List Part} {l : List Nat} {c d : Ctl} (h : Frame b ps l c d) (hp : Part.ports ∉ ps) : d.ports = c.ports :=
  h.1 .ports hp (by simp [Part.byPosting])

/-! The frames of single changes. -/

/-- Parts replaced, the registers left: the parts that differ are listed. -/
theorem frame_parts {b : Bool} {ps : List Part} {l : List Nat} {c : Ctl} {fab : Fab} {cnp : Cnp} {vid : SMap VCtx} {ports : Ports} {hng : Hng} {free : Nat}
    {out : List Output} (hfab : Part.fab ∉ ps → fab = c.fab := by simp) (hcnp : Part.cnp ∉ ps → cnp = c.cnp := by simp)
    (hvid : Part.vid ∉ ps → vid = c.vid := by simp) (hports : Part.ports ∉ ps → ports = c.ports := by simp)
    (hhng : Part.hng ∉ ps → hng = c.hng := by simp) (hfree : Part.free ∉ ps → free = c.free := by simp)
    (hout : Part.out ∉ ps → out = c.out := by simp) :
    Frame b ps l c { c with fab := fab, cnp := cnp, vid := vid, ports := ports, hng := hng, free := free, out := out } := by
  refine ⟨fun p hp _ => ?_, fun _ _ _ => rfl⟩
  cases p with
  | fab => exact hfab hp
  | cnp => exact hcnp hp
  | vid => exact hvid hp
  | ports => exact hports hp
  | hng => exact hhng hp
  | free => exact hfree hp
  | out => exact hout hp
  | link => exact ⟨rfl, rfl⟩
  | rings => exact ⟨rfl, rfl⟩
  | _ => rfl

theorem frame_vcSet (b : Bool) (c : Ctl) (s : Nat) (v : VCtx) : Frame b [.vid] [] c (c.vcSet s v) := frame_parts

theorem frame_emit (b : Bool) (c : Ctl) (o : Output) : Frame b [.out] [] c (c.emit o) := frame_parts

/-- A change of registers alone. -/
theorem OnlyRegs.frame {l : List Nat} {c d : Ctl} (h : OnlyRegs l c d) (b : Bool) : Frame b [] l c d := by
  obtain ⟨hrd, r, rfl⟩ := h
  refine ⟨fun p _ _ => ?_, fun a ha _ => hrd a ha⟩
  cases p with
  | link => exact ⟨rfl, rfl⟩
  | rings => exact ⟨rfl, rfl⟩
  | _ => rfl

/-- A posting (R279 … R292) changes what a posting may change. -/
theorem Posted.frame {c d : Ctl} (h : Posted c d) : Frame true [] [] c d := by
  refine ⟨fun p _ hb => ?_, fun a _ ha => h.rd a (by simpa using ha)⟩
  cases p with
  | now => exact h.now
  | fab => exact h.fab
  | cnp => exact h.cnp
  | vid => exact h.vid
  | ras => exact h.ras
  | ports => exact h.ports
  | jobs => exact h.jobs
  | dmas => exact h.dmas
  | link => exact ⟨h.linkUp, h.timeBase⟩
  | mail => exact h.taken
  | host => exact h.rest
  | img => exact h.img
  | und => exact h.und
  | gld => exact h.gld
  | hng => exact h.hng
  | pwr => exact h.pwr
  | boot => exact h.boot
  | tap => exact h.tap
  | _ => simp [Part.byPosting] at hb

/-- The registers of the ports and contexts are not those of a posting. -/
theorem postAddr_video {a : Nat} (h : 0x40000 ≤ a) (h' : a < 0x50000) : postAddr a = false := by
  simp [postAddr]
  omega

/-- A register field set. -/
theorem frame_put (b : Bool) (c : Ctl) (f : Fld) (x : Nat) : Frame b [] [f.addr] c (c.put f x) := (onlyRegs_put c f x).frame b

/-- A counter raised: it and DBG_SAT are all that is written (R494). -/
theorem onlyRegs_bump (c : Ctl) (f : Fld) (n : Nat) : OnlyRegs [f.addr, R.dbgSat] c (c.bump f n) :=
  ⟨fun a ha => by
    simp only [List.mem_cons, List.not_mem_nil, or_false, not_or] at ha
    exact Ctl.rd_bump_ne c f n ha.1 ha.2, Ctl.bump_eq c f n⟩

/-- Where a posting is allowed, a counter raised needs no more than its own register. -/
theorem frame_bump (c : Ctl) (f : Fld) (n : Nat) : Frame true [] [f.addr] c (c.bump f n) := by
  obtain ⟨hparts, hregs⟩ := (onlyRegs_bump c f n).frame true
  refine ⟨hparts, fun a ha hp => hregs a ?_ hp⟩
  have hsat : a ≠ R.dbgSat := by
    rintro rfl
    exact absurd hp (by decide)
  simpa [hsat] using ha

/-- A counter raised by 1 counts (R494). -/
theorem counts_bump (c : Ctl) (f : Fld) (hf : f.lo + f.n ≤ 32) (ha : f.addr ≠ R.dbgSat) : Counts c (c.bump f 1) f := c.get_bump f 1 hf ha

theorem Ctl.on_put_one (c : Ctl) {f : Fld} (h : f.lo + f.n ≤ 32) (hn : f.n = 1) : (c.put f 1).on f = true := by
  simp [Ctl.on, Ctl.get_put_self c f 1 h, hn]

theorem Ctl.on_put_zero (c : Ctl) {f : Fld} (h : f.lo + f.n ≤ 32) : (c.put f 0).on f = false := by
  simp [Ctl.on, Ctl.get_put_self c f 0 h]

theorem Ctl.on_put_bit (c : Ctl) {f : Fld} (h : f.lo + f.n ≤ 32) (hn : f.n = 1) (p : Bool) : (c.put f (bit p)).on f = p := by
  cases p with
  | false => exact c.on_put_zero h
  | true => exact c.on_put_one h hn

/-- A field of another register, or of other bits, reads as before. -/
theorem Ctl.on_put_ne (c : Ctl) (f g : Fld) (x : Nat) (h : f.lo + f.n ≤ 32)
    (hd : g.addr ≠ f.addr ∨ g.lo + g.n ≤ f.lo ∨ f.lo + f.n ≤ g.lo) : (c.put f x).on g = c.on g := by
  rw [Ctl.on, Ctl.get_put_ne c f g x h hd, Ctl.on]

theorem Ctl.on_ports (c : Ctl) (x : Ports) (f : Fld) : ({ c with ports := x } : Ctl).on f = c.on f := rfl

/-- A command over the memories that acts on the controllers alone leaves memories and queue. -/
theorem completesCtl_onHw {s : State} {f : W → W} {d : Ctl} {P : Ctl → Prop} (hf : f ⟨s.hw.ctl, s.hw.mem, []⟩ = ⟨d, s.hw.mem, []⟩) (h : P d) :
    CompletesCtl s (onHw s f) P := ⟨_, onHw_eq s f _ hf, rfl, rfl, h⟩

end Sys2Proof.Machine
end

section
/-! An input line on its way (03_video_ports.md R103 … R105, R207): what the writes into the frame store and the line ring leave alone,
the stored line, and the stages of an inner line of a frame in progress. -/

namespace Sys2Proof.Machine

/-! Bytes through the line-cache tags (R157, R158). -/

/-- The registers that a unit's DRAM accesses count in. -/
def cacheRegs : List Nat := R.dbgSat :: lcRegs

theorem frame_lcTouch (c : Ctl) (addr : Nat) (dirty : Bool) : Frame false [.cnp] cacheRegs c (c.lcTouch addr false dirty) := by
  have hwb (d : Ctl) (v : Bool) : Frame false [.cnp] cacheRegs d (if v = true then d.bump F.cnpLcWbCount 1 else d) := by
    split
    · exact ((onlyRegs_bump d F.cnpLcWbCount 1).frame false).mono (List.nil_subset _) (by simp [cacheRegs, lcRegs])
    · exact Frame.refl ..
  unfold Ctl.lcTouch
  dsimp only
  split
  · exact Frame.refl ..
  · split
    · exact frame_parts
    · refine Frame.trans ?_ frame_parts
      rw [if_neg Bool.false_ne_true]
      split
      · split
        · exact (hwb c _).trans frame_parts
        · exact Frame.refl ..
      · exact Frame.refl ..

theorem frame_lcUnit (c : Ctl) (key n : Nat) (dirty : Bool) : Frame false [.cnp] cacheRegs c (c.lcUnit key n dirty) := by
  unfold Ctl.lcUnit Ctl.lcSpan
  split
  · split
    · exact Frame.refl ..
    · exact Frame.foldl _ _ (fun i _ d => frame_lcTouch d _ dirty) c
  · exact Frame.refl ..

theorem frame_ingressEnergy (c : Ctl) (s key n : Nat) : Frame false [.fab] [] c (c.ingressEnergy s key n) := by
  unfold Ctl.ingressEnergy
  dsimp only
  split
  · exact frame_parts
  · exact Frame.refl ..

/-- The parts and registers that moving a line may touch: Canopy's controllers, the fabric's energy estimates, counts. -/
def transferRegs : List Nat := R.cnpClrPending :: cacheRegs

/-- d is c but for what moving a line's bytes may change. -/
def Transfers (c d : Ctl) : Prop := Frame false [.cnp, .fab] transferRegs c d

theorem transfers_putKey (w : W) (k : Nat) (bs : List Byte) : Transfers w.ctl (w.putKey k bs).ctl := by
  have hclr : Transfers w.ctl (w.actC (.put k bs)).ctl :=
    (frame_put false w.ctl F.cnpClrPendingLines _).mono (List.nil_subset _) (by simp [transferRegs])
  exact hclr.trans ((frame_lcUnit _ k bs.length true).mono (by simp) (by simp [transferRegs]))

theorem transfers_energy (c : Ctl) (s key n : Nat) : Transfers c (c.ingressEnergy s key n) :=
  (frame_ingressEnergy c s key n).mono (by simp) (by simp)

theorem transfers_storeTouch (w : W) (s b y : Nat) : Transfers w.ctl (w.storeTouch s b y).ctl :=
  Frame.trans ((frame_lcUnit w.ctl _ _ false).mono (by simp) (by simp [transferRegs])) (transfers_energy _ s _ _)

/-! The stored line (R105). -/

theorem splice_whole {l new : List Nat} (h : l.length = new.length) : splice l 0 new = new := by
  simp [splice, ← h]

/-- The planes of a stored row are as long as STC_s_GEOM and FMT give. -/
theorem storeRow_lengths (w : W) (s b r : Nat) : (w.storeRow s b r).map List.length =
    [w.ctl.storeW s, w.ctl.chromaOf s (w.ctl.storeW s), w.ctl.chromaOf s (w.ctl.storeW s)] := by
  simp [W.storeRow, unpackVals]
  omega

theorem Ctl.chromaOf_zero (c : Ctl) (s : Nat) : c.chromaOf s 0 = 0 := by
  unfold Ctl.chromaOf
  split <;> rfl

/-- A line as wide as the stored row replaces it whole. -/
theorem storePut_whole (w : W) (s b r : Nat) {px : Line}
    (h : px.map List.length = [w.ctl.storeW s, w.ctl.chromaOf s (w.ctl.storeW s), w.ctl.chromaOf s (w.ctl.storeW s)]) :
    w.storePut s b r 0 px = (w.putKey (w.ctl.storeKey s b r) (toBytes (w.ctl.storePitch s) (packVals (w.ctl.bpc s) (px.flatMap id)))).on
      (fun c => c.ingressEnergy s (c.storeKey s b r) (c.storePitch s)) := by
  have hold := storeRow_lengths w s b r
  unfold W.storePut
  dsimp only
  generalize w.storeRow s b r = old at hold ⊢
  obtain ⟨p, q, u, rfl⟩ := List.length_eq_three.mp (by simpa using congrArg List.length h : px.length = 3)
  obtain ⟨p', q', u', rfl⟩ := List.length_eq_three.mp (by simpa using congrArg List.length hold : old.length = 3)
  simp only [List.map_cons, List.map_nil, List.cons.injEq, and_true] at h hold
  obtain ⟨hp, hq, hu⟩ := h
  obtain ⟨hp', hq', hu'⟩ := hold
  simp only [nth, Ctl.chromaOf_zero, List.getD_cons_zero, List.getD_cons_succ]
  rw [splice_whole (hp'.trans hp.symm), splice_whole (hq'.trans hq.symm), splice_whole (hu'.trans hu.symm)]

/-- The bytes of a stored row, as its planes pack them. -/
def Ctl.storeBytes (c : Ctl) (s : Nat) (px : Line) : List Byte := toBytes (c.storePitch s) (packVals (c.bpc s) (px.flatMap id))

/-- Outside a wall an own line is the row it is written to: its bytes go to that row's key. -/
theorem storeOwn_plain {w : W} {s y : Nat} {px : Line} (hh : w.ctl.haloed s = false)
    (h : px.map List.length = [w.ctl.get (F.stcGeomHact s), w.ctl.chromaN s, w.ctl.chromaN s]) :
    Transfers w.ctl (w.storeOwn s y px).ctl ∧
    (w.storeOwn s y px).acts = .put (w.ctl.storeKey s (w.ctl.vc s).buf y) (w.ctl.storeBytes s px) :: w.acts := by
  have hwide : w.ctl.storeW s = w.ctl.get (F.stcGeomHact s) := by simp [Ctl.storeW, hh]
  have hown : w.storeOwn s y px = w.storePut s (w.ctl.vc s).buf y 0 px := by simp [W.storeOwn, hh]
  rw [hown, storePut_whole w s _ y (by rw [hwide]; exact h)]
  exact ⟨(transfers_putKey w _ _).trans (transfers_energy _ s _ _), rfl⟩

/-! A signal on the semaphore of a line ring (R198, R205, R207). -/

/-- Neither the contexts nor raster nor ports change. -/
structure Beside (c d : Ctl) : Prop where
  vid : d.vid = c.vid
  ras : d.ras = c.ras
  ports : d.ports = c.ports

theorem Beside.trans {c d e : Ctl} (h : Beside c d) (g : Beside d e) : Beside c e :=
  ⟨g.vid.trans h.vid, g.ras.trans h.ras, g.ports.trans h.ports⟩

theorem Frame.beside {b : Bool} {ps : List Part} {l : List Nat} {c d : Ctl} (h : Frame b ps l c d) (hv : Part.vid ∉ ps) (hr : Part.ras ∉ ps)
    (hp : Part.ports ∉ ps) : Beside c d := ⟨h.vid hv, h.ras hr, h.ports hp⟩

theorem beside_bump (c : Ctl) (f : Fld) (n : Nat) : Beside c (c.bump f n) :=
  ((onlyRegs_bump c f n).frame false).beside (by simp) (by simp) (by simp)

theorem beside_event (c : Ctl) {code : Nat} (h : code < 0x1000) (src : Nat) (a0 a1 : Word) : Beside c (c.event code src a0 a1) :=
  (posted_event c code src a0 a1 h).frame.beside (by simp) (by simp) (by simp)

/-- The first misuse of a ring in the frame is noted in the fabric and posted (R206, R207). -/
theorem beside_misuse (c : Ctl) (p : Bool) (f : Fab) {code : Nat} (h : code < 0x1000) (src : Nat) (a0 a1 : Word) :
    Beside c (if p = true then c else ({ c with fab := f }).event code src a0 a1) := by
  have hnoted : Beside c { c with fab := f } := ⟨rfl, rfl, rfl⟩
  split
  · exact ⟨rfl, rfl, rfl⟩
  · exact hnoted.trans (beside_event _ h src a0 a1)

theorem beside_slotOver (c : Ctl) (x : SlotRef) (core : Nat) : Beside c (c.slotOver x core) := by
  unfold Ctl.slotOver
  cases x with
  | ring r i => exact (beside_bump c _ 1).trans (beside_misuse _ _ _ (by decide) _ _ _)
  | line s i => exact beside_misuse c _ _ (by decide) _ _ _
  | out s i => exact beside_misuse c _ _ (by decide) _ _ _

theorem beside_slotUnder (c : Ctl) (x : SlotRef) (core : Nat) : Beside c (c.slotUnder x core) := by
  unfold Ctl.slotUnder
  cases x with
  | _ => exact (beside_bump c _ 1).trans (beside_misuse _ _ _ (by decide) _ _ _)

theorem beside_fillOne (c : Ctl) (r core : Nat) : Beside c (c.fillOne r core) := by
  unfold Ctl.fillOne
  dsimp only
  split
  · refine Beside.trans ?_ (beside_slotOver _ _ core)
    exact ⟨rfl, rfl, rfl⟩
  · exact ⟨rfl, rfl, rfl⟩

theorem beside_drainOne (c : Ctl) (r core : Nat) : Beside c (c.drainOne r core) := by
  unfold Ctl.drainOne
  dsimp only
  split
  · exact ⟨rfl, rfl, rfl⟩
  · refine Beside.trans ?_ (beside_slotUnder _ _ core)
    exact ⟨rfl, rfl, rfl⟩

/-- What a signal on sem may change: the services' registers, and of the contexts only those whose empty semaphore it is (R207). -/
structure Signalled (sem : Nat) (c d : Ctl) : Prop where
  served : Served [] c d
  vc : ∀ i < 24, c.get (F.stcRingSem i) + 1 ≠ sem → d.vc i = c.vc i
  ras : d.ras = c.ras
  ports : d.ports = c.ports

theorem serviceAddr_stc {a : Nat} (h : 0x41000 ≤ a) (h' : a < 0x42000) (hm : a % 0x80 ≠ 0x38) : serviceAddr a = false := by
  simp [serviceAddr, postAddr]
  omega

/-- The services of a deadline leave a field of a context's registers but MISS. -/
theorem Served.stc {c d : Ctl} (h : Served [] c d) {f : Fld} (ha : 0x41000 ≤ f.addr ∧ f.addr < 0x42000 ∧ f.addr % 0x80 ≠ 0x38) :
    d.get f = c.get f := h.get (serviceAddr_stc ha.1 ha.2.1 ha.2.2) List.not_mem_nil

theorem Served.ringSem {c d : Ctl} (h : Served [] c d) {i : Nat} (hi : i < 24) : d.get (F.stcRingSem i) = c.get (F.stcRingSem i) :=
  h.stc (by simp only [R.stcRing]; omega)

theorem Signalled.refl (sem : Nat) (c : Ctl) : Signalled sem c c := ⟨Served.refl [] c, fun _ _ _ => rfl, rfl, rfl⟩

theorem Signalled.trans {sem : Nat} {c d e : Ctl} (h : Signalled sem c d) (g : Signalled sem d e) : Signalled sem c e :=
  ⟨h.served.trans g.served, fun i hi hs => (g.vc i hi (by rwa [h.served.ringSem hi])).trans (h.vc i hi hs), g.ras.trans h.ras,
    g.ports.trans h.ports⟩

theorem Beside.signalled {c d : Ctl} (h : Beside c d) (hs : Served [] c d) (sem : Nat) : Signalled sem c d :=
  ⟨hs, fun i _ _ => by simp only [Ctl.vc, h.vid], h.ras, h.ports⟩

theorem signalled_foldl {α : Type} {sem : Nat} (l : List α) (f : Ctl → α → Ctl) (h : ∀ a ∈ l, ∀ c, Signalled sem c (f c a)) :
    ∀ c, Signalled sem c (l.foldl f c) := by
  induction l with
  | nil => exact Signalled.refl sem
  | cons a t ih => intro c; exact (h a List.mem_cons_self c).trans (ih (fun x hx => h x (List.mem_cons_of_mem a hx)) _)

/-- A line ring drained by a signal on its empty semaphore. -/
theorem signalled_drainLine {c : Ctl} {s sem : Nat} (hs : s < 24) (hsem : c.get (F.stcRingSem s) + 1 = sem) (core : Nat) :
    Signalled sem c (c.drainLine s core) := by
  have hset (v : VCtx) (hv : v.frame = (c.vc s).frame) : Signalled sem c (c.vcSet s v) := by
    refine ⟨served_vcSet c s v hv, fun i hi hne => ?_, rfl, rfl⟩
    rw [Ctl.vc_vcSet, if_neg]
    rintro rfl
    exact hne hsem
  unfold Ctl.drainLine
  dsimp only
  split
  · exact hset _ rfl
  · refine Signalled.trans ?_ ((beside_slotUnder _ _ core).signalled (served_slotUnder_line _ hs _ core) sem)
    exact hset _ rfl

theorem signalled_forN {sem : Nat} (n : Nat) (f : Ctl → Ctl) (c : Ctl) (h : ∀ d, Signalled sem c d → Signalled sem d (f d)) :
    Signalled sem c (forN n (fun _ d => f d) c) := by
  unfold forN
  generalize List.range n = l
  suffices ∀ d, Signalled sem c d → Signalled sem c (l.foldl (fun x _ => f x) d) from this c (Signalled.refl sem c)
  induction l with
  | nil => exact fun d hd => hd
  | cons a t ih => exact fun d hd => ih _ (hd.trans (h d hd))

theorem signalled_signalTags (c : Ctl) (sem n core : Nat) : Signalled sem c (c.signalTags sem n core) := by
  unfold Ctl.signalTags
  refine Signalled.trans (signalled_foldl (List.range 128) _ (fun r hr d => ?_) c) (signalled_foldl (List.range 24) _ (fun s hs d => ?_) _)
  · have hr := List.mem_range.mp hr
    split
    · exact Signalled.refl sem d
    · split
      · exact signalled_forN n _ d (fun e _ => (beside_fillOne e r core).signalled (served_fillOne e hr core) sem)
      · split
        · exact signalled_forN n _ d (fun e _ => (beside_drainOne e r core).signalled (served_drainOne e hr core) sem)
        · exact Signalled.refl sem d
  · have hs := List.mem_range.mp hs
    split
    · rename_i hcond
      obtain ⟨-, hsem⟩ := Bool.and_eq_true_iff.mp hcond
      exact signalled_forN n _ d (fun e he => signalled_drainLine hs (by rw [he.served.ringSem hs]; exact beq_iff_eq.mp hsem) core)
    · exact Signalled.refl sem d

theorem signalled_signalHw (c : Ctl) {sem : Nat} (hs : sem < 256) (n : Nat) : Signalled sem c (c.signalHw sem n) := by
  have hadd : Beside c (c.semAdd sem n) := ((semAdd_onlyRegs c sem n).frame false).beside (by simp) (by simp) (by simp)
  have htags := signalled_signalTags (c.semAdd sem n) sem n 0xFF
  refine ⟨served_signalHw c hs n, fun i hi hne => ?_, htags.ras.trans hadd.ras, htags.ports.trans hadd.ports⟩
  have hreg : (c.semAdd sem n).get (F.stcRingSem i) = c.get (F.stcRingSem i) :=
    Ctl.get_of_rd ((semAdd_onlyRegs c sem n).1 _ (by simp [R.stcRing, R.semCount]; omega))
  exact (htags.vc i hi (by rwa [hreg])).trans (by simp only [Ctl.vc, hadd.vid])

/-! A line into the line ring (R103, R104, R207). -/

theorem Transfers.served {c d : Ctl} (h : Transfers c d) : Served [] c d := by
  refine .of_parts (fun a ha _ => h.rd (fun hm => ?_) (postAddr_of_service ha)) (h.ras (by simp)) (h.vid (by simp))
  have hall : ∀ b ∈ transferRegs, serviceAddr b = true := by decide
  rw [hall a hm] at ha
  exact absurd ha (by decide)

theorem Transfers.vc {c d : Ctl} (h : Transfers c d) (i : Nat) : d.vc i = c.vc i := Frame.vc h (by simp) i
theorem Transfers.ras {c d : Ctl} (h : Transfers c d) : d.ras = c.ras := Frame.ras h (by simp)
theorem Transfers.ports {c d : Ctl} (h : Transfers c d) : d.ports = c.ports := Frame.ports h (by simp)

theorem served_slotOver_line (c : Ctl) (s i core : Nat) : Served [] c (c.slotOver (.line s i) core) := by
  unfold Ctl.slotOver
  dsimp only
  split
  · exact Served.refl [] c
  · exact (served_fab c _).event (by decide) _ _ _

/-- The position in the ring advances, and of what else the line may meet nothing of its own context changes (R104, R207). -/
structure RingTakes (s : Nat) (w r : W) (fill : Nat) : Prop where
  served : Served [] w.ctl r.ctl
  ras : r.ctl.ras = w.ctl.ras
  vc : r.ctl.vc s = { w.ctl.vc s with ringTail := ((w.ctl.vc s).ringTail + 1) % max 1 (w.ctl.get (F.stcRingDepth s)), ringFill := fill }

/-- A line into an undrained slot is discarded: SLOT_OVER, LINE_OVER (R104). -/
theorem ringLine_over {w : W} {s : Nat} (hs : s < 24) (hfull : tbit (w.ctl.vc s).ringFill (w.ctl.vc s).ringTail = true) (bs : List Byte) :
    RingTakes s w (w.ringLine s bs) (w.ctl.vc s).ringFill := by
  have heq : (w.ringLine s bs).ctl = ((w.ctl.vcSet s { w.ctl.vc s with
      ringTail := ((w.ctl.vc s).ringTail + 1) % max 1 (w.ctl.get (F.stcRingDepth s)) }).slotOver (.line s (w.ctl.vc s).ringTail) 0xFF).bump
      (F.stcMissLineOver s) 1 := by
    unfold W.ringLine
    dsimp only
    rw [if_pos hfull, W.on_ctl]
  generalize hv : { w.ctl.vc s with ringTail := ((w.ctl.vc s).ringTail + 1) % max 1 (w.ctl.get (F.stcRingDepth s)) } = v at heq
  have hbeside := (beside_slotOver (w.ctl.vcSet s v) (.line s (w.ctl.vc s).ringTail) 0xFF).trans (beside_bump _ (F.stcMissLineOver s) 1)
  refine ⟨?_, ?_, ?_⟩ <;> rw [heq]
  · exact ((served_vcSet w.ctl s v (by rw [← hv])).trans (served_slotOver_line _ s _ _)).trans
      (served_bump _ _ 1 (by simp [serviceAddr, R.stcMiss]; omega))
  · exact hbeside.ras
  · rw [Ctl.vc, hbeside.vid, ← Ctl.vc, Ctl.vc_vcSet_self, ← hv]

/-- A line into a free slot: its bytes, its fill tag, and the full semaphore (R103, R207). -/
theorem ringLine_free {w : W} {s : Nat} (hs : s < 24) (hfree : tbit (w.ctl.vc s).ringFill (w.ctl.vc s).ringTail = false) (bs : List Byte) :
    RingTakes s w (w.ringLine s bs) (setBit (w.ctl.vc s).ringFill (w.ctl.vc s).ringTail) ∧
    (w.ringLine s bs).acts = .put (w.ctl.hKey (w.ctl.get (F.stcRingHandle s)) ((w.ctl.vc s).ringTail * w.ctl.lineSlot s)) bs :: w.acts := by
  generalize hv : { w.ctl.vc s with ringTail := ((w.ctl.vc s).ringTail + 1) % max 1 (w.ctl.get (F.stcRingDepth s))
                                    ringFill := setBit (w.ctl.vc s).ringFill (w.ctl.vc s).ringTail } = v
  obtain ⟨e, hmoved, heq, hacts⟩ : ∃ e, Transfers w.ctl e ∧
      (w.ringLine s bs).ctl = (e.vcSet s v).signalHw (e.get (F.stcRingSem s)) 1 ∧
      (w.ringLine s bs).acts = .put (w.ctl.hKey (w.ctl.get (F.stcRingHandle s)) ((w.ctl.vc s).ringTail * w.ctl.lineSlot s)) bs :: w.acts := by
    unfold W.ringLine
    dsimp only
    rw [if_neg (by simp [hfree])]
    have hput := transfers_putKey w (w.ctl.hKey (w.ctl.get (F.stcRingHandle s)) ((w.ctl.vc s).ringTail * w.ctl.lineSlot s)) bs
    generalize hk : w.putKey _ bs = r at hput
    have henergy := transfers_energy r.ctl s (r.ctl.hKey (r.ctl.get (F.stcRingHandle s)) 0) bs.length
    refine ⟨_, hput.trans henergy, ?_, by rw [W.on_acts, ← hk]; rfl⟩
    rw [W.on_ctl, ← hv, henergy.served.ringSem hs]
  have hsignal := signalled_signalHw (e.vcSet s v) (Ctl.get_lt e (F.stcRingSem s)) 1
  refine ⟨⟨?_, ?_, ?_⟩, hacts⟩ <;> rw [heq]
  · exact (hmoved.served.trans (served_vcSet e s v (by rw [hmoved.vc, ← hv]))).trans hsignal.served
  · exact hsignal.ras.trans hmoved.ras
  · rw [hsignal.vc s hs (by rw [Ctl.get_vcSet]; omega), Ctl.vc_vcSet_self, ← hv]

/-- A line into the ring, whatever its slot holds. -/
theorem ringLine_takes (w : W) {s : Nat} (hs : s < 24) (bs : List Byte) : ∃ fill, RingTakes s w (w.ringLine s bs) fill := by
  cases h : tbit (w.ctl.vc s).ringFill (w.ctl.vc s).ringTail with
  | true => exact ⟨_, ringLine_over hs h bs⟩
  | false => exact ⟨_, (ringLine_free hs h bs).1⟩

/-! Lintel's line store (R39). -/

/-- The line just taken is the latest in Lintel's store; nothing but raster changes. -/
theorem lintelLine_last (c : Ctl) (s y : Nat) (px : Line) :
    (mget [] (c.lintelLine s y px).ras.lintelStore s).getLast? = some (y, px) := by
  unfold Ctl.lintelLine
  dsimp only
  rw [mget_mset_self]
  generalize mget [] c.ras.lintelStore s = l
  rw [List.getLast?_drop, if_neg (by simp), List.getLast?_append]
  simp

/-! An inner line of a frame in progress (R103, R105). -/

/-- Line y has come: the next one is y + 1. -/
def Ctl.lineNoted (c : Ctl) (s y : Nat) : Ctl := c.vcMod s (fun v => { v with whole := v.whole && v.nextLine == y, nextLine := y + 1 })

/-- What follows a line that is in: its halos in a wall (R400), its luma while the stream runs (R342). -/
def Ctl.lineSeen (c : Ctl) (s y : Nat) (px : Line) : Ctl :=
  let c := if c.haloed s then c.haloSend s y px else c
  if c.get (F.stcStatusState s) = 3 then c.vcMod s (fun v => { v with luma := v.luma ++ [nth [] px 0] }) else c

/-- A line that ingress takes and that neither starts nor ends a frame. -/
structure Inner (c : Ctl) (s y : Nat) (px : Line) : Prop where
  notFirst : y ≠ 0
  notLast : y + 1 ≠ c.get (F.stcGeomVact s)
  shape : c.lineOk s y px = true
  frame : (c.vc s).inFrame ≠ 0
  measured : (c.vc s).measured = true

theorem ingress_inner {w : W} {s y : Nat} {px : Line} (h : Inner w.ctl s y px) (t : InTiming) : w.ingress s y px t =
    (let px := w.ctl.ingLine s y px
     let live := !w.ctl.on (F.stcCtrlMode s) && ((w.ctl.vc s).lossMode == 0 || ((w.ctl.vc s).back && (w.ctl.vc s).fresh))
     let w := w.on (fun c => c.lineNoted s y)
     let w := if live then w.on (fun c => c.lintelLine s y px) else w
     let w := w.storeOwn s y px
     let w := if live then w.ringLine s (lineBytesOf px) else w
     w.on (fun c => c.lineSeen s y px)) := by
  obtain ⟨hy, hlast, hok, hframe, hmeas⟩ := h
  unfold W.ingress
  dsimp only
  rw [if_neg hy, if_neg hframe, if_neg (by simp [hok, hmeas]), if_neg (fun hend => hlast hend.1)]
  rfl

theorem lineSeen_plain {c : Ctl} {s : Nat} (hh : c.haloed s = false) (y : Nat) (px : Line) :
    Frame false [.vid] [] c (c.lineSeen s y px) ∧ (∀ j, j ≠ s → (c.lineSeen s y px).vc j = c.vc j) ∧
    ∃ l, (c.lineSeen s y px).vc s = { c.vc s with luma := l } := by
  unfold Ctl.lineSeen
  rw [hh, if_neg Bool.false_ne_true]
  dsimp only
  split
  · exact ⟨frame_vcSet false c s _, fun j hj => (Ctl.vc_vcSet ..).trans (if_neg hj), _, Ctl.vc_vcSet_self ..⟩
  · exact ⟨Frame.refl .., fun _ _ => rfl, (c.vc s).luma, rfl⟩

/-- Ingress keeps a line's shape (R103). -/
theorem ingLine_shape {c : Ctl} {s y : Nat} {px : Line} (h : c.lineOk s y px = true) :
    (c.ingLine s y px).map List.length = [c.get (F.stcGeomHact s), c.chromaN s, c.chromaN s] := by
  obtain ⟨-, hshape⟩ := Bool.and_eq_true_iff.mp h
  have hshape := beq_iff_eq.mp hshape
  obtain ⟨p, q, u, rfl⟩ := List.length_eq_three.mp (by simpa using congrArg List.length hshape : px.length = 3)
  rw [← hshape]
  unfold Ctl.ingLine
  dsimp only
  split <;> simp [nth]

/-! What the shape of a context's lines is read from. -/

/-- The fields that give the shape and the place of the lines of context s. -/
def shapeFields (s : Nat) : List Fld := [F.stcCtrlSrc s, F.stcCtrlMode s, F.stcGeomHact s, F.stcGeomVact s, F.stcFmtSamp s, F.stcFmtBpc s,
  F.stcFstoreBase s, F.hngPairStatusMode]

/-- The lines of context s have the same shape and place. -/
def SameShape (s : Nat) (c d : Ctl) : Prop := ∀ f ∈ shapeFields s, d.get f = c.get f

section
variable {s : Nat} {c d : Ctl} (h : SameShape s c d)
include h

theorem SameShape.hact : d.get (F.stcGeomHact s) = c.get (F.stcGeomHact s) := h _ (by simp [shapeFields])
theorem SameShape.vact : d.get (F.stcGeomVact s) = c.get (F.stcGeomVact s) := h _ (by simp [shapeFields])
theorem SameShape.samp : d.get (F.stcFmtSamp s) = c.get (F.stcFmtSamp s) := h _ (by simp [shapeFields])
theorem SameShape.mode : d.on (F.stcCtrlMode s) = c.on (F.stcCtrlMode s) := by
  rw [Ctl.on, h _ (by simp [shapeFields]), Ctl.on]

theorem SameShape.chromaN : d.chromaN s = c.chromaN s := by rw [Ctl.chromaN, h.samp, h.hact, Ctl.chromaN]
theorem SameShape.lineSlot : d.lineSlot s = c.lineSlot s := by rw [Ctl.lineSlot, h.hact, h.chromaN, h.mode, Ctl.lineSlot]
theorem SameShape.bpc : d.bpc s = c.bpc s := by rw [Ctl.bpc, h _ (by simp [shapeFields]), Ctl.bpc]
theorem SameShape.lineOk (y : Nat) (px : Line) : d.lineOk s y px = c.lineOk s y px := by
  rw [Ctl.lineOk, h.vact, h.hact, h.chromaN, Ctl.lineOk]

theorem SameShape.haloed : d.haloed s = c.haloed s := by
  have hmode : d.mode = c.mode := h F.hngPairStatusMode (by simp [shapeFields])
  rw [Ctl.haloed, hmode, h (F.stcCtrlSrc s) (by simp [shapeFields]), Ctl.haloed]

theorem SameShape.ingLine (y : Nat) (px : Line) : d.ingLine s y px = c.ingLine s y px := by rw [Ctl.ingLine, h.bpc, h.samp, Ctl.ingLine]

theorem SameShape.storePitch : d.storePitch s = c.storePitch s := by
  have hw : d.storeW s = c.storeW s := by rw [Ctl.storeW, h.hact, h.haloed, Ctl.storeW]
  rw [Ctl.storePitch, h.bpc, hw, Ctl.chromaOf, h.samp, Ctl.storePitch, Ctl.chromaOf]

theorem SameShape.storeBytes (px : Line) : d.storeBytes s px = c.storeBytes s px := by
  rw [Ctl.storeBytes, h.storePitch, h.bpc, Ctl.storeBytes]

theorem SameShape.storeKey (b r : Nat) : d.storeKey s b r = c.storeKey s b r := by
  have hh : d.storeH s = c.storeH s := by rw [Ctl.storeH, h.vact, h.haloed, Ctl.storeH]
  rw [Ctl.storeKey, Ctl.storeFrame, h _ (by simp [shapeFields]), hh, h.storePitch, Ctl.storeKey, Ctl.storeFrame]

theorem SameShape.inner {y : Nat} {px : Line} (hi : Inner c s y px) (hv : d.vc s = c.vc s) : Inner d s y px :=
  ⟨hi.notFirst, by rw [h.vact]; exact hi.notLast, by rw [h.lineOk]; exact hi.shape, by rw [hv]; exact hi.frame, by rw [hv]; exact hi.measured⟩

end

/-- The shape is read from the context's registers, but not from MISS, and from the mode. -/
theorem shapeFields_addr {s : Nat} (hs : s < 24) {f : Fld} (hf : f ∈ shapeFields s) :
    0x41000 ≤ f.addr ∧ f.addr < 0x42000 ∧ f.addr % 0x80 ≠ 0x38 ∨ f.addr = R.hngPairStatus := by
  simp only [shapeFields, List.mem_cons, List.not_mem_nil, or_false] at hf
  rcases hf with rfl | rfl | rfl | rfl | rfl | rfl | rfl | rfl
  case inr.inr.inr.inr.inr.inr.inr => exact .inr rfl
  all_goals
    simp only [R.stcCtrl, R.stcGeom, R.stcFmt, R.stcFstore]
    omega

theorem Served.shape {c d : Ctl} (h : Served [] c d) {s : Nat} (hs : s < 24) : SameShape s c d := by
  intro f hf
  rcases shapeFields_addr hs hf with ha | ha
  · exact h.stc ha
  · exact h.get (by rw [ha]; decide) List.not_mem_nil

theorem Served.hKey {c d : Ctl} (h : Served [] c d) {n : Nat} (hn : n < 256) (off : Nat) : d.hKey n off = c.hKey n off := by
  have htab {f : Fld} (ha : 0x101000 ≤ f.addr ∧ f.addr < 0x102000) : d.rd f.addr = c.rd f.addr :=
    h.rd _ (by simp [serviceAddr, postAddr]; omega) List.not_mem_nil
  have htarget : d.on (F.cnpHtW0Target n) = c.on (F.cnpHtW0Target n) := Ctl.on_of_rd (htab (by simp only [R.cnpHtW0]; omega))
  have hbase : d.get (F.cnpHtW1Base n) = c.get (F.cnpHtW1Base n) := Ctl.get_of_rd (htab (by simp only [R.cnpHtW1]; omega))
  rw [Ctl.hKey, Ctl.hBase, htarget, hbase, Ctl.hKey, Ctl.hBase]

theorem Ctl.vc_lineNoted (c : Ctl) (s y j : Nat) : (c.lineNoted s y).vc j =
    if j = s then { c.vc s with whole := (c.vc s).whole && (c.vc s).nextLine == y, nextLine := y + 1 } else c.vc j := Ctl.vc_vcSet ..

/-- An inner line in re-timing mode: it goes into the frame store alone (R105). -/
theorem ingress_retimed {w : W} {s y : Nat} (hs : s < 24) {px : Line} (h : Inner w.ctl s y px) (hmode : w.ctl.on (F.stcCtrlMode s) = true)
    (hh : w.ctl.haloed s = false) (t : InTiming) :
    (w.ingress s y px t).acts = .put (w.ctl.storeKey s (w.ctl.vc s).buf y) (w.ctl.storeBytes s (w.ctl.ingLine s y px)) :: w.acts ∧
    ((w.ingress s y px t).ctl.vc s).nextLine = y + 1 ∧ (∀ j, j ≠ s → (w.ingress s y px t).ctl.vc j = w.ctl.vc j) ∧
    (w.ingress s y px t).ctl.ports = w.ctl.ports := by
  have hstage : SameShape s w.ctl (w.ctl.lineNoted s y) := fun _ _ => rfl
  obtain ⟨hmoved, hacts⟩ := storeOwn_plain (w := w.on (fun c => c.lineNoted s y)) (y := y) (px := w.ctl.ingLine s y px) hh (ingLine_shape h.shape)
  rw [W.on_acts, W.on_ctl, hstage.storeKey, hstage.storeBytes, Ctl.vc_lineNoted, if_pos rfl] at hacts
  rw [ingress_inner h t]
  simp only [hmode, Bool.not_true, Bool.false_and, Bool.false_eq_true, if_false]
  generalize (w.on (fun c => c.lineNoted s y)).storeOwn s y (w.ctl.ingLine s y px) = r at hmoved hacts ⊢
  have hnoted (j : Nat) := (hmoved.vc j).trans (w.ctl.vc_lineNoted s y j)
  obtain ⟨hframe, hothers, l, hown⟩ := lineSeen_plain ((hmoved.served.shape hs).haloed.trans hh) y (w.ctl.ingLine s y px)
  refine ⟨hacts, ?_, fun j hj => ?_, (hframe.ports (by simp)).trans hmoved.ports⟩
  · rw [W.on_ctl, hown, hnoted, if_pos rfl]
  · rw [W.on_ctl, hothers j hj, hnoted, if_neg hj]

/-- An inner line in direct mode, nothing lost and a slot free: into Lintel's store, the frame store and the ring (R103 … R105, R39). -/
theorem ingress_direct {w : W} {s y : Nat} (hs : s < 24) {px : Line} (h : Inner w.ctl s y px) (hmode : w.ctl.on (F.stcCtrlMode s) = false)
    (hloss : (w.ctl.vc s).lossMode = 0) (hh : w.ctl.haloed s = false) (hfree : tbit (w.ctl.vc s).ringFill (w.ctl.vc s).ringTail = false)
    (t : InTiming) :
    let r := w.ingress s y px t
    r.acts = .put (w.ctl.hKey (w.ctl.get (F.stcRingHandle s)) ((w.ctl.vc s).ringTail * w.ctl.lineSlot s)) (lineBytesOf (w.ctl.ingLine s y px)) ::
      .put (w.ctl.storeKey s (w.ctl.vc s).buf y) (w.ctl.storeBytes s (w.ctl.ingLine s y px)) :: w.acts ∧
    (r.ctl.vc s).nextLine = y + 1 ∧ (r.ctl.vc s).ringFill = setBit (w.ctl.vc s).ringFill (w.ctl.vc s).ringTail ∧
    (r.ctl.vc s).ringTail = ((w.ctl.vc s).ringTail + 1) % max 1 (w.ctl.get (F.stcRingDepth s)) ∧
    (mget [] r.ctl.ras.lintelStore s).getLast? = some (y, w.ctl.ingLine s y px) ∧
    ∀ a, serviceAddr a = false → r.ctl.rd a = w.ctl.rd a := by
  dsimp only
  rw [ingress_inner h t]
  simp only [hmode, hloss, Bool.not_false, Bool.true_and, beq_self_eq_true, Bool.true_or, if_true]
  have hshape := ingLine_shape h.shape
  generalize w.ctl.ingLine s y px = line at hshape ⊢
  have hstage : SameShape s w.ctl ((w.ctl.lineNoted s y).lintelLine s y line) := fun _ _ => rfl
  have hkey (n o : Nat) : ((w.ctl.lineNoted s y).lintelLine s y line).hKey n o = w.ctl.hKey n o := rfl
  have hvc : ((w.ctl.lineNoted s y).lintelLine s y line).vc s = _ := (w.ctl.vc_lineNoted s y s).trans (if_pos rfl)
  obtain ⟨hmoved, hacts⟩ := storeOwn_plain (w := (w.on (fun c => c.lineNoted s y)).on (fun c => c.lintelLine s y line)) (y := y) hh hshape
  rw [W.on_acts, W.on_acts, W.on_ctl, W.on_ctl, hstage.storeKey, hstage.storeBytes, hvc] at hacts
  generalize W.storeOwn _ s y line = r at hmoved hacts ⊢
  have hnoted := (hmoved.vc s).trans hvc
  obtain ⟨⟨hserved, hras, htaken⟩, hput⟩ := ringLine_free hs (by rw [hnoted]; exact hfree) (lineBytesOf line)
  generalize r.ringLine s (lineBytesOf line) = q at hserved hras htaken hput ⊢
  obtain ⟨hframe, -, l, hown⟩ := lineSeen_plain ((hserved.shape hs).haloed.trans ((hmoved.served.shape hs).haloed.trans hh)) y line
  have hdepth : r.ctl.get (F.stcRingDepth s) = w.ctl.get (F.stcRingDepth s) := hmoved.served.stc (by simp only [R.stcRing]; omega)
  have hhandle : r.ctl.get (F.stcRingHandle s) = w.ctl.get (F.stcRingHandle s) := hmoved.served.stc (by simp only [R.stcRing]; omega)
  refine ⟨?_, ?_, ?_, ?_, ?_, fun a ha => ?_⟩
  · rw [W.on_acts, hput, hacts, hnoted, hhandle, (hmoved.served.shape hs).lineSlot, hmoved.served.hKey (Ctl.get_lt _ _),
      W.on_ctl, W.on_ctl, hkey, hstage.lineSlot]
  · rw [W.on_ctl, hown, htaken, hnoted]
  · rw [W.on_ctl, hown, htaken, hnoted]
  · rw [W.on_ctl, hown, htaken, hnoted, hdepth]
  · rw [W.on_ctl, hframe.ras (by simp), hras, hmoved.ras]
    exact lintelLine_last _ s y _
  · exact ((hframe.rd List.not_mem_nil (postAddr_of_service ha)).trans (hserved.rd a ha List.not_mem_nil)).trans
      (hmoved.served.rd a ha List.not_mem_nil)

end Sys2Proof.Machine
end

section
/-! The CSI-2 receiver and the transmitters (03_video_ports.md R95, R96, R116). -/

namespace Sys2Proof.Machine

/-! Frames and lines in progress (R95). -/

theorem csiOn_eq {c : Ctl} (hrun : c.running = true) (hen : c.on F.vidCsiCtrlEn = true) : c.csiOn = true := by
  rw [Ctl.csiOn, hrun, hen]
  rfl

/-- The marks of frames and lines in progress: nothing but the ports' state changes. -/
theorem csiMarks {s : State} (hon : s.hw.ctl.csiOn = true) (vc : Fin 4) (tm : InTiming) :
    CompletesCtl s (exec (.csiFrameStart vc tm) s) (fun d => vc.val ∈ d.ports.csiFrame ∧ mget 0 d.ports.csiY vc = 0 ∧
      mget ⟨0, 0, 0, 0, 0⟩ d.ports.csiTiming vc = tm ∧ Frame false [.ports] [] s.hw.ctl d) ∧
    CompletesCtl s (exec (.csiFrameEnd vc) s) (fun d => vc.val ∉ d.ports.csiFrame ∧ vc.val ∉ d.ports.csiLine ∧
      Frame false [.ports] [] s.hw.ctl d) ∧
    CompletesCtl s (exec (.csiLineStart vc) s) (fun d => vc.val ∈ d.ports.csiLine ∧ Frame false [.ports] [] s.hw.ctl d) ∧
    CompletesCtl s (exec (.csiLineEnd vc) s) (fun d => vc.val ∉ d.ports.csiLine ∧ Frame false [.ports] [] s.hw.ctl d) := by
  refine ⟨?_, ?_, ?_, ?_⟩ <;> apply completesCtl_onCtl <;> rw [if_pos hon]
  · exact ⟨by simp, by simp, by simp, frame_parts⟩
  · exact ⟨by simp, by simp, frame_parts⟩
  · exact ⟨by simp, frame_parts⟩
  · exact ⟨by simp, frame_parts⟩

/-! Packets (R95). -/

/-- A packet with a CRC error is counted and goes on. -/
def Ctl.csiJudged (c : Ctl) (ok : Bool) : Ctl := if ok then c else c.bump F.vidCsiStatusCrcErr 1

theorem csiJudged_onlyRegs (c : Ctl) (ok : Bool) : OnlyRegs [R.vidCsiStatus, R.dbgSat] c (c.csiJudged ok) := by
  unfold Ctl.csiJudged
  split
  · exact OnlyRegs.refl _ c
  · exact onlyRegs_bump c F.vidCsiStatusCrcErr 1

theorem csiJudged_stc (c : Ctl) (ok : Bool) {a : Nat} (h : a ≠ R.vidCsiStatus) (h' : a ≠ R.dbgSat) : (c.csiJudged ok).rd a = c.rd a :=
  (csiJudged_onlyRegs c ok).1 a (by simp [h, h'])

/-- The context of a virtual channel is read from the contexts' CTRL registers. -/
theorem csiCtx_csiJudged (c : Ctl) (ok : Bool) (vc : Nat) : (c.csiJudged ok).csiCtx vc = c.csiCtx vc := by
  refine List.find?_congr fun i hi => ?_
  have hi := List.mem_range.mp hi
  have hctrl : (c.csiJudged ok).rd (R.stcCtrl i) = c.rd (R.stcCtrl i) :=
    csiJudged_stc c ok (by simp only [R.stcCtrl, R.vidCsiStatus]; omega) (by simp only [R.stcCtrl, R.dbgSat]; omega)
  simp only [Ctl.armedAs, Ctl.on, Ctl.get, hctrl]

theorem csiCtx_src {c : Ctl} {vc i : Nat} (h : c.csiCtx vc = some i) : c.get (F.stcCtrlSrc i) = 2 := by
  have hi := List.find?_some h
  simp only [Bool.and_eq_true, beq_iff_eq] at hi
  exact hi.1.2

/-- A sound packet of a data type that is not of Table 3.4 is dropped and counted. -/
theorem csiLongPacket_dropped {s : State} (hon : s.hw.ctl.csiOn = true) (vc : Fin 4) {dt : BitVec 6} (ht : csiType dt.toNat = none) (px : Line) :
    CompletesCtl s (exec (.csiLongPacket vc dt true px) s) (fun d => Counts s.hw.ctl d F.vidCsiStatusDtDrop ∧
      Frame false [] [R.vidCsiStatus, R.dbgSat] s.hw.ctl d) := by
  show CompletesCtl s (execCsiLongPacket ..) _
  unfold execCsiLongPacket
  apply completesCtl_onHw (d := s.hw.ctl.bump F.vidCsiStatusDtDrop 1)
  · simp only [hon, ht]
    rfl
  · exact ⟨counts_bump _ _ (by decide) (by decide), (onlyRegs_bump _ _ 1).frame false⟩

/-- A packet with a CRC error on a virtual channel of no context is counted. -/
theorem csiLongPacket_crc {s : State} (hon : s.hw.ctl.csiOn = true) {vc : Fin 4} (hctx : s.hw.ctl.csiCtx vc = none) {dt : BitVec 6}
    {t : Nat × Nat} (ht : csiType dt.toNat = some t) (px : Line) :
    CompletesCtl s (exec (.csiLongPacket vc dt false px) s) (fun d => Counts s.hw.ctl d F.vidCsiStatusCrcErr ∧
      Frame false [] [R.vidCsiStatus, R.dbgSat] s.hw.ctl d) := by
  show CompletesCtl s (execCsiLongPacket ..) _
  unfold execCsiLongPacket
  apply completesCtl_onHw (d := s.hw.ctl.bump F.vidCsiStatusCrcErr 1)
  · have hjudged : (s.hw.ctl.bump F.vidCsiStatusCrcErr 1).csiCtx vc = none := (csiCtx_csiJudged s.hw.ctl false vc).trans hctx
    simp only [hon, ht, W.on_ctl, hjudged, Bool.false_eq_true, if_false]
    rfl
  · exact ⟨counts_bump _ _ (by decide) (by decide), (onlyRegs_bump _ _ 1).frame false⟩

/-- The line of virtual channel vc is under way: the next one is y. -/
def Ctl.csiNext (c : Ctl) (vc y : Nat) : Ctl := { c with ports := { c.ports with csiY := mset 0 c.ports.csiY vc y } }

/-- A packet of its context's data type in a frame in progress is its next line (R95). -/
theorem csiLongPacket_line {s : State} (hon : s.hw.ctl.csiOn = true) {vc : Fin 4} {i : Nat} (hctx : s.hw.ctl.csiCtx vc = some i)
    {dt : BitVec 6} (ht : csiType dt.toNat = some (s.hw.ctl.get (F.stcFmtSamp i), s.hw.ctl.get (F.stcFmtBpc i)))
    (hf : vc.val ∈ s.hw.ctl.ports.csiFrame) (ok : Bool) (px : Line) {w : W}
    (hw : (W.mk ((s.hw.ctl.csiJudged ok).csiNext vc (mget 0 s.hw.ctl.ports.csiY vc + 1)) s.hw.mem []).ingress i (mget 0 s.hw.ctl.ports.csiY vc) px
      (mget ⟨0, 0, 0, 0, 0⟩ s.hw.ctl.ports.csiTiming vc) = w) :
    exec (.csiLongPacket vc dt ok px) s = .next ⟨⟨w.ctl, MAct.run s.hw.mem w.acts.reverse⟩, s.pending⟩ := by
  show execCsiLongPacket .. = _
  unfold execCsiLongPacket
  refine onHw_eq s _ w ?_
  have hi : i < 24 := List.mem_range.mp (List.mem_of_find?_eq_some hctx)
  have hports : (s.hw.ctl.csiJudged ok).ports = s.hw.ctl.ports :=
    ((csiJudged_onlyRegs s.hw.ctl ok).frame false).ports (by simp)
  have hfmt : (s.hw.ctl.csiJudged ok).rd (R.stcFmt i) = s.hw.ctl.rd (R.stcFmt i) :=
    csiJudged_stc _ ok (by simp only [R.stcFmt, R.vidCsiStatus]; omega) (by simp only [R.stcFmt, R.dbgSat]; omega)
  have hjudged : (if ok = true then (⟨s.hw.ctl, s.hw.mem, []⟩ : W) else W.on ⟨s.hw.ctl, s.hw.mem, []⟩ (fun c => c.bump F.vidCsiStatusCrcErr 1)) =
      ⟨s.hw.ctl.csiJudged ok, s.hw.mem, []⟩ := by
    cases ok <;> rfl
  subst hw
  simp only [hon, hjudged, ht, csiCtx_csiJudged, hctx, hports, Ctl.get, hfmt, List.contains_iff_mem.mpr hf]
  simp
  rfl

/-- Bytes put at a key are what is read there. -/
theorem rdN_put (m : Mem) (k : Nat) (bs : List Byte) : (MAct.apply m (.put k bs)).rdN k bs.length = bs := by
  refine List.ext_getElem (by simp [Mem.rdN]) fun j _ hj => ?_
  simp [Mem.rdN, MAct.rd_put, hj]

theorem rd_put_outside (m : Mem) {k a : Nat} {bs : List Byte} (h : a < k ∨ k + bs.length ≤ a) : (MAct.apply m (.put k bs)).rd a = m.rd a := by
  rw [MAct.rd_put, if_neg (by omega)]

theorem Ctl.length_storeBytes (c : Ctl) (s : Nat) (px : Line) : (c.storeBytes s px).length = c.storePitch s := by
  simp [Ctl.storeBytes, toBytes]

/-- An inner line of a camera context goes into the frame store (R95, R105). -/
theorem csiLongPacket_stores {s : State} (hon : s.hw.ctl.csiOn = true) {vc : Fin 4} {i : Nat} (hctx : s.hw.ctl.csiCtx vc = some i)
    {dt : BitVec 6} (ht : csiType dt.toNat = some (s.hw.ctl.get (F.stcFmtSamp i), s.hw.ctl.get (F.stcFmtBpc i)))
    (hf : vc.val ∈ s.hw.ctl.ports.csiFrame) {px : Line} (hinner : Inner s.hw.ctl i (mget 0 s.hw.ctl.ports.csiY vc) px)
    (hmode : s.hw.ctl.on (F.stcCtrlMode i) = true) (ok : Bool) :
    let y := mget 0 s.hw.ctl.ports.csiY vc
    let key := s.hw.ctl.storeKey i (s.hw.ctl.vc i).buf y
    Completes (exec (.csiLongPacket vc dt ok px) s) (fun t => t.pending = s.pending ∧ mget 0 t.hw.ctl.ports.csiY vc = y + 1 ∧
      (t.hw.ctl.vc i).nextLine = y + 1 ∧ (∀ j, j ≠ i → t.hw.ctl.vc j = s.hw.ctl.vc j) ∧
      t.hw.mem.rdN key (s.hw.ctl.storePitch i) = s.hw.ctl.storeBytes i (s.hw.ctl.ingLine i y px) ∧
      ∀ a, (a < key ∨ key + s.hw.ctl.storePitch i ≤ a) → t.hw.mem.rd a = s.hw.mem.rd a) := by
  have hi : i < 24 := List.mem_range.mp (List.mem_of_find?_eq_some hctx)
  have hexec := csiLongPacket_line hon hctx ht hf ok px rfl
  generalize hc : (s.hw.ctl.csiJudged ok).csiNext vc (mget 0 s.hw.ctl.ports.csiY vc + 1) = c at hexec
  have hjudged := (csiJudged_onlyRegs s.hw.ctl ok).frame false
  have hvc (j : Nat) : c.vc j = s.hw.ctl.vc j := by
    rw [← hc]
    exact hjudged.vc (by simp) j
  have hshape : SameShape i s.hw.ctl c := by
    intro f hf
    rw [← hc]
    have ha := shapeFields_addr hi hf
    refine Ctl.get_of_rd (csiJudged_stc s.hw.ctl ok ?_ ?_)
    · simp only [R.vidCsiStatus, R.hngPairStatus] at ha ⊢
      omega
    · simp only [R.dbgSat, R.hngPairStatus] at ha ⊢
      omega
  have hplain : c.haloed i = false := by
    rw [hshape.haloed, Ctl.haloed, csiCtx_src hctx]
    simp
  obtain ⟨hacts, hnext, hothers, hports⟩ := ingress_retimed (w := ⟨c, s.hw.mem, []⟩) hi (hshape.inner hinner (hvc i))
    (hshape.mode.trans hmode) hplain (mget ⟨0, 0, 0, 0, 0⟩ s.hw.ctl.ports.csiTiming vc)
  rw [hshape.storeKey, hvc, hshape.ingLine, hshape.storeBytes] at hacts
  rw [hacts] at hexec
  dsimp only
  rw [← Ctl.length_storeBytes s.hw.ctl i (s.hw.ctl.ingLine i (mget 0 s.hw.ctl.ports.csiY vc) px)]
  refine ⟨_, hexec, rfl, ?_, hnext, fun j hj => (hothers j hj).trans (hvc j), rdN_put .., fun a ha => rd_put_outside _ ha⟩
  rw [hports, ← hc]
  simp [Ctl.csiNext]

/-! Transmitters (R96, R116). -/

/-- A transmitter that loses HPD is idle and waits for no retraining (R116). -/
theorem txHpdFall_idle {s : State} (hrun : s.hw.ctl.running = true) (n : Fin 2) :
    CompletesCtl s (exec (.txHpdFall n) s) (fun d => d.on (F.vidTxStatusHpdIn n) = false ∧ d.on (F.vidTxStatusTrained n) = false ∧
      n.val ∉ d.ports.txRetrain ∧ Frame false [.ports] [R.vidTxStatus n] s.hw.ctl d) := by
  show CompletesCtl s (execTxHpdFall ..) _
  unfold execTxHpdFall
  apply completesCtl_onCtl
  rw [if_neg (by simp [hrun])]
  have hframe := ((frame_put false s.hw.ctl (F.vidTxStatusHpdIn n) 0).trans (frame_put false _ (F.vidTxStatusTrained n) 0)).mono
    (qs := [.ports]) (m := [R.vidTxStatus n]) (by simp) (by simp)
  have hin : ((s.hw.ctl.put (F.vidTxStatusHpdIn n) 0).put (F.vidTxStatusTrained n) 0).on (F.vidTxStatusHpdIn n) = false :=
    (Ctl.on_put_ne _ _ _ _ (by simp) (by simp)).trans (Ctl.on_put_zero _ (by simp))
  exact ⟨(Ctl.on_ports ..).trans hin, (Ctl.on_ports ..).trans (Ctl.on_put_zero _ (by simp)), by simp, hframe.trans frame_parts⟩

/-- A transmitter trained before waits to be trained again after HPD rises (R116). -/
theorem txHpdRise_retrains {s : State} (hrun : s.hw.ctl.running = true) {n : Fin 2} (hlow : s.hw.ctl.on (F.vidTxStatusHpdIn n) = false) :
    CompletesCtl s (exec (.txHpdRise n) s) (fun d => d.on (F.vidTxStatusHpdIn n) = true ∧
      (mget 0 s.hw.ctl.ports.txTrained n ≠ 0 → n.val ∈ d.ports.txRetrain) ∧ Frame false [.ports] [R.vidTxStatus n] s.hw.ctl d) := by
  show CompletesCtl s (execTxHpdRise ..) _
  unfold execTxHpdRise
  apply completesCtl_onCtl
  rw [if_neg (by simp [hrun, hlow])]
  have hframe : Frame false [.ports] [R.vidTxStatus n] s.hw.ctl (s.hw.ctl.put (F.vidTxStatusHpdIn n) 1) :=
    (frame_put false s.hw.ctl (F.vidTxStatusHpdIn n) 1).mono (by simp) (by simp)
  have hrisen : (s.hw.ctl.put (F.vidTxStatusHpdIn n) 1).on (F.vidTxStatusHpdIn n) = true := Ctl.on_put_one _ (by simp) rfl
  dsimp only
  split
  · rename_i hfresh
    exact ⟨hrisen, fun h => absurd hfresh h, hframe⟩
  · exact ⟨(Ctl.on_ports ..).trans hrisen, fun _ => List.mem_cons_self, hframe.trans frame_parts⟩

/-- A training by firmware on a transmitter that is idle under HPD: it succeeds at parameters the transmitter has, or leaves it idle
and is posted (R96, R116). -/
theorem txLinkTraining_outcome {s : State} (hrun : s.hw.ctl.running = true) {n : Fin 2} {o : Nat} (ho : s.hw.ctl.txOut n = some o)
    (hin : s.hw.ctl.on (F.vidTxStatusHpdIn n) = true) (hidle : s.hw.ctl.on (F.vidTxStatusTrained n) = false)
    (hwait : n.val ∉ s.hw.ctl.ports.txRetrain) (ok : Bool) :
    let able := mget 0 s.hw.ctl.ports.txTrained n ≠ 0 ∨ s.hw.ctl.txAble n = true
    (ok = true → able → CompletesCtl s (exec (.txLinkTraining n ok) s) (fun d => d.on (F.vidTxStatusTrained n) = true ∧
      Frame false [.ports] [R.vidTxStatus n] s.hw.ctl d)) ∧
    (ok = false ∨ ¬able → CompletesCtl s (exec (.txLinkTraining n ok) s) (fun d => d.on (F.vidTxStatusTrained n) = false ∧
      Frame true [] [] s.hw.ctl d)) := by
  intro able
  have hstart : ¬((!(s.hw.ctl.running && s.hw.ctl.on (F.vidTxStatusHpdIn n) && !s.hw.ctl.on (F.vidTxStatusTrained n) &&
      !s.hw.ctl.ports.txRetrain.contains n.val)) = true) := by
    simp [hrun, hin, hidle, hwait]
  have hable : (mget 0 s.hw.ctl.ports.txTrained n != 0 || s.hw.ctl.txAble n) = true ↔ able := by simp [able]
  show (_ → _ → CompletesCtl s (execTxLinkTraining ..) _) ∧ (_ → CompletesCtl s (execTxLinkTraining ..) _)
  unfold execTxLinkTraining
  refine ⟨fun hok ha => ?_, fun hno => ?_⟩ <;> apply completesCtl_onCtl <;> simp only [ho] <;> rw [if_neg hstart]
  · rw [if_pos (by simp only [hok, Bool.true_and]; exact hable.mpr ha)]
    have hframe := (frame_put false s.hw.ctl (F.vidTxStatusTrained n) 1).mono (qs := [.ports]) (m := [R.vidTxStatus n]) (by simp) (by simp)
    have htrained : (s.hw.ctl.put (F.vidTxStatusTrained n) 1).on (F.vidTxStatusTrained n) = true := Ctl.on_put_one _ (by simp) rfl
    split
    · exact ⟨htrained, hframe⟩
    · exact ⟨(Ctl.on_ports ..).trans htrained, hframe.trans frame_parts⟩
  · have hfails : ¬((ok && (mget 0 s.hw.ctl.ports.txTrained n != 0 || s.hw.ctl.txAble n)) = true) := by
      rw [Bool.and_eq_true, hable]
      rintro ⟨hok, ha⟩
      exact hno.elim (fun h => by simp [h] at hok) (fun h => h ha)
    rw [if_neg hfails]
    have hpost := (posted_postReport s.hw.ctl o _ : Posted s.hw.ctl (s.hw.ctl.txStatusRec o n)).frame
    exact ⟨(hpost.on List.not_mem_nil (by simp [postAddr, R.vidTxStatus]; omega)).trans hidle, hpost⟩

/-- Settles O44: the camera's marks and packets, and the transmitters' hot-plug. -/
theorem cameraAndTransmitters : Obligations.CameraAndTransmitters := by
  unfold Obligations.CameraAndTransmitters
  intro s vc n dt px ok tm c ports hrun
  refine ⟨fun hen => ?_, txHpdFall_idle hrun n, fun hlow => txHpdRise_retrains hrun hlow, fun o ho hin hidle hwait => ?_⟩
  · have hon := csiOn_eq hrun hen
    obtain ⟨hstart, hend, hline, hlineEnd⟩ := csiMarks hon vc tm
    refine ⟨hstart, hend, hline, hlineEnd, fun h1 h2 h3 => ?_, fun hctx hdt => ?_, fun i hctx ht hf => ?_⟩
    · exact csiLongPacket_dropped hon vc (by simp [csiType, h1, h2, h3]) px
    · exact csiLongPacket_crc hon hctx (by rw [csiType, if_pos hdt]) px
    · intro v y key hy hlast hok hin hmeas hmode
      exact csiLongPacket_stores hon hctx ht hf ⟨hy, hlast, hok, hin, hmeas⟩ hmode ok
  · exact ⟨(txLinkTraining_outcome hrun ho hin hidle hwait true).1 rfl, (txLinkTraining_outcome hrun ho hin hidle hwait ok).2⟩

end Sys2Proof.Machine
end

section
/-! Input loss and hot-plug (03_video_ports.md R110, R114, R115): a context's state, the declaration of a loss, and HPD of the receivers. -/

namespace Sys2Proof.Machine

/-! The state of a stream context (R296). -/

theorem setStc_onlyRegs (c : Ctl) (s st : Nat) : OnlyRegs [R.stcStatus s] c (c.setStc s st) := by
  unfold Ctl.setStc Ctl.unitState Ctl.nextEpoch
  split
  · exact OnlyRegs.refl _ c
  · exact (onlyRegs_put c (F.stcStatusState s) st).trans (onlyRegs_put _ (F.stcStatusEpoch s) _)

theorem setStc_state (c : Ctl) (s : Nat) {st : Nat} (h : st < 8) : (c.setStc s st).get (F.stcStatusState s) = st := by
  unfold Ctl.setStc Ctl.unitState Ctl.nextEpoch
  split
  · rename_i hsame
    simp only [List.all_cons, List.all_nil, Bool.and_true, beq_iff_eq] at hsame
    exact hsame.trans (Nat.mod_eq_of_lt h)
  · rw [Ctl.get_put_ne _ _ _ _ (by simp) (by simp)]
    exact (Ctl.get_put_self c (F.stcStatusState s) st (by simp)).trans (Nat.mod_eq_of_lt h)

/-- ARM_ERR is no part of the state. -/
theorem setStc_armErr (c : Ctl) (s st : Nat) : (c.setStc s st).get (F.stcStatusArmErr s) = c.get (F.stcStatusArmErr s) := by
  unfold Ctl.setStc Ctl.unitState Ctl.nextEpoch
  split
  · rfl
  · rw [Ctl.get_put_ne _ _ _ _ (by simp) (by simp)]
    exact Ctl.get_put_ne c (F.stcStatusState s) _ _ (by simp) (by simp)

theorem vc_setStc (c : Ctl) (s st j : Nat) : (c.setStc s st).vc j = c.vc j := ((setStc_onlyRegs c s st).frame false).vc (by simp) j

/-! The Hinge (R371): a frame sent changes the link layer and leaves the part. -/

theorem frame_hngTry (c : Ctl) (l : Nat) : Frame true [.hng] [] c (c.hngTry l) := by
  have hport (d : Ctl) (p : PortSt) : Frame true [.hng] [] d (d.portSet l p) := frame_parts
  have hemit (d : Ctl) (o : Output) : Frame true [.hng] [] d (d.emit o) := (posted_emit d o).frame.mono (by simp) (by simp)
  unfold Ctl.hngTry Ctl.hngEmit
  split
  · exact Frame.refl ..
  · split
    · dsimp only
      split
      · exact ((hport c _).trans (hport _ _)).trans (hemit _ _)
      · exact (hport c _).trans (hemit _ _)
    · exact Frame.refl ..

theorem frame_hngSend (c : Ctl) (l : Nat) (f : HngOut) : Frame true [.hng] [] c (c.hngSend l f) := by
  have hport (d : Ctl) (p : PortSt) : Frame true [.hng] [] d (d.portSet l p) := frame_parts
  unfold Ctl.hngSend Ctl.hngPump
  split
  · exact Frame.refl ..
  · exact (hport c _).trans (Frame.foldl _ _ (fun _ _ d => frame_hngTry d l) _)

/-! The declaration of a loss (R110). -/

theorem lossMirror_frame (c : Ctl) (s : Nat) : Frame true [.hng] [R.hngMirSync] c (c.lossMirror s) := by
  unfold Ctl.lossMirror
  split
  · exact Frame.refl ..
  · split
    · exact (frame_hngSend c 0 _).mono (by simp) (by simp)
    · split
      · split
        · exact (frame_put true c F.hngMirSyncSync _).mono (by simp) (by simp)
        · exact Frame.refl ..
      · exact Frame.refl ..

theorem lossMirror_alone {c : Ctl} (h : c.paired = false) (s : Nat) : c.lossMirror s = c := if_pos (by simp [h])

/-- Input s has entered LOSS_REPEAT, before a primary mirrors it: the state, the count, and of its contexts what R110 asks. -/
structure LossEntered (s cause : Nat) (c d : Ctl) : Prop where
  frame : Frame true [.vid] [R.stcStatus s, R.stcLossCnt s] c d
  state : d.get (F.stcStatusState s) = 4
  mode : (d.vc s).lossMode = 1
  cause : (d.vc s).lossCause = cause
  counts : Counts c d (F.stcLossCntCount s)
  flags : ∀ j, (d.vc j).outOn = (c.vc j).outOn ∧ (d.vc j).measured = (c.vc j).measured

/-- An input that was never measured, or is lost already, is not declared lost. -/
theorem lossDeclare_idle {c : Ctl} {s : Nat} (h : (!(c.vc s).measured || ((c.vc s).lossMode != 0 && !(c.vc s).back)) = true) (cause : Nat) :
    c.lossDeclare s cause = c := if_pos h

/-- The context of an input that is declared lost. -/
def Ctl.lossCtx (c : Ctl) (s cause : Nat) : VCtx :=
  { c.vc s with lossMode := 1, lossCause := cause, goodFrames := 0, back := false, fresh := false, repCount := 0, newTiming := none
                whole := false, startPend := false, lockIn := none, replayFrame := (c.vc s).inFrame
                replayLine := if (c.vc s).nextLine < c.get (F.stcGeomVact s) then (c.vc s).nextLine else 0 }

/-- An output whose input is lost does not begin to run. -/
def Ctl.unlockOut (c : Ctl) (out : Option Nat) : Ctl := match out with
  | some o => c.vcMod o (fun x => { x with lockPend := false })
  | none => c

/-- The loss of an input before the state is mirrored. -/
def Ctl.lossTaken (c : Ctl) (s cause : Nat) : Ctl :=
  ((((c.vcSet s (c.lossCtx s cause)).unlockOut (c.outOf s)).bump (F.stcLossCntCount s) 1).setStc s 4).inputStatus s cause

theorem lossDeclare_eq {c : Ctl} {s : Nat} (h : (!(c.vc s).measured || ((c.vc s).lossMode != 0 && !(c.vc s).back)) = false) (cause : Nat) :
    c.lossDeclare s cause = (c.lossTaken s cause).lossMirror s := if_neg (by simp [h])

/-- Of a context the lock that an output awaits is all that changes. -/
theorem vc_unlockOut (c : Ctl) (out : Option Nat) (j : Nat) : ∃ p, (c.unlockOut out).vc j = { c.vc j with lockPend := p } := by
  unfold Ctl.unlockOut
  cases out with
  | none => exact ⟨_, rfl⟩
  | some o =>
    dsimp only
    rw [Ctl.vcMod, Ctl.vc_vcSet]
    split
    · rename_i h
      exact ⟨false, by rw [h]⟩
    · exact ⟨_, rfl⟩

theorem frame_unlockOut (b : Bool) (c : Ctl) (out : Option Nat) : Frame b [.vid] [] c (c.unlockOut out) := by
  unfold Ctl.unlockOut
  cases out with
  | none => exact Frame.refl ..
  | some o => exact frame_vcSet b c o _

theorem posted_inputStatus (c : Ctl) (s cause : Nat) : Posted c (c.inputStatus s cause) := by
  unfold Ctl.inputStatus
  exact posted_postReport c s _

/-- The loss, counted, shown in STATUS and reported: only those two registers, and what a posting changes. -/
theorem lossNoted (c : Ctl) {s : Nat} (hs : s < 24) (cause : Nat) :
    let d := (((c.bump (F.stcLossCntCount s) 1).setStc s 4).inputStatus s cause)
    Frame true [] [R.stcStatus s, R.stcLossCnt s] c d ∧ d.get (F.stcStatusState s) = 4 ∧ Counts c d (F.stcLossCntCount s) := by
  have hpost := posted_inputStatus ((c.bump (F.stcLossCntCount s) 1).setStc s 4) s cause
  have hcount := frame_bump c (F.stcLossCntCount s) 1
  have hstate := setStc_onlyRegs (c.bump (F.stcLossCntCount s) 1) s 4
  have hlow {f : Fld} (h : 0x40000 ≤ f.addr ∧ f.addr < 0x50000) := hpost.get f (postAddr_video h.1 h.2)
  refine ⟨?_, ?_, ?_⟩
  · exact ((hcount.mono (by simp) (by simp)).trans ((hstate.frame true).mono (by simp) (by simp))).trans
      (hpost.frame.mono (by simp) (by simp))
  · rw [hlow (by simp only [R.stcStatus]; omega), setStc_state _ _ (by decide)]
  · rw [Counts, hlow (by simp only [R.stcLossCnt]; omega), Ctl.get_of_rd (hstate.1 _ (by simp [R.stcStatus, R.stcLossCnt]))]
    exact counts_bump c _ (by simp) (by simp only [R.stcLossCnt, R.dbgSat]; omega)

theorem lossTaken_entered (c : Ctl) {s : Nat} (hs : s < 24) (cause : Nat) : LossEntered s cause c (c.lossTaken s cause) := by
  unfold Ctl.lossTaken
  have hctx := (frame_vcSet true c s (c.lossCtx s cause)).trans (frame_unlockOut true _ (c.outOf s))
  have hvc := vc_unlockOut (c.vcSet s (c.lossCtx s cause)) (c.outOf s)
  generalize (c.vcSet s (c.lossCtx s cause)).unlockOut (c.outOf s) = d at hctx hvc
  obtain ⟨hframe, hstate, hcounts⟩ := lossNoted d hs cause
  have hend (j : Nat) := (hframe.vc (by simp) j)
  have hown : (d.vc s).lossMode = 1 ∧ (d.vc s).lossCause = cause := by
    obtain ⟨p, hp⟩ := hvc s
    rw [hp, Ctl.vc_vcSet_self]
    exact ⟨rfl, rfl⟩
  refine ⟨?_, hstate, by rw [hend]; exact hown.1, by rw [hend]; exact hown.2, ?_, fun j => ?_⟩
  · exact (hctx.mono (by simp) (by simp)).trans (hframe.mono (by simp) (by simp))
  · rw [Counts, hcounts, hctx.get List.not_mem_nil (postAddr_video (by simp only [R.stcLossCnt]; omega) (by simp only [R.stcLossCnt]; omega))]
  · obtain ⟨p, hp⟩ := hvc j
    rw [hend, hp, Ctl.vc_vcSet]
    split
    · rename_i h
      rw [h]
      exact ⟨rfl, rfl⟩
    · exact ⟨rfl, rfl⟩

/-! Losses and HPD: what they change, in any order. -/

/-- The registers of the contexts that losses write. -/
def lossRegs : List Nat := (List.range 24).map R.stcStatus ++ (List.range 24).map R.stcLossCnt

/-- d is c but for losses of inputs, their mirroring in a pair, and registers of a list; no output starts or ends by it, and no timing
is measured. -/
structure Lost (l : List Nat) (c d : Ctl) : Prop where
  frame : Frame true [.vid, .hng] (R.hngMirSync :: l ++ lossRegs) c d
  alone : c.paired = false → Frame true [.vid] (l ++ lossRegs) c d
  flags : ∀ j, (d.vc j).outOn = (c.vc j).outOn ∧ (d.vc j).measured = (c.vc j).measured

theorem Lost.refl (l : List Nat) (c : Ctl) : Lost l c c := ⟨Frame.refl .., fun _ => Frame.refl .., fun _ => ⟨rfl, rfl⟩⟩

theorem lossRegs_addr {a : Nat} (h : a ∈ lossRegs) : 0x41000 ≤ a ∧ a < 0x42000 ∧ (a % 0x80 = 0x28 ∨ a % 0x80 = 0x30) := by
  simp only [lossRegs, List.mem_append, List.mem_map, List.mem_range] at h
  rcases h with ⟨i, hi, rfl⟩ | ⟨i, hi, rfl⟩
  · simp only [R.stcStatus]
    omega
  · simp only [R.stcLossCnt]
    omega

theorem Frame.paired {b : Bool} {ps : List Part} {l : List Nat} {c d : Ctl} (h : Frame b ps l c d) (hl : R.hngPairStatus ∉ l) :
    d.paired = c.paired := by
  have hmode : d.mode = c.mode := h.get (f := F.hngPairStatusMode) hl (by decide)
  rw [Ctl.paired, hmode, Ctl.paired]

theorem Lost.paired {l : List Nat} (hl : R.hngPairStatus ∉ l) {c d : Ctl} (h : Lost l c d) : d.paired = c.paired := by
  refine h.frame.paired fun hm => ?_
  simp only [List.cons_append, List.mem_cons, List.mem_append] at hm
  rcases hm with hm | hm | hm
  · exact absurd hm (by decide)
  · exact hl hm
  · exact absurd (lossRegs_addr hm).2.1 (by decide)

theorem Lost.trans {l : List Nat} (hl : R.hngPairStatus ∉ l) {c d e : Ctl} (h : Lost l c d) (g : Lost l d e) : Lost l c e :=
  ⟨h.frame.trans g.frame, fun hp => (h.alone hp).trans (g.alone (by rw [h.paired hl, hp])),
    fun j => ⟨(g.flags j).1.trans (h.flags j).1, (g.flags j).2.trans (h.flags j).2⟩⟩

theorem append_subset_append_of_left {l m : List Nat} (h : l ⊆ m) (k : List Nat) : l ++ k ⊆ m ++ k :=
  List.append_subset.mpr ⟨fun _ ha => List.mem_append_left k (h ha), List.subset_append_right m k⟩

theorem Lost.mono {l m : List Nat} {c d : Ctl} (h : Lost l c d) (hlm : l ⊆ m) : Lost m c d :=
  ⟨h.frame.mono (List.Subset.refl _) (List.cons_subset_cons _ (append_subset_append_of_left hlm _)),
    fun hp => (h.alone hp).mono (List.Subset.refl _) (append_subset_append_of_left hlm _), h.flags⟩

/-- Losses leave the other registers of ports and contexts. -/
theorem Lost.rd {l : List Nat} {c d : Ctl} (h : Lost l c d) {a : Nat} (hl : a ∉ l) (ha : 0x40000 ≤ a ∧ a < 0x50000)
    (hk : a < 0x41000 ∨ a % 0x80 ≠ 0x28 ∧ a % 0x80 ≠ 0x30) : d.rd a = c.rd a := by
  refine h.frame.rd (fun hm => ?_) (postAddr_video ha.1 ha.2)
  simp only [List.cons_append, List.mem_cons, List.mem_append] at hm
  rcases hm with hm | hm | hm
  · simp only [hm, R.hngMirSync] at ha
    omega
  · exact hl hm
  · have := lossRegs_addr hm
    omega

theorem lossDeclare_cases (c : Ctl) {s : Nat} (hs : s < 24) (cause : Nat) :
    c.lossDeclare s cause = c ∨ (c.vc s).measured = true ∧ ∃ d, LossEntered s cause c d ∧ c.lossDeclare s cause = d.lossMirror s := by
  cases h : (!(c.vc s).measured || ((c.vc s).lossMode != 0 && !(c.vc s).back)) with
  | true => exact .inl (lossDeclare_idle h cause)
  | false => exact .inr ⟨by simpa using (Bool.or_eq_false_iff.mp h).1, _, lossTaken_entered c hs cause, lossDeclare_eq h cause⟩

theorem lost_lossDeclare (c : Ctl) {s : Nat} (hs : s < 24) (cause : Nat) : Lost [] c (c.lossDeclare s cause) := by
  have hregs : [R.stcStatus s, R.stcLossCnt s] ⊆ lossRegs := by
    intro a ha
    simp only [List.mem_cons, List.not_mem_nil, or_false] at ha
    rcases ha with rfl | rfl
    · exact List.mem_append_left _ (List.mem_map_of_mem (List.mem_range.mpr hs))
    · exact List.mem_append_right _ (List.mem_map_of_mem (List.mem_range.mpr hs))
  rcases lossDeclare_cases c hs cause with h | ⟨-, d, hd, h⟩
  · rw [h]
    exact Lost.refl [] c
  · rw [h]
    have hmirror := lossMirror_frame d s
    refine ⟨?_, fun hp => ?_, fun j => ?_⟩
    · exact (hd.frame.mono (by simp) (fun a ha => List.mem_cons_of_mem _ (hregs ha))).trans (hmirror.mono (by simp) (by simp))
    · have halone := hd.frame.mono (List.Subset.refl _) hregs
      have hlone : d.paired = false := (hd.frame.paired (by simp [R.hngPairStatus, R.stcStatus, R.stcLossCnt]; omega)).trans hp
      rw [lossMirror_alone hlone]
      exact halone
    · rw [hmirror.vc (by simp)]
      exact hd.flags j

theorem lost_foldl {l : List Nat} (hl : R.hngPairStatus ∉ l) {α : Type} (xs : List α) (f : Ctl → α → Ctl) (h : ∀ x ∈ xs, ∀ c, Lost l c (f c x)) :
    ∀ c, Lost l c (xs.foldl f c) := by
  induction xs with
  | nil => exact Lost.refl l
  | cons x t ih => intro c; exact (h x List.mem_cons_self c).trans hl (ih (fun y hy => h y (List.mem_cons_of_mem x hy)) _)

/-- The losses of a list of inputs leave the STATUS of a context that is not measured where it is among them. -/
theorem losses_status (cause : Nat) {i : Nat} (hi24 : i < 24) (xs : List Nat) (hxs : ∀ x ∈ xs, x < 24) :
    ∀ c : Ctl, (i ∈ xs → (c.vc i).measured = false) →
    (xs.foldl (fun c x => c.lossDeclare x cause) c).rd (R.stcStatus i) = c.rd (R.stcStatus i) := by
  induction xs with
  | nil => exact fun _ _ => rfl
  | cons x t ih =>
    intro c hi
    have hx : x < 24 := hxs x List.mem_cons_self
    have hflags := ((lost_lossDeclare c hx cause).flags i).2
    rw [List.foldl_cons, ih (fun y hy => hxs y (List.mem_cons_of_mem x hy)) _ (fun hm => hflags.trans (hi (List.mem_cons_of_mem x hm)))]
    rcases lossDeclare_cases c hx cause with h | ⟨hmeas, d, hd, h⟩
    · rw [h]
    · have hne : i ≠ x := by
        rintro rfl
        rw [hi List.mem_cons_self] at hmeas
        exact absurd hmeas (by decide)
      have hlow : postAddr (R.stcStatus i) = false := postAddr_video (by simp only [R.stcStatus]; omega) (by simp only [R.stcStatus]; omega)
      rw [h, (lossMirror_frame d x).rd (by simp [R.stcStatus, R.hngMirSync]; omega) hlow]
      exact hd.frame.rd (by simp [R.stcStatus, R.stcLossCnt]; omega) hlow

/-! HPD of a receiver (R114, R115). -/

/-- Whether input s is armed on receiver n. -/
def Ctl.armedOn (c : Ctl) (n s : Nat) : Bool := c.armedAs s 0 && c.get (F.stcCtrlSrc s) == n

/-- Whether receiver n is to present HPD: it is enabled, in no pulse, and an armed input uses it. -/
def Ctl.hpdWanted (c : Ctl) (n : Nat) : Bool :=
  c.on (F.vidRxCtrlEn n) && !c.ports.hpdPulse.contains n && (List.range 24).any (c.armedOn n)

/-- HPD of receiver n brought to what it is to be; a fall loses its inputs (R110). -/
def Ctl.hpdStep (c : Ctl) (n : Nat) : Ctl :=
  if c.hpdWanted n = c.on (F.vidRxStatusHpd n) then c
  else
    let d := c.put (F.vidRxStatusHpd n) (bit (c.hpdWanted n))
    if c.hpdWanted n then d
    else ((List.range 24).filter (c.armedOn n)).foldl (fun c s => c.lossDeclare s 2) (d.put (F.vidRxStatusTrained n) 0)

theorem hpdUpdate_eq (c : Ctl) : c.hpdUpdate = (c.hpdStep 0).hpdStep 1 := rfl

/-- The registers of the receivers that HPD is shown in. -/
def hpdRegs : List Nat := [R.vidRxStatus 0, R.vidRxStatus 1]

theorem lost_put {l : List Nat} (c : Ctl) {f : Fld} (hf : f.addr ∈ l) (x : Nat) : Lost l c (c.put f x) := by
  have hframe := frame_put true c f x
  refine ⟨hframe.mono (by simp) ?_, fun _ => hframe.mono (by simp) ?_, fun _ => ⟨rfl, rfl⟩⟩ <;> simp [hf]

theorem lost_hpdStep (c : Ctl) {n : Nat} (hn : n < 2) : Lost hpdRegs c (c.hpdStep n) := by
  have hreg : R.vidRxStatus n ∈ hpdRegs := by
    rcases (by omega : n = 0 ∨ n = 1) with rfl | rfl <;> simp [hpdRegs]
  have hpair : R.hngPairStatus ∉ hpdRegs := by decide
  unfold Ctl.hpdStep
  dsimp only
  split
  · exact Lost.refl _ c
  · split
    · exact lost_put c hreg _
    · refine ((lost_put c hreg _).trans hpair (lost_put _ hreg 0)).trans hpair (lost_foldl hpair _ _ (fun s hs d => ?_) _)
      have hs : s < 24 := List.mem_range.mp (List.mem_filter.mp hs).1
      exact (lost_lossDeclare d hs 2).mono (List.nil_subset _)

theorem hpdRegs_addr {a : Nat} (h : a ∈ hpdRegs) : a = 0x40004 ∨ a = 0x40404 := by simpa [hpdRegs, R.vidRxStatus] using h

theorem Lost.stcCtrl {c d : Ctl} (h : Lost hpdRegs c d) {s : Nat} (hs : s < 24) : d.rd (R.stcCtrl s) = c.rd (R.stcCtrl s) := by
  refine h.rd (fun hm => ?_) (by simp only [R.stcCtrl]; omega) (by simp only [R.stcCtrl]; omega)
  have := hpdRegs_addr hm
  simp only [R.stcCtrl] at this
  omega

/-- What HPD is to be is not for losses or HPD to change. -/
theorem Lost.hpdWanted {c d : Ctl} (h : Lost hpdRegs c d) {n : Nat} (hn : n < 2) : d.hpdWanted n = c.hpdWanted n := by
  have hctrl : d.rd (R.vidRxCtrl n) = c.rd (R.vidRxCtrl n) := by
    refine h.rd (fun hm => ?_) (by simp only [R.vidRxCtrl]; omega) (by simp only [R.vidRxCtrl]; omega)
    have := hpdRegs_addr hm
    simp only [R.vidRxCtrl] at this
    omega
  have hports : d.ports = c.ports := h.frame.ports (by simp)
  have hany : (List.range 24).any (d.armedOn n) = (List.range 24).any (c.armedOn n) := by
    rw [Bool.eq_iff_iff, List.any_eq_true, List.any_eq_true]
    refine exists_congr fun s => and_congr_right fun hs => ?_
    simp only [Ctl.armedOn, Ctl.armedAs, Ctl.on, Ctl.get, h.stcCtrl (List.mem_range.mp hs)]
  rw [Ctl.hpdWanted, hports, hany, Ctl.on_of_rd (f := F.vidRxCtrlEn n) hctrl, Ctl.hpdWanted]

/-- HPD of receiver n after its step, and of the other one. -/
theorem hpdStep_on (c : Ctl) {n k : Nat} (hk : k < 2) :
    (c.hpdStep n).on (F.vidRxStatusHpd k) = if k = n then c.hpdWanted n else c.on (F.vidRxStatusHpd k) := by
  have hput : (c.put (F.vidRxStatusHpd n) (bit (c.hpdWanted n))).on (F.vidRxStatusHpd k) =
      if k = n then c.hpdWanted n else c.on (F.vidRxStatusHpd k) := by
    split
    · rename_i h
      rw [h]
      exact Ctl.on_put_bit c (by simp) rfl _
    · exact Ctl.on_put_ne c _ _ _ (by simp) (.inl (by simp only [R.vidRxStatus]; omega))
  unfold Ctl.hpdStep
  dsimp only
  split
  · rename_i hsame
    split
    · rename_i h
      rw [h, hsame]
    · rfl
  · split
    · exact hput
    · rw [← hput]
      have hlost := lost_foldl (l := []) (by simp) ((List.range 24).filter (c.armedOn n)) (fun c s => c.lossDeclare s 2)
        (fun s hs d => lost_lossDeclare d (List.mem_range.mp (List.mem_filter.mp hs).1) 2)
      refine (Ctl.on_of_rd ((hlost _).rd List.not_mem_nil ?_ ?_)).trans (Ctl.on_put_ne _ _ _ _ (by simp) (by simp)) <;>
        simp only [R.vidRxStatus] <;> omega

/-- Both receivers present HPD as they are to (R114); a context not measured where it is armed keeps its STATUS. -/
structure HpdShown (c d : Ctl) : Prop where
  lost : Lost hpdRegs c d
  hpd : ∀ n < 2, d.on (F.vidRxStatusHpd n) = c.hpdWanted n
  status : ∀ i < 24, (c.armedAs i 0 = true → (c.vc i).measured = false) → d.rd (R.stcStatus i) = c.rd (R.stcStatus i)

theorem hpdStep_status (c : Ctl) (n : Nat) {i : Nat} (hi : i < 24) (h : c.armedAs i 0 = true → (c.vc i).measured = false) :
    (c.hpdStep n).rd (R.stcStatus i) = c.rd (R.stcStatus i) := by
  have hput (d : Ctl) (x : Nat) (f : Fld) (hf : f.addr = R.vidRxStatus n) : (d.put f x).rd (R.stcStatus i) = d.rd (R.stcStatus i) :=
    Ctl.rd_put_ne d f x (by rw [hf]; simp only [R.stcStatus, R.vidRxStatus]; omega)
  unfold Ctl.hpdStep
  dsimp only
  split
  · rfl
  · split
    · exact hput _ _ _ rfl
    · rw [losses_status 2 hi _ (fun x hx => List.mem_range.mp (List.mem_filter.mp hx).1), hput _ _ _ rfl, hput _ _ _ rfl]
      intro hm
      exact h (Bool.and_eq_true_iff.mp (List.mem_filter.mp hm).2).1

theorem hpdUpdate_shown (c : Ctl) : HpdShown c c.hpdUpdate := by
  have hpair : R.hngPairStatus ∉ hpdRegs := by decide
  have h0 := lost_hpdStep c (n := 0) (by omega)
  have h1 := lost_hpdStep (c.hpdStep 0) (n := 1) (by omega)
  rw [hpdUpdate_eq]
  refine ⟨h0.trans hpair h1, fun n hn => ?_, fun i hi h => ?_⟩
  · rw [hpdStep_on _ hn]
    rcases (by omega : n = 0 ∨ n = 1) with rfl | rfl
    · rw [if_neg (by decide), hpdStep_on c hn, if_pos rfl]
    · rw [if_pos rfl, h0.hpdWanted hn]
  · rw [hpdStep_status _ 1 hi fun ha => ?_, hpdStep_status c 0 hi h]
    rw [(h0.flags i).2]
    refine h ?_
    rw [← ha]
    simp only [Ctl.armedAs, Ctl.on, Ctl.get, h0.stcCtrl hi]

end Sys2Proof.Machine
end

section
/-! DisplayPort receivers (03_video_ports.md R92, R114, R115, Table 3.3): training, AUX, EDID, MST and HPD. -/

namespace Sys2Proof.Machine

/-! Commands that answer. -/

theorem auxOn_eq {c : Ctl} (hrun : c.running = true) {n : Nat} : c.auxOn n = c.on (F.vidRxStatusHpd n) := by rw [Ctl.auxOn, hrun, Bool.true_and]

/-- A command that only answers leaves everything but what left the part. -/
theorem answers {s : State} {f : Ctl → Ctl} {o : Output} (h : f s.hw.ctl = s.hw.ctl.emit o) :
    CompletesCtl s (onCtl s f) (fun d => d.out = s.hw.ctl.out ++ [o] ∧ Frame false [.out] [] s.hw.ctl d) := by
  apply completesCtl_onCtl
  rw [h]
  exact ⟨rfl, frame_emit ..⟩

/-- A command that changes nothing. -/
theorem onCtl_same {s : State} {f : Ctl → Ctl} (h : f s.hw.ctl = s.hw.ctl) : onCtl s f = .next s := by
  rw [onCtl, h]

/-! Link training (R92). -/

/-- The rates and lane counts a receiver trains at (Table 3.3). -/
def Ctl.rxFits (c : Ctl) (n rate lanes : Nat) : Prop :=
  rate ≤ 5 ∧ rate ≤ c.get (F.vidRxCtrlMaxRate n) ∧ lanes ≤ 2 ∧ lanes ≤ c.get (F.vidRxCtrlMaxLanes n)

theorem rxLinkTraining_outcome {s : State} {n : Fin 2} (hrun : s.hw.ctl.running = true) (hhpd : s.hw.ctl.on (F.vidRxStatusHpd n) = true)
    (rate : Fin 8) (lanes : Fin 4) :
    (s.hw.ctl.rxFits n rate lanes → CompletesCtl s (exec (.rxLinkTraining n rate lanes true) s) (fun d =>
      d.on (F.vidRxStatusTrained n) = true ∧ d.get (F.vidRxStatusRate n) = rate.val ∧ d.get (F.vidRxStatusLanes n) = lanes.val ∧
      Frame false [] [R.vidRxStatus n] s.hw.ctl d)) ∧
    ∀ ok, ok = false ∨ ¬s.hw.ctl.rxFits n rate lanes → CompletesCtl s (exec (.rxLinkTraining n rate lanes ok) s) (fun d =>
      d.on (F.vidRxStatusTrained n) = false ∧ Frame false [] [R.vidRxStatus n] s.hw.ctl d) := by
  show (_ → CompletesCtl s (execRxLinkTraining ..) _) ∧ ∀ ok, _ → CompletesCtl s (execRxLinkTraining ..) _
  unfold execRxLinkTraining
  refine ⟨fun hfits => ?_, fun ok hno => ?_⟩ <;> apply completesCtl_onCtl <;> rw [if_neg (by simp [hrun, hhpd])]
  · rw [if_pos ⟨rfl, hfits⟩]
    generalize s.hw.ctl = c
    have hframe := ((frame_put false c (F.vidRxStatusTrained n) 1).trans (frame_put false _ (F.vidRxStatusRate n) rate)).trans
      (frame_put false _ (F.vidRxStatusLanes n) lanes)
    refine ⟨?_, ?_, ?_, hframe⟩
    · rw [Ctl.on_put_ne _ _ _ _ (by simp) (by simp), Ctl.on_put_ne _ _ _ _ (by simp) (by simp)]
      exact Ctl.on_put_one c (by simp) rfl
    · rw [Ctl.get_put_ne _ _ _ _ (by simp) (by simp), Ctl.get_put_self _ _ _ (by simp)]
      exact Nat.mod_eq_of_lt rate.isLt
    · rw [Ctl.get_put_self _ _ _ (by simp)]
      exact Nat.mod_eq_of_lt lanes.isLt
  · rw [if_neg fun h => hno.elim (fun hf => by simp [hf] at h) (fun hf => hf h.2)]
    exact ⟨Ctl.on_put_zero _ (by simp), frame_put false _ (F.vidRxStatusTrained n) 0⟩

/-! The DPCD (R92, log entry 8). -/

/-- Bytes put at keys of a list, in order. -/
def putBytes (key : Nat → Nat) (bs : List Byte) (m : SMap Byte) (l : List Nat) : SMap Byte :=
  l.foldl (fun m i => minsert (key i) (nth 0 bs i) (merase m (key i))) m

theorem mget_putOne (d : Byte) (m : SMap Byte) (k j : Nat) (v : Byte) :
    mget d (minsert k v (merase m k)) j = if j = k then v else mget d m j := by
  split
  · rename_i h
    rw [h]
    exact mget_minsert_self d _ k v (by simp [merase])
  · rename_i h
    rw [mget_minsert_ne d _ v h, mget_merase_ne d m h]

theorem mget_putBytes_other (d : Byte) (key : Nat → Nat) (bs : List Byte) {j : Nat} (l : List Nat) (h : ∀ i ∈ l, j ≠ key i) :
    ∀ m, mget d (putBytes key bs m l) j = mget d m j := by
  induction l with
  | nil => exact fun _ => rfl
  | cons i t ih =>
    intro m
    exact (ih (fun x hx => h x (List.mem_cons_of_mem i hx)) _).trans ((mget_putOne ..).trans (if_neg (h i List.mem_cons_self)))

theorem mget_putBytes_range (d : Byte) (key : Nat → Nat) (bs : List Byte) (m : SMap Byte) {i : Nat} : ∀ {n : Nat},
    (∀ x < n, ∀ y < n, key x = key y → x = y) → i < n → mget d (putBytes key bs m (List.range n)) (key i) = nth 0 bs i
  | 0, _, hi => absurd hi (Nat.not_lt_zero i)
  | n + 1, hkey, hi => by
    have hlast : putBytes key bs m (List.range (n + 1)) =
        minsert (key n) (nth 0 bs n) (merase (putBytes key bs m (List.range n)) (key n)) := by
      rw [putBytes, List.range_succ, List.foldl_append]
      rfl
    rw [hlast, mget_putOne]
    split
    · rename_i h
      rw [hkey i hi n (Nat.lt_succ_self n) h]
    · rename_i h
      have hlt : i < n := Nat.lt_of_le_of_ne (Nat.le_of_lt_succ hi) fun e => h (congrArg key e)
      exact mget_putBytes_range d key bs m (fun x hx y hy => hkey x (Nat.lt_succ_of_lt hx) y (Nat.lt_succ_of_lt hy)) hlt

/-- The key of DPCD byte a of receiver n. -/
def dpcdKey (n a : Nat) : Nat := 2 ^ 20 * n + a % 2 ^ 20

theorem dpcdKey_inj {n k a b : Nat} (h : dpcdKey n a = dpcdKey k b) : n = k ∧ a % 2 ^ 20 = b % 2 ^ 20 := by
  unfold dpcdKey at h
  omega

theorem dpcdRd_dpcdWr (c : Ctl) (n a k b : Nat) (bs : List Byte) : (c.dpcdWr n a bs).dpcdRd k b =
    mget (Config.dpcdByte k (b % 2 ^ 20)) (putBytes (fun i => dpcdKey n (a + i)) bs c.ports.dpcd (List.range bs.length)) (dpcdKey k b) := rfl

/-- What is written to the DPCD is read back. -/
theorem dpcdRd_written (c : Ctl) (n a : Nat) {bs : List Byte} (hlen : bs.length ≤ 2 ^ 20) {i : Nat} (hi : i < bs.length) :
    (c.dpcdWr n a bs).dpcdRd n (a + i) = nth 0 bs i := by
  rw [dpcdRd_dpcdWr]
  refine mget_putBytes_range _ (fun i => dpcdKey n (a + i)) bs _ (fun x hx y hy hxy => ?_) hi
  have := (dpcdKey_inj hxy).2
  omega

/-- A byte of the DPCD that is not written stays. -/
theorem dpcdRd_kept (c : Ctl) (n a : Nat) {bs : List Byte} {k b : Nat} (h : ∀ i < bs.length, ¬(k = n ∧ b % 2 ^ 20 = (a + i) % 2 ^ 20)) :
    (c.dpcdWr n a bs).dpcdRd k b = c.dpcdRd k b := by
  rw [dpcdRd_dpcdWr]
  exact mget_putBytes_other _ _ bs _ (fun i hi he => h i (List.mem_range.mp hi) (dpcdKey_inj he)) _

/-! Reads that may find nothing. -/

theorem mapM_range_some {α : Type} {f : Nat → Option α} (g : Nat → α) {n : Nat} (h : ∀ i < n, f i = some (g i)) :
    (List.range n).mapM f = some ((List.range n).map g) := by
  have hall (l : List Nat) (hl : ∀ i ∈ l, f i = some (g i)) : l.mapM f = some (l.map g) := by
    induction l with
    | nil => rfl
    | cons x t ih =>
      rw [List.mapM_cons, hl x List.mem_cons_self, ih fun i hi => hl i (List.mem_cons_of_mem x hi)]
      rfl
  exact hall _ fun i hi => h i (List.mem_range.mp hi)

theorem mapM_none {α β : Type} {f : α → Option β} {x : α} (hx : f x = none) (l : List α) (h : x ∈ l) : l.mapM f = none := by
  induction l with
  | nil => exact absurd h List.not_mem_nil
  | cons y t ih =>
    rw [List.mapM_cons]
    rcases List.mem_cons.mp h with rfl | ht
    · rw [hx]
      rfl
    · rw [ih ht]
      cases f y <;> rfl

theorem nth_map_range {α : Type} (d : α) (g : Nat → α) {n i : Nat} (h : i < n) : nth d ((List.range n).map g) i = g i := by
  simp [nth, h]

/-! The EDID (R115). -/

/-- Byte i of an EDID in words. -/
def edidAt (ws : List Word) (i : Nat) : Byte := BitVec.ofNat 8 ((nth 0 ws (i / 4)).toNat >>> (8 * (i % 4)))

/-- Whether receiver n has published an EDID. -/
def Ctl.edidThere (c : Ctl) (n : Nat) : Prop := mget [] c.ports.edidPub n ≠ []

theorem edidByte_some {c : Ctl} {n i : Nat} (h : c.edidThere n) (hi : i < 512) : c.edidByte n i = some (edidAt (mget [] c.ports.edidPub n) i) := by
  unfold Ctl.edidThere at h
  unfold Ctl.edidByte
  cases hpub : mget [] c.ports.edidPub n with
  | nil => exact absurd hpub h
  | cons b t => exact if_pos hi

theorem edidByte_none {c : Ctl} {n i : Nat} (h : ¬c.edidThere n ∨ 512 ≤ i) : c.edidByte n i = none := by
  unfold Ctl.edidThere at h
  unfold Ctl.edidByte
  cases hpub : mget [] c.ports.edidPub n with
  | nil => rfl
  | cons b t => exact if_neg (by rcases h with h | h <;> simp_all)

/-! AUX of a receiver that presents HPD (R92). -/

section
variable {s : State} {n : Fin 2} (hrun : s.hw.ctl.running = true) (hhpd : s.hw.ctl.on (F.vidRxStatusHpd n) = true)
include hrun hhpd

theorem auxOn_here : ¬(!s.hw.ctl.auxOn n) = true := by simp [auxOn_eq hrun, hhpd]

theorem nativeAux_write (addr : BitVec 20) (len : Fin 17) (data : List Byte) :
    CompletesCtl s (exec (.nativeAux n true addr len data) s) (fun d => d.out = s.hw.ctl.out ++ [.aux n []] ∧
      (∀ i < min len.val data.length, d.dpcdRd n (addr.toNat + i) = nth 0 data i) ∧
      (∀ k a, (∀ i < min len.val data.length, ¬(k = n.val ∧ a % 2 ^ 20 = (addr.toNat + i) % 2 ^ 20)) → d.dpcdRd k a = s.hw.ctl.dpcdRd k a) ∧
      Frame false [.ports, .out] [] s.hw.ctl d) := by
  show CompletesCtl s (execNativeAux ..) _
  unfold execNativeAux
  apply completesCtl_onCtl
  rw [if_neg (auxOn_here hrun hhpd), if_pos rfl]
  have hlen : (data.take len.val).length = min len.val data.length := List.length_take
  refine ⟨rfl, fun i hi => ?_, fun k a h => ?_, ?_⟩
  · have hnth : nth 0 (data.take len.val) i = nth 0 data i := by
      rw [nth, List.getD_eq_getElem?_getD, List.getElem?_take_of_lt (by omega), nth, List.getD_eq_getElem?_getD]
    exact (dpcdRd_written s.hw.ctl n addr.toNat (by omega) (hlen ▸ hi)).trans hnth
  · exact dpcdRd_kept s.hw.ctl n addr.toNat fun i hi => h i (hlen ▸ hi)
  · exact (show Frame false [.ports, .out] [] s.hw.ctl (s.hw.ctl.dpcdWr ..) from frame_parts).trans frame_parts

theorem nativeAux_read (addr : BitVec 20) (len : Fin 17) (data : List Byte) :
    CompletesCtl s (exec (.nativeAux n false addr len data) s) (fun d =>
      d.out = s.hw.ctl.out ++ [.aux n ((List.range len.val).map (fun i => s.hw.ctl.dpcdRd n (addr.toNat + i)))] ∧
      Frame false [.out] [] s.hw.ctl d) := by
  refine answers (f := fun c => _) ?_
  rw [if_neg (auxOn_here hrun hhpd), if_neg (by simp)]

theorem i2c_write {len : Fin 17} {data : List Byte} {b : Byte} {l : List Byte} (hdata : data = b :: l) (hlen : len.val ≠ 0) :
    CompletesCtl s (exec (.i2cOverAux n true 0x50 len data) s) (fun d => mget 0 d.ports.i2cOff n = b.toNat ∧
      mget 0 d.ports.i2cSeg n = mget 0 s.hw.ctl.ports.i2cSeg n ∧ d.out = s.hw.ctl.out ++ [.aux n []] ∧ Frame false [.ports, .out] [] s.hw.ctl d) ∧
    CompletesCtl s (exec (.i2cOverAux n true 0x30 len data) s) (fun d => mget 0 d.ports.i2cSeg n = b.toNat ∧
      mget 0 d.ports.i2cOff n = mget 0 s.hw.ctl.ports.i2cOff n ∧ d.out = s.hw.ctl.out ++ [.aux n []] ∧ Frame false [.ports, .out] [] s.hw.ctl d) := by
  have hfirst (old : Nat) : ((data.take len.val).head?.map BitVec.toNat).getD old = b.toNat := by
    obtain ⟨k, hk⟩ := Nat.exists_eq_succ_of_ne_zero hlen
    rw [hdata, hk]
    rfl
  show CompletesCtl s (execI2cOverAux ..) _ ∧ CompletesCtl s (execI2cOverAux ..) _
  unfold execI2cOverAux
  constructor <;> apply completesCtl_onCtl <;> dsimp only <;> rw [if_neg (auxOn_here hrun hhpd)]
  · rw [if_neg (by decide), if_pos ⟨rfl, rfl⟩, hfirst]
    exact ⟨mget_mset_self .., rfl, rfl, frame_parts⟩
  · rw [if_pos ⟨rfl, rfl⟩, hfirst]
    exact ⟨mget_mset_self .., rfl, rfl, frame_parts⟩

theorem i2c_read (len : Fin 17) (data : List Byte) (hthere : s.hw.ctl.edidThere n) (hseg : mget 0 s.hw.ctl.ports.i2cSeg n ≤ 1) :
    CompletesCtl s (exec (.i2cOverAux n false 0x50 len data) s) (fun d =>
      (∃ bs, d.out = s.hw.ctl.out ++ [.aux n bs] ∧ bs.length = len.val ∧ ∀ i < len.val, some (nth 0 bs i) =
        s.hw.ctl.edidByte n (256 * mget 0 s.hw.ctl.ports.i2cSeg n + (mget 0 s.hw.ctl.ports.i2cOff n + i) % 256)) ∧
      mget 0 d.ports.i2cOff n = (mget 0 s.hw.ctl.ports.i2cOff n + len.val) % 256 ∧ Frame false [.ports, .out] [] s.hw.ctl d) := by
  show CompletesCtl s (execI2cOverAux ..) _
  unfold execI2cOverAux
  have hbyte (i : Nat) := edidByte_some hthere (i := 256 * mget 0 s.hw.ctl.ports.i2cSeg n + (mget 0 s.hw.ctl.ports.i2cOff n + i) % 256) (by omega)
  apply completesCtl_onCtl
  dsimp only
  rw [if_neg (auxOn_here hrun hhpd), if_neg (by decide), if_neg (by decide), if_pos rfl, mapM_range_some _ fun i _ => hbyte i]
  refine ⟨⟨_, rfl, by simp, fun i hi => ?_⟩, mget_mset_self .., frame_parts⟩
  rw [hbyte, nth_map_range _ _ hi]

theorem i2c_unread (len : Fin 17) (data : List Byte) (h : ¬s.hw.ctl.edidThere n ∨ 1 < mget 0 s.hw.ctl.ports.i2cSeg n) (hlen : len.val ≠ 0) :
    CompletesCtl s (exec (.i2cOverAux n false 0x50 len data) s) (fun d => d.out = s.hw.ctl.out ++ [.auxNak n] ∧
      Frame false [.out] [] s.hw.ctl d) := by
  refine answers (f := fun c => _) ?_
  dsimp only
  rw [if_neg (auxOn_here hrun hhpd), if_neg (by decide), if_neg (by decide), if_pos rfl,
    mapM_none (x := 0) ?_ _ (List.mem_range.mpr (by omega))]
  exact edidByte_none (h.imp id (by omega))

theorem i2c_nak {dev : BitVec 7} {write : Bool} (len : Fin 17) (data : List Byte) (h50 : dev ≠ 0x50) (h30 : dev ≠ 0x30 ∨ write = false) :
    CompletesCtl s (exec (.i2cOverAux n write dev len data) s) (fun d => d.out = s.hw.ctl.out ++ [.auxNak n] ∧
      Frame false [.out] [] s.hw.ctl d) := by
  refine answers (f := fun c => _) ?_
  dsimp only
  rw [if_neg (auxOn_here hrun hhpd), if_neg (fun h => by simp_all), if_neg (fun h => h50 h.1), if_neg h50]

end

/-! MST (R92, log entries 15, 40). -/

/-- The payloads are set, STREAMS tells their number, and the request is answered. -/
theorem payloadsSet_emit (c : Ctl) (n : Nat) {l : List (Nat × Nat × Nat)} (hl : l.length < 8) (o : Output) :
    ((c.payloadsSet n l).emit o).out = c.out ++ [o] ∧ ((c.payloadsSet n l).emit o).payloads n = l ∧
    ((c.payloadsSet n l).emit o).get (F.vidRxStatusStreams n) = l.length ∧
    Frame false [.ports, .out] [R.vidRxStatus n] c ((c.payloadsSet n l).emit o) := by
  have hparts : Frame false [.ports, .out] [R.vidRxStatus n] c
      { c with ports := { c.ports with payloads := mset [] c.ports.payloads n l } } := frame_parts
  refine ⟨rfl, mget_mset_self .., ?_, ?_⟩
  · exact (Ctl.get_put_self _ (F.vidRxStatusStreams n) l.length (by simp)).trans (Nat.mod_eq_of_lt hl)
  · exact (hparts.trans ((frame_put false _ (F.vidRxStatusStreams n) l.length).mono (by simp) (by simp))).trans
      ((frame_emit false _ o).mono (by simp) (by simp))

section
variable {s : State} {n : Fin 2} (hrun : s.hw.ctl.running = true) (hhpd : s.hw.ctl.on (F.vidRxStatusHpd n) = true)
include hrun hhpd

/-- A request where MST is advertised. -/
theorem mstReq_on (hmst : s.hw.ctl.on (F.vidRxCtrlMstEn n) = true) (f : Ctl → Ctl) : s.hw.ctl.mstReq n f = f s.hw.ctl := by
  rw [Ctl.mstReq, if_neg (auxOn_here hrun hhpd), if_pos hmst]

/-- A request where MST is not advertised gets a NAK. -/
theorem mstReq_off (hmst : ¬s.hw.ctl.on (F.vidRxCtrlMstEn n) = true) (f : Ctl → Ctl) :
    CompletesCtl s (onCtl s (fun c => c.mstReq n f)) (fun d => d.out = s.hw.ctl.out ++ [.mstNak n] ∧ Frame false [.out] [] s.hw.ctl d) :=
  answers (by rw [Ctl.mstReq, if_neg (auxOn_here hrun hhpd), if_neg hmst])

variable (hmst : s.hw.ctl.on (F.vidRxCtrlMstEn n) = true)
include hmst

/-- A request that is answered, and changes nothing. -/
theorem mstReq_answers {f : Ctl → Ctl} {o : Output} (h : f s.hw.ctl = s.hw.ctl.emit o) :
    CompletesCtl s (onCtl s (fun c => c.mstReq n f)) (fun d => d.out = s.hw.ctl.out ++ [o] ∧ Frame false [.out] [] s.hw.ctl d) :=
  answers (by rw [mstReq_on hrun hhpd hmst, h])

theorem enumPathResources_sink {port : Fin 16} (hport : sinkPort port = true) :
    CompletesCtl s (exec (.enumPathResources n port) s) (fun d =>
      (∃ full avail, full < 65536 ∧ avail < 65536 ∧ d.out = s.hw.ctl.out ++ [.mst n [port.val, full, avail]]) ∧
      Frame false [.out, .free] [] s.hw.ctl d) := by
  show CompletesCtl s (execEnumPathResources ..) _
  unfold execEnumPathResources
  apply completesCtl_onCtl
  rw [mstReq_on hrun hhpd hmst, if_neg (by simp [hport])]
  exact ⟨⟨_, _, Nat.mod_lt _ (by decide), Nat.mod_lt _ (by decide), rfl⟩, frame_parts⟩

theorem allocatePayload_set {port : Fin 16} {id : Fin 128} {pbn : BitVec 16} (hport : sinkPort port = true) (hpbn : pbn ≠ 0)
    (hroom : ((s.hw.ctl.payloads n).filter (fun p => p.2.1 != id.val)).length < 4) :
    CompletesCtl s (exec (.allocatePayload n port id pbn) s) (fun d => d.out = s.hw.ctl.out ++ [.mst n [port.val, id.val, pbn.toNat]] ∧
      d.payloads n = (s.hw.ctl.payloads n).filter (fun p => p.2.1 != id.val) ++ [(port.val, id.val, pbn.toNat)] ∧
      d.get (F.vidRxStatusStreams n) = ((s.hw.ctl.payloads n).filter (fun p => p.2.1 != id.val)).length + 1 ∧
      Frame false [.ports, .out] [R.vidRxStatus n] s.hw.ctl d) := by
  show CompletesCtl s (execAllocatePayload ..) _
  unfold execAllocatePayload
  apply completesCtl_onCtl
  rw [mstReq_on hrun hhpd hmst]
  dsimp only
  rw [if_neg (by simp [hport]), if_neg hpbn, if_neg (by omega)]
  have hset := payloadsSet_emit s.hw.ctl n (l := (s.hw.ctl.payloads n).filter (fun p => p.2.1 != id.val) ++ [(port.val, id.val, pbn.toNat)])
    (by rw [List.length_append, List.length_singleton]; omega) (.mst n [port.val, id.val, pbn.toNat])
  rwa [List.length_append, List.length_singleton] at hset

theorem allocatePayload_freed {port : Fin 16} {id : Fin 128} (hport : sinkPort port = true)
    (hroom : ((s.hw.ctl.payloads n).filter (fun p => p.2.1 != id.val)).length < 8) :
    CompletesCtl s (exec (.allocatePayload n port id 0) s) (fun d => d.out = s.hw.ctl.out ++ [.mst n [port.val, id.val, 0]] ∧
      d.payloads n = (s.hw.ctl.payloads n).filter (fun p => p.2.1 != id.val) ∧
      d.get (F.vidRxStatusStreams n) = ((s.hw.ctl.payloads n).filter (fun p => p.2.1 != id.val)).length ∧
      Frame false [.ports, .out] [R.vidRxStatus n] s.hw.ctl d) := by
  show CompletesCtl s (execAllocatePayload ..) _
  unfold execAllocatePayload
  apply completesCtl_onCtl
  rw [mstReq_on hrun hhpd hmst]
  dsimp only
  rw [if_neg (by simp [hport]), if_pos rfl]
  exact payloadsSet_emit s.hw.ctl n hroom _

theorem allocatePayload_full {port : Fin 16} {id : Fin 128} {pbn : BitVec 16} (hport : sinkPort port = true) (hpbn : pbn ≠ 0)
    (hfull : 4 ≤ ((s.hw.ctl.payloads n).filter (fun p => p.2.1 != id.val)).length) :
    CompletesCtl s (exec (.allocatePayload n port id pbn) s) (fun d => d.out = s.hw.ctl.out ++ [.mstNak n] ∧
      Frame false [.out] [] s.hw.ctl d) :=
  mstReq_answers hrun hhpd hmst (by dsimp only; rw [if_neg (by simp [hport]), if_neg hpbn, if_pos hfull])

theorem queryPayload_sink {port : Fin 16} (id : Fin 128) (hport : sinkPort port = true) :
    CompletesCtl s (exec (.queryPayload n port id) s) (fun d => d.out = s.hw.ctl.out ++
      [.mst n [port.val, (((s.hw.ctl.payloads n).find? (fun p => p.1 == port.val && p.2.1 == id.val)).map (·.2.2)).getD 0]] ∧
      Frame false [.out] [] s.hw.ctl d) := by
  refine mstReq_answers hrun hhpd hmst ?_
  dsimp only
  rw [if_neg (by simp [hport])]
  cases (s.hw.ctl.payloads n).find? (fun p => p.1 == port.val && p.2.1 == id.val) <;> rfl

theorem clearPayloadIdTable_clears : CompletesCtl s (exec (.clearPayloadIdTable n) s) (fun d => d.payloads n = [] ∧
    d.get (F.vidRxStatusStreams n) = 0 ∧ d.out = s.hw.ctl.out ++ [.mst n []] ∧ Frame false [.ports, .out] [R.vidRxStatus n] s.hw.ctl d) := by
  show CompletesCtl s (execClearPayloadIdTable ..) _
  unfold execClearPayloadIdTable
  apply completesCtl_onCtl
  rw [mstReq_on hrun hhpd hmst]
  obtain ⟨hout, hpay, hstreams, hframe⟩ := payloadsSet_emit s.hw.ctl n (l := []) (by decide) (.mst n [])
  exact ⟨hpay, hstreams, hout, hframe⟩

theorem remoteI2cRead_read {port : Fin 16} {off : Fin 512} {count : Fin 256} (hport : sinkPort port = true) (hthere : s.hw.ctl.edidThere n)
    (hend : off.val + count.val ≤ 512) :
    CompletesCtl s (exec (.remoteI2cRead n port 0x50 off count) s) (fun d => (∃ bs : List Byte,
      d.out = s.hw.ctl.out ++ [.mst n (bs.map BitVec.toNat)] ∧ bs.length = count.val ∧
      ∀ i < count.val, some (nth 0 bs i) = s.hw.ctl.edidByte n (off.val + i)) ∧ Frame false [.out] [] s.hw.ctl d) := by
  show CompletesCtl s (execRemoteI2cRead ..) _
  unfold execRemoteI2cRead
  have hbyte (i : Nat) (hi : i < count.val) := edidByte_some hthere (i := off.val + i) (by omega)
  apply completesCtl_onCtl
  rw [mstReq_on hrun hhpd hmst, hport, mapM_range_some _ hbyte]
  refine ⟨⟨_, rfl, by simp, fun i hi => ?_⟩, frame_emit ..⟩
  rw [hbyte i hi, nth_map_range _ _ hi]

theorem remoteI2cRead_nak {port : Fin 16} {dev : BitVec 7} {off : Fin 512} {count : Fin 256}
    (h : ¬sinkPort port = true ∨ dev ≠ 0x50 ∨ 512 < off.val + count.val ∨ ¬s.hw.ctl.edidThere n ∧ count.val ≠ 0) :
    CompletesCtl s (exec (.remoteI2cRead n port dev off count) s) (fun d => d.out = s.hw.ctl.out ++ [.mstNak n] ∧
      Frame false [.out] [] s.hw.ctl d) := by
  have hunread : (512 < off.val + count.val ∨ ¬s.hw.ctl.edidThere n ∧ count.val ≠ 0) →
      (List.range count.val).mapM (fun i => s.hw.ctl.edidByte n (off.val + i)) = none := by
    intro h
    refine mapM_none (x := count.val - 1) ?_ _ (List.mem_range.mpr (by omega))
    exact edidByte_none (h.symm.imp (fun h => h.1) (fun h => by omega))
  refine mstReq_answers hrun hhpd hmst ?_
  rcases h with h | h | h
  · rw [Bool.eq_false_iff.mpr h, Bool.false_and]
  · rw [beq_eq_false_iff_ne.mpr h, Bool.and_false]
  · rw [hunread h]
    cases sinkPort port && dev == 0x50 <;> rfl

theorem mst_notSink {port : Fin 16} (id : Fin 128) (pbn : BitVec 16) (hport : ¬sinkPort port = true) :
    CompletesCtl s (exec (.enumPathResources n port) s) (fun d => d.out = s.hw.ctl.out ++ [.mstNak n] ∧ Frame false [.out] [] s.hw.ctl d) ∧
    CompletesCtl s (exec (.allocatePayload n port id pbn) s) (fun d => d.out = s.hw.ctl.out ++ [.mstNak n] ∧ Frame false [.out] [] s.hw.ctl d) ∧
    CompletesCtl s (exec (.queryPayload n port id) s) (fun d => d.out = s.hw.ctl.out ++ [.mstNak n] ∧ Frame false [.out] [] s.hw.ctl d) := by
  have hno : (!sinkPort port) = true := by simpa using hport
  exact ⟨mstReq_answers hrun hhpd hmst (if_pos hno), mstReq_answers hrun hhpd hmst (if_pos hno), mstReq_answers hrun hhpd hmst (if_pos hno)⟩

end

/-! A receiver that does not present HPD (R92). -/

/-- None of its requests is answered. -/
theorem receiver_silent {s : State} {n : Fin 2} (hhpd : s.hw.ctl.on (F.vidRxStatusHpd n) = false) (port : Fin 16) (id : Fin 128) (pbn : BitVec 16)
    (len : Fin 17) (dev : BitVec 7) (off : Fin 512) (count : Fin 256) (addr : BitVec 20) (data : List Byte) (write ok : Bool) (rate : Fin 8)
    (lanes : Fin 4) :
    exec (.rxLinkTraining n rate lanes ok) s = .next s ∧ exec (.nativeAux n write addr len data) s = .next s ∧
    exec (.i2cOverAux n write dev len data) s = .next s ∧ exec (.linkAddress n) s = .next s ∧ exec (.enumPathResources n port) s = .next s ∧
    exec (.allocatePayload n port id pbn) s = .next s ∧ exec (.queryPayload n port id) s = .next s ∧
    exec (.clearPayloadIdTable n) s = .next s ∧ exec (.remoteI2cRead n port dev off count) s = .next s := by
  have haux : (!s.hw.ctl.auxOn n) = true := by simp [Ctl.auxOn, hhpd]
  have hmst (f : Ctl → Ctl) : onCtl s (fun c => c.mstReq n f) = .next s := onCtl_same (if_pos haux)
  have htrain : execRxLinkTraining n rate lanes ok s = .next s := onCtl_same (if_pos (by simp [hhpd]))
  have haux : execNativeAux n write addr len data s = .next s ∧ execI2cOverAux n write dev len data s = .next s :=
    ⟨onCtl_same (if_pos haux), onCtl_same (if_pos haux)⟩
  exact ⟨htrain, haux.1, haux.2, hmst _, hmst _, hmst _, hmst _, hmst _, hmst _⟩

/-! HPD pulses (R115). -/

theorem onlyRegs_maskPut (c : Ctl) (a : Nat) (m v : Word) : OnlyRegs [a] c (c.maskPut a m v) :=
  ⟨fun b hb => Ctl.rd_wr_ne c _ (by simpa using hb), _, rfl⟩

/-- The bits of the mask read what was written. -/
theorem rd_maskPut_and (c : Ctl) (a : Nat) (m v : Word) : (c.maskPut a m v).rd a &&& m = v &&& m := by
  rw [Ctl.maskPut, Ctl.rd_wr_self]
  ext i
  simp
  cases m[i] <;> simp

/-- The ports once EDID_COMMIT has published the buffer, with the pulse where HPD is asserted. -/
def Ctl.committed (c : Ctl) (n : Nat) : Ports :=
  { c.ports with
    edidPub := mset [] c.ports.edidPub n ((List.range 128).map (fun i => c.rd (R.vidRxEdid n i)))
    hpdPulse := if c.on (F.vidRxStatusHpd n) then if c.ports.hpdPulse.contains n then c.ports.hpdPulse else n :: c.ports.hpdPulse
      else c.ports.hpdPulse }

theorem rxCtrlWrite_commit (c : Ctl) (n : Nat) {w : Word} (hw : w.getLsbD 8 = true) :
    c.rxCtrlWrite n w = { c.maskPut (R.vidRxCtrl n) 0xFF w with ports := c.committed n }.hpdUpdate := by
  have hedid : (List.range 128).map (fun i => (c.maskPut (R.vidRxCtrl n) 0xFF w).rd (R.vidRxEdid n i)) =
      (List.range 128).map (fun i => c.rd (R.vidRxEdid n i)) := by
    refine List.map_congr_left fun i _ => (onlyRegs_maskPut c (R.vidRxCtrl n) 0xFF w).1 _ ?_
    simp [R.vidRxEdid, R.vidRxCtrl]
    omega
  unfold Ctl.rxCtrlWrite Ctl.committed
  dsimp only
  rw [if_pos hw, hedid]
  cases c.on (F.vidRxStatusHpd n) <;> rfl

theorem edidCommit_publishes {s : State} {n : Fin 2} {w : Word} (hrun : s.hw.ctl.running = true) (hw : w.getLsbD 8 = true) :
    CompletesCtl s (exec (.edidCommit n w) s) (fun d => d.rd (R.vidRxCtrl n) &&& 0xFF = w &&& 0xFF ∧
      (∀ i < 128, nth 0 (mget [] d.ports.edidPub n) i = s.hw.ctl.rd (R.vidRxEdid n i)) ∧
      (s.hw.ctl.on (F.vidRxStatusHpd n) = true → n.val ∈ d.ports.hpdPulse ∧ d.on (F.vidRxStatusHpd n) = false) ∧
      (s.hw.ctl.on (F.vidRxStatusHpd n) = false → d.ports.hpdPulse = s.hw.ctl.ports.hpdPulse) ∧
      (s.hw.ctl.paired = false → Frame true [.vid, .ports] (R.vidRxCtrl n :: (hpdRegs ++ lossRegs)) s.hw.ctl d)) := by
  show CompletesCtl s (execEdidCommit ..) _
  unfold execEdidCommit
  apply completesCtl_onCtl
  rw [if_pos hrun, rxCtrlWrite_commit _ _ hw]
  generalize s.hw.ctl = c
  have hregs := onlyRegs_maskPut c (R.vidRxCtrl n) 0xFF w
  have hmask := rd_maskPut_and c (R.vidRxCtrl n) 0xFF w
  generalize hc' : c.maskPut (R.vidRxCtrl n) 0xFF w = c' at hregs hmask
  have hparts : Frame true [.ports] [] c' { c' with ports := c.committed n } := frame_parts
  have hshown := hpdUpdate_shown { c' with ports := c.committed n }
  generalize Ctl.hpdUpdate _ = d at hshown
  have hports : d.ports = c.committed n := hshown.lost.frame.ports (by simp)
  refine ⟨?_, fun i hi => ?_, fun hhpd => ?_, fun hhpd => ?_, fun hpair => ?_⟩
  · rw [← hmask]
    congr 1
    refine hshown.lost.rd (fun hm => ?_) (by simp only [R.vidRxCtrl]; omega) (.inl (by simp only [R.vidRxCtrl]; omega))
    have := hpdRegs_addr hm
    simp only [R.vidRxCtrl] at this
    omega
  · rw [hports, Ctl.committed, mget_mset_self, nth_map_range _ _ hi]
  · have hin : n.val ∈ (c.committed n).hpdPulse := by
      rw [Ctl.committed]
      dsimp only
      rw [if_pos hhpd]
      split
      · rename_i hmem
        exact List.contains_iff_mem.mp hmem
      · exact List.mem_cons_self
    refine ⟨hports ▸ hin, (hshown.hpd n n.isLt).trans ?_⟩
    simp [Ctl.hpdWanted, hin]
  · rw [hports]
    simp [Ctl.committed, hhpd]
  · have hpaired : c'.paired = c.paired := (hregs.frame true).paired (by simp [R.hngPairStatus, R.vidRxCtrl]; omega)
    have halone := hshown.lost.alone (hpaired.trans hpair)
    exact (((hregs.frame true).mono (by simp) (by simp)).trans (hparts.mono (by simp) (by simp))).trans
      (halone.mono (by simp) (List.subset_cons_self ..))

theorem hpdPulseEnd_rises {s : State} {n : Fin 2} (hrun : s.hw.ctl.running = true) :
    CompletesCtl s (exec (.hpdPulseEnd n) s) (fun d => n.val ∉ d.ports.hpdPulse ∧
      (∀ k, k ≠ n.val → (k ∈ d.ports.hpdPulse ↔ k ∈ s.hw.ctl.ports.hpdPulse)) ∧
      d.on (F.vidRxStatusHpd n) = (s.hw.ctl.on (F.vidRxCtrlEn n) && (List.range 24).any (s.hw.ctl.armedOn n))) := by
  show CompletesCtl s (execHpdPulseEnd ..) _
  unfold execHpdPulseEnd
  apply completesCtl_onCtl
  rw [if_pos hrun]
  generalize s.hw.ctl = c
  have hwanted : { c with ports := { c.ports with hpdPulse := c.ports.hpdPulse.filter (· != n.val) } }.hpdWanted n =
      (c.on (F.vidRxCtrlEn n) && (List.range 24).any (c.armedOn n)) := by
    simp [Ctl.hpdWanted]
    rfl
  have hshown := hpdUpdate_shown { c with ports := { c.ports with hpdPulse := c.ports.hpdPulse.filter (· != n.val) } }
  generalize Ctl.hpdUpdate _ = d at hshown
  have hports := hshown.lost.frame.ports (by simp)
  rw [hports]
  exact ⟨by simp, fun k hk => by simp [hk], (hshown.hpd n n.isLt).trans hwanted⟩

/-- Settles O43, request by request: a receiver that presents HPD, one that does not, and the two commands that move HPD, which reach
the contexts through the losses of its inputs. -/
theorem receiverPorts : Obligations.ReceiverPorts := by
  unfold Obligations.ReceiverPorts
  intro s n port id pbn len dev off count addr data write ok rate lanes w c sends nak rest fits mst sink seg pos there uses hrun
  refine ⟨fun hhpd => ?_, fun hhpd => ?_, fun hw => edidCommit_publishes hrun hw, hpdPulseEnd_rises hrun⟩
  · obtain ⟨htrained, huntrained⟩ := rxLinkTraining_outcome hrun hhpd rate lanes
    refine ⟨htrained, huntrained ok, nativeAux_write hrun hhpd addr len data, nativeAux_read hrun hhpd addr len data,
      fun b l hdata hlen => i2c_write hrun hhpd hdata hlen, i2c_read hrun hhpd len data, i2c_unread hrun hhpd len data,
      i2c_nak hrun hhpd len data, fun hmst => mstReq_answers hrun hhpd hmst rfl, fun hmst => enumPathResources_sink hrun hhpd hmst,
      fun hmst => allocatePayload_set hrun hhpd hmst, fun hmst => allocatePayload_freed hrun hhpd hmst,
      fun hmst => allocatePayload_full hrun hhpd hmst, fun hmst => queryPayload_sink hrun hhpd hmst id,
      fun hmst => clearPayloadIdTable_clears hrun hhpd hmst, fun hmst => remoteI2cRead_read hrun hhpd hmst,
      fun hmst => remoteI2cRead_nak hrun hhpd hmst, fun hmst => mst_notSink hrun hhpd hmst id pbn, fun hmst => ?_⟩
    have hnak := fun f => mstReq_off hrun hhpd hmst f
    exact ⟨hnak _, hnak _, hnak _, hnak _, hnak _, hnak _⟩
  · exact receiver_silent hhpd port id pbn len dev off count addr data write ok rate lanes

end Sys2Proof.Machine
end

section
/-! The lines of streams (03_video_ports.md R87, R93, R98, R101, R103, R110, R111): input lines, their loss and replay, plane lines. -/

namespace Sys2Proof.Machine

/-! Input lines (R87, R93, R98, R103). -/

/-- FMT.DSC is none of what a line's shape is read from. -/
theorem sameShape_fmtDsc (c : Ctl) (s x : Nat) : SameShape s c (c.put (F.stcFmtDsc s) x) := by
  intro f hf
  refine Ctl.get_put_ne c (F.stcFmtDsc s) f x (by simp) ?_
  simp only [shapeFields, List.mem_cons, List.not_mem_nil, or_false] at hf
  rcases hf with rfl | rfl | rfl | rfl | rfl | rfl | rfl | rfl <;>
    simp [R.stcCtrl, R.stcGeom, R.stcFmt, R.stcFstore, R.hngPairStatus]

theorem hKey_fmtDsc (c : Ctl) {s : Nat} (hs : s < 24) (x n off : Nat) : (c.put (F.stcFmtDsc s) x).hKey n off = c.hKey n off := by
  have hrd {a : Nat} (ha : 0x101000 ≤ a) : (c.put (F.stcFmtDsc s) x).rd a = c.rd a :=
    Ctl.rd_put_ne c (F.stcFmtDsc s) x (by simp only [R.stcFmt]; omega)
  have htarget : (c.put (F.stcFmtDsc s) x).on (F.cnpHtW0Target n) = c.on (F.cnpHtW0Target n) :=
    Ctl.on_of_rd (hrd (by simp only [R.cnpHtW0]; omega))
  have hbase : (c.put (F.stcFmtDsc s) x).get (F.cnpHtW1Base n) = c.get (F.cnpHtW1Base n) :=
    Ctl.get_of_rd (hrd (by simp only [R.cnpHtW1]; omega))
  rw [Ctl.hKey, Ctl.hBase, htarget, hbase, Ctl.hKey, Ctl.hBase]

theorem haloed_single {c : Ctl} (h : c.mode = 0) (s : Nat) : c.haloed s = false := by simp [Ctl.haloed, h]

theorem inputLine_direct {s : State} {i : Fin 24} {y : Fin 8192} {px : Line} {t : InTiming} {dsc : Option DscRec} (hrun : s.hw.ctl.running = true)
    (hmode : s.hw.ctl.mode = 0) (harmed : s.hw.ctl.armedAs i 0 = true) (hsrc : s.hw.ctl.get (F.stcCtrlSrc i) ≤ 1)
    (hhpd : s.hw.ctl.on (F.vidRxStatusHpd (s.hw.ctl.get (F.stcCtrlSrc i))) = true) (hcarries : s.hw.ctl.rxCarries i t dsc = true)
    (hinner : Inner s.hw.ctl i y px) (hdirect : s.hw.ctl.on (F.stcCtrlMode i) = false) (hloss : (s.hw.ctl.vc i).lossMode = 0)
    (hfree : tbit (s.hw.ctl.vc i).ringFill (s.hw.ctl.vc i).ringTail = false) :
    let c := s.hw.ctl
    let v := c.vc i
    let bs := lineBytesOf (c.ingLine i y px)
    Completes (exec (.inputLine i y px t dsc) s) (fun t => t.hw.ctl.on (F.stcFmtDsc i) = dsc.isSome ∧ t.pending = s.pending ∧
      (t.hw.ctl.vc i).nextLine = y.val + 1 ∧ tbit (t.hw.ctl.vc i).ringFill v.ringTail = true ∧
      (t.hw.ctl.vc i).ringTail = (v.ringTail + 1) % max 1 (c.get (F.stcRingDepth i)) ∧
      (mget [] t.hw.ctl.ras.lintelStore i).getLast? = some (y.val, c.ingLine i y px) ∧
      t.hw.mem.rdN (c.hKey (c.get (F.stcRingHandle i)) (v.ringTail * c.lineSlot i)) bs.length = bs) := by
  dsimp only
  show Completes (execInputLine ..) _
  unfold execInputLine
  refine ⟨_, onHw_eq s _ _ rfl, ?_⟩
  dsimp only
  rw [if_pos (by simp [hrun, harmed, hsrc, hhpd, hcarries])]
  generalize s.hw.ctl = c at *
  have hshape := sameShape_fmtDsc c i (bit dsc.isSome)
  have hvc : (c.put (F.stcFmtDsc i) (bit dsc.isSome)).vc i = c.vc i := rfl
  have hring : (c.put (F.stcFmtDsc i) (bit dsc.isSome)).rd (R.stcRing i) = c.rd (R.stcRing i) :=
    Ctl.rd_put_ne c (F.stcFmtDsc i) _ (by simp only [R.stcRing, R.stcFmt]; omega)
  have hdepth : (c.put (F.stcFmtDsc i) (bit dsc.isSome)).get (F.stcRingDepth i) = c.get (F.stcRingDepth i) := Ctl.get_of_rd hring
  have hhandle : (c.put (F.stcFmtDsc i) (bit dsc.isSome)).get (F.stcRingHandle i) = c.get (F.stcRingHandle i) := Ctl.get_of_rd hring
  have hsame : (c.put (F.stcFmtDsc i) (bit dsc.isSome)).hKey (c.get (F.stcRingHandle i)) ((c.vc i).ringTail * c.lineSlot i) = _ :=
    hKey_fmtDsc c i.isLt _ _ _
  have hdsc : (c.put (F.stcFmtDsc i) (bit dsc.isSome)).on (F.stcFmtDsc i) = dsc.isSome := Ctl.on_put_bit c (by simp) rfl _
  have hin := hshape.inner hinner hvc
  rw [W.on]
  dsimp only
  generalize c.put (F.stcFmtDsc i) (bit dsc.isSome) = d at *
  obtain ⟨hacts, hnext, hfill, htail, hlast, hregs⟩ := ingress_direct (w := ⟨d, s.hw.mem, []⟩) i.isLt hin (hshape.mode.trans hdirect)
    (by rw [hvc]; exact hloss) (hshape.haloed.trans (haloed_single hmode i)) (by rw [hvc]; exact hfree) t
  simp only [hvc, hshape.ingLine, hshape.lineSlot, hdepth, hhandle, hsame] at hacts hfill htail hlast
  refine ⟨(Ctl.on_of_rd (hregs _ (serviceAddr_stc ?_ ?_ ?_))).trans hdsc, rfl, hnext, ?_, htail, hlast, ?_⟩
  · simp only [R.stcFmt]
    omega
  · simp only [R.stcFmt]
    omega
  · simp only [R.stcFmt]
    omega
  · rw [hfill]
    exact testBit_setBit _ _
  · rw [hacts]
    exact rdN_put _ _ _

/-! Input loss (R110). -/

theorem inputLoss_declares {s : State} {i : Fin 24} (hrun : s.hw.ctl.running = true) (hmode : s.hw.ctl.mode = 0)
    (harmed : s.hw.ctl.armedAs i 0 = true) (hkind : s.hw.ctl.kind i = 0) (hmeas : (s.hw.ctl.vc i).measured = true)
    (hloss : (s.hw.ctl.vc i).lossMode = 0) (cause : Fin 5) :
    CompletesCtl s (exec (.inputLoss i cause) s) (fun d => d.get (F.stcStatusState i) = 4 ∧ (d.vc i).lossMode = 1 ∧
      (d.vc i).lossCause = cause.val + 1 ∧ Counts s.hw.ctl d (F.stcLossCntCount i) ∧
      Frame true [.vid] [R.stcStatus i, R.stcLossCnt i, R.vidRxStatus (s.hw.ctl.get (F.stcCtrlSrc i))] s.hw.ctl d) := by
  show CompletesCtl s (execInputLoss ..) _
  unfold execInputLoss
  apply completesCtl_onCtl
  rw [if_neg (by simp [hrun, harmed, hkind])]
  dsimp only
  generalize s.hw.ctl = c at *
  have hentered := lossTaken_entered c i.isLt (cause.val + 1)
  have halone : (c.lossTaken i (cause.val + 1)).paired = false := by
    rw [hentered.frame.paired (by simp [R.hngPairStatus, R.stcStatus, R.stcLossCnt]; omega)]
    simp [Ctl.paired, hmode]
  rw [lossDeclare_eq (by simp [hmeas, hloss]), lossMirror_alone halone]
  generalize c.lossTaken i (cause.val + 1) = d at hentered
  obtain ⟨hframe, hstate, hlost, hcause, hcounts, -⟩ := hentered
  have hframe := hframe.mono (List.Subset.refl _) (m := [R.stcStatus i, R.stcLossCnt i, R.vidRxStatus (c.get (F.stcCtrlSrc i))]) (by simp)
  split
  · rename_i hlock
    generalize hn : c.get (F.stcCtrlSrc i) = n at *
    have hdown := (frame_put true d (F.vidRxStatusTrained n) 0).trans ((posted_emit _ (.irqHpd n)).frame.mono (by simp) (by simp))
    have hstc {f : Fld} (ha : f.addr = R.stcStatus i ∨ f.addr = R.stcLossCnt i) :
        ((d.put (F.vidRxStatusTrained n) 0).emit (.irqHpd n)).get f = d.get f := by
      refine Ctl.get_of_rd (Ctl.rd_put_ne d (F.vidRxStatusTrained n) 0 ?_)
      simp only [R.stcStatus, R.stcLossCnt, R.vidRxStatus] at ha ⊢
      omega
    refine ⟨(hstc (.inl rfl)).trans hstate, hlost, hcause, (hstc (.inr rfl)).trans hcounts, hframe.trans (hdown.mono (by simp) (by simp))⟩
  · exact ⟨hstate, hlost, hcause, hcounts, hframe⟩

/-! Replay (R111). -/

theorem replay_line {w : W} {s : Nat} (hs : s < 24) {r : FrameRec} (hr : (w.ctl.vc s).lastGood = some r) :
    let v := w.ctl.vc s
    ((w.replay s).ctl.vc s).replayLine = (if w.ctl.get (F.stcGeomVact s) ≤ v.replayLine + 1 then 0 else v.replayLine + 1) ∧
    (mget [] (w.replay s).ctl.ras.lintelStore s).getLast? = some (v.replayLine, w.storeLine s r.buf v.replayLine) ∧
    (v.started = false → (w.replay s).acts = w.acts) := by
  dsimp only
  unfold W.replay
  dsimp only
  rw [hr]
  dsimp only
  have hmoved := transfers_storeTouch w s r.buf (w.ctl.vc s).replayLine
  have hacts : (w.storeTouch s r.buf (w.ctl.vc s).replayLine).acts = w.acts := rfl
  generalize w.storeLine s r.buf (w.ctl.vc s).replayLine = px
  generalize w.storeTouch s r.buf (w.ctl.vc s).replayLine = t at hmoved hacts
  have hvact : t.ctl.get (F.stcGeomVact s) = w.ctl.get (F.stcGeomVact s) := (hmoved.served.shape hs).vact
  have hvc := hmoved.vc s
  have hlast := lintelLine_last t.ctl s (w.ctl.vc s).replayLine px
  generalize hq : t.on _ = q
  have hqvc : (q.ctl.vc s).replayLine =
      (if w.ctl.get (F.stcGeomVact s) ≤ (w.ctl.vc s).replayLine + 1 then 0 else (w.ctl.vc s).replayLine + 1) := by
    rw [← hq, W.on_ctl, Ctl.vcMod, Ctl.vc_vcSet_self, hvact]
    simp only [decide_eq_true_eq]
    rw [← hvc]
    rfl
  have hqlast : (mget [] q.ctl.ras.lintelStore s).getLast? = some ((w.ctl.vc s).replayLine, px) := by
    rw [← hq]
    exact hlast
  split
  · rename_i hstarted
    obtain ⟨fill, -, hras, htaken⟩ := ringLine_takes q hs (lineBytesOf px)
    refine ⟨?_, by rw [hras, hqlast], fun h => absurd hstarted (by rw [h]; decide)⟩
    rw [htaken]
    exact hqvc
  · exact ⟨hqvc, hqlast, fun _ => by rw [← hq]; exact hacts⟩

theorem replayLine_direct {s : State} {i : Fin 24} (hrun : s.hw.ctl.running = true) (hkind : s.hw.ctl.kind i = 0)
    (hdirect : s.hw.ctl.on (F.stcCtrlMode i) = false) (hloss : (s.hw.ctl.vc i).lossMode ≠ 0) (hback : (s.hw.ctl.vc i).back = false)
    {r : FrameRec} (hr : (s.hw.ctl.vc i).lastGood = some r) :
    let c := s.hw.ctl
    let v := c.vc i
    Completes (exec (.replayLine i) s) (fun t => t.pending = s.pending ∧
      (t.hw.ctl.vc i).replayLine = (if c.get (F.stcGeomVact i) ≤ v.replayLine + 1 then 0 else v.replayLine + 1) ∧
      (mget [] t.hw.ctl.ras.lintelStore i).getLast? = some (v.replayLine, W.storeLine ⟨c, s.hw.mem, []⟩ i r.buf v.replayLine) ∧
      (v.started = false → t.hw.mem = s.hw.mem)) := by
  dsimp only
  show Completes (execReplayLine ..) _
  unfold execReplayLine
  refine ⟨_, onHw_eq s _ _ rfl, ?_⟩
  dsimp only
  rw [if_neg (by simp [hrun, hkind]), if_neg (by simp [hdirect]), if_pos (by simp [hloss, hback])]
  obtain ⟨hline, hlast, hacts⟩ := replay_line (w := ⟨s.hw.ctl, s.hw.mem, []⟩) i.isLt hr
  refine ⟨rfl, hline, hlast, fun h => ?_⟩
  rw [hacts h]
  rfl

/-! Plane lines (R101). -/

theorem find_replaced {α : Type} (l : List (Nat × α)) (m : Nat) (x : α) :
    (l.filter (fun p => p.1 != m) ++ [(m, x)]).find? (fun p => p.1 == m) = some (m, x) := by
  have hnone : (l.filter (fun p => p.1 != m)).find? (fun p => p.1 == m) = none := by
    rw [List.find?_eq_none]
    intro p hp
    simpa using (List.mem_filter.mp hp).2
  rw [List.find?_append, hnone]
  simp

theorem planeFetch_stands {s : State} {i : Fin 24} {m : Fin 8192} {r : Nat} (hrun : s.hw.ctl.running = true)
    (harm : s.hw.ctl.on (F.stcCtrlArm i) = true) (hkind : s.hw.ctl.kind i = 2) (hrow : s.hw.ctl.planeRow i m = some r)
    (hon : (s.hw.ctl.vc (s.hw.ctl.get (F.stcCtrlLink i))).outOn = true)
    (hdue : s.hw.ctl.drained (s.hw.ctl.get (F.stcCtrlLink i)) 32 (s.hw.ctl.vc (s.hw.ctl.get (F.stcCtrlLink i))).frame.toNat m = false) :
    let c := s.hw.ctl
    CompletesCtl s (exec (.planeFetch i m) s) (fun d => (d.vc i).planes.find? (fun p => p.1 == m.val) = some (m.val,
      [words32 (s.hw.mem.rdN (dramKey (c.get (F.stcFstoreBase i) * 65536 + r * c.planePitch i)) (4 * c.get (F.stcGeomHact i)))]) ∧
      (∀ j, j ≠ i.val → d.vc j = c.vc j) ∧ Frame false [.vid, .cnp] (R.dbgSat :: lcRegs) c d) := by
  dsimp only
  show CompletesCtl s (execPlaneFetch ..) _
  unfold execPlaneFetch
  apply completesCtl_onCtl
  dsimp only
  rw [if_neg (by simp [hrun, harm, hkind, hon, hdue]), hrow]
  dsimp only
  generalize dramKey _ = key
  have hfetch := frame_lcUnit s.hw.ctl key (4 * s.hw.ctl.get (F.stcGeomHact i)) false
  generalize Ctl.lcUnit _ key _ false = d at hfetch
  refine ⟨?_, fun j hj => ?_, (hfetch.mono (by simp) (List.Subset.refl _)).trans ((frame_vcSet false d i _).mono (by simp) (by simp))⟩
  · rw [Ctl.vcMod, Ctl.vc_vcSet_self]
    exact find_replaced _ _ _
  · rw [Ctl.vcMod, Ctl.vc_vcSet, if_neg hj, hfetch.vc (by simp)]

end Sys2Proof.Machine
end

section
/-! Arming and disarming (03_video_ports.md R87 … R90): the write of STC_s_CTRL, and what it does by the kind of the context. -/

namespace Sys2Proof.Machine

/-! The word of CTRL. -/

/-- A field of one bit is that bit of its register. -/
theorem Ctl.on_bit (c : Ctl) (a lo : Nat) : c.on ⟨a, lo, 1⟩ = (c.rd a).getLsbD lo := by
  have hbit := fieldGet_testBit (c.rd a) lo 1 0
  have hlt := fieldGet_lt (c.rd a) lo 1
  rw [Nat.testBit_zero] at hbit
  simp only [Nat.add_zero, Nat.zero_lt_one, decide_true, Bool.true_and] at hbit
  rw [Ctl.on, Ctl.get, ← hbit, beq_eq_decide]
  congr 1
  simp only [eq_iff_iff]
  omega

/-- The kind of a context is read from the low byte of CTRL. -/
theorem ctrlKind_congr {v w : Word} (h : ∀ j < 8, j ≠ 0 → v.getLsbD j = w.getLsbD j) : ctrlKind v = ctrlKind w := by
  have hsrc : fieldGet v 2 3 = fieldGet w 2 3 := by
    refine Nat.eq_of_testBit_eq fun j => ?_
    rw [fieldGet_testBit, fieldGet_testBit]
    by_cases hj : j < 3
    · rw [h _ (by omega) (by omega)]
    · simp [hj]
  rw [ctrlKind, h 1 (by decide) (by decide), hsrc, ctrlKind]

theorem ctrlKind_le (v : Word) : ctrlKind v ≤ 2 := by
  unfold ctrlKind
  split
  · decide
  · split <;> decide

/-- A host may write the low byte of CTRL, whatever the kind (Table 3.1). -/
theorem stcWrMask_ctrl (k : Nat) : ∀ j < 8, (stcWrMask k 0).getLsbD j = true := by
  cases k with
  | zero => decide
  | succ k =>
    show ∀ j < 8, (0x001F00FF : Word).getLsbD j = true
    decide

/-- CTRL of context s with the bits that its new kind takes (R87). -/
def Ctl.ctrlPut (c : Ctl) (s : Nat) (w : Word) : Ctl := c.maskPut (R.stcCtrl s) (stcWrMask (ctrlKind w) 0) w

theorem ctrlPut_low (c : Ctl) (s : Nat) (w : Word) : ∀ j < 8, ((c.ctrlPut s w).rd (R.stcCtrl s)).getLsbD j = w.getLsbD j := by
  intro j hj
  rw [Ctl.ctrlPut, Ctl.maskPut, Ctl.rd_wr_self]
  simp [stcWrMask_ctrl _ j hj]

theorem kind_ctrlPut (c : Ctl) (s : Nat) (w : Word) : (c.ctrlPut s w).kind s = ctrlKind w := ctrlKind_congr fun j hj _ => ctrlPut_low c s w j hj

/-- The checks of R89 read the registers alone. -/
theorem armErr_parts (c : Ctl) (v : SMap VCtx) (p : Ports) (s : Nat) : ({ c with vid := v, ports := p } : Ctl).armErr s = c.armErr s := rfl

/-- A written CTRL, before ARM acts: noted, put, and nothing of it deferred (R88). -/
def Ctl.ctrlNoted (c : Ctl) (s : Nat) (w : Word) : Ctl := ((c.stcMark s 0).ctrlPut s w).vcMod s (fun x => { x with dCtrl := none })

theorem ctrlNoted_eq (c : Ctl) (s : Nat) (w : Word) : ∃ v, c.ctrlNoted s w = { c.ctrlPut s w with vid := v, ports := (c.stcMark s 0).ports } :=
  ⟨_, rfl⟩

/-! The write of CTRL (R87 … R90). -/

/-- On a part alone a write of CTRL is the context's own affair (R379). -/
theorem stcWrite_single {c : Ctl} (hmode : c.mode = 0) {s : Nat} {w : Word} {d : Ctl} (hd : (c.stcMark s 0).stcCtrlWrite s w = d)
    (hpair : d.paired = c.paired) : c.stcWrite s 0 w = d := by
  have halone : c.paired = false := by simp [Ctl.paired, hmode]
  have happly : c.stcApply s 0 w = d := hd
  rw [Ctl.stcWrite, if_neg (by simp [Ctl.isSecondary, halone])]
  dsimp only
  rw [happly, if_neg (by simp [hpair, halone])]

theorem ctrlNoted_frame (c : Ctl) (s : Nat) (w : Word) : Frame false [.vid, .ports] [R.stcCtrl s] c (c.ctrlNoted s w) := by
  obtain ⟨v, h⟩ := ctrlNoted_eq c s w
  have hput : Frame false [.vid, .ports] [R.stcCtrl s] c (c.ctrlPut s w) :=
    ((onlyRegs_maskPut c (R.stcCtrl s) _ w).frame false).mono (List.nil_subset _) (List.Subset.refl _)
  rw [h]
  exact hput.trans frame_parts

theorem ctrlNoted_kind (c : Ctl) (s : Nat) (w : Word) : (c.ctrlNoted s w).kind s = ctrlKind w := kind_ctrlPut (c.stcMark s 0) s w

theorem ctrlNoted_arm (c : Ctl) {s : Nat} {w : Word} (hw : w.getLsbD 0 = true) : (c.ctrlNoted s w).on (F.stcCtrlArm s) = true := by
  rw [Ctl.on_bit, ← hw]
  exact ctrlPut_low (c.stcMark s 0) s w 0 (by decide)

theorem ctrlNoted_armErr (c : Ctl) (s : Nat) (w : Word) : (c.ctrlNoted s w).armErr s = (c.ctrlPut s w).armErr s := by
  obtain ⟨v, h⟩ := ctrlNoted_eq c s w
  rw [h, armErr_parts]

theorem stcCtrlWrite_arms {c : Ctl} {s : Nat} {w : Word} (harm : c.on (F.stcCtrlArm s) = false) (hw : w.getLsbD 0 = true) :
    (c.stcMark s 0).stcCtrlWrite s w = (c.ctrlNoted s w).arm s := by
  have harm' : ¬(c.stcMark s 0).on (F.stcCtrlArm s) = true := by
    rw [Bool.not_eq_true]
    exact harm
  rw [Ctl.stcCtrlWrite, if_neg harm', if_pos hw]
  rfl

/-! A check fails (R89). -/

theorem armErr_le (c : Ctl) (s : Nat) : c.armErr s ≤ 7 := by
  unfold Ctl.armErr
  repeat' split
  all_goals decide

theorem arm_refused {c : Ctl} {s : Nat} (h : c.armErr s ≠ 0) :
    (c.arm s).get (F.stcStatusArmErr s) = c.armErr s ∧ (c.arm s).on (F.stcCtrlArm s) = false ∧
    (c.arm s).get (F.stcStatusState s) = c.get (F.stcStatusState s) ∧ Frame false [] [R.stcCtrl s, R.stcStatus s] c (c.arm s) := by
  have harm : c.arm s = (c.put (F.stcCtrlArm s) 0).put (F.stcStatusArmErr s) (c.armErr s) := if_pos h
  have hle := armErr_le c s
  rw [harm]
  refine ⟨?_, ?_, ?_, ?_⟩
  · rw [Ctl.get_put_self _ _ _ (by simp)]
    exact Nat.mod_eq_of_lt (by simp only; omega)
  · rw [Ctl.on_put_ne _ _ _ _ (by simp) (.inl (by simp [R.stcCtrl, R.stcStatus])), Ctl.on_put_zero _ (by simp)]
  · rw [Ctl.get_put_ne _ _ _ _ (by simp) (by simp), Ctl.get_put_ne _ _ _ _ (by simp) (.inl (by simp [R.stcCtrl, R.stcStatus]))]
  · exact ((frame_put false c (F.stcCtrlArm s) 0).mono (by simp) (by simp)).trans
      ((frame_put false _ (F.stcStatusArmErr s) _).mono (by simp) (by simp))

/-! A context starts (R89, R106). -/

/-- Context s of a kind has started: LOCKING as an output, else ARMED, with CTRL and ARM_ERR as they were. -/
structure Started (s kind : Nat) (c d : Ctl) : Prop where
  ctrl : d.rd (R.stcCtrl s) = c.rd (R.stcCtrl s)
  err : d.get (F.stcStatusArmErr s) = c.get (F.stcStatusArmErr s)
  state : d.get (F.stcStatusState s) = if kind = 1 then 2 else 1
  outOn : (d.vc s).outOn = decide (kind = 1)
  paired : d.paired = c.paired

theorem startInterval_governed (c : Ctl) : Governed [] c c.startInterval := by
  obtain ⟨p, a, h, -, -⟩ := c.startInterval_parts
  rw [h]
  exact governed_parts c p a c.out

theorem firstInterval_governed (c : Ctl) : Governed [] c c.firstInterval := by
  unfold Ctl.firstInterval
  split
  · exact startInterval_governed c
  · exact Governed.refl [] c

theorem govFirstOutput_governed (c : Ctl) : Governed [R.phcGovStatus, R.phcGovFloor] c c.govFirstOutput := by
  have hbounds := (govBounds_acted c).governed
  unfold Ctl.govFirstOutput
  dsimp only
  generalize c.govBounds = d at hbounds
  generalize d.setMv = mv
  split
  · have hstart := governed_parts d { d.pwr with startIval := true, running := false } d.ras d.out
    have hreq := (govRequest_requestOnly { d with pwr := { d.pwr with startIval := true, running := false } } (max mv 750)).governed
    exact (((hbounds.trans hstart).trans hreq).trans (firstInterval_governed _)).mono (by simp)
  · exact (hbounds.trans (startInterval_governed d)).mono (by simp)

/-- The governor is told of an output (R74, R81). -/
def Ctl.govTold (c : Ctl) (first : Bool) : Ctl := if first then c.govFirstOutput else c.govBounds

theorem govTold_governed (c : Ctl) (first : Bool) : Governed [R.phcGovStatus, R.phcGovFloor] c (c.govTold first) := by
  unfold Ctl.govTold
  split
  · exact govFirstOutput_governed c
  · exact (govBounds_acted c).governed

/-- The state of a context that is set twice in a row is what it is set to last; CTRL and ARM_ERR stay. -/
theorem started_setStc {s : Nat} {c d : Ctl} (h : OnlyRegs [R.stcStatus s] c d) (herr : d.get (F.stcStatusArmErr s) = c.get (F.stcStatusArmErr s))
    (kind : Nat) (hout : (c.vc s).outOn = decide (kind = 1)) :
    Started s kind c (d.setStc s (if kind = 1 then 2 else 1)) := by
  have hset := h.trans (setStc_onlyRegs d s (if kind = 1 then 2 else 1))
  refine ⟨hset.1 _ (by simp [R.stcCtrl, R.stcStatus]), (setStc_armErr ..).trans herr, setStc_state _ _ (by split <;> decide), ?_, ?_⟩
  · rw [(hset.frame false).vc (by simp), hout]
  · exact (hset.frame false).paired (by simp [R.hngPairStatus, R.stcStatus]; omega)

/-- What a start needs of the registers is as it was where only parts changed before. -/
theorem Started.of_parts {s kind : Nat} {ps : List Part} {c d e : Ctl} (h : Frame false ps [] c d) (g : Started s kind d e) : Started s kind c e := by
  have hrd (a : Nat) : d.rd a = c.rd a := h.2 a List.not_mem_nil (by simp)
  exact ⟨g.ctrl.trans (hrd _), g.err.trans (Ctl.get_of_rd (hrd _)), g.state, g.outOn, g.paired.trans (h.paired List.not_mem_nil)⟩

/-- The context of an output that starts, and its raster engine. -/
def Ctl.outputFresh (c : Ctl) (s : Nat) : Ctl :=
  (c.vcSet s { VCtx.init with outOn := true, frame := (c.vc s).frame, energyOn := (c.vc s).energyOn }).rcSet s RCtx.init

theorem outputFresh_parts (c : Ctl) (s : Nat) :
    Frame false [.vid, .pwr, .ras, .out] [] c (c.outputFresh s) ∧ ((c.outputFresh s).vc s).outOn = true := by
  unfold Ctl.outputFresh
  generalize hv : { VCtx.init with outOn := true, frame := (c.vc s).frame, energyOn := (c.vc s).energyOn } = v
  have hvc : (c.vcSet s v).vc s = v := Ctl.vc_vcSet_self ..
  have hset := (frame_vcSet false c s v).mono (qs := [.vid, .pwr, .ras, .out]) (by simp) (List.Subset.refl _)
  generalize c.vcSet s v = d at *
  have hraster := (governed_parts d d.pwr { d.ras with ctx := mset RCtx.init d.ras.ctx s RCtx.init } d.out).frame
  refine ⟨hset.trans (hraster.mono (by simp) (List.Subset.refl _)), ?_⟩
  rw [show (d.rcSet s RCtx.init).vc s = v from hvc, ← hv]

theorem armOut_eq (c : Ctl) (s : Nat) : c.armOut s = (((c.outputFresh s).setStc s 1).setStc s 2).govTold (!c.anyOut) := rfl

theorem armOut_started (c : Ctl) {s : Nat} (hs : s < 24) : Started s 1 c (c.armOut s) := by
  obtain ⟨hparts, hout⟩ := outputFresh_parts c s
  rw [armOut_eq]
  generalize c.outputFresh s = e at *
  have hset := (started_setStc (setStc_onlyRegs e s 1) (setStc_armErr ..) 1 hout).of_parts hparts
  rw [if_pos rfl] at hset
  generalize Ctl.setStc _ s 2 = d at *
  obtain ⟨hctrl, herr, hstate, hout, hpair⟩ := hset
  have hgov := govTold_governed d (!c.anyOut)
  have hfar {a : Nat} (ha : 0x41000 ≤ a ∧ a < 0x42000) : a ∉ [R.phcGovStatus, R.phcGovFloor] := by
    simp [R.phcGovStatus, R.phcGovFloor]
    omega
  have hstatus := hgov.1 (R.stcStatus s) (hfar (by simp only [R.stcStatus]; omega))
  refine ⟨(hgov.1 _ (hfar (by simp only [R.stcCtrl]; omega))).trans hctrl, (Ctl.get_of_rd (f := F.stcStatusArmErr s) hstatus).trans herr,
    (Ctl.get_of_rd (f := F.stcStatusState s) hstatus).trans hstate, ?_, (hgov.frame.paired (by decide)).trans hpair⟩
  rw [hgov.frame.vc (by simp), hout]

/-- A plane is armed as it is. -/
theorem armPlane_started (c : Ctl) (s : Nat) : Started s 2 c ((c.vcSet s VCtx.init).setStc s 1) := by
  have hset := started_setStc (c := c.vcSet s VCtx.init) (OnlyRegs.refl ..) rfl 2 (by rw [Ctl.vc_vcSet_self]; rfl)
  exact hset.of_parts (frame_vcSet false c s _)

/-- A running output of an input that is armed locks anew, carrying black meanwhile (R106). -/
def Ctl.relocked (c : Ctl) (out : Option Nat) : Ctl := match out with
  | some o => if (c.vc o).outOn && (c.vc o).locked then (c.vcMod o (fun v => { v with locked := false, lockPend := false })).setStc o 2 else c
  | none => c

/-- Of another context than that output nothing changes. -/
theorem relocked_other (c : Ctl) {out : Option Nat} {s : Nat} (h : out ≠ some s) :
    ∃ o, o ≠ s ∧ Frame false [.vid] [R.stcStatus o] c (c.relocked out) ∧ (c.relocked out).vc s = c.vc s := by
  unfold Ctl.relocked
  cases out with
  | none => exact ⟨s + 1, by omega, Frame.refl .., rfl⟩
  | some o =>
    have hne : o ≠ s := fun ho => h (congrArg some ho)
    dsimp only
    split
    · refine ⟨o, hne, ?_, ?_⟩
      · exact ((frame_vcSet false c o _).mono (by simp) (by simp)).trans (((setStc_onlyRegs _ o 2).frame false).mono (by simp) (by simp))
      · rw [vc_setStc, Ctl.vcMod, Ctl.vc_vcSet, if_neg hne.symm]
    · exact ⟨o, hne, Frame.refl .., rfl⟩

/-- An input is not its own output. -/
theorem outOf_ne_self {c : Ctl} {s : Nat} (h : c.kind s = 0) : c.outOf s ≠ some s := by
  intro hout
  unfold Ctl.outOf at hout
  dsimp only at hout
  split at hout
  · rename_i hdir
    have hlink : c.get (F.stcCtrlLink s) = s := Option.some.inj hout
    rw [hlink] at hdir
    have hbit : c.on (F.stcCtrlDir s) = true := (Bool.and_eq_true_iff.mp hdir).2
    rw [Ctl.on_bit] at hbit
    rw [Ctl.kind, ctrlKind, if_pos hbit] at h
    exact absurd h (by decide)
  · exact absurd hout (by simp)

/-- The state of an input just armed, before its output and HPD follow. -/
def Ctl.inputFresh (c : Ctl) (s : Nat) : Ctl :=
  ((c.vcSet s { VCtx.init with startPend := (c.outOf s).isNone, scenePlan := (c.vc s).scenePlan, energyOn := (c.vc s).energyOn }).setStc s 1).put
    (F.stcFstoreFrames s) (c.storeFrames s)

theorem armIn_eq (c : Ctl) (s : Nat) : c.armIn s = (c.inputFresh s).relocked ((c.inputFresh s).outOf s) := rfl

theorem inputFresh_started (c : Ctl) (s : Nat) :
    Started s 0 c (c.inputFresh s) ∧ ((c.inputFresh s).vc s).measured = false := by
  unfold Ctl.inputFresh
  generalize hv : ({ VCtx.init with startPend := (c.outOf s).isNone, scenePlan := (c.vc s).scenePlan, energyOn := (c.vc s).energyOn } : VCtx) = v
  have hset := started_setStc (c := c.vcSet s v) (OnlyRegs.refl ..) rfl 0 (by rw [Ctl.vc_vcSet_self, ← hv]; rfl)
  obtain ⟨hctrl, herr, hstate, hout, hpair⟩ := hset.of_parts (frame_vcSet false c s v)
  have hmeas : (((c.vcSet s v).setStc s 1).vc s).measured = false := by
    rw [vc_setStc, Ctl.vc_vcSet_self, ← hv]
    rfl
  rw [if_neg (by decide)] at hctrl herr hstate hout hpair
  generalize (c.vcSet s v).setStc s 1 = d at *
  have hrd {a : Nat} (ha : a ≠ R.stcFstore s) : (d.put (F.stcFstoreFrames s) (c.storeFrames s)).rd a = d.rd a := Ctl.rd_put_ne d _ _ ha
  have hstatus : (d.put (F.stcFstoreFrames s) (c.storeFrames s)).rd (R.stcStatus s) = d.rd (R.stcStatus s) :=
    hrd (by simp [R.stcStatus, R.stcFstore])
  exact ⟨⟨(hrd (by simp [R.stcCtrl, R.stcFstore])).trans hctrl, (Ctl.get_of_rd (f := F.stcStatusArmErr s) hstatus).trans herr,
    (Ctl.get_of_rd (f := F.stcStatusState s) hstatus).trans hstate, hout,
    ((frame_put false d _ _).paired (by simp [R.hngPairStatus, R.stcFstore]; omega)).trans hpair⟩, hmeas⟩

theorem armIn_started (c : Ctl) {s : Nat} (hs : s < 24) (hkind : c.kind s = 0) : Started s 0 c (c.armIn s).hpdUpdate := by
  obtain ⟨⟨hctrl, herr, hstate, hout, hpair⟩, hmeas⟩ := inputFresh_started c s
  rw [armIn_eq]
  generalize c.inputFresh s = e at *
  have hkind : e.kind s = 0 := by rw [Ctl.kind, hctrl, ← Ctl.kind, hkind]
  obtain ⟨o, ho, hframe, hvc⟩ := relocked_other e (outOf_ne_self hkind)
  generalize e.relocked (e.outOf s) = f at *
  obtain ⟨hlost, -, hstatus⟩ := hpdUpdate_shown f
  generalize f.hpdUpdate = d at *
  have hfrd {a : Nat} (ha : a ≠ R.stcStatus o) (hp : 0x41000 ≤ a ∧ a < 0x42000) : f.rd a = e.rd a :=
    hframe.rd (by simpa using ha) (postAddr_video (by omega) (by omega))
  have hst : d.rd (R.stcStatus s) = e.rd (R.stcStatus s) := by
    rw [hstatus s hs fun _ => by rw [hvc, hmeas]]
    exact hfrd (by simp only [R.stcStatus]; omega) (by simp only [R.stcStatus]; omega)
  refine ⟨?_, (Ctl.get_of_rd (f := F.stcStatusArmErr s) hst).trans herr, (Ctl.get_of_rd (f := F.stcStatusState s) hst).trans hstate, ?_, ?_⟩
  · rw [hlost.stcCtrl hs, ← hctrl]
    exact hfrd (by simp only [R.stcStatus, R.stcCtrl]; omega) (by simp only [R.stcCtrl]; omega)
  · rw [(hlost.flags s).1, hvc, hout]
  · rw [hlost.paired (by decide), hframe.paired (by simp [R.hngPairStatus, R.stcStatus]; omega), hpair]

/-- All checks pass: the context starts by its kind. -/
theorem arm_started {c : Ctl} {s : Nat} (hs : s < 24) (h : c.armErr s = 0) :
    Started s (c.kind s) (c.put (F.stcStatusArmErr s) 0) (c.arm s) := by
  have hkind : (c.put (F.stcStatusArmErr s) 0).kind s = c.kind s := by
    rw [Ctl.kind, Ctl.rd_put_ne _ _ _ (by simp [R.stcCtrl, R.stcStatus]), Ctl.kind]
  have hle : c.kind s ≤ 2 := ctrlKind_le _
  rw [Ctl.arm, if_neg (by simp [h])]
  dsimp only
  rw [← hkind] at hle ⊢
  generalize c.put (F.stcStatusArmErr s) 0 = d at *
  match hk : d.kind s with
  | 0 => exact armIn_started d hs hk
  | 1 => exact armOut_started d hs
  | 2 => exact armPlane_started d s
  | k + 3 => omega

theorem streamArm_outcome {s : State} {i : Fin 24} {w : Word} (hrun : s.hw.ctl.running = true) (hmode : s.hw.ctl.mode = 0)
    (harm : s.hw.ctl.on (F.stcCtrlArm i) = false) (hw : w.getLsbD 0 = true) :
    CompletesCtl s (exec (.streamArm i w) s) (fun d => d.get (F.stcStatusArmErr i) = (s.hw.ctl.ctrlPut i w).armErr i ∧
      ((s.hw.ctl.ctrlPut i w).armErr i ≠ 0 → d.on (F.stcCtrlArm i) = false ∧
        d.get (F.stcStatusState i) = s.hw.ctl.get (F.stcStatusState i) ∧ d.ports = (s.hw.ctl.stcMark i 0).ports ∧
        Frame false [.vid, .ports] [R.stcCtrl i, R.stcStatus i] s.hw.ctl d) ∧
      ((s.hw.ctl.ctrlPut i w).armErr i = 0 → d.on (F.stcCtrlArm i) = true ∧
        d.get (F.stcStatusState i) = (if ctrlKind w = 1 then 2 else 1) ∧ (d.vc i).outOn = decide (ctrlKind w = 1))) := by
  show CompletesCtl s (execStreamArm ..) _
  unfold execStreamArm
  apply completesCtl_onCtl
  rw [if_pos hrun]
  generalize s.hw.ctl = c at *
  have hnoted := ctrlNoted_frame c i w
  have herr := ctrlNoted_armErr c i w
  have hpair : (c.ctrlNoted i w).paired = c.paired := hnoted.paired (by simp [R.hngPairStatus, R.stcCtrl]; omega)
  have hwrite := stcWrite_single hmode (stcCtrlWrite_arms harm hw)
  have hports : (c.ctrlNoted i w).ports = (c.stcMark i 0).ports := rfl
  have hkind := ctrlNoted_kind c i w
  have harmed := ctrlNoted_arm c hw (s := i)
  generalize c.ctrlNoted i w = d at *
  rw [← herr]
  by_cases he : d.armErr i = 0
  · obtain ⟨hctrl, hzero, hstate, hout, hpair'⟩ := arm_started i.isLt he
    rw [hkind] at hstate hout
    have hflag : (d.put (F.stcStatusArmErr i) 0).paired = d.paired :=
      (frame_put false d _ _).paired (by simp [R.hngPairStatus, R.stcStatus]; omega)
    rw [hwrite ((hpair'.trans hflag).trans hpair)]
    refine ⟨?_, fun hne => absurd he hne, fun _ => ⟨?_, hstate, hout⟩⟩
    · rw [hzero, Ctl.get_put_self _ _ _ (by simp), he]
      rfl
    · rw [Ctl.on_of_rd (f := F.stcCtrlArm i) (hctrl.trans (Ctl.rd_put_ne _ _ _ (by simp [R.stcCtrl, R.stcStatus])))]
      exact harmed
  · obtain ⟨hcode, hoff, hstate, hframe⟩ := arm_refused he
    have hpair' : (d.arm i).paired = d.paired := hframe.paired (by simp [R.hngPairStatus, R.stcStatus, R.stcCtrl]; omega)
    rw [hwrite (hpair'.trans hpair)]
    refine ⟨hcode, fun _ => ⟨hoff, ?_, (hframe.ports (by simp)).trans hports, ?_⟩, fun h0 => absurd h0 he⟩
    · rw [hstate]
      exact hnoted.get (by simp [R.stcCtrl, R.stcStatus]) (postAddr_video (by simp only [R.stcStatus]; omega) (by simp only [R.stcStatus]; omega))
    · exact (hnoted.mono (List.Subset.refl _) (by simp)).trans (hframe.mono (by simp) (List.Subset.refl _))

/-! Disarming (R90). -/

/-- Context s has ended: ARM 0 and IDLE. -/
structure Ended (s : Nat) (c d : Ctl) : Prop where
  arm : d.on (F.stcCtrlArm s) = false
  state : d.get (F.stcStatusState s) = 0
  paired : d.paired = c.paired

/-- CTRL of an armed context written with ARM 0, up to the end: WR_IGN for bits that stay, and the deferred word of an input (R87, R88). -/
def Ctl.ctrlIgnored (c : Ctl) (s : Nat) (w : Word) : Ctl :=
  let k := c.kind s
  let c := if (w ^^^ c.rd (R.stcCtrl s)) &&& stcWrMask k 0 &&& 0x001F03FE = 0 then c else c.put (F.stcStatusWrIgn s) 1
  if k = 0 then c.vcMod s (fun x => { x with dCtrl := some w }) else c

theorem ctrlIgnored_frame (c : Ctl) (s : Nat) (w : Word) : Frame false [.vid] [R.stcStatus s] c (c.ctrlIgnored s w) := by
  unfold Ctl.ctrlIgnored
  dsimp only
  have hign (p : Prop) [Decidable p] : Frame false [.vid] [R.stcStatus s] c (if p then c else c.put (F.stcStatusWrIgn s) 1) := by
    split
    · exact Frame.refl ..
    · exact (frame_put false c _ _).mono (by simp) (List.Subset.refl _)
  split
  · exact (hign _).trans ((frame_vcSet false _ s _).mono (List.Subset.refl _) (by simp))
  · exact hign _

theorem stcCtrlWrite_disarms {c : Ctl} {s : Nat} {w : Word} (harm : c.on (F.stcCtrlArm s) = true) (hw : w.getLsbD 0 = false) :
    (c.stcMark s 0).stcCtrlWrite s w = ((c.stcMark s 0).ctrlIgnored s w).disarm s := by
  have harm' : (c.stcMark s 0).on (F.stcCtrlArm s) = true := harm
  rw [Ctl.stcCtrlWrite, if_pos harm']
  dsimp only
  rw [if_neg (by rw [hw]; decide)]
  rfl

/-- ARM is no part of the kind. -/
theorem kind_put_arm (c : Ctl) (s x : Nat) : (c.put (F.stcCtrlArm s) x).kind s = c.kind s := by
  refine ctrlKind_congr fun j hj h0 => ?_
  rw [Ctl.rd_put, if_pos rfl, fieldPut_getLsbD _ _ _ _ _ (by simp)]
  simp [h0]

/-- ARM written to 0 ends the context, whatever its kind; an input's losses leave that as it is. -/
theorem disarm_ended (c : Ctl) {s : Nat} (hs : s < 24) : Ended s c (c.disarm s) := by
  have hkind := kind_put_arm c s 0
  have hle : c.kind s ≤ 2 := ctrlKind_le _
  have hoff : (c.put (F.stcCtrlArm s) 0).on (F.stcCtrlArm s) = false := Ctl.on_put_zero c (by simp)
  have hpair : (c.put (F.stcCtrlArm s) 0).paired = c.paired := (frame_put false c _ _).paired (by simp [R.hngPairStatus, R.stcCtrl]; omega)
  rw [Ctl.disarm]
  generalize c.put (F.stcCtrlArm s) 0 = d at *
  have hidle (e : Ctl) (hctrl : e.rd (R.stcCtrl s) = d.rd (R.stcCtrl s)) (hp : e.paired = d.paired) : Ended s c (e.setStc s 0) := by
    have hset := setStc_onlyRegs e s 0
    refine ⟨?_, setStc_state e s (by decide), ?_⟩
    · rw [Ctl.on_of_rd (f := F.stcCtrlArm s) ((hset.1 _ (by simp [R.stcCtrl, R.stcStatus])).trans hctrl), hoff]
    · rw [(hset.frame false).paired (by simp [R.hngPairStatus, R.stcStatus]; omega), hp, hpair]
  match hk : d.kind s with
  | 0 =>
    have hlost := lost_lossDeclare d hs 0
    have hctrl : (d.lossDeclare s 0).rd (R.stcCtrl s) = d.rd (R.stcCtrl s) :=
      hlost.rd (by simp) (by simp only [R.stcCtrl]; omega) (by simp only [R.stcCtrl]; omega)
    obtain ⟨harm, hstate, hp⟩ := hidle (d.lossDeclare s 0) hctrl (hlost.paired (by simp))
    have hkept := frame_vcSet false ((d.lossDeclare s 0).setStc s 0) s
      { ((d.lossDeclare s 0).setStc s 0).vc s with ringHead := 0, ringTail := 0, ringFill := 0 }
    show Ended s c (((d.lossDeclare s 0).setStc s 0).vcSet s _).hpdUpdate
    generalize Ctl.vcSet _ s _ = e at *
    obtain ⟨hl, -, hstatus⟩ := hpdUpdate_shown e
    have hrd (a : Nat) := hkept.2 a List.not_mem_nil (by simp)
    have hoff' : e.on (F.stcCtrlArm s) = false := (Ctl.on_of_rd (f := F.stcCtrlArm s) (hrd _)).trans harm
    refine ⟨(Ctl.on_of_rd (f := F.stcCtrlArm s) (hl.stcCtrl hs)).trans hoff', ?_,
      ((hl.paired (by decide)).trans (hkept.paired (by simp))).trans hp⟩
    rw [Ctl.get_of_rd (f := F.stcStatusState s) ((hstatus s hs (by simp [Ctl.armedAs, hoff'])).trans (hrd _)), hstate]
  | 1 => exact hidle (d.vcMod s _) rfl rfl
  | 2 => exact hidle d rfl rfl
  | k + 3 => omega

/-- An output stands to its frame's end: it is noted, and nothing but CTRL and STATUS changes of the registers. -/
theorem disarm_output {c : Ctl} {s : Nat} (hkind : c.kind s = 1) :
    ((c.disarm s).vc s).offPend = true ∧ Frame false [.vid] [R.stcCtrl s, R.stcStatus s] c (c.disarm s) := by
  have hput := (frame_put false c (F.stcCtrlArm s) 0).mono (List.nil_subset [.vid]) (m := [R.stcCtrl s, R.stcStatus s]) (by simp)
  have hk : (c.put (F.stcCtrlArm s) 0).kind s = 1 := (kind_put_arm c s 0).trans hkind
  rw [Ctl.disarm, hk]
  generalize c.put (F.stcCtrlArm s) 0 = d at *
  refine ⟨?_, (hput.trans ((frame_vcSet false d s _).mono (List.Subset.refl _) (by simp))).trans
    (((setStc_onlyRegs _ s 0).frame false).mono (by simp) (by simp))⟩
  show (Ctl.vc (Ctl.setStc (Ctl.vcSet d s _) s 0) s).offPend = true
  rw [vc_setStc, Ctl.vc_vcSet_self]

theorem streamDisarm_outcome {s : State} {i : Fin 24} {w : Word} (hrun : s.hw.ctl.running = true) (hmode : s.hw.ctl.mode = 0)
    (harm : s.hw.ctl.on (F.stcCtrlArm i) = true) (hw : w.getLsbD 0 = false) :
    CompletesCtl s (exec (.streamDisarm i w) s) (fun d => d.on (F.stcCtrlArm i) = false ∧ d.get (F.stcStatusState i) = 0 ∧
      (s.hw.ctl.kind i = 1 → (d.vc i).offPend = true ∧ d.ports = (s.hw.ctl.stcMark i 0).ports ∧
        Frame false [.vid, .ports] [R.stcCtrl i, R.stcStatus i] s.hw.ctl d)) := by
  show CompletesCtl s (execStreamDisarm ..) _
  unfold execStreamDisarm
  apply completesCtl_onCtl
  rw [if_pos hrun]
  generalize s.hw.ctl = c at *
  have hwrite := stcWrite_single hmode (stcCtrlWrite_disarms harm hw)
  have hmark : Frame false [.vid, .ports] [R.stcCtrl i, R.stcStatus i] c (c.stcMark i 0) := frame_parts
  have hpair : (c.stcMark i 0).paired = c.paired := rfl
  have hkind : (c.stcMark i 0).kind i = c.kind i := rfl
  generalize c.stcMark i 0 = m at *
  have hign := ctrlIgnored_frame m i w
  have hpair' : (m.ctrlIgnored i w).paired = m.paired := hign.paired (by simp [R.hngPairStatus, R.stcStatus]; omega)
  have hkind' : (m.ctrlIgnored i w).kind i = m.kind i := by
    rw [Ctl.kind, hign.2 _ (by simp [R.stcCtrl, R.stcStatus]) (by simp), Ctl.kind]
  generalize m.ctrlIgnored i w = e at *
  obtain ⟨hoff, hstate, hended⟩ := disarm_ended e i.isLt
  rw [hwrite ((hended.trans hpair').trans hpair)]
  refine ⟨hoff, hstate, fun hout => ?_⟩
  obtain ⟨hpend, hframe⟩ := disarm_output ((hkind'.trans hkind).trans hout)
  exact ⟨hpend, (hframe.ports (by simp)).trans (hign.ports (by simp)),
    (hmark.trans (hign.mono (by simp) (by simp))).trans (hframe.mono (by simp) (List.Subset.refl _))⟩

/-- Settles O42, command by command: a write of CTRL by whether it arms or ends the context, and the lines by what each moves. -/
theorem streams : Obligations.Streams := by
  unfold Obligations.Streams
  intro s i w c v armed video noted hrun hmode
  refine ⟨fun harm hw => streamArm_outcome hrun hmode harm hw, fun harm hw => streamDisarm_outcome hrun hmode harm hw, ?_, ?_, ?_, ?_⟩
  · intro harmed hsrc hhpd y px t dsc bs key hy hlast hframe hmeas hloss hcarries hdirect hok hfree
    exact inputLine_direct hrun hmode harmed hsrc hhpd hcarries ⟨hy, hlast, hok, hframe, hmeas⟩ hdirect hloss hfree
  · exact fun harmed hkind hmeas hloss cause => inputLoss_declares hrun hmode harmed hkind hmeas hloss cause
  · exact fun hkind hdirect hloss hback r hr => replayLine_direct hrun hkind hdirect hloss hback hr
  · exact fun harm hkind m r hrow hon hdue => planeFetch_stands hrun harm hkind hrow hon hdue

end Sys2Proof.Machine
end

section
/-! Register operations (04_stands_and_bundles.md R130, R131, R135, Table 4.6): the register files after a write of one register, row or
tile; what the checks of issue leave; the result of a slot by the file it goes to. -/

namespace Sys2Proof.Machine

/-- A slot whose effect is in the register files alone: the bundle retires, and what it leaves follows from the files of d. -/
theorem completes_files {s : State} {x : At} {i : Issued} {k : Fin 128} (hk : x.k = k.val) (h : Issues s x i) {d : Ctl}
    (hd : FilesOnly (begun s x i).ctl d) (hfx : fx (begun s x i) x i (begun s x i) = (begun s x i).on (fun _ => d)) {P : State → Prop}
    (hP : ∀ t, Retired x (x.pc + 1) [] s t → t.hw.ctl.fab = d.fab → P t) : Completes (onHw s (fun w => w.slot k.val i)) P := by
  obtain ⟨t, ht, hr, hf⟩ := retired_files h hd hfx
  exact ⟨t, hk ▸ ht, hP t hr hf⟩

/-- An effect under guard bit 0 that changes the controllers alone. -/
theorem gated_on (w0 w : W) (x : At) (i : Issued) (f : Ctl → Ctl) :
    gated w0 x i w (fun w => w.on f) = w.on (fun _ => if w0.ctl.guard0 x.q i.sl then f w.ctl else w.ctl) := by
  unfold gated
  split <;> rfl

theorem filesOnly_ite {c d : Ctl} (b : Bool) (h : FilesOnly c d) : FilesOnly c (if b then d else c) := by
  split
  · exact h
  · exact FilesOnly.refl c

/-! Files that a write of one register leaves. -/

theorem sregSet_files (c : Ctl) (q i : Nat) (v : Word) : (c.sregSet q i v).fab.vregs = c.fab.vregs ∧
    (c.sregSet q i v).fab.pregs = c.fab.pregs ∧ (c.sregSet q i v).fab.aregs = c.fab.aregs := by
  unfold Ctl.sregSet
  split <;> exact ⟨rfl, rfl, rfl⟩

theorem pregSet_files (c : Ctl) (q i : Nat) (v : BitVec 64) : (c.pregSet q i v).fab.sregs = c.fab.sregs ∧
    (c.pregSet q i v).fab.vregs = c.fab.vregs ∧ (c.pregSet q i v).fab.aregs = c.fab.aregs := by
  unfold Ctl.pregSet
  split <;> exact ⟨rfl, rfl, rfl⟩

/-- A predicate register after a write: p0 discards it. -/
theorem Ctl.preg_pregSet (c : Ctl) (q i j : Nat) (v : BitVec 64) (hi : i < 16) (hj : j < 16) (r : Nat) :
    (c.pregSet q i v).preg r j = if r = q ∧ j = i ∧ i ≠ 0 then v else c.preg r j := by
  by_cases hself : r = q ∧ j = i ∧ i ≠ 0
  · obtain ⟨rfl, rfl, h0⟩ := hself
    simp [h0]
  · rw [if_neg hself]
    unfold Ctl.pregSet Ctl.preg
    split
    · rfl
    · split
      · rfl
      · exact mget_mset_ne _ _ _ _ (by omega)

/-- A vector register after a write. -/
theorem Ctl.vreg_vregSet (c : Ctl) (q i j : Nat) (v : BitVec 1024) (hi : i < 32) (hj : j < 32) (r : Nat) :
    (c.vregSet q i v).vreg r j = if r = q ∧ j = i then v else c.vreg r j := by
  by_cases hself : r = q ∧ j = i
  · obtain ⟨rfl, rfl⟩ := hself
    simp
  · rw [if_neg hself]
    exact mget_mset_ne _ _ _ _ (by omega)

/-- An element of a tile after a write. -/
theorem Ctl.areg_aregSet (c : Ctl) (q i r j : Nat) (v : Word) (p : Nat) {a row col : Nat} (hi : i < 8) (ha : a < 8) (hr : r < 16)
    (hrow : row < 16) (hj : j < 32) (hcol : col < 32) :
    (c.aregSet q i r j v).areg p a row col = if p = q ∧ a = i ∧ row = r ∧ col = j then v else c.areg p a row col := by
  by_cases hself : p = q ∧ a = i ∧ row = r ∧ col = j
  · obtain ⟨rfl, rfl, rfl, rfl⟩ := hself
    simp
  · rw [if_neg hself]
    exact mget_mset_ne _ _ _ _ (by omega)

/-- The first n elements of a row after the row's write so far. -/
theorem areg_row_upto (c : Ctl) (q i r : Nat) (f : Nat → Word) (p : Nat) {a row col : Nat} (hi : i < 8) (ha : a < 8) (hr : r < 16)
    (hrow : row < 16) (hcol : col < 32) (n : Nat) (hn : n ≤ 32) :
    (forN n (fun j c => c.aregSet q i r j (f j)) c).areg p a row col =
      if p = q ∧ a = i ∧ row = r ∧ col < n then f col else c.areg p a row col := by
  induction n with
  | zero => simp [forN]
  | succ n ih =>
    rw [forN, List.range_succ, List.foldl_append, List.foldl_cons, List.foldl_nil,
      Ctl.areg_aregSet _ _ _ _ _ _ _ hi ha hr hrow (by omega) hcol]
    have ih := ih (by omega)
    rw [forN] at ih
    rw [ih]
    by_cases hrowSelf : p = q ∧ a = i ∧ row = r
    · obtain ⟨rfl, rfl, rfl⟩ := hrowSelf
      by_cases hc : col = n
      · subst hc; simp
      · simp [hc, show col < n + 1 ↔ col < n by omega]
    · rw [if_neg (by tauto), if_neg (by tauto), if_neg (by tauto)]

/-- A tile after a row of it is written. -/
theorem Ctl.areg_rowSet (c : Ctl) (q i r : Nat) (f : Nat → Word) (p : Nat) {a row col : Nat} (hi : i < 8) (ha : a < 8) (hr : r < 16)
    (hrow : row < 16) (hcol : col < 32) :
    (c.rowSet q i r f).areg p a row col = if p = q ∧ a = i ∧ row = r then f col else c.areg p a row col := by
  rw [Ctl.rowSet, areg_row_upto c q i r f p hi ha hr hrow hcol 32 (Nat.le_refl 32)]
  simp [hcol]

theorem areg_tile_upto (c : Ctl) (q i : Nat) (f : Nat → Nat → Word) (p : Nat) {a row col : Nat} (hi : i < 8) (ha : a < 8)
    (hrow : row < 16) (hcol : col < 32) (n : Nat) (hn : n ≤ 16) :
    (forN n (fun r c => c.rowSet q i r (f r)) c).areg p a row col =
      if p = q ∧ a = i ∧ row < n then f row col else c.areg p a row col := by
  induction n with
  | zero => simp [forN]
  | succ n ih =>
    rw [forN, List.range_succ, List.foldl_append, List.foldl_cons, List.foldl_nil,
      Ctl.areg_rowSet _ _ _ _ _ _ hi ha (by omega) hrow hcol]
    have ih := ih (by omega)
    rw [forN] at ih
    rw [ih]
    by_cases htile : p = q ∧ a = i
    · obtain ⟨rfl, rfl⟩ := htile
      by_cases hr : row = n
      · subst hr; simp
      · simp [hr, show row < n + 1 ↔ row < n by omega]
    · rw [if_neg (by tauto), if_neg (by tauto), if_neg (by tauto)]

/-- The tiles after one is written whole. -/
theorem Ctl.areg_tileSet (c : Ctl) (q i : Nat) (f : Nat → Nat → Word) (p : Nat) {a row col : Nat} (hi : i < 8) (ha : a < 8)
    (hrow : row < 16) (hcol : col < 32) :
    (c.tileSet q i f).areg p a row col = if p = q ∧ a = i then f row col else c.areg p a row col := by
  rw [Ctl.tileSet, areg_tile_upto c q i f p hi ha hrow hcol 16 (Nat.le_refl 16)]
  simp [hrow]

/-- What every step of a fold keeps, the fold keeps. -/
theorem foldl_keeps {α β γ : Type} (g : β → γ) (f : β → α → β) (h : ∀ b a, g (f b a) = g b) (l : List α) : ∀ b, g (l.foldl f b) = g b := by
  induction l with
  | nil => exact fun _ => rfl
  | cons a t ih => exact fun b => (ih (f b a)).trans (h b a)

/-- Writes of rows leave the other files. -/
theorem rowSet_files (c : Ctl) (q i r : Nat) (f : Nat → Word) : (c.rowSet q i r f).fab.sregs = c.fab.sregs ∧
    (c.rowSet q i r f).fab.vregs = c.fab.vregs ∧ (c.rowSet q i r f).fab.pregs = c.fab.pregs :=
  ⟨foldl_keeps (fun c => c.fab.sregs) (fun c j => c.aregSet q i r j (f j)) (fun _ _ => rfl) _ c,
    foldl_keeps (fun c => c.fab.vregs) (fun c j => c.aregSet q i r j (f j)) (fun _ _ => rfl) _ c,
    foldl_keeps (fun c => c.fab.pregs) (fun c j => c.aregSet q i r j (f j)) (fun _ _ => rfl) _ c⟩

theorem tileSet_files (c : Ctl) (q i : Nat) (f : Nat → Nat → Word) : (c.tileSet q i f).fab.sregs = c.fab.sregs ∧
    (c.tileSet q i f).fab.vregs = c.fab.vregs ∧ (c.tileSet q i f).fab.pregs = c.fab.pregs :=
  ⟨foldl_keeps (fun c => c.fab.sregs) (fun c r => c.rowSet q i r (f r)) (fun c r => (rowSet_files c q i r (f r)).1) _ c,
    foldl_keeps (fun c => c.fab.vregs) (fun c r => c.rowSet q i r (f r)) (fun c r => (rowSet_files c q i r (f r)).2.1) _ c,
    foldl_keeps (fun c => c.fab.pregs) (fun c r => c.rowSet q i r (f r)) (fun c r => (rowSet_files c q i r (f r)).2.2) _ c⟩

/-! The result of a slot, by the file it goes to. -/

section
variable {s : State} {x : At} {i : Issued} {k : Fin 128}

/-- A slot whose effect under guard bit 0 is one write of sD. -/
theorem putsS (hk : x.k = k.val) (h : Issues s x i) (hf : i.op.form.d = some .s) {v v' : Word}
    (hfx : fx (begun s x i) x i (begun s x i) =
      gated (begun s x i) x i (begun s x i) (fun w => w.on (fun c => c.sregSet x.q i.sl.d.val v'))) (hv : v' = v) :
    Completes (onHw s (fun w => w.slot k.val i)) (PutsS s x i i.sl.d.val v) := by
  subst hv
  have hd := issues_file h .s hf
  obtain ⟨-, hvr, hpr, har⟩ := begun_files s x i
  obtain ⟨wv, wp, wa⟩ := sregSet_files (begun s x i).ctl x.q i.sl.d.val v'
  refine completes_files hk h (filesOnly_ite _ (filesOnly_sregSet _ _ _ _)) (hfx.trans (gated_on ..)) fun t hr ht => ?_
  rw [begun_guard0] at ht
  unfold PutsS SregsBut SameV SameA SameP
  simp only [sreg_of_fab ht, ht]
  cases s.hw.ctl.guard0 x.q i.sl with
  | false => exact ⟨hr, begun_sreg .., fun r j _ _ => begun_sreg .., hvr, har, hpr⟩
  | true =>
    refine ⟨hr, ?_, fun r j hj hne => ?_, wv.trans hvr, wa.trans har, wp.trans hpr⟩
    · simp [Ctl.sreg_sregSet _ _ _ _ _ hd hd]
    · exact (Ctl.sreg_sregSet _ _ _ _ _ hd hj r).trans ((if_neg (by tauto)).trans (begun_sreg ..))

/-- A slot whose effect under guard bit 0 is one write of pD. -/
theorem putsP (hk : x.k = k.val) (h : Issues s x i) (hf : i.op.form.d = some .p) {p p' : BitVec 64}
    (hfx : fx (begun s x i) x i (begun s x i) = predSet (begun s x i) x i (begun s x i) p') (hp : p' = p) :
    Completes (onHw s (fun w => w.slot k.val i)) (PutsP s x i p) := by
  subst hp
  have hd := issues_file h .p hf
  obtain ⟨hsr, hvr, -, har⟩ := begun_files s x i
  obtain ⟨ws, wv, wa⟩ := pregSet_files (begun s x i).ctl x.q i.sl.d.val p'
  refine completes_files hk h (filesOnly_ite _ (filesOnly_pregSet _ _ _ _)) (hfx.trans (gated_on ..)) fun t hr ht => ?_
  rw [begun_guard0] at ht
  unfold PutsP PregsBut SameS SameV SameA
  simp only [preg_of_fab ht, ht]
  cases s.hw.ctl.guard0 x.q i.sl with
  | false => exact ⟨hr, begun_preg .., fun r j _ _ => begun_preg .., hsr, hvr, har⟩
  | true =>
    refine ⟨hr, ?_, fun r j hj hne => ?_, ws.trans hsr, wv.trans hvr, wa.trans har⟩
    · simp [Ctl.preg_pregSet _ _ _ _ _ hd hd]
    · exact (Ctl.preg_pregSet _ _ _ _ _ hd hj r).trans ((if_neg (by tauto)).trans (begun_preg ..))

/-- A slot whose effect is the enabled bits of pD. -/
theorem putsPBits (hk : x.k = k.val) (h : Issues s x i) (hf : i.op.form.d = some .p) {f : Nat → Bool} {p : BitVec 64}
    (hfx : fx (begun s x i) x i (begun s x i) = predWrite (begun s x i) x i (begun s x i) p) (hp : ∀ l < 64, p.getLsbD l = f l) :
    Completes (onHw s (fun w => w.slot k.val i)) (PutsPBits s x i f) := by
  have hd := issues_file h .p hf
  obtain ⟨hsr, hvr, -, har⟩ := begun_files s x i
  obtain ⟨ws, wv, wa⟩ := pregSet_files (begun s x i).ctl x.q i.sl.d.val
    (mergeBits ((begun s x i).ctl.guard x.q i.sl) ((begun s x i).ctl.preg x.q i.sl.d.val) p)
  refine completes_files hk h (filesOnly_pregSet _ _ _ _) (hfx.trans (W.on_at _ _)) fun t hr ht => ?_
  refine ⟨hr, fun l hl => ?_, fun r j hj hne => ?_, (congrArg Fab.sregs ht).trans (ws.trans hsr), (congrArg Fab.vregs ht).trans (wv.trans hvr),
    (congrArg Fab.aregs ht).trans (wa.trans har)⟩
  · rw [preg_of_fab ht, Ctl.preg_pregSet _ _ _ _ _ hd hd]
    by_cases h0 : i.sl.d.val = 0
    · simp [h0]
    · simp [h0, getLsbD_mergeBits, hp l hl]
  · rw [preg_of_fab ht, Ctl.preg_pregSet _ _ _ _ _ hd hj, if_neg (by tauto), begun_preg]

/-- What a write of vD leaves. -/
theorem vregSet_left {c d : Ctl} {q i : Nat} {v : BitVec 1024} (hi : i < 32) (hd : d.fab = (c.vregSet q i v).fab) :
    d.vreg q i = v ∧ ∀ r j, j < 32 → ¬(r = q ∧ j = i) → d.vreg r j = c.vreg r j := by
  refine ⟨(vreg_of_fab hd ..).trans (Ctl.vreg_vregSet_self ..), fun r j hj hne => ?_⟩
  rw [vreg_of_fab hd, Ctl.vreg_vregSet _ _ _ _ _ hi hj, if_neg hne]

/-- A slot whose effect is the enabled lanes of vD. -/
theorem putsV (hk : x.k = k.val) (h : Issues s x i) (hf : i.op.form.d = some .v) {f : Nat → BitVec 16} {v : BitVec 1024}
    (hfx : fx (begun s x i) x i (begun s x i) = vecWrite (begun s x i) x i (begun s x i) v) (hv : ∀ l < 64, lane v l = f l) :
    Completes (onHw s (fun w => w.slot k.val i)) (PutsV s x i f) := by
  obtain ⟨hsr, -, hpr, har⟩ := begun_files s x i
  refine completes_files hk h (filesOnly_vregSet _ _ _ _) (hfx.trans (W.on_at _ _)) fun t hr ht => ?_
  obtain ⟨hself, hothers⟩ := vregSet_left (issues_file h .v hf) ht
  refine ⟨hr, fun l hl => ?_, fun r j hj hne => (hothers r j hj hne).trans (begun_vreg ..), (congrArg Fab.sregs ht).trans hsr,
    (congrArg Fab.aregs ht).trans har, (congrArg Fab.pregs ht).trans hpr⟩
  rw [hself, lane_mergeLanes _ _ _ _ hl, begun_guard, begun_vreg, hv l hl]

/-- A slot whose effect under guard bit 0 is the elements of rows of aD. -/
theorem putsA (hk : x.k = k.val) (h : Issues s x i) (hf : i.op.form.d = some .a) {rows : Nat → Bool} {f : Nat → Nat → Word} {g : Ctl → Ctl}
    (hfx : fx (begun s x i) x i (begun s x i) = gated (begun s x i) x i (begun s x i) (fun w => w.on g))
    (hd : ∀ c, FilesOnly c (g c))
    (hfiles : ∀ c, (g c).fab.sregs = c.fab.sregs ∧ (g c).fab.vregs = c.fab.vregs ∧ (g c).fab.pregs = c.fab.pregs)
    (hrows : ∀ c p a row col, a < 8 → row < 16 → col < 32 → (g c).areg p a row col =
      if (p = x.q ∧ a = i.sl.d.val) ∧ rows row then f row col else c.areg p a row col) :
    Completes (onHw s (fun w => w.slot k.val i)) (PutsA s x i rows f) := by
  have hdest : i.sl.d.val < 8 := issues_file h .a hf
  obtain ⟨hsr, hvr, hpr, -⟩ := begun_files s x i
  obtain ⟨ws, wv, wp⟩ := hfiles (begun s x i).ctl
  refine completes_files hk h (filesOnly_ite _ (hd _)) (hfx.trans (gated_on ..)) fun t hr ht => ?_
  rw [begun_guard0] at ht
  unfold PutsA AregsBut SameS SameV SameP
  simp only [areg_of_fab ht, ht]
  cases s.hw.ctl.guard0 x.q i.sl with
  | false => exact ⟨hr, fun r j _ _ => begun_areg .., fun r a row col _ _ _ _ => begun_areg .., hsr, hvr, hpr⟩
  | true =>
    refine ⟨hr, fun r j hr hj => ?_, fun r a row col ha hrow hcol hne => ?_, ws.trans hsr, wv.trans hvr, wp.trans hpr⟩
    · exact (hrows _ _ _ _ _ hdest hr hj).trans (by simp)
    · exact (hrows _ _ _ _ _ ha hrow hcol).trans ((if_neg (by tauto)).trans (begun_areg ..))

/-- A slot whose effect under guard bit 0 is every element of aD. -/
theorem putsTile (hk : x.k = k.val) (h : Issues s x i) (hf : i.op.form.d = some .a) {f g : Nat → Nat → Word}
    (hfx : fx (begun s x i) x i (begun s x i) =
      gated (begun s x i) x i (begun s x i) (fun w => w.on (fun c => c.tileSet x.q i.sl.d.val g))) (hg : ∀ r j, g r j = f r j) :
    Completes (onHw s (fun w => w.slot k.val i)) (PutsA s x i (fun _ => true) f) := by
  have hdest : i.sl.d.val < 8 := issues_file h .a hf
  refine putsA hk h hf hfx (fun c => filesOnly_tileSet ..) (fun c => tileSet_files ..) fun c p a row col ha hrow hcol => ?_
  rw [Ctl.areg_tileSet _ _ _ _ _ hdest ha hrow hcol, hg]
  simp

end

/-! What the checks of issue leave (R142). -/

/-- A slot that issues alone fails no check of Table 4.8. -/
theorem issues_cause {s : State} {x : At} {i : Issued} (h : Issues s x i) : (s.hw.ctl.staged1 x i).slotCause x.q x.k x.t [] i = 0 := by
  have hp := h.passes
  unfold Ctl.bundleCause at hp
  split at hp
  · exact absurd hp (by simp)
  · by_contra hne
    simp [hne] at hp

/-- The first failing check of a slot that fails none: its registers lie in their files, and one that acts draws no more credits than
there are. -/
theorem slotCause_zero {c : Ctl} {q k : Nat} {t : Task} {before : List (RFile × Nat)} {i : Issued} (h : c.slotCause q k t before i = 0) :
    i.badReg = false ∧ (c.active q i = true → c.badCredit k i = false) := by
  unfold Ctl.slotCause at h
  dsimp only at h
  split at h
  · exact absurd h (by decide)
  split at h
  · exact absurd h (by decide)
  split at h
  · exact absurd h (by decide)
  next hreg =>
    refine ⟨Bool.eq_false_iff.mpr hreg, fun ha => ?_⟩
    rw [ha, Bool.not_true, if_neg Bool.false_ne_true] at h
    split at h
    · exact absurd h (by decide)
    split at h
    · exact absurd h (by decide)
    split at h
    · exact absurd h (by decide)
    split at h
    · exact absurd h (by decide)
    next hcredit => exact Bool.eq_false_iff.mpr hcredit

/-- A tile row or special register that an operation names lies within Table 4.6. -/
theorem issues_row {s : State} {x : At} {i : Issued} (h : Issues s x i) {m : Nat} (hm : i.op.form.row = some m) : i.sl.c.val ≤ m := by
  obtain ⟨hreg, -⟩ := slotCause_zero (issues_cause h)
  simp only [Issued.badReg, hm, Bool.or_eq_false_iff, decide_eq_false_iff_not, not_lt] at hreg
  exact hreg.2

/-- The signed comparison of MIN and MAX, as the order of the values. -/
theorem slt_eq (a b : Word) : a.slt b = decide (a.toInt < b.toInt) := rfl

theorem min_slt (a b : Word) : (if a.slt b then a else b) = if a.toInt ≤ b.toInt then a else b := by
  rw [slt_eq]
  rcases lt_trichotomy a.toInt b.toInt with h | h | h
  · simp [h, h.le]
  · simp [BitVec.eq_of_toInt_eq h]
  · simp [not_lt.mpr h.le, not_le.mpr h]

theorem max_slt (a b : Word) : (if a.slt b then b else a) = if a.toInt ≤ b.toInt then b else a := by
  rw [slt_eq]
  rcases lt_trichotomy a.toInt b.toInt with h | h | h
  · simp [h, h.le]
  · simp [BitVec.eq_of_toInt_eq h]
  · simp [not_lt.mpr h.le, not_le.mpr h]

/-- Settles O1: each operation's effect is one write of sD under guard bit 0. -/
theorem scalarResults : Obligations.ScalarResults := by
  unfold Obligations.ScalarResults
  intro k sl s x hk
  refine ⟨fun h => putsS hk h rfl rfl (by simp), fun h => putsS hk h rfl rfl (by simp), fun h => putsS hk h rfl rfl (by simp),
    fun h => putsS hk h rfl rfl (by simp), fun h => putsS hk h rfl rfl (by simp), fun h => putsS hk h rfl rfl (by simp),
    fun h => putsS hk h rfl rfl (by simp), fun h => putsS hk h rfl rfl (by simp), fun h => putsS hk h rfl rfl (by simp),
    fun h => putsS hk h rfl rfl (by simp [min_slt]), fun h => putsS hk h rfl rfl (by simp [max_slt]),
    fun h => putsS hk h rfl rfl (by simp), fun h => putsS hk h rfl rfl rfl, fun h => putsS hk h rfl rfl ?_,
    fun h => putsS hk h rfl rfl (by simp)⟩
  rfl

/-- Settles O2: each operation's effect is one write of pD under guard bit 0. -/
theorem predicateResults : Obligations.PredicateResults := by
  unfold Obligations.PredicateResults
  intro k sl s x hk
  refine ⟨fun h => putsP hk h rfl rfl ?_, fun h => putsP hk h rfl rfl ?_, fun h => putsP hk h rfl rfl ?_, fun h => putsP hk h rfl rfl ?_,
    fun h => putsP hk h rfl rfl ?_, fun h => ?_⟩
  · simp [cmpLt, slt_eq]
  · simp [cmpEq, beq_eq_decide]
  · simp
  · simp
  · simp
  · obtain ⟨t, ht, hputs⟩ := putsP (p := tailBits (s.hw.ctl.sreg x.q sl.a.val)) hk h rfl rfl (by simp)
    exact ⟨t, ht, tailBits (s.hw.ctl.sreg x.q sl.a.val), fun l hl => getLsbD_ofBits _ l hl, hputs⟩

/-- Settles O3: each operation's effect is the enabled lanes of vD. -/
theorem vectorResults : Obligations.VectorResults := by
  unfold Obligations.VectorResults
  intro k sl s x hk
  refine ⟨fun h => putsV hk h rfl rfl ?_, fun h => putsV hk h rfl rfl ?_, fun h => putsV hk h rfl rfl ?_, fun h => putsV hk h rfl rfl ?_,
    fun h => putsV hk h rfl rfl ?_, fun h => putsV hk h rfl rfl ?_, fun h => putsV hk h rfl rfl ?_, fun h => putsV hk h rfl rfl ?_,
    fun h => putsV hk h rfl rfl ?_, fun h => putsV hk h rfl rfl ?_, fun h => putsV hk h rfl rfl ?_, fun h => putsV hk h rfl rfl ?_⟩
  case refine_7 => exact fun l _ => by rw [begun_vreg]
  case refine_9 => exact fun l hl => by rw [lane_mergeLanes _ _ _ _ hl]; simp
  case refine_12 => exact fun l hl => by rw [lane_ofLanes _ _ hl]; simp [fieldGet_eq]
  all_goals exact fun l hl => by rw [lane_ofLanes _ _ hl]; simp

/-- Settles O4: the effect is the enabled bits of pD, lane by lane. -/
theorem vectorCompares : Obligations.VectorCompares := by
  unfold Obligations.VectorCompares
  intro k sl s x hk
  refine ⟨fun h => putsPBits hk h rfl rfl fun l hl => ?_, fun h => putsPBits hk h rfl rfl fun l hl => ?_⟩
  · exact (getLsbD_ofBits _ l hl).trans (by simp [lt16])
  · exact (getLsbD_ofBits _ l hl).trans (by simp [eq16])

/-- Rows 2m and 2m + 1 of aI set to the rows of f (AWR). -/
def Ctl.rowPairSet (c : Ctl) (q i m : Nat) (f : Nat → Nat → Word) : Ctl :=
  (c.rowSet q i (2 * m) (f 0)).rowSet q i (2 * m + 1) (f 1)

theorem rowPairSet_files (c : Ctl) (q i m : Nat) (f : Nat → Nat → Word) : (c.rowPairSet q i m f).fab.sregs = c.fab.sregs ∧
    (c.rowPairSet q i m f).fab.vregs = c.fab.vregs ∧ (c.rowPairSet q i m f).fab.pregs = c.fab.pregs := by
  obtain ⟨s0, v0, p0⟩ := rowSet_files c q i (2 * m) (f 0)
  obtain ⟨s1, v1, p1⟩ := rowSet_files (c.rowSet q i (2 * m) (f 0)) q i (2 * m + 1) (f 1)
  exact ⟨s1.trans s0, v1.trans v0, p1.trans p0⟩

theorem filesOnly_rowPairSet (c : Ctl) (q i m : Nat) (f : Nat → Nat → Word) : FilesOnly c (c.rowPairSet q i m f) :=
  (filesOnly_rowSet c q i (2 * m) (f 0)).trans (filesOnly_rowSet _ q i (2 * m + 1) (f 1))

theorem Ctl.areg_rowPairSet (c : Ctl) (q i m : Nat) (f : Nat → Nat → Word) (p : Nat) {a row col : Nat} (hi : i < 8) (ha : a < 8)
    (hm : m ≤ 7) (hrow : row < 16) (hcol : col < 32) :
    (c.rowPairSet q i m f).areg p a row col = if (p = q ∧ a = i) ∧ row / 2 = m then f (row % 2) col else c.areg p a row col := by
  rw [Ctl.rowPairSet, Ctl.areg_rowSet _ _ _ _ _ _ hi ha (by omega) hrow hcol, Ctl.areg_rowSet _ _ _ _ _ _ hi ha (by omega) hrow hcol]
  rcases (show row / 2 ≠ m ∨ row = 2 * m ∨ row = 2 * m + 1 by omega) with h | rfl | rfl
  · rw [if_neg (by omega), if_neg (by omega), if_neg (by omega)]
  · simp
  · simp [Nat.mul_add_div]

/-- AWR: rows 2C and 2C + 1 of aD take the lanes of vA widened. -/
theorem exec_awr {k : Fin 128} {sl : Slot} {s : State} {x : At} (hk : x.k = k.val) (h : Issues s x ⟨.awr, sl⟩) :
    Completes (exec (.awr k sl) s) (PutsA s x ⟨.awr, sl⟩ (fun r => r / 2 == sl.c.val)
      (fun r j => widen (lane (s.hw.ctl.vreg x.q sl.a.val) (32 * (r % 2) + j)))) := by
  have hd : sl.d.val < 8 := issues_file h .a rfl
  have hc : sl.c.val ≤ 7 := issues_row h rfl
  refine putsA hk h rfl (g := fun c => c.rowPairSet x.q sl.d.val sl.c.val
    (fun r j => widen (lane ((begun s x ⟨.awr, sl⟩).ctl.vreg x.q sl.a.val) (32 * r + j)))) rfl
    (fun c => filesOnly_rowPairSet ..) (fun c => rowPairSet_files ..) fun c p a row col ha hrow hcol => ?_
  rw [Ctl.areg_rowPairSet _ _ _ _ _ _ hd ha hc hrow hcol]
  simp

/-- ARD: the lanes of vD take rows 2C and 2C + 1 of aA rounded, under guard bit 0. -/
theorem exec_ard {k : Fin 128} {sl : Slot} {s : State} {x : At} (hk : x.k = k.val) (h : Issues s x ⟨.ard, sl⟩) :
    Completes (exec (.ard k sl) s) (fun t => Retired x (x.pc + 1) [] s t ∧
      (∀ l, l < 64 → lane (t.hw.ctl.vreg x.q sl.d.val) l = (if s.hw.ctl.guard0 x.q sl then
        narrow (s.hw.ctl.areg x.q sl.a.val (2 * sl.c.val + l / 32) (l % 32)) else lane (s.hw.ctl.vreg x.q sl.d.val) l)) ∧
      VregsBut x.q sl.d.val s t ∧ SameS s t ∧ SameA s t ∧ SameP s t) := by
  have hd : sl.d.val < 32 := issues_file h .v rfl
  obtain ⟨hsr, -, hpr, har⟩ := begun_files s x ⟨.ard, sl⟩
  refine completes_files hk h (filesOnly_ite _ (filesOnly_vregSet _ _ _ _)) (gated_on ..) fun t hr ht => ?_
  rw [begun_guard0] at ht
  cases hg : s.hw.ctl.guard0 x.q sl with
  | false =>
    rw [hg, if_neg Bool.false_ne_true] at ht
    refine ⟨hr, fun l _ => ?_, fun r j _ _ => ?_, (congrArg Fab.sregs ht).trans hsr, (congrArg Fab.aregs ht).trans har,
      (congrArg Fab.pregs ht).trans hpr⟩
    · rw [vreg_of_fab ht, begun_vreg, if_neg Bool.false_ne_true]
    · rw [vreg_of_fab ht, begun_vreg]
  | true =>
    rw [hg, if_pos rfl] at ht
    obtain ⟨hself, hothers⟩ := vregSet_left hd ht
    refine ⟨hr, fun l hl => ?_, fun r j hj hne => (hothers r j hj hne).trans (begun_vreg ..), (congrArg Fab.sregs ht).trans hsr,
      (congrArg Fab.aregs ht).trans har, (congrArg Fab.pregs ht).trans hpr⟩
    rw [hself, lane_ofLanes _ _ hl, begun_areg, if_pos rfl]

/-- Settles O5: MMA to AADD write a whole tile, AWR two rows of one, ARD a vector. -/
theorem tensorResults : Obligations.TensorResults := by
  unfold Obligations.TensorResults
  intro k sl s x hk
  refine ⟨fun h => putsTile hk h rfl rfl ?_, fun h => putsTile hk h rfl rfl ?_, fun h => putsTile hk h rfl rfl fun _ _ => rfl,
    fun h => putsTile hk h rfl rfl ?_, fun h => putsTile hk h rfl rfl ?_, exec_awr hk, exec_ard hk⟩
  all_goals exact fun r j => by simp [mmaProd]

end Sys2Proof.Machine
end

section
/-! A slot whose guard enables nothing (04_stands_and_bundles.md R130). -/

namespace Sys2Proof.Machine

/-! A guard that enables nothing (R130). -/

/-- A vector is its 64 lanes. -/
theorem vec_ext {v w : BitVec 1024} (h : ∀ l < 64, lane v l = lane w l) : v = w := by
  refine BitVec.eq_of_getLsbD_eq fun j hj => ?_
  have hbit (u : BitVec 1024) : (lane u (j / 16)).getLsbD (j % 16) = u.getLsbD j := by
    rw [lane, BitVec.getLsbD_setWidth, BitVec.getLsbD_ushiftRight, Nat.div_add_mod]
    simp [Nat.mod_lt]
  rw [← hbit v, ← hbit w, h _ (by omega)]

/-- An operation that is not one of vectors acts under guard bit 0. -/
theorem fx_guard0_off {w0 : W} {x : At} {i : Issued} (w : W) (hl : i.op.perLane = false) (hg : w0.ctl.guard0 x.q i.sl = false) :
    fx w0 x i w = w := by
  obtain ⟨op, sl⟩ := i
  cases op with
  | nop => rfl
  | trap => rfl
  | ldV | stV | ldVb | ldVx | vadd | vsub | vmul | vfma | vmax | vmin | vmov | vbcst | vsel | vcmplt | vcmpeq | vshift | vcvti | vcvtp =>
    exact Bool.noConfusion hl
  | _ => exact if_neg (Bool.eq_false_iff.mp hg)

/-- A strided load with no lane enabled reads nothing. -/
theorem fxLdVx_off {w0 : W} {x : At} {i : Issued} (w : W) (hg : w0.ctl.guard x.q i.sl = 0) : fxLdVx w0 x i w = w := by
  unfold fxLdVx
  rw [hg]
  exact foldl_unchanged _ w _ fun l _ => by simp

/-- An operation of vectors with no lane enabled: a load or store does nothing, another writes a register by its guard. -/
theorem fx_lanes_off {w0 : W} {x : At} {i : Issued} (w : W) (hl : i.op.perLane = true) (hg : w0.ctl.guard x.q i.sl = 0) :
    fx w0 x i w = w ∨ (i.op.form.d = some .v ∧ ∃ v, fx w0 x i w = vecWrite w0 x i w v) ∨
      (i.op.form.d = some .p ∧ ∃ p, fx w0 x i w = predWrite w0 x i w p) := by
  obtain ⟨op, sl⟩ := i
  cases op with
  | ldV | stV | ldVb => exact .inl (if_pos hg)
  | ldVx => exact .inl (fxLdVx_off w hg)
  | vadd | vsub | vmul | vfma | vmax | vmin | vmov | vbcst | vsel | vshift | vcvti | vcvtp => exact .inr (.inl ⟨rfl, _, rfl⟩)
  | vcmplt | vcmpeq => exact .inr (.inr ⟨rfl, _, rfl⟩)
  | _ => exact Bool.noConfusion hl

section
variable {s t : State}

theorem sreg_of_sameS (h : SameS s t) (q j : Nat) : t.hw.ctl.sreg q j = s.hw.ctl.sreg q j := by
  simp only [Ctl.sreg, show t.hw.ctl.fab.sregs = s.hw.ctl.fab.sregs from h]
theorem vreg_of_sameV (h : SameV s t) (q j : Nat) : t.hw.ctl.vreg q j = s.hw.ctl.vreg q j := by
  simp only [Ctl.vreg, show t.hw.ctl.fab.vregs = s.hw.ctl.fab.vregs from h]
theorem preg_of_sameP (h : SameP s t) (q j : Nat) : t.hw.ctl.preg q j = s.hw.ctl.preg q j := by
  simp only [Ctl.preg, show t.hw.ctl.fab.pregs = s.hw.ctl.fab.pregs from h]
theorem areg_of_sameA (h : SameA s t) (q j r l : Nat) : t.hw.ctl.areg q j r l = s.hw.ctl.areg q j r l := by
  simp only [Ctl.areg, show t.hw.ctl.fab.aregs = s.hw.ctl.fab.aregs from h]

theorem sameFiles_of (hs : SameS s t) (hv : SameV s t) (hp : SameP s t) (ha : SameA s t) : SameFiles s t :=
  ⟨sreg_of_sameS hs, fun q j _ => vreg_of_sameV hv q j, fun q j _ => preg_of_sameP hp q j, fun q j r l _ _ _ => areg_of_sameA ha q j r l⟩

/-- Enabled lanes of vD written with no lane enabled: every register as before. -/
theorem PutsV.sameFiles {x : At} {i : Issued} {f : Nat → BitVec 16} (h : PutsV s x i f t) (hg : s.hw.ctl.guard x.q i.sl = 0) :
    SameFiles s t := by
  obtain ⟨-, hlanes, hothers, hs, ha, hp⟩ := h
  refine ⟨sreg_of_sameS hs, fun q j hj => ?_, fun q j _ => preg_of_sameP hp q j, fun q j r l _ _ _ => areg_of_sameA ha q j r l⟩
  by_cases hself : q = x.q ∧ j = i.sl.d.val
  · obtain ⟨rfl, rfl⟩ := hself
    exact vec_ext fun l hl => (hlanes l hl).trans (by simp [hg])
  · exact hothers q j hj hself

/-- Enabled bits of pD written with no bit enabled: every register as before. -/
theorem PutsPBits.sameFiles {x : At} {i : Issued} {f : Nat → Bool} (h : PutsPBits s x i f t) (hg : s.hw.ctl.guard x.q i.sl = 0) :
    SameFiles s t := by
  obtain ⟨-, hbits, hothers, hs, hv, ha⟩ := h
  refine ⟨sreg_of_sameS hs, fun q j _ => vreg_of_sameV hv q j, fun q j hj => ?_, fun q j r l _ _ _ => areg_of_sameA ha q j r l⟩
  by_cases hself : q = x.q ∧ j = i.sl.d.val
  · obtain ⟨rfl, rfl⟩ := hself
    exact BitVec.eq_of_getLsbD_eq fun l hl => (hbits l hl).trans (by simp [hg])
  · exact hothers q j hj hself

end

/-- A slot that does nothing: its bundle retires and every register holds what it held. -/
theorem completes_idle {s : State} {x : At} {i : Issued} {k : Fin 128} (hk : x.k = k.val) (h : Issues s x i)
    (hfx : fx (begun s x i) x i (begun s x i) = begun s x i) :
    Completes (onHw s (fun w => w.slot k.val i)) (fun t => Retired x (x.pc + 1) [] s t ∧ SameFiles s t) := by
  obtain ⟨hs, hv, hp, ha⟩ := begun_files s x i
  exact completes_files hk h (FilesOnly.refl _) hfx fun t hr ht =>
    ⟨hr, sameFiles_of ((congrArg Fab.sregs ht).trans hs) ((congrArg Fab.vregs ht).trans hv) ((congrArg Fab.pregs ht).trans hp)
      ((congrArg Fab.aregs ht).trans ha)⟩

/-- The command of an operation stages its slot. -/
theorem exec_instr (op : Op) (k : Fin 128) (sl : Slot) (s : State) : exec (op.instr k sl) s = onHw s (fun w => w.slot k.val ⟨op, sl⟩) := by
  cases op <;> rfl

theorem Completes.imp {o : Host.Outcome State Fault Refusal} {P Q : State → Prop} (h : Completes o P) (hPQ : ∀ t, P t → Q t) :
    Completes o Q := by
  obtain ⟨t, ht, hp⟩ := h
  exact ⟨t, ht, hPQ t hp⟩

/-- Settles O6: an operation under guard bit 0 does nothing; of the others a load or store does nothing, and the rest write lanes or
bits of which none is enabled. -/
theorem guardOffNoEffect : Obligations.GuardOffNoEffect := by
  unfold Obligations.GuardOffNoEffect
  intro k op sl s x hk h hoff
  rw [exec_instr]
  unfold Ctl.active at hoff
  cases hl : (⟨op, sl⟩ : Issued).op.perLane with
  | false =>
    rw [hl, if_neg Bool.false_ne_true] at hoff
    exact completes_idle hk h (fx_guard0_off _ hl ((begun_guard0 ..).trans hoff))
  | true =>
    rw [hl, if_pos rfl, bne_eq_false_iff_eq] at hoff
    obtain hfx | ⟨hd, v, hfx⟩ | ⟨hd, p, hfx⟩ := fx_lanes_off (begun s x ⟨op, sl⟩) hl ((begun_guard ..).trans hoff)
    · exact completes_idle hk h hfx
    · exact (putsV (f := lane v) hk h hd hfx fun _ _ => rfl).imp fun t ht => ⟨ht.1, ht.sameFiles hoff⟩
    · exact (putsPBits (f := p.getLsbD) hk h hd hfx fun _ _ => rfl).imp fun t ht => ⟨ht.1, ht.sameFiles hoff⟩

end Sys2Proof.Machine
end

section
/-! Branches and hints (04_stands_and_bundles.md R131, R141): a slot that says where its core goes next. -/

namespace Sys2Proof.Machine

/-! Branches and hints (R131, R141). -/

/-- The core of a bundle that has begun, its next PC and its hint as given. -/
def CoreSt.going (cs : CoreSt) (p : Nat) (hint : Option Nat) : CoreSt :=
  { cs with staged := [], nextPc := p % 4096, halting := false, nacked := false, waited := false, hint := hint }

theorem FilesOnly.core {c d : Ctl} (h : FilesOnly c d) (q : Nat) : d.core q = c.core q := by
  obtain ⟨_, _, _, _, rfl⟩ := h
  rfl

theorem FilesOnly.rd {c d : Ctl} (h : FilesOnly c d) (a : Nat) : d.rd a = c.rd a := by
  obtain ⟨_, _, _, _, rfl⟩ := h
  rfl

/-- A field of the PC's register or another: what the bundle's own PC leaves to read. -/
theorem get_put_pc (c : Ctl) (x : At) (p : Nat) :
    (c.put (F.stdCorePcPc x.n (x.q % 8)) p).get (F.stdCorePcPc (x.q / 8) (x.q % 8)) = p % 4096 :=
  Ctl.get_put_self c (F.stdCorePcPc x.n (x.q % 8)) p (by simp)

/-- A slot whose effect is in the register files and in where its core goes next: the bundle retires there. -/
theorem retired_going {s : State} {x : At} {i : Issued} {k : Fin 128} (hk : x.k = k.val) (h : Issues s x i) {e : Ctl} {p : Nat}
    {hint : Option Nat} (he : FilesOnly (begun s x i).ctl e)
    (hfx : fx (begun s x i) x i (begun s x i) = (begun s x i).on (fun _ => e.coreSet x.q ((s.hw.ctl.core x.q).going p hint))) :
    Completes (onHw s (fun w => w.slot k.val i)) (fun t => Retired x p [] s t ∧ t.hw.ctl.fab.sregs = e.fab.sregs ∧
      t.hw.ctl.fab.vregs = e.fab.vregs ∧ t.hw.ctl.fab.aregs = e.fab.aregs ∧ t.hw.ctl.fab.pregs = e.fab.pregs ∧
      (t.hw.ctl.core x.q).hint = hint) := by
  obtain ⟨-, -, htask, -, -⟩ := atCore_q h.core
  have hself : (e.coreSet x.q ((s.hw.ctl.core x.q).going p hint)).core x.q = (s.hw.ctl.core x.q).going p hint := Ctl.core_coreSet_self ..
  have hrun := slot_completes h hfx ((congrArg CoreSt.waiting hself).trans h.waits) (congrArg CoreSt.halting hself)
  refine ⟨_, (congrArg (fun j => onHw s (fun w => w.slot j i)) hk.symm).trans hrun, ⟨rfl, rfl, ?_, ?_, fun a ha => ?_, ?_, ?_, fun q hq => ?_, ?_⟩, rfl, rfl, rfl, rfl, congrArg CoreSt.hint hself⟩
  · rw [hself, get_put_pc]
    exact Nat.mod_mod p 4096
  · refine (Ctl.get_put_ne _ (F.stdCorePcPc x.n (x.q % 8)) (F.stdCoreIssueCount (x.q / 8) (x.q % 8)) _ (by simp)
      (Or.inl (by simp [At.n]))).trans ?_
    exact (Ctl.get_of_rd (f := F.stdCoreIssueCount (x.q / 8) (x.q % 8)) (he.rd _)).trans (begun_issue s x i)
  · simp only [List.mem_cons, not_or] at ha
    exact (Ctl.rd_put_ne _ _ _ ha.1).trans ((he.rd a).trans (begun_rd s x i ha.2.1 ha.2.2.1))
  · exact (congrArg CoreSt.task hself).trans htask
  · exact ⟨(congrArg CoreSt.waiting hself).trans h.waits, congrArg CoreSt.staged hself⟩
  · exact (Ctl.core_coreSet ..).trans ((if_neg hq).trans ((he.core q).trans ((begun_core ..).trans (if_neg hq))))
  · obtain ⟨r, cs, ef, em, hb⟩ := begun_eq s x i
    obtain ⟨sr, vr, ar, pr, rfl⟩ := he
    rw [hb]
    exact ⟨_, _, _, _, _, _, _, _, rfl⟩

/-- Where the bundle's only slot finds its core going: to the next bundle, with the hint it had. -/
theorem begun_going (s : State) (x : At) (i : Issued) :
    (begun s x i).ctl.core x.q = (s.hw.ctl.core x.q).going (x.pc + 1) (s.hw.ctl.core x.q).hint := by
  rw [begun_core, if_pos rfl]
  rfl

/-- The registers of every file are as before, and the core's hint is as given. -/
def FilesAndHint (x : At) (hint : Option Nat) (s t : State) : Prop :=
  (SameS s t ∧ SameV s t ∧ SameA s t ∧ SameP s t) ∧ (t.hw.ctl.core x.q).hint = hint

section
variable {s : State} {x : At} {i : Issued} {k : Fin 128}

/-- A slot that does nothing goes on to PC + 1 with the hint it found. -/
theorem goes_on (hk : x.k = k.val) (h : Issues s x i) (hfx : fx (begun s x i) x i (begun s x i) = begun s x i) :
    Completes (onHw s (fun w => w.slot k.val i)) (fun t => Retired x (x.pc + 1) [] s t ∧ FilesAndHint x (s.hw.ctl.core x.q).hint s t) := by
  obtain ⟨hs, hv, hp, ha⟩ := begun_files s x i
  refine completes_files hk h (FilesOnly.refl _) hfx fun t hr ht =>
    ⟨hr, ⟨(congrArg Fab.sregs ht).trans hs, (congrArg Fab.vregs ht).trans hv, (congrArg Fab.aregs ht).trans ha,
      (congrArg Fab.pregs ht).trans hp⟩, ?_⟩
  have hcore : t.hw.ctl.core x.q = (begun s x i).ctl.core x.q := by simp only [Ctl.core, ht]
  rw [hcore, begun_going]
  rfl

/-- A slot whose effect under guard bit 0 is where its core goes, or its hint. -/
theorem goes_guarded (hk : x.k = k.val) (h : Issues s x i) {p : Nat} {hint : Option Nat} {f : Ctl → Ctl}
    (hfx : fx (begun s x i) x i (begun s x i) = gated (begun s x i) x i (begun s x i) (fun w => w.on f))
    (hf : f (begun s x i).ctl = (begun s x i).ctl.coreSet x.q ((s.hw.ctl.core x.q).going p hint)) :
    Completes (onHw s (fun w => w.slot k.val i)) (fun t => Retired x (if s.hw.ctl.guard0 x.q i.sl then p else x.pc + 1) [] s t ∧
      FilesAndHint x (if s.hw.ctl.guard0 x.q i.sl then hint else (s.hw.ctl.core x.q).hint) s t) := by
  rw [gated_on, begun_guard0, hf] at hfx
  cases hg : s.hw.ctl.guard0 x.q i.sl with
  | false => exact goes_on hk h (by rw [hfx, hg]; rfl)
  | true =>
    rw [hg] at hfx
    obtain ⟨hs, hv, hp, ha⟩ := begun_files s x i
    exact (retired_going hk h (FilesOnly.refl _) hfx).imp fun t ⟨hr, ts, tv, ta, tp, hh⟩ =>
      ⟨hr, ⟨ts.trans hs, tv.trans hv, ta.trans ha, tp.trans hp⟩, hh⟩

/-- A taken branch goes to its target and consumes the hint. -/
theorem branch_begun (s : State) (x : At) (i : Issued) (p : Nat) :
    (begun s x i).ctl.branch x.q p = (begun s x i).ctl.coreSet x.q ((s.hw.ctl.core x.q).going p none) := by
  rw [Ctl.branch, begun_going]
  rfl

theorem At.target_eq (x : At) (i : Issued) : x.target i = (w32 x.pc + i.sl.imm).toNat % 4096 := rfl

theorem CoreSt.going_mod (cs : CoreSt) (p : Nat) (hint : Option Nat) : cs.going (p % 4096) hint = cs.going p hint := by
  rw [CoreSt.going, Nat.mod_mod, CoreSt.going]

end

/-- CALL: s63 takes the bundle after this one, and the core goes to the target. -/
theorem exec_call {k : Fin 128} {sl : Slot} {s : State} {x : At} (hk : x.k = k.val) (h : Issues s x ⟨.call, sl⟩) :
    Completes (exec (.call k sl) s) (fun t =>
      Retired x (if s.hw.ctl.guard0 x.q sl then (w32 x.pc + sl.imm).toNat else x.pc + 1) [] s t ∧
      t.hw.ctl.sreg x.q 63 = (if s.hw.ctl.guard0 x.q sl then w32 (x.pc + 1) else s.hw.ctl.sreg x.q 63) ∧ SregsBut x.q 63 s t ∧
      SameV s t ∧ SameA s t ∧ SameP s t ∧
      (t.hw.ctl.core x.q).hint = if s.hw.ctl.guard0 x.q sl then none else (s.hw.ctl.core x.q).hint) := by
  have hfx : fx (begun s x ⟨.call, sl⟩) x ⟨.call, sl⟩ (begun s x ⟨.call, sl⟩) = _ := gated_on _ _ _ _
    (fun c => (c.sregSet x.q 63 (w32 (x.pc + 1))).branch x.q (x.target ⟨.call, sl⟩))
  rw [begun_guard0] at hfx
  cases hg : s.hw.ctl.guard0 x.q sl with
  | false =>
    rw [hg, if_neg Bool.false_ne_true] at hfx
    exact (goes_on hk h hfx).imp fun t ⟨hr, ⟨ts, tv, ta, tp⟩, hh⟩ =>
      ⟨hr, sreg_of_sameS ts _ _, fun r j _ _ => sreg_of_sameS ts r j, tv, ta, tp, hh⟩
  | true =>
    rw [hg, if_pos rfl, Ctl.branch, Ctl.core_sregSet, begun_going, At.target_eq] at hfx
    obtain ⟨-, hv, hp, ha⟩ := begun_files s x ⟨.call, sl⟩
    obtain ⟨wv, wp, wa⟩ := sregSet_files (begun s x ⟨.call, sl⟩).ctl x.q 63 (w32 (x.pc + 1))
    refine (retired_going (p := (w32 x.pc + sl.imm).toNat) (hint := none) hk h (filesOnly_sregSet _ x.q 63 (w32 (x.pc + 1)))
      (hfx.trans ?_)).imp fun t ⟨hr, ts, tv, ta, tp, hh⟩ => ?_
    · rw [← CoreSt.going_mod _ (w32 x.pc + sl.imm).toNat]
      rfl
    · have hsreg (r j : Nat) : t.hw.ctl.sreg r j = ((begun s x ⟨.call, sl⟩).ctl.sregSet x.q 63 (w32 (x.pc + 1))).sreg r j := by
        simp only [Ctl.sreg, ts]
      refine ⟨hr, (hsreg _ _).trans (Ctl.sreg_sregSet_self _ _ _ _ (by decide)), fun r j hj hne => ?_, tv.trans (wv.trans hv),
        ta.trans (wa.trans ha), tp.trans (wp.trans hp), hh⟩
      rw [hsreg, Ctl.sreg_sregSet _ _ _ _ _ (by decide) hj, if_neg (by tauto), begun_sreg]

/-- Settles O11: NOP goes on; BR, JMP, RET and HINT set where the core goes or its hint; CALL links besides. -/
theorem controlFlow : Obligations.ControlFlow := by
  unfold Obligations.ControlFlow
  intro k sl s x hk go a there same hint
  refine ⟨fun h => goes_on hk h rfl, fun h => goes_guarded hk h rfl ?_, fun h => goes_guarded hk h rfl ?_, exec_call hk,
    fun h => goes_guarded hk h rfl ?_, fun h => ?_⟩
  · rw [branch_begun, At.target_eq, CoreSt.going_mod]
  · rw [branch_begun, begun_sreg]
  · rw [branch_begun, begun_sreg]
  · have hgo := goes_guarded (p := x.pc + 1) (hint := some (there % 4096)) hk h rfl (by rw [begun_going]; rfl)
    exact hgo.imp fun t ⟨hr, hf⟩ => ⟨(ite_self _ : (if go then x.pc + 1 else x.pc + 1) = _) ▸ hr, hf⟩

end Sys2Proof.Machine
end

section
/-! What the effect of a slot may do outside the register files (04_stands_and_bundles.md R140): the memories as the acts leave them, the
controllers outside the core's own bookkeeping, and the bundle that completes after it. -/

namespace Sys2Proof.Machine

/-! The memories as the acts leave them. -/

/-- The memories of a work area are what its acts make of m. -/
def W.Sound (m : Mem) (w : W) : Prop := w.mem = MAct.run m w.acts.reverse

section
variable {m : Mem}

theorem sound_begun (s : State) (x : At) (i : Issued) : (begun s x i).Sound s.hw.mem := rfl

theorem W.Sound.on {w : W} (h : w.Sound m) (f : Ctl → Ctl) : (w.on f).Sound m := h

theorem W.Sound.act {w : W} (h : w.Sound m) (a : MAct) : (w.act a).Sound m := by
  unfold W.Sound at h ⊢
  rw [W.act_mem, W.act_acts, List.reverse_cons, MAct.run, List.foldl_append, h]
  rfl

theorem W.Sound.foldl {α : Type} (f : W → α → W) (hf : ∀ v a, v.Sound m → (f v a).Sound m) (l : List α) :
    ∀ w : W, w.Sound m → (l.foldl f w).Sound m := by
  induction l with
  | nil => exact fun _ h => h
  | cons a t ih => exact fun w h => ih _ (hf w a h)

theorem W.Sound.flushWord {w : W} (h : w.Sound m) (e : GbEntry) (pend : Bool) (i : Nat) : (w.flushWord e pend i).Sound m := by
  unfold W.flushWord
  dsimp only
  split
  · exact h
  · generalize (List.range 32).filter (fun j => mget 256 e.bytes (32 * i + j) != 256) = en
    have hput : (if en.length = 32 then
        w.act (.put (e.line + 32 * i) ((List.range 32).map (fun j => (BitVec.ofNat 8 (mget 256 e.bytes (32 * i + j)) : Byte))))
        else en.foldl (fun w j => w.act (.put (e.line + 32 * i + j) [BitVec.ofNat 8 (mget 256 e.bytes (32 * i + j))])) w).Sound m := by
      split
      · exact h.act _
      · exact W.Sound.foldl _ (fun v j hv => hv.act _) en w h
    split
    · split <;> exact hput
    · split <;> exact hput

theorem W.Sound.flushEntry {w : W} (h : w.Sound m) (e : GbEntry) : (w.flushEntry e).Sound m :=
  (W.Sound.foldl _ (fun _ i hv => hv.flushWord e _ i) (List.range 8) w h).on _

theorem W.Sound.flushWhere {w : W} (h : w.Sound m) (n : Nat) (p : GbEntry → Bool) : (w.flushWhere n p).Sound m :=
  W.Sound.foldl _ (fun _ e hv => hv.flushEntry e) _ _ (h.on _)

end

/-! The controllers. -/

/-- What the effect of a slot of the core at x may do outside the register files: d is c but for the registers of l, those of a posting
where it posts, DBG_SAT, the core's task, and Canopy's controllers outside the other stands' gather buffers. -/
structure Effect (x : At) (posts : Bool) (l : List Nat) (c d : Ctl) : Prop where
  regs : ∀ a, (posts && postAddr a) = false → a ∉ R.dbgSat :: l → d.rd a = c.rd a
  core : ∃ t, d.core x.q = { c.core x.q with task := t }
  others : ∀ q, q ≠ x.q → d.core q = c.core q
  units : SameUnits c d
  gathers : ∀ n, n ≠ x.n → d.gather n = c.gather n
  queues : d.fab.queues = c.fab.queues
  fifos : d.fab.fifos = c.fab.fifos

section
variable {x : At} {posts : Bool} {l : List Nat}

theorem Effect.refl (c : Ctl) : Effect x posts l c c := ⟨fun _ _ _ => rfl, ⟨_, rfl⟩, fun _ _ => rfl, .refl c, fun _ _ => rfl, rfl, rfl⟩

theorem Effect.trans {c d e : Ctl} (h : Effect x posts l c d) (g : Effect x posts l d e) : Effect x posts l c e := by
  refine ⟨fun a hp ha => (g.regs a hp ha).trans (h.regs a hp ha), ?_, fun q hq => (g.others q hq).trans (h.others q hq),
    h.units.trans g.units, fun n hn => (g.gathers n hn).trans (h.gathers n hn), g.queues.trans h.queues, g.fifos.trans h.fifos⟩
  obtain ⟨t, ht⟩ := h.core
  obtain ⟨u, hu⟩ := g.core
  exact ⟨u, by rw [hu, ht]⟩

theorem Effect.mono {c d : Ctl} {l' : List Nat} (h : Effect x posts l c d) (hl : l ⊆ l') : Effect x posts l' c d :=
  { h with regs := fun a hp ha => h.regs a hp fun hm => ha (List.cons_subset_cons _ hl hm) }

/-- A change of registers of l and DBG_SAT alone. -/
theorem OnlyRegs.effect {c d : Ctl} (h : OnlyRegs (R.dbgSat :: l) c d) : Effect x posts l c d := by
  obtain ⟨hrd, r, rfl⟩ := h
  exact ⟨fun a _ ha => hrd a ha, ⟨_, rfl⟩, fun _ _ => rfl, ⟨rfl, rfl, rfl, rfl, rfl, rfl, rfl, rfl, rfl, rfl, rfl, rfl, rfl⟩,
    fun _ _ => rfl, rfl, rfl⟩

/-- A change of the register files alone. -/
theorem FilesOnly.effect {c d : Ctl} (h : FilesOnly c d) : Effect x posts l c d := by
  obtain ⟨_, _, _, _, rfl⟩ := h
  exact ⟨fun _ _ _ => rfl, ⟨_, rfl⟩, fun _ _ => rfl, ⟨rfl, rfl, rfl, rfl, rfl, rfl, rfl, rfl, rfl, rfl, rfl, rfl, rfl⟩, fun _ _ => rfl,
    rfl, rfl⟩

theorem effect_coreTask (c : Ctl) (t : Option Task) : Effect x posts l c (c.coreSet x.q { c.core x.q with task := t }) :=
  ⟨fun _ _ _ => rfl, ⟨t, Ctl.core_coreSet_self ..⟩, fun _ hq => (Ctl.core_coreSet ..).trans (if_neg hq),
    ⟨rfl, rfl, rfl, rfl, rfl, rfl, rfl, rfl, rfl, rfl, rfl, rfl, rfl⟩, fun _ _ => rfl, rfl, rfl⟩

/-- The task enters its commit section (R177). -/
theorem effect_commit (c : Ctl) : Effect x posts l c (c.commit x.q) := by
  unfold Ctl.commit
  split
  · exact effect_coreTask c _
  · exact Effect.refl c

theorem effect_gatherSet (c : Ctl) (es : List GbEntry) : Effect x posts l c (c.gatherSet x.n es) :=
  ⟨fun _ _ _ => rfl, ⟨_, rfl⟩, fun _ _ => rfl, ⟨rfl, rfl, rfl, rfl, rfl, rfl, rfl, rfl, rfl, rfl, rfl, rfl, rfl⟩,
    fun _ hn => mget_mset_ne _ _ _ _ hn, rfl, rfl⟩

/-- A flush of the stand's own gather buffer (R170, R171). -/
theorem effect_flushWhere (w : W) (p : GbEntry → Bool) : Effect x true flushRegs w.ctl (w.flushWhere x.n p).ctl := by
  obtain ⟨hflush, -, -, -⟩ := flushWhere_frame w x.n p
  refine (effect_gatherSet w.ctl ((w.ctl.gather x.n).filter (fun e => !p e))).trans ?_
  obtain ⟨r, hfab⟩ := hflush.fab
  have hcore (q : Nat) : (w.flushWhere x.n p).ctl.core q = (w.ctl.gatherSet x.n ((w.ctl.gather x.n).filter (fun e => !p e))).core q := by
    simp only [Ctl.core, hfab]
  exact ⟨fun a hp ha => hflush.rd a (by simpa using hp) fun hm => ha (List.mem_cons_of_mem _ hm), ⟨_, hcore x.q⟩, fun q _ => hcore q,
    hflush.units, fun n _ => by simp only [Ctl.gather, hflush.cnp], by rw [hfab], by rw [hfab]⟩

end

/-- A flush changes no register file. -/
theorem flushWhere_files (w : W) (n : Nat) (p : GbEntry → Bool) : (w.flushWhere n p).ctl.fab.sregs = w.ctl.fab.sregs ∧
    (w.flushWhere n p).ctl.fab.vregs = w.ctl.fab.vregs ∧ (w.flushWhere n p).ctl.fab.aregs = w.ctl.fab.aregs ∧
    (w.flushWhere n p).ctl.fab.pregs = w.ctl.fab.pregs := by
  obtain ⟨hflush, -, -, -⟩ := flushWhere_frame w n p
  obtain ⟨r, hfab⟩ := hflush.fab
  rw [hfab]
  exact ⟨rfl, rfl, rfl, rfl⟩

/-! The bundle that completes after it. -/

/-- The ISSUE count of a core of the 17 stands lies below Canopy's registers and the postings of diagnostics. -/
theorem issueAddr_lt {x : At} (hq : x.q < 136) : x.issueAddr < 0x100000 := by
  have hbase : stdBase (x.q / 8) ≤ 0xF8000 := by unfold stdBase; split <;> omega
  show stdBase (x.q / 8) + 0x108 + 0x40 * (x.q % 8) < 0x100000
  omega

theorem postAddr_core {a : Nat} (h : 0x78000 ≤ a) (h' : a < 0x100000) : postAddr a = false := by
  simp [postAddr]
  omega

/-- What is left of the work area w when the bundle at x has completed after it: only the PC has moved. -/
structure Left (x : At) (w : W) (t : State) : Prop where
  mem : t.hw.mem = w.mem
  fab : t.hw.ctl.fab = w.ctl.fab
  cnp : t.hw.ctl.cnp = w.ctl.cnp
  rd : ∀ a, a ≠ x.pcAddr → t.hw.ctl.rd a = w.ctl.rd a

/-- A slot whose effect does no more than `Effect` says, with nothing to wait for: the bundle completes and leaves what the effect left. -/
theorem effect_completes {s : State} {x : At} {i : Issued} {k : Fin 128} {posts : Bool} {l : List Nat} (hk : x.k = k.val) (h : Issues s x i)
    {w : W} (hfx : fx (begun s x i) x i (begun s x i) = w) (hs : w.Sound s.hw.mem) (he : Effect x posts l (begun s x i).ctl w.ctl)
    (hl : ∀ a ∈ l, a < 0x78000 ∨ 0x100000 ≤ a) :
    Completes (onHw s (fun w => w.slot k.val i)) (fun t => TileActs x posts l s t ∧ Left x w t) := by
  obtain ⟨-, hq, -, -, -⟩ := atCore_q h.core
  obtain ⟨-, hissue⟩ := coreAddr_ge x
  have hissue' := issueAddr_lt hq
  obtain ⟨u, hcore⟩ := he.core
  rw [begun_core, if_pos rfl] at hcore
  have hwait := (congrArg CoreSt.waiting hcore).trans h.waits
  have hslot : W.slot ⟨s.hw.ctl, s.hw.mem, []⟩ x.k i = w.on (fun c => c.put (F.stdCorePcPc x.n (x.q % 8)) ((x.pc + 1) % 4096)) := by
    rw [slot_issues h, hfx, settle_plain w x hwait (congrArg CoreSt.halting hcore), hcore]
  have hrun := onHw_eq s (fun w => w.slot x.k i) _ hslot
  rw [W.on_ctl, W.on_acts, ← (show w.mem = MAct.run s.hw.mem w.acts.reverse from hs)] at hrun
  have hnot {a : Nat} (h0 : 0x78000 ≤ a) (h1 : a < 0x100000) : a ∉ R.dbgSat :: l := by
    simp only [List.mem_cons, not_or]
    exact ⟨by unfold R.dbgSat; omega, fun hm => by have := hl a hm; omega⟩
  refine ⟨_, (congrArg (fun j => onHw s (fun w => w.slot j i)) hk.symm).trans hrun, ⟨rfl, ?_, fun a hp ha => ?_, ⟨?_, hwait⟩, ?_,
    fun q hne => ?_, ?_, fun n hn => ?_, he.queues.trans ?_, he.fifos.trans ?_⟩, rfl, rfl, rfl, fun a ha => Ctl.rd_put_ne _ _ _ ha⟩
  · refine (Ctl.get_put_ne _ (F.stdCorePcPc x.n (x.q % 8)) (F.stdCoreIssueCount (x.q / 8) (x.q % 8)) _ (by simp)
      (Or.inl (by simp [At.n]))).trans ?_
    exact (Ctl.get_of_rd (f := F.stdCoreIssueCount (x.q / 8) (x.q % 8))
      (he.regs x.issueAddr (by rw [postAddr_core hissue hissue', Bool.and_false]) (hnot hissue hissue'))).trans (begun_issue s x i)
  · simp only [List.mem_cons, not_or] at ha
    obtain ⟨hapc, haissue, hasat, hal⟩ := ha
    exact (Ctl.rd_put_ne _ _ _ hapc).trans ((he.regs a hp (by simp [hasat, hal])).trans (begun_rd s x i haissue hasat))
  · exact (get_put_pc _ x _).trans (Nat.mod_mod _ _)
  · exact congrArg CoreSt.staged hcore
  · exact (he.others q hne).trans ((begun_core ..).trans (if_neg hne))
  · obtain ⟨r, cs, ef, em, hb⟩ := begun_eq s x i
    have hunits : SameUnits s.hw.ctl (begun s x i).ctl := by
      rw [hb]; exact ⟨rfl, rfl, rfl, rfl, rfl, rfl, rfl, rfl, rfl, rfl, rfl, rfl, rfl⟩
    have := hunits.trans he.units
    exact ⟨this.now, this.vid, this.ras, this.ports, this.img, this.und, this.gld, this.hng, this.pwr, this.boot, this.jobs, this.dmas,
      this.taken⟩
  · exact (he.gathers n hn).trans (begun_gather s x i n)
  all_goals
    obtain ⟨r, cs, ef, em, hb⟩ := begun_eq s x i
    rw [hb]

/-- A bundle that acted and left memories, its stand's gather buffer and all of its task but the commit section. -/
theorem TileActs.step {s t : State} {x : At} {posts : Bool} {l : List Nat} (h : TileActs x posts l s t) (hm : t.hw.mem = s.hw.mem)
    (hg : t.hw.ctl.gather x.n = s.hw.ctl.gather x.n) {b : Bool} (ht : (t.hw.ctl.core x.q).task = some { x.t with inCommit := b }) :
    TileStep x posts l s t := by
  refine ⟨hm, h.queue, h.count, h.regs, ?_, h.staged, h.others, h.units, fun n => ?_, h.queues⟩
  · rw [ht]
    rfl
  · by_cases hn : n = x.n
    · rw [hn, hg]
    · exact h.gathers n hn

end Sys2Proof.Machine
end

section
/-! SSIG, CRPUT and FENCE (05, 06: R139, R170, R198, R200). -/

namespace Sys2Proof.Machine

theorem begun_task {s : State} {x : At} (h : s.hw.ctl.atCore x.k = some x) (i : Issued) :
    ((begun s x i).ctl.core x.q).task = some x.t := by
  obtain ⟨-, -, htask, -, -⟩ := atCore_q h
  rw [begun_core, if_pos rfl]
  exact htask

/-- A field below those of the stands reads, after the bundle, as the effect left it. -/
theorem Left.get_low {x : At} {w : W} {t : State} (h : Left x w t) {f : Fld} (hf : f.addr < 0x78000) : t.hw.ctl.get f = w.ctl.get f := by
  obtain ⟨hpc, -⟩ := coreAddr_ge x
  exact Ctl.get_of_rd (h.rd _ (by omega))

theorem Left.gather {x : At} {w : W} {t : State} (h : Left x w t) (n : Nat) : t.hw.ctl.gather n = w.ctl.gather n := by
  simp only [Ctl.gather, h.cnp]

theorem Left.core {x : At} {w : W} {t : State} (h : Left x w t) (q : Nat) : t.hw.ctl.core q = w.ctl.core q := by
  simp only [Ctl.core, h.fab]

/-- An effect that left the register files leaves them to the bundle. -/
theorem Left.files {s : State} {x : At} {w : W} {t : State} (h : Left x w t) (i : Issued)
    (hf : w.ctl.fab.sregs = (begun s x i).ctl.fab.sregs ∧ w.ctl.fab.vregs = (begun s x i).ctl.fab.vregs ∧
      w.ctl.fab.aregs = (begun s x i).ctl.fab.aregs ∧ w.ctl.fab.pregs = (begun s x i).ctl.fab.pregs) :
    SameS s t ∧ SameV s t ∧ SameA s t ∧ SameP s t := by
  obtain ⟨hs, hv, hp, ha⟩ := begun_files s x i
  obtain ⟨fs, fv, fa, fp⟩ := hf
  exact ⟨(congrArg Fab.sregs h.fab).trans (fs.trans hs), (congrArg Fab.vregs h.fab).trans (fv.trans hv),
    (congrArg Fab.aregs h.fab).trans (fa.trans ha), (congrArg Fab.pregs h.fab).trans (fp.trans hp)⟩

/-- OVF is set where the count would pass 65 535 (R198). -/
theorem get_ovf_semAdd (c : Ctl) (sem n : Nat) : (c.semAdd sem n).get (F.semCountOvf sem) =
    if 65535 < c.get (F.semCountCount sem) + n then 1 else c.get (F.semCountOvf sem) := by
  unfold Ctl.semAdd
  dsimp only
  split
  · exact Ctl.get_put_self _ (F.semCountOvf sem) 1 (by simp)
  · exact Ctl.get_put_ne _ _ _ _ (by simp) (by simp)

/-- n credits of pool p given back by core k: from LODGED by the pool's consumer, from its HELD by another (R200). -/
def Ctl.creditBack (c : Ctl) (p n k : Nat) : Ctl :=
  let d := if c.get (F.chnCpGuardConsumer p) = k then c.put (F.chnCpLodgedLodged p) (c.get (F.chnCpLodgedLodged p) - n)
    else c.heldSet p k (c.held p k - n)
  d.put (F.chnCpCountFree p) (d.get (F.chnCpCountFree p) + n)

theorem creditBack_shape (c : Ctl) (p n k : Nat) :
    ∃ cr r, c.creditBack p n k = { c with regs := r, fab := { c.fab with heldCr := cr } } := by
  unfold Ctl.creditBack
  dsimp only
  split <;> exact ⟨_, _, rfl⟩

theorem effect_creditBack {x : At} (c : Ctl) (p n k : Nat) : Effect x false [R.chnCpCount p, R.chnCpLodged p] c (c.creditBack p n k) := by
  have hfree (d : Ctl) (v : Nat) : Effect x false [R.chnCpCount p, R.chnCpLodged p] d (d.put (F.chnCpCountFree p) v) :=
    ((onlyRegs_put d _ v).mono (by simp)).effect
  unfold Ctl.creditBack
  dsimp only
  split
  · exact Effect.trans ((onlyRegs_put c (F.chnCpLodgedLodged p) _).mono (by simp)).effect (hfree _ _)
  · refine Effect.trans ?_ (hfree _ _)
    exact ⟨fun _ _ _ => rfl, ⟨_, rfl⟩, fun _ _ => rfl, ⟨rfl, rfl, rfl, rfl, rfl, rfl, rfl, rfl, rfl, rfl, rfl, rfl, rfl⟩, fun _ _ => rfl,
      rfl, rfl⟩

/-- The three counts after credits are given back, where there are as many to draw and FREE does not overflow. -/
theorem creditBack_counts {c : Ctl} {p n k : Nat} (hfree : c.get (F.chnCpCountFree p) + n < 65536)
    (hdraw : n ≤ if c.get (F.chnCpGuardConsumer p) = k then c.get (F.chnCpLodgedLodged p) else c.held p k) :
    (c.creditBack p n k).get (F.chnCpCountFree p) = c.get (F.chnCpCountFree p) + n ∧
    (if c.get (F.chnCpGuardConsumer p) = k then
      (c.creditBack p n k).get (F.chnCpLodgedLodged p) + n = c.get (F.chnCpLodgedLodged p) ∧ (c.creditBack p n k).held p k = c.held p k
    else (c.creditBack p n k).get (F.chnCpLodgedLodged p) = c.get (F.chnCpLodgedLodged p) ∧
      (c.creditBack p n k).held p k + n = c.held p k) := by
  have hother : (F.chnCpLodgedLodged p).addr ≠ (F.chnCpCountFree p).addr := by simp only [R.chnCpLodged, R.chnCpCount]; omega
  have hput (d : Ctl) : (d.put (F.chnCpCountFree p) (d.get (F.chnCpCountFree p) + n)).get (F.chnCpLodgedLodged p) =
      d.get (F.chnCpLodgedLodged p) := Ctl.get_put_ne _ _ _ _ (by simp) (Or.inl hother)
  have hlodged := Ctl.get_lt c (F.chnCpLodgedLodged p)
  unfold Ctl.creditBack
  dsimp only
  split at hdraw
  next hcons =>
    rw [if_pos hcons, if_pos hcons, Ctl.get_put_self _ _ _ (by simp), hput, Ctl.get_put_self _ _ _ (by simp),
      Ctl.get_put_ne _ _ _ _ (by simp) (Or.inl hother.symm)]
    refine ⟨Nat.mod_eq_of_lt hfree, ?_, rfl⟩
    rw [Nat.mod_eq_of_lt (by omega)]
    exact Nat.sub_add_cancel hdraw
  next hcons =>
    rw [if_neg hcons, if_neg hcons, Ctl.get_put_self _ _ _ (by simp), hput]
    refine ⟨Nat.mod_eq_of_lt hfree, rfl, ?_⟩
    have hheld : (c.heldSet p k (c.held p k - n)).held p k = c.held p k - n := mget_mset_self _ _ _ _
    exact (congrArg (· + n) hheld).trans (Nat.sub_add_cancel hdraw)

/-! What a drained core's FENCE and the commit section leave. -/

theorem Ctl.gather_of_cnp {c d : Ctl} (h : d.cnp = c.cnp) (n : Nat) : d.gather n = c.gather n := by rw [Ctl.gather, h, Ctl.gather]

theorem Ctl.core_of_cores {c d : Ctl} (h : d.fab.cores = c.fab.cores) (q : Nat) : d.core q = c.core q := by rw [Ctl.core, h, Ctl.core]

theorem Ctl.gather_gatherSet_self (c : Ctl) (n : Nat) (es : List GbEntry) : (c.gatherSet n es).gather n = es := mget_mset_self _ _ _ _

theorem Ctl.gather_coreSet (c : Ctl) (q : Nat) (v : CoreSt) (n : Nat) : (c.coreSet q v).gather n = c.gather n := rfl

theorem gatherSet_files (c : Ctl) (n : Nat) (es : List GbEntry) : (c.gatherSet n es).fab.sregs = c.fab.sregs ∧
    (c.gatherSet n es).fab.vregs = c.fab.vregs ∧ (c.gatherSet n es).fab.aregs = c.fab.aregs ∧
    (c.gatherSet n es).fab.pregs = c.fab.pregs := ⟨rfl, rfl, rfl, rfl⟩

/-- What a change of registers and held credits leaves. -/
theorem heldCr_parts {c d : Ctl} (h : ∃ cr r, d = { c with regs := r, fab := { c.fab with heldCr := cr } }) :
    (d.cnp = c.cnp ∧ d.fab.cores = c.fab.cores) ∧ d.fab.sregs = c.fab.sregs ∧ d.fab.vregs = c.fab.vregs ∧ d.fab.aregs = c.fab.aregs ∧
      d.fab.pregs = c.fab.pregs := by
  obtain ⟨_, _, rfl⟩ := h
  exact ⟨⟨rfl, rfl⟩, rfl, rfl, rfl, rfl⟩

theorem fenced_gather {s : State} {x : At} (h : s.hw.ctl.atCore x.k = some x) (i : Issued) :
    (fenced s x i).gather x.n = s.hw.ctl.gather x.n := by
  rw [fenced_eq h, Ctl.gather_coreSet, Ctl.gather_gatherSet_self, begun_gather]

theorem fenced_rd_low {s : State} {x : At} (h : s.hw.ctl.atCore x.k = some x) (i : Issued) {a : Nat} (ha : a < 0x78000) :
    (fenced s x i).rd a = s.hw.ctl.rd a := by
  obtain ⟨-, hissue⟩ := coreAddr_ge x
  exact fenced_rd h i (by omega) (by unfold R.dbgSat; omega)

theorem heldCr_coreSet (c : Ctl) (n q : Nat) (es : List GbEntry) (v : CoreSt) :
    ((c.gatherSet n es).coreSet q v).fab.heldCr = c.fab.heldCr := rfl

theorem fenced_held {s : State} {x : At} (h : s.hw.ctl.atCore x.k = some x) (i : Issued) (p k : Nat) :
    (fenced s x i).held p k = s.hw.ctl.held p k := by
  obtain ⟨r, cs, ef, em, hb⟩ := begun_eq s x i
  rw [fenced_eq h, Ctl.held, heldCr_coreSet, hb]
  rfl

section
variable {s : State} {x : At} {k : Fin 128}

/-! A drained core's SSIG, CRPUT and FENCE change the controllers alone. -/

/-- What the controllers d, an effect on those fenced, leave: the task in its commit section, memories and gather buffers as before. -/
theorem fenced_completes {i : Issued} (hk : x.k = k.val) (h : Issues s x i) {d : Ctl} {l : List Nat}
    (hfx : fx (begun s x i) x i (begun s x i) = (begun s x i).on (fun _ => d)) (he : Effect x false l (fenced s x i) d)
    (hd : ∃ cr r, d = { fenced s x i with regs := r, fab := { (fenced s x i).fab with heldCr := cr } }) (hl : ∀ a ∈ l, a < 0x78000) :
    Completes (onHw s (fun w => w.slot k.val i)) (fun t => (TileStep x false l s t ∧ Done x (x.pc + 1) t ∧
      (SameS s t ∧ SameV s t ∧ SameA s t ∧ SameP s t) ∧ (t.hw.ctl.core x.q).task = some { x.t with inCommit := true }) ∧
      Left x ((begun s x i).on (fun _ => d)) t) := by
  have hfen : Effect x false l (begun s x i).ctl (fenced s x i) := (effect_gatherSet _ _).trans (effect_commit _)
  refine (effect_completes hk h hfx (sound_begun s x i) (hfen.trans he) fun a ha => Or.inl (hl a ha)).imp fun t ⟨hacts, hleft⟩ => ?_
  obtain ⟨⟨hcnp, hcores⟩, ds, dv, da, dp⟩ := heldCr_parts hd
  obtain ⟨fs, fv, fp, fa⟩ := fenced_files h.core i
  have htask : (t.hw.ctl.core x.q).task = some { x.t with inCommit := true } := by
    rw [hleft.core, W.on_ctl, Ctl.core_of_cores hcores, fenced_core h.core, if_pos rfl]
  have hfab : t.hw.ctl.fab = d.fab := hleft.fab
  refine ⟨⟨hacts.step hleft.mem ?_ htask, hacts.done, ⟨?_, ?_, ?_, ?_⟩, htask⟩, hleft⟩
  · rw [hleft.gather, W.on_ctl, Ctl.gather_of_cnp hcnp, fenced_gather h.core]
  · exact (congrArg Fab.sregs hfab).trans (ds.trans fs)
  · exact (congrArg Fab.vregs hfab).trans (dv.trans fv)
  · exact (congrArg Fab.aregs hfab).trans (da.trans fa)
  · exact (congrArg Fab.pregs hfab).trans (dp.trans fp)

/-- The effect of a drained core's SSIG or CRPUT: the implicit FENCE, the commit section, then f. -/
theorem fence_commit {i : Issued} (hd : Drained s x.n x.k) (f : Ctl → Ctl) :
    (((begun s x i).fence x.n x.k).on (fun c => c.commit x.q)).on f = (begun s x i).on (fun _ => f (fenced s x i)) := by
  rw [fence_begun hd, W.on_on, W.on_on]
  exact W.on_at _ _

/-- SSIG on a semaphore that no ring or pool uses (R139, R198). -/
theorem exec_ssig {sl : Slot} (hk : x.k = k.val) (hg : s.hw.ctl.guard0 x.q sl = true) (hd : Drained s x.n x.k)
    (h : Issues s x ⟨.ssig, sl⟩) (hplain : s.hw.ctl.plainSem (sl.imm.toNat % 256)) :
    let sem := sl.imm.toNat % 256
    let sum := s.hw.ctl.get (F.semCountCount sem) + sl.imm.toNat / 256 % 65536
    Completes (exec (.ssig k sl) s) (fun t => TileStep x false [R.semCount sem] s t ∧ Done x (x.pc + 1) t ∧
      SameS s t ∧ SameV s t ∧ SameA s t ∧ SameP s t ∧ t.hw.ctl.get (F.semCountCount sem) = min sum 65535 ∧
      t.hw.ctl.get (F.semCountOvf sem) = (if 65535 < sum then 1 else s.hw.ctl.get (F.semCountOvf sem)) ∧
      (t.hw.ctl.core x.q).task = some { x.t with inCommit := true }) := by
  intro sem sum
  have hsem : sem < 256 := Nat.mod_lt _ (by decide)
  have hlow (a : Nat) (ha : a < 0x78000) : (fenced s x ⟨.ssig, sl⟩).rd a = s.hw.ctl.rd a := fenced_rd_low h.core _ ha
  have hcount : Issued.count ⟨.ssig, sl⟩ = sl.imm.toNat / 256 % 65536 := fieldGet_eq sl.imm 8 16
  have hfx : fx (begun s x ⟨.ssig, sl⟩) x ⟨.ssig, sl⟩ (begun s x ⟨.ssig, sl⟩) =
      (begun s x ⟨.ssig, sl⟩).on (fun _ => (fenced s x ⟨.ssig, sl⟩).semAdd sem (sl.imm.toNat / 256 % 65536)) := by
    refine (if_pos ((begun_guard0 ..).trans hg)).trans ((fence_commit hd _).trans ?_)
    rw [← hcount]
    exact congrArg (fun d => (begun s x ⟨.ssig, sl⟩).on (fun _ => d))
      (signal_plain hsem (plainSem_of_rd (fun a ha => hlow a (by unfold linkAddr at ha; omega)) hplain) _ _)
  have hregs := semAdd_onlyRegs (fenced s x ⟨.ssig, sl⟩) sem (sl.imm.toNat / 256 % 65536)
  refine (fenced_completes hk h hfx (hregs.mono (by simp)).effect ?_ fun a ha => ?_).imp fun t ⟨⟨hstep, hdone, ⟨ts, tv, ta, tp⟩, htask⟩, hleft⟩ =>
    ⟨hstep, hdone, ts, tv, ta, tp, ?_, ?_, htask⟩
  · obtain ⟨-, r, hr⟩ := hregs
    exact ⟨_, r, hr⟩
  · simp only [List.mem_singleton] at ha
    subst ha
    unfold R.semCount
    omega
  · rw [hleft.get_low (f := F.semCountCount sem) (by simp only [R.semCount]; omega)]
    refine (get_semAdd _ _ _).trans ?_
    rw [Ctl.get_of_rd (f := F.semCountCount sem) (hlow _ (by simp only [R.semCount]; omega))]
  · rw [hleft.get_low (f := F.semCountOvf sem) (by simp only [R.semCount]; omega)]
    refine (get_ovf_semAdd _ _ _).trans ?_
    rw [Ctl.get_of_rd (f := F.semCountCount sem) (hlow _ (by simp only [R.semCount]; omega)),
      Ctl.get_of_rd (f := F.semCountOvf sem) (hlow _ (by simp only [R.semCount]; omega))]

/-- A CRPUT that issues draws no more credits than there are (R200). -/
theorem crput_draws {sl : Slot} (hg : s.hw.ctl.guard0 x.q sl = true) (h : Issues s x ⟨.crput, sl⟩) :
    let p := sl.imm.toNat % 256
    sl.imm.toNat / 256 % 65536 ≤ if s.hw.ctl.get (F.chnCpGuardConsumer p) = x.k then s.hw.ctl.get (F.chnCpLodgedLodged p)
      else s.hw.ctl.held p x.k := by
  obtain ⟨-, hcredit⟩ := slotCause_zero (issues_cause h)
  have hcredit := hcredit hg
  have hcount : Issued.count ⟨.crput, sl⟩ = sl.imm.toNat / 256 % 65536 := fieldGet_eq sl.imm 8 16
  simp only [Ctl.badCredit, Bool.and_eq_false_iff, beq_eq_false_iff_ne, ne_eq, not_true_eq_false, decide_eq_false_iff_not, not_lt,
    false_or, hcount] at hcredit
  exact hcredit

/-- CRPUT (R139, R200). -/
theorem exec_crput {sl : Slot} (hk : x.k = k.val) (hg : s.hw.ctl.guard0 x.q sl = true) (hd : Drained s x.n x.k)
    (h : Issues s x ⟨.crput, sl⟩)
    (hfree : s.hw.ctl.get (F.chnCpCountFree (sl.imm.toNat % 256)) + sl.imm.toNat / 256 % 65536 < 65536) :
    let p := sl.imm.toNat % 256
    let n := sl.imm.toNat / 256 % 65536
    Completes (exec (.crput k sl) s) (fun t => TileStep x false [R.chnCpCount p, R.chnCpLodged p] s t ∧ Done x (x.pc + 1) t ∧
      SameS s t ∧ SameV s t ∧ SameA s t ∧ SameP s t ∧ t.hw.ctl.get (F.chnCpCountFree p) = s.hw.ctl.get (F.chnCpCountFree p) + n ∧
      (if s.hw.ctl.get (F.chnCpGuardConsumer p) = x.k then
        t.hw.ctl.get (F.chnCpLodgedLodged p) + n = s.hw.ctl.get (F.chnCpLodgedLodged p) ∧ t.hw.ctl.held p x.k = s.hw.ctl.held p x.k
      else t.hw.ctl.get (F.chnCpLodgedLodged p) = s.hw.ctl.get (F.chnCpLodgedLodged p) ∧
        t.hw.ctl.held p x.k + n = s.hw.ctl.held p x.k) ∧
      (t.hw.ctl.core x.q).task = some { x.t with inCommit := true }) := by
  intro p n
  have hp : p < 256 := Nat.mod_lt _ (by decide)
  have hget {f : Fld} (ha : f.addr < 0x78000) : (fenced s x ⟨.crput, sl⟩).get f = s.hw.ctl.get f :=
    Ctl.get_of_rd (fenced_rd_low h.core _ ha)
  have hF : (F.chnCpCountFree p).addr < 0x78000 := by simp only [R.chnCpCount]; omega
  have hL : (F.chnCpLodgedLodged p).addr < 0x78000 := by simp only [R.chnCpLodged]; omega
  have hC : (F.chnCpGuardConsumer p).addr < 0x78000 := by simp only [R.chnCpGuard]; omega
  have hheld : (fenced s x ⟨.crput, sl⟩).held p x.k = s.hw.ctl.held p x.k := fenced_held h.core ..
  have hcount : Issued.count ⟨.crput, sl⟩ = n := fieldGet_eq sl.imm 8 16
  have hfx : fx (begun s x ⟨.crput, sl⟩) x ⟨.crput, sl⟩ (begun s x ⟨.crput, sl⟩) =
      (begun s x ⟨.crput, sl⟩).on (fun _ => (fenced s x ⟨.crput, sl⟩).creditBack p n x.k) := by
    refine (if_pos ((begun_guard0 ..).trans hg)).trans ((fence_commit hd _).trans ?_)
    rw [hcount]
    rfl
  obtain ⟨hfreeAfter, hdrawn⟩ := creditBack_counts (c := fenced s x ⟨.crput, sl⟩) (p := p) (n := n) (k := x.k) (by rw [hget hF]; exact hfree)
    (by rw [hget hC, hget hL, hheld]; exact crput_draws hg h)
  rw [hget hF] at hfreeAfter
  rw [hget hC, hget hL, hheld] at hdrawn
  refine (fenced_completes hk h hfx (effect_creditBack ..) (creditBack_shape ..) fun a ha => ?_).imp
    fun t ⟨⟨hstep, hdone, ⟨ts, tv, ta, tp⟩, htask⟩, hleft⟩ => ⟨hstep, hdone, ts, tv, ta, tp, (hleft.get_low hF).trans hfreeAfter, ?_, htask⟩
  · simp only [List.mem_cons, List.not_mem_nil, or_false] at ha
    rcases ha with rfl | rfl
    · exact hF
    · exact hL
  · have hheldAfter : t.hw.ctl.held p x.k = ((fenced s x ⟨.crput, sl⟩).creditBack p n x.k).held p x.k := by
      rw [Ctl.held, hleft.fab, W.on_ctl, Ctl.held]
    rw [hleft.get_low hL, hheldAfter]
    exact hdrawn

/-- FENCE of a drained core. -/
theorem exec_fence_drained {sl : Slot} (hk : x.k = k.val) (hg : s.hw.ctl.guard0 x.q sl = true) (hd : Drained s x.n x.k)
    (h : Issues s x ⟨.fence, sl⟩) : Completes (exec (.fence k sl) s) (fun t =>
      TileStep x false [] s t ∧ Done x (x.pc + 1) t ∧ SameS s t ∧ SameV s t ∧ SameA s t ∧ SameP s t) := by
  have hfx : fx (begun s x ⟨.fence, sl⟩) x ⟨.fence, sl⟩ (begun s x ⟨.fence, sl⟩) = _ :=
    (if_pos ((begun_guard0 ..).trans hg)).trans (fence_begun hd _)
  refine (effect_completes (l := []) (posts := false) hk h hfx (sound_begun s x ⟨.fence, sl⟩) (effect_gatherSet _ _) (by simp)).imp
    fun t ⟨hacts, hleft⟩ => ⟨hacts.step (b := x.t.inCommit) hleft.mem ?_ ?_, hacts.done, hleft.files ⟨.fence, sl⟩ (gatherSet_files ..)⟩
  · rw [hleft.gather, W.on_ctl, Ctl.gather_gatherSet_self, begun_gather]
  · exact (congrArg CoreSt.task (hleft.core x.q)).trans (begun_task h.core _)

end

/-- Settles O14: what a drained core's SSIG, CRPUT and FENCE do to the controllers. -/
theorem givesCounts : Obligations.GivesCounts := by
  unfold Obligations.GivesCounts
  intro k sl s x hk sem n sum hg hd
  exact ⟨exec_ssig hk hg hd, exec_crput hk hg hd, exec_fence_drained hk hg hd⟩

/-- Settles O15: the FENCE is a flush of the entries that hold the core. -/
theorem fenceFlushes : Obligations.FenceFlushes := by
  unfold Obligations.FenceFlushes
  intro k sl s x hk hg h
  have hfx : fx (begun s x ⟨.fence, sl⟩) x ⟨.fence, sl⟩ (begun s x ⟨.fence, sl⟩) = (begun s x ⟨.fence, sl⟩).fence x.n x.k :=
    if_pos ((begun_guard0 ..).trans hg)
  obtain ⟨-, hgather, -, hmem⟩ := flushWhere_frame (begun s x ⟨.fence, sl⟩) x.n (fun e => e.cores.contains x.k)
  rw [begun_gather] at hgather
  refine (effect_completes hk h hfx ((sound_begun s x _).flushWhere _ _) (effect_flushWhere _ _) (by decide)).imp
    fun t ⟨hacts, hleft⟩ => ?_
  obtain ⟨ts, tv, ta, tp⟩ := hleft.files (s := s) ⟨.fence, sl⟩ (flushWhere_files ..)
  refine ⟨(hleft.gather x.n).trans hgather, hacts.done, ts, tv, ta, tp, fun a ha => ?_⟩
  rw [hleft.mem]
  refine hmem a fun e he hk => ha e ?_ (List.contains_iff_mem.mp hk)
  rwa [begun_gather] at he

end Sys2Proof.Machine
end

section
/-! Loads (04_stands_and_bundles.md R131, 05_memory_hierarchy.md R158, R170). -/

namespace Sys2Proof.Machine

/-! Bytes and the values they spell. -/

theorem ofBytes_drop (bs : List Byte) : ∀ j, ofBytes bs / 256 ^ j = ofBytes (bs.drop j) := by
  induction bs with
  | nil => simp [ofBytes]
  | cons b t ih =>
    intro j
    cases j with
    | zero => simp
    | succ j =>
      have hb := b.isLt
      rw [List.drop_succ_cons, ← ih j, Nat.pow_succ', ← Nat.div_div_eq_div_mul, ofBytes]
      congr 1
      omega

theorem ofBytes_take (bs : List Byte) : ∀ j, ofBytes bs % 256 ^ j = ofBytes (bs.take j) := by
  induction bs with
  | nil => simp [ofBytes]
  | cons b t ih =>
    intro j
    cases j with
    | zero => simp [ofBytes, Nat.mod_one]
    | succ j =>
      have hb := b.isLt
      have hdiv : (b.toNat + 256 * ofBytes t) / 256 = ofBytes t := by omega
      have hmod : (b.toNat + 256 * ofBytes t) % 256 = b.toNat := by omega
      rw [List.take_succ_cons, ofBytes, ofBytes, ← ih j, Nat.pow_succ', Nat.mod_mul, hdiv, hmod]

theorem pow_bytes (n : Nat) : (256 : Nat) ^ n = 2 ^ (8 * n) := (Nat.pow_mul 2 8 n).symm

/-- Bits m and up of a number kept in more bits than those. -/
theorem setWidth_ushiftRight_ofNat {n m w : Nat} (h : m + w ≤ n) (v : Nat) :
    (BitVec.ofNat n v >>> m).setWidth w = BitVec.ofNat w (v / 2 ^ m) := by
  refine BitVec.eq_of_getLsbD_eq fun i hi => ?_
  rw [BitVec.getLsbD_setWidth, BitVec.getLsbD_ushiftRight, BitVec.getLsbD_ofNat, BitVec.getLsbD_ofNat, Nat.testBit_div_two_pow]
  simp [show m + i < n by omega, hi, Nat.add_comm]

/-- Lane l of the vector that bytes spell is the binary16 of its two bytes (Table 4.2). -/
theorem lane_vecOfBytes (bs : List Byte) {l : Nat} (hl : l < 64) :
    lane (vecOfBytes bs) l = BitVec.ofNat 16 (ofBytes ((bs.drop (2 * l)).take 2)) := by
  have hmod (v : Nat) : BitVec.ofNat 16 (v % 256 ^ 2) = BitVec.ofNat 16 v := BitVec.eq_of_toNat_eq (by simp)
  rw [← ofBytes_take, ← ofBytes_drop, hmod, pow_bytes, ← Nat.mul_assoc]
  exact setWidth_ushiftRight_ofNat (by omega) _

/-- Bytes a … a + b − 1 of those from k on. -/
theorem rdN_slice (m : Mem) (k : Nat) {n a b : Nat} (h : a + b ≤ n) : ((m.rdN k n).drop a).take b = m.rdN (k + a) b := by
  unfold Mem.rdN
  rw [← List.map_drop, ← List.map_take]
  refine List.ext_getElem (by simp; omega) fun j hj _ => ?_
  simp [Nat.add_assoc]

/-! The line cache (R157, R158). -/

/-- d is c but for the line cache and its counts. -/
def CacheOnly (c d : Ctl) : Prop :=
  RegsBut (R.dbgSat :: lcRegs) c d ∧ ∃ r lc, d = { c with regs := r, cnp := { c.cnp with lc := lc } }

theorem CacheOnly.refl (c : Ctl) : CacheOnly c c := ⟨fun _ _ => rfl, _, _, rfl⟩

theorem CacheOnly.trans {c d e : Ctl} (h : CacheOnly c d) (g : CacheOnly d e) : CacheOnly c e := by
  obtain ⟨hr, r, lc, rfl⟩ := h
  obtain ⟨gr, r', lc', hg⟩ := g
  exact ⟨fun a ha => (gr a ha).trans (hr a ha), r', lc', hg⟩

theorem CacheOnly.effect {x : At} {posts : Bool} {c d : Ctl} (h : CacheOnly c d) : Effect x posts lcRegs c d := by
  obtain ⟨hr, r, lc, rfl⟩ := h
  exact ⟨fun a _ ha => hr a ha, ⟨_, rfl⟩, fun _ _ => rfl, ⟨rfl, rfl, rfl, rfl, rfl, rfl, rfl, rfl, rfl, rfl, rfl, rfl, rfl⟩, fun _ _ => rfl,
    rfl, rfl⟩

theorem CacheOnly.fab {c d : Ctl} (h : CacheOnly c d) : d.fab = c.fab := by
  obtain ⟨-, r, lc, rfl⟩ := h
  rfl

theorem CacheOnly.gather {c d : Ctl} (h : CacheOnly c d) (n : Nat) : d.gather n = c.gather n := by
  obtain ⟨-, r, lc, rfl⟩ := h
  rfl

theorem cacheOnly_lines (c : Ctl) (lc : List LcLine) : CacheOnly c { c with cnp := { c.cnp with lc := lc } } := ⟨fun _ _ => rfl, _, _, rfl⟩

/-- A count of the cache, made or not. -/
theorem cacheOnly_count (c : Ctl) (b : Bool) (f : Fld) (hf : f.addr ∈ lcRegs) : CacheOnly c (if b then c.bump f 1 else c) := by
  split
  · obtain ⟨hrd, r, hr⟩ := onlyRegs_bump c f 1
    refine ⟨fun a ha => hrd a fun hm => ha ?_, r, c.cnp.lc, hr⟩
    simp only [List.mem_cons, List.not_mem_nil, or_false] at hm
    rcases hm with rfl | rfl
    · exact List.mem_cons_of_mem _ hf
    · exact List.mem_cons_self
  · exact CacheOnly.refl c

/-- A line leaves the cache, written back where it is dirty. -/
def Ctl.evict (c : Ctl) (v : LcLine) : Ctl :=
  let c := if v.dirty then c.bump F.cnpLcWbCount 1 else c
  { c with cnp := { c.cnp with lc := c.cnp.lc.filter (fun l => l.addr != v.addr) } }

theorem cacheOnly_evict (c : Ctl) (v : LcLine) : CacheOnly c (c.evict v) :=
  (cacheOnly_count c v.dirty F.cnpLcWbCount (by decide)).trans (cacheOnly_lines _ _)

/-- A line not held enters the cache, its set's oldest line leaving where the set is full. -/
theorem lcTouch_miss {c : Ctl} {addr : Nat} (core dirty : Bool) (hb : c.lcBanks ≠ 0)
    (hn : c.cnp.lc.find? (fun l => l.addr == addr / 256) = none) :
    ∃ d lc, (d = (if core then c.bump F.cnpLcMissCount 1 else c) ∨ ∃ v, d = (if core then c.bump F.cnpLcMissCount 1 else c).evict v) ∧
      c.lcTouch addr core dirty = { d with cnp := { d.cnp with lc := lc } } := by
  unfold Ctl.lcTouch
  rw [if_neg hb, hn]
  refine ⟨_, _, ?_, rfl⟩
  generalize (if core then c.bump F.cnpLcMissCount 1 else c) = d
  dsimp only
  split
  · split
    · exact .inr ⟨_, rfl⟩
    · exact .inl rfl
  · exact .inl rfl

theorem cacheOnly_lcTouch (c : Ctl) (addr : Nat) (core dirty : Bool) : CacheOnly c (c.lcTouch addr core dirty) := by
  by_cases hb : c.lcBanks = 0
  · rw [Ctl.lcTouch, if_pos hb]
    exact CacheOnly.refl c
  · have hmiss := cacheOnly_count c core F.cnpLcMissCount (by decide)
    cases hn : c.cnp.lc.find? (fun l => l.addr == addr / 256) with
    | some l =>
      rw [Ctl.lcTouch, if_neg hb]
      simp only [hn]
      exact (cacheOnly_count c core F.cnpLcHitCount (by decide)).trans (cacheOnly_lines _ _)
    | none =>
      obtain ⟨d, lc, hd, heq⟩ := lcTouch_miss core dirty hb hn
      rw [heq]
      obtain rfl | ⟨v, rfl⟩ := hd
      · exact hmiss.trans (cacheOnly_lines _ _)
      · exact (hmiss.trans (cacheOnly_evict _ v)).trans (cacheOnly_lines _ _)

theorem cacheOnly_lcSpan (c : Ctl) (addr n : Nat) (core dirty : Bool) : CacheOnly c (c.lcSpan addr n core dirty) := by
  unfold Ctl.lcSpan forN
  split
  · exact CacheOnly.refl c
  · generalize List.range _ = l
    induction l generalizing c with
    | nil => exact CacheOnly.refl c
    | cons i t ih => exact (cacheOnly_lcTouch c _ core dirty).trans (ih _)

/-! A load at a translated address (R158, R170). -/

/-- The registers that a load may write besides those of the bundle and of a posting. -/
def loadRegs : List Nat := lcRegs ++ flushRegs

/-- What a load of n bytes at g of the core at x leaves of the work area w: the touched entries are flushed and gone, the bytes are those
that the memory then holds, and the register files are as before. -/
structure Loaded (x : At) (g : Tgt) (n : Nat) (w : W) (r : W × List Byte) : Prop where
  effect : Effect x true loadRegs w.ctl r.1.ctl
  bytes : r.2 = r.1.mem.rdN g.key n
  gather : r.1.ctl.gather x.n = (w.ctl.gather x.n).filter (fun e => !touched g n e)
  mem : ∀ a, (∀ e ∈ w.ctl.gather x.n, touched g n e = true → a < e.line ∨ e.line + 256 ≤ a) → r.1.mem.rd a = w.mem.rd a
  files : r.1.ctl.fab.sregs = w.ctl.fab.sregs ∧ r.1.ctl.fab.vregs = w.ctl.fab.vregs ∧ r.1.ctl.fab.aregs = w.ctl.fab.aregs ∧
    r.1.ctl.fab.pregs = w.ctl.fab.pregs
  sound : ∀ m, w.Sound m → r.1.Sound m

theorem loaded {w : W} {x : At} {g : Tgt} (n : Nat) (hu : w.ctl.unfilled g = none) : Loaded x g n w (w.load x.n x.k g n) := by
  unfold W.load
  rw [hu]
  dsimp only
  by_cases hc : g.level = 2 ∧ (!g.dram) = true
  · have hd : g.dram = false := by simpa using hc.2
    have hp : (fun e : GbEntry => decide (lineKey g.key ≤ e.line) && decide (e.line ≤ lineKey (g.key + n - 1))) = touched g n := by
      funext e
      simp [touched, hc.1, hd]
    rw [if_pos hc, if_neg (by simp [hd]), hp]
    obtain ⟨-, hgather, -, hmem⟩ := flushWhere_frame w x.n (touched g n)
    exact ⟨(effect_flushWhere w _).mono (by simp [loadRegs]), rfl, hgather, hmem, flushWhere_files .., fun m hs => hs.flushWhere _ _⟩
  · have hnone (e : GbEntry) : touched g n e = false := by
      rw [touched]
      by_cases h2 : g.level = 2
      · simp [show g.dram = true by simpa [h2] using hc]
      · simp [h2]
    rw [if_neg hc]
    have hcache : CacheOnly w.ctl (if g.dram then w.on (fun c => c.lcTouch (g.key - dramKey 0) true false) else w).ctl := by
      split
      · exact cacheOnly_lcTouch ..
      · exact CacheOnly.refl _
    refine ⟨hcache.effect.mono (by simp [loadRegs]), rfl, ?_, fun a _ => ?_, ?_, fun m hs => ?_⟩
    · rw [hcache.gather]
      exact (List.filter_eq_self.mpr fun e _ => by simp [hnone e]).symm
    · split <;> rfl
    · rw [hcache.fab]
      exact ⟨rfl, rfl, rfl, rfl⟩
    · split <;> exact hs

theorem begun_ea (s : State) (x : At) (i : Issued) (j : Issued) (q : Nat) : (begun s x i).ctl.ea q j = s.hw.ctl.ea q j := by
  simp only [Ctl.ea, begun_sreg]

/-- A load of the bundle's slot from an address whose target is known. -/
theorem loadAt_goes {s : State} {x : At} {i : Issued} {n : Nat} {g : Tgt} (h : GoesTo s x i .load (s.hw.ctl.ea x.q i) n g) :
    loadAt x (begun s x i) ((begun s x i).ctl.ea x.q i) n = (begun s x i).load x.n x.k g n := by
  unfold loadAt
  rw [begun_ea, h]

/-- The frame of a bundle that loads n bytes at g. -/
structure LoadFrame (s : State) (x : At) (g : Tgt) (n : Nat) (t : State) : Prop where
  acts : TileActs x true loadRegs s t
  gather : t.hw.ctl.gather x.n = (s.hw.ctl.gather x.n).filter (fun e => !touched g n e)
  mem : ∀ a, (∀ e ∈ s.hw.ctl.gather x.n, touched g n e = true → a < e.line ∨ e.line + 256 ≤ a) → t.hw.mem.rd a = s.hw.mem.rd a

/-- A slot that loads n bytes at g and writes registers f by them: the bundle completes, and what f writes is what memory then holds. -/
theorem load_completes {s : State} {x : At} {i : Issued} {k : Fin 128} {n : Nat} {g : Tgt} (hk : x.k = k.val) (h : Issues s x i)
    (hu : (begun s x i).ctl.unfilled g = none) {f : List Byte → Ctl → Ctl} (hf : ∀ bs c, FilesOnly c (f bs c))
    (hfx : fx (begun s x i) x i (begun s x i) =
      ((begun s x i).load x.n x.k g n).1.on (f ((begun s x i).load x.n x.k g n).2)) :
    Completes (onHw s (fun w => w.slot k.val i)) (fun t => LoadFrame s x g n t ∧ ∃ c : Ctl,
      (c.fab.sregs = s.hw.ctl.fab.sregs ∧ c.fab.vregs = s.hw.ctl.fab.vregs ∧ c.fab.aregs = s.hw.ctl.fab.aregs ∧
        c.fab.pregs = s.hw.ctl.fab.pregs) ∧ t.hw.ctl.fab = (f (t.hw.mem.rdN g.key n) c).fab) := by
  have hl := loaded (x := x) n hu
  generalize (begun s x i).load x.n x.k g n = r at hl hfx
  obtain ⟨bs, bv, bp, ba⟩ := begun_files s x i
  obtain ⟨fs, fv, fa, fp⟩ := hl.files
  have hgather := hl.gather
  have hmem := hl.mem
  rw [begun_gather] at hgather hmem
  refine (effect_completes hk h hfx ((hl.sound _ (sound_begun s x i)).on _) (hl.effect.trans (hf _ _).effect) (by decide)).imp
    fun t ⟨hacts, hleft⟩ => ⟨⟨hacts, ?_, fun a ha => ?_⟩, r.1.ctl, ⟨fs.trans bs, fv.trans bv, fa.trans ba, fp.trans bp⟩, ?_⟩
  · refine (hleft.gather x.n).trans (Eq.trans ?_ hgather)
    obtain ⟨_, _, _, _, he⟩ := hf r.2 r.1.ctl
    rw [W.on_ctl, he]
    rfl
  · exact (congrArg (fun m : Mem => m.rd a) hleft.mem).trans (hmem a ha)
  · rw [hleft.fab, hleft.mem, W.on_mem, W.on_ctl, ← hl.bytes]

section
variable {s : State} {x : At} {k : Fin 128} {g : Tgt}

/-- LD.S: sD takes the four bytes that memory holds. -/
theorem exec_ldS {sl : Slot} (hk : x.k = k.val) (h : Issues s x ⟨.ldS, sl⟩) (hon : s.hw.ctl.guard0 x.q sl = true)
    (hg : GoesTo s x ⟨.ldS, sl⟩ .load (s.hw.ctl.ea x.q ⟨.ldS, sl⟩) 4 g) (hu : (begun s x ⟨.ldS, sl⟩).ctl.unfilled g = none) :
    Completes (exec (.ldS k sl) s) (fun t => LoadFrame s x g 4 t ∧ SregsBut x.q sl.d.val s t ∧ SameV s t ∧ SameP s t ∧ SameA s t ∧
      t.hw.ctl.sreg x.q sl.d.val = if sl.d.val = 0 then 0 else w32 (ofBytes (t.hw.mem.rdN g.key 4))) := by
  have hd : sl.d.val < 64 := issues_file h .s rfl
  have hfx : fx (begun s x ⟨.ldS, sl⟩) x ⟨.ldS, sl⟩ (begun s x ⟨.ldS, sl⟩) = ((begun s x ⟨.ldS, sl⟩).load x.n x.k g 4).1.on
      (fun c => c.sregSet x.q sl.d.val (w32 (ofBytes ((begun s x ⟨.ldS, sl⟩).load x.n x.k g 4).2))) := by
    rw [← loadAt_goes hg]
    exact if_pos ((begun_guard0 ..).trans hon)
  refine (load_completes hk h hu (f := fun bs c => c.sregSet x.q sl.d.val (w32 (ofBytes bs))) (fun _ c => filesOnly_sregSet ..) hfx).imp ?_
  rintro t ⟨hframe, c, ⟨hs, hv, ha, hp⟩, ht⟩
  obtain ⟨wv, wp, wa⟩ := sregSet_files c x.q sl.d.val (w32 (ofBytes (t.hw.mem.rdN g.key 4)))
  refine ⟨hframe, fun r j hj hne => ?_, (congrArg Fab.vregs ht).trans (wv.trans hv), (congrArg Fab.pregs ht).trans (wp.trans hp),
    (congrArg Fab.aregs ht).trans (wa.trans ha), ?_⟩
  · rw [sreg_of_fab ht, Ctl.sreg_sregSet _ _ _ _ _ hd hj, if_neg (by tauto), Ctl.sreg, hs, Ctl.sreg]
  · rw [sreg_of_fab ht, Ctl.sreg_sregSet _ _ _ _ _ hd hd]
    by_cases h0 : sl.d.val = 0
    · simp [h0]
    · simp [h0]

/-- A load that writes the enabled lanes of vD. -/
theorem load_lanes {i : Issued} {n : Nat} (hk : x.k = k.val) (h : Issues s x i) (hu : (begun s x i).ctl.unfilled g = none)
    (hf : i.op.form.d = some .v) (v : List Byte → BitVec 1024)
    (hfx : fx (begun s x i) x i (begun s x i) = ((begun s x i).load x.n x.k g n).1.on (fun c => c.vregSet x.q i.sl.d.val
      (mergeLanes ((begun s x i).ctl.guard x.q i.sl) (c.vreg x.q i.sl.d.val) (v ((begun s x i).load x.n x.k g n).2)))) :
    Completes (onHw s (fun w => w.slot k.val i)) (fun t => LoadFrame s x g n t ∧ VregsBut x.q i.sl.d.val s t ∧ SameS s t ∧ SameP s t ∧
      SameA s t ∧ ∀ l < 64, lane (t.hw.ctl.vreg x.q i.sl.d.val) l = if (s.hw.ctl.guard x.q i.sl).getLsbD l then
        lane (v (t.hw.mem.rdN g.key n)) l else lane (s.hw.ctl.vreg x.q i.sl.d.val) l) := by
  refine (load_completes hk h hu (f := fun bs c => c.vregSet x.q i.sl.d.val
    (mergeLanes ((begun s x i).ctl.guard x.q i.sl) (c.vreg x.q i.sl.d.val) (v bs))) (fun _ c => filesOnly_vregSet ..) hfx).imp ?_
  rintro t ⟨hframe, c, ⟨hs, hv, ha, hp⟩, ht⟩
  have hold (r j : Nat) : c.vreg r j = s.hw.ctl.vreg r j := by rw [Ctl.vreg, hv, Ctl.vreg]
  obtain ⟨hself, hothers⟩ := vregSet_left (issues_file h .v hf) ht
  refine ⟨hframe, fun r j hj hne => (hothers r j hj hne).trans (hold r j), (congrArg Fab.sregs ht).trans hs,
    (congrArg Fab.pregs ht).trans hp, (congrArg Fab.aregs ht).trans ha, fun l hl => ?_⟩
  rw [hself, lane_mergeLanes _ _ _ _ hl, hold, begun_guard]

/-- LD.AR: row C of aD takes the 32 words that memory holds. -/
theorem exec_ldAr {sl : Slot} (hk : x.k = k.val) (h : Issues s x ⟨.ldAr, sl⟩) (hon : s.hw.ctl.guard0 x.q sl = true)
    (hg : GoesTo s x ⟨.ldAr, sl⟩ .load (s.hw.ctl.ea x.q ⟨.ldAr, sl⟩) 128 g) (hu : (begun s x ⟨.ldAr, sl⟩).ctl.unfilled g = none) :
    Completes (exec (.ldAr k sl) s) (fun t => LoadFrame s x g 128 t ∧ SameS s t ∧ SameV s t ∧ SameP s t ∧
      (∀ r j, r < 16 → j < 32 → t.hw.ctl.areg x.q sl.d.val r j = if r = sl.c.val then w32 (ofBytes (t.hw.mem.rdN (g.key + 4 * j) 4))
        else s.hw.ctl.areg x.q sl.d.val r j) ∧ AregsBut x.q sl.d.val s t) := by
  have hd : sl.d.val < 8 := issues_file h .a rfl
  have hrow : sl.c.val ≤ 15 := issues_row h rfl
  have hfx : fx (begun s x ⟨.ldAr, sl⟩) x ⟨.ldAr, sl⟩ (begun s x ⟨.ldAr, sl⟩) = ((begun s x ⟨.ldAr, sl⟩).load x.n x.k g 128).1.on
      (fun c => c.rowSet x.q sl.d.val sl.c.val (fun j =>
        w32 (ofBytes ((((begun s x ⟨.ldAr, sl⟩).load x.n x.k g 128).2.drop (4 * j)).take 4)))) := by
    rw [← loadAt_goes hg]
    exact if_pos ((begun_guard0 ..).trans hon)
  refine (load_completes hk h hu (f := fun bs c => c.rowSet x.q sl.d.val sl.c.val
    (fun j => w32 (ofBytes ((bs.drop (4 * j)).take 4)))) (fun _ c => filesOnly_rowSet ..) hfx).imp ?_
  rintro t ⟨hframe, c, ⟨hs, hv, ha, hp⟩, ht⟩
  have hold (q a r j : Nat) : c.areg q a r j = s.hw.ctl.areg q a r j := by rw [Ctl.areg, ha, Ctl.areg]
  obtain ⟨ws, wv, wp⟩ := rowSet_files c x.q sl.d.val sl.c.val
    (fun j => w32 (ofBytes (((t.hw.mem.rdN g.key 128).drop (4 * j)).take 4)))
  refine ⟨hframe, (congrArg Fab.sregs ht).trans (ws.trans hs), (congrArg Fab.vregs ht).trans (wv.trans hv),
    (congrArg Fab.pregs ht).trans (wp.trans hp), fun r j hr hj => ?_, fun q a r j ha hr hj hne => ?_⟩
  · rw [areg_of_fab ht, Ctl.areg_rowSet _ _ _ _ _ _ hd hd (by omega) hr hj, rdN_slice _ _ (by omega), hold]
    simp
  · rw [areg_of_fab ht, Ctl.areg_rowSet _ _ _ _ _ _ hd ha (by omega) hr hj, if_neg (by tauto), hold]

end

/-- Settles O22: what a load brings is what memory holds after the flush of the entries it touches. -/
theorem loads : Obligations.Loads := by
  unfold Obligations.Loads
  intro k sl s x g hk
  dsimp only
  refine ⟨fun ⟨h, hon, hg, hu⟩ => ?_, fun ⟨h, hon, hg, hu⟩ => ?_, fun ⟨h, hon, hg, hu⟩ => ?_, fun ⟨h, hon, hg, hu⟩ => ?_⟩
  · exact (exec_ldS hk h hon hg hu).imp fun t ⟨hf, hrest⟩ => ⟨⟨hf.acts, hf.gather, hf.mem⟩, hrest⟩
  · refine (load_lanes hk h hu rfl vecOfBytes ?_).imp fun t ⟨hf, hd, hs, hp, ha, hl⟩ =>
      ⟨⟨hf.acts, hf.gather, hf.mem⟩, hd, hs, hp, ha, fun l h64 => ?_⟩
    · rw [← loadAt_goes hg]
      exact if_neg (by simpa [Ctl.active, Op.perLane] using hon)
    · rw [hl l h64, lane_vecOfBytes _ h64, rdN_slice _ _ (by omega)]
  · refine (load_lanes hk h hu rfl (fun bs => ofLanes fun _ => BitVec.ofNat 16 (ofBytes bs)) ?_).imp fun t ⟨hf, hd, hs, hp, ha, hl⟩ =>
      ⟨⟨hf.acts, hf.gather, hf.mem⟩, hd, hs, hp, ha, fun l h64 => ?_⟩
    · rw [← loadAt_goes hg]
      exact if_neg (by simpa [Ctl.active, Op.perLane] using hon)
    · rw [hl l h64, lane_ofLanes _ _ h64]
      rfl
  · exact (exec_ldAr hk h hon hg hu).imp fun t ⟨hf, hrest⟩ => ⟨⟨hf.acts, hf.gather, hf.mem⟩, hrest⟩

end Sys2Proof.Machine
end

section
/-! Stores outside Canopy (04_stands_and_bundles.md R131, 05_memory_hierarchy.md R158, R165). -/

namespace Sys2Proof.Machine

/-! Bytes put one at a time. -/

/-- The bytes that f gives at offsets below n, with their offsets. -/
def bytesAt (n : Nat) (f : Nat → Option Byte) : List (Nat × Byte) := (List.range n).filterMap (fun j => (f j).map (Prod.mk j))

theorem lt_of_mem_bytesAt {n : Nat} {f : Nat → Option Byte} {b : Nat × Byte} (h : b ∈ bytesAt n f) : b.1 < n := by
  obtain ⟨j, hj, hb⟩ := List.mem_filterMap.mp h
  obtain ⟨_, _, rfl⟩ := Option.map_eq_some_iff.mp hb
  exact List.mem_range.mp hj

theorem bytesAt_succ (n : Nat) (f : Nat → Option Byte) : bytesAt (n + 1) f = bytesAt n f ++ ((f n).map (Prod.mk n)).toList := by
  rw [bytesAt, List.range_succ, List.filterMap_append]
  cases hf : f n <;> simp [bytesAt, hf]

theorem withOffsets_eq {bs : List Byte} {n : Nat} {f : Nat → Option Byte} (hn : bs.length = n) (h : ∀ j < n, f j = some (nth 0 bs j)) :
    withOffsets bs = bytesAt n f := by
  subst hn
  rw [withOffsets, bytesAt, ← List.filterMap_eq_map]
  exact List.filterMap_congr fun j hj => by simp [h j (List.mem_range.mp hj)]

theorem withOffsets_filter {bs : List Byte} {n : Nat} {f : Nat → Option Byte} {p : Nat → Bool} (hn : bs.length = n)
    (h : ∀ j < n, f j = if p j then some (nth 0 bs j) else none) : (withOffsets bs).filter (fun b => p b.1) = bytesAt n f := by
  subst hn
  rw [withOffsets, bytesAt, List.filter_map, ← List.filterMap_eq_map, List.filterMap_filter]
  exact List.filterMap_congr fun j hj => by by_cases hp : p j <;> simp [h j (List.mem_range.mp hj), hp]

/-- Bytes put one at a time from a key. -/
def W.puts (w : W) (k : Nat) (bs : List (Nat × Byte)) : W := bs.foldl (fun w b => w.act (.put (k + b.1) [b.2])) w

theorem W.puts_append (w : W) (k : Nat) (l l' : List (Nat × Byte)) : w.puts k (l ++ l') = (w.puts k l).puts k l' := List.foldl_append ..

@[simp] theorem W.puts_ctl (w : W) (k : Nat) (bs : List (Nat × Byte)) : (w.puts k bs).ctl = w.ctl :=
  foldl_keeps W.ctl (fun w (b : Nat × Byte) => w.act (.put (k + b.1) [b.2])) (fun _ _ => rfl) bs w

theorem W.Sound.puts {m : Mem} {w : W} (h : w.Sound m) (k : Nat) (bs : List (Nat × Byte)) : (w.puts k bs).Sound m :=
  W.Sound.foldl _ (fun _ _ hv => hv.act _) bs w h

theorem W.rd_puts (w : W) (k : Nat) (f : Nat → Option Byte) (a : Nat) : ∀ n, (w.puts k (bytesAt n f)).mem.rd a =
    if k ≤ a ∧ a < k + n then (f (a - k)).getD (w.mem.rd a) else w.mem.rd a := by
  intro n
  induction n with
  | zero => rw [if_neg (by omega)]; rfl
  | succ n ih =>
    have hlast : (w.puts k (bytesAt (n + 1) f)).mem.rd a =
        if a = k + n then (f n).getD ((w.puts k (bytesAt n f)).mem.rd a) else (w.puts k (bytesAt n f)).mem.rd a := by
      rw [bytesAt_succ, W.puts_append]
      cases f n with
      | none => simp [W.puts]
      | some b =>
        refine (MAct.rd_put _ (k + n) a [b]).trans ?_
        by_cases ha : a = k + n
        · simp [ha]
        · rw [if_neg (by rw [List.length_singleton]; omega), if_neg ha]
    rw [hlast, ih]
    by_cases ha : a = k + n
    · subst ha
      simp
    · have hiff : (k ≤ a ∧ a < k + n) ↔ (k ≤ a ∧ a < k + (n + 1)) := by omega
      rw [if_neg ha]
      exact if_congr hiff rfl rfl

/-! A store that lands outside Canopy (R158, R165, R206, R208). -/

/-- Where no slot discards a byte, a store keeps all of them. -/
theorem W.store_lands {w : W} {nd k : Nat} {t : Task} {g : Tgt} {n : Nat} {bs : List (Nat × Byte)} (hbs : ∀ b ∈ bs, b.1 < n)
    (h : ∀ j r, j < n → w.ctl.refAt g j = some r → w.ctl.filled r = false ∧ ∀ o i, r = .out o i → w.ctl.lateTask t o = false) :
    w.store nd k t g bs = w.storeKept nd k g bs := by
  have hover : ∀ p : SlotRef → Bool,
      ((bs.filterMap (fun b => w.ctl.refAt g b.1)).eraseDups).filter (fun r => p r && w.ctl.filled r) = [] := by
    refine fun p => List.filter_eq_nil_iff.mpr fun r hr => ?_
    obtain ⟨b, hb, href⟩ := List.mem_filterMap.mp (List.mem_eraseDups.mp hr)
    simp [(h b.1 r (hbs b hb) href).1]
  unfold W.store
  dsimp only
  rw [hover, List.filter_eq_self.mpr]
  · rfl
  · intro b hb
    split
    · next r href =>
      obtain ⟨hfill, hlate⟩ := h b.1 r (hbs b hb) href
      cases r with
      | out o j => simp [hfill, hlate o j rfl]
      | _ => simp [hfill]
    · rfl

/-- What a store of the bytes f outside Canopy leaves of the work area w. -/
structure StoredAt (x : At) (g : Tgt) (n : Nat) (f : Nat → Option Byte) (w r : W) : Prop where
  effect : Effect x false (if g.dram then lcRegs else []) w.ctl r.ctl
  cache : CacheOnly w.ctl r.ctl
  mem : ∀ a, r.mem.rd a = if g.key ≤ a ∧ a < g.key + n then (f (a - g.key)).getD (w.mem.rd a) else w.mem.rd a
  sound : ∀ m, w.Sound m → r.Sound m

theorem storedAt_puts {w v : W} {x : At} {g : Tgt} (n : Nat) (f : Nat → Option Byte) (hc : CacheOnly w.ctl v.ctl)
    (hd : g.dram = true ∨ v.ctl = w.ctl) (hm : v.mem = w.mem) (hs : ∀ m, w.Sound m → v.Sound m) :
    StoredAt x g n f w (v.puts g.key (bytesAt n f)) := by
  refine ⟨?_, by rwa [W.puts_ctl], fun a => by rw [W.rd_puts, hm], fun m h => (hs m h).puts _ _⟩
  rw [W.puts_ctl]
  rcases hd with hd | hd
  · rw [if_pos hd]
    exact hc.effect
  · rw [hd]
    exact Effect.refl _

theorem storeKept_direct {w : W} {nd k : Nat} {g : Tgt} {bs : List (Nat × Byte)} (hg : g.level < 2 ∨ g.dram = true) :
    w.storeKept nd k g bs = w.puts g.key bs ∨
    g.dram = true ∧ ∃ key n, w.storeKept nd k g bs = (w.on (fun c => c.lcSpan key n true true)).puts g.key bs := by
  unfold W.storeKept
  split
  · next hnil => exact .inl (by rw [List.isEmpty_iff.mp hnil]; rfl)
  · split
    · next hd => exact .inr ⟨hd, _, _, rfl⟩
    · next hd =>
      rw [if_neg (by simp [hd] at hg; omega)]
      exact .inl rfl

theorem storedAt {w : W} {x : At} {g : Tgt} (n : Nat) (f : Nat → Option Byte) (hg : g.level < 2 ∨ g.dram = true) :
    StoredAt x g n f w (w.storeKept x.n x.k g (bytesAt n f)) := by
  rcases storeKept_direct (w := w) (nd := x.n) (k := x.k) (bs := bytesAt n f) hg with heq | ⟨hd, key, m, heq⟩
  · rw [heq]
    exact storedAt_puts n f (CacheOnly.refl _) (.inr rfl) rfl fun _ => id
  · rw [heq]
    exact storedAt_puts n f (cacheOnly_lcSpan ..) (.inl hd) rfl fun _ hs => hs.on _

/-! The bytes of the stores (Table 4.6). -/

theorem nth_toBytes (n v j : Nat) (h : j < n) : nth 0 (toBytes n v) j = BitVec.ofNat 8 (v / 256 ^ j) := by
  rw [toBytes, nth_map_range _ _ h, Nat.shiftRight_eq_div_pow, Nat.pow_mul]

@[simp] theorem length_toBytes (n v : Nat) : (toBytes n v).length = n := by simp [toBytes]

/-- Values spelled one after another, each in w bytes. -/
theorem nth_flatMap_toBytes {w : Nat} (hw : 0 < w) (v : Nat → Nat) : ∀ m,
    ((List.range m).flatMap (fun r => toBytes w (v r))).length = m * w ∧
    ∀ j < m * w, nth 0 ((List.range m).flatMap (fun r => toBytes w (v r))) j = BitVec.ofNat 8 (v (j / w) / 256 ^ (j % w)) := by
  intro m
  induction m with
  | zero => simp
  | succ m ih =>
    obtain ⟨hlen, hnth⟩ := ih
    rw [List.range_succ, List.flatMap_append, List.flatMap_singleton, Nat.succ_mul]
    refine ⟨by rw [List.length_append, hlen, length_toBytes], fun j hj => ?_⟩
    by_cases hlt : j < m * w
    · rw [← hnth j hlt, nth, List.getD_append _ _ _ _ (by omega), nth]
    · have hdiv : j / w = m := by rw [Nat.div_eq_iff hw]; constructor <;> [omega; omega]
      have hmod : j % w = j - m * w := by
        have := Nat.div_add_mod j w
        rw [hdiv, Nat.mul_comm] at this
        omega
      rw [nth, List.getD_append_right _ _ _ _ (by omega), hlen, hdiv, hmod]
      exact nth_toBytes w _ _ (by omega)

/-- Byte j of a vector is byte j mod 2 of lane j / 2. -/
theorem nth_bytesOfVec (v : BitVec 1024) {j : Nat} (h : j < 128) :
    nth 0 (bytesOfVec v) j = BitVec.ofNat 8 ((lane v (j / 2)).toNat / 256 ^ (j % 2)) := by
  refine (nth_toBytes 128 _ j h).trans (BitVec.eq_of_getLsbD_eq fun i hi => ?_)
  rw [pow_bytes, pow_bytes, BitVec.getLsbD_ofNat, BitVec.getLsbD_ofNat, Nat.testBit_div_two_pow, Nat.testBit_div_two_pow, BitVec.testBit_toNat,
    BitVec.testBit_toNat, lane, BitVec.getLsbD_setWidth, BitVec.getLsbD_ushiftRight,
    show 16 * (j / 2) + (i + 8 * (j % 2)) = i + 8 * j by omega]
  simp [show i + 8 * (j % 2) < 16 by omega]

/-- The effect of a plain store is the store of the bytes that the slot stores. -/
theorem fx_plainStore {s : State} {x : At} {op : Op} {n : Nat} {sl : Slot} (hop : (op, n) ∈ plainStores)
    (hon : s.hw.ctl.active x.q ⟨op, sl⟩ = true) :
    fx (begun s x ⟨op, sl⟩) x ⟨op, sl⟩ (begun s x ⟨op, sl⟩) = storeAt x (begun s x ⟨op, sl⟩) ((begun s x ⟨op, sl⟩).ctl.ea x.q ⟨op, sl⟩) n
      (bytesAt n (s.hw.ctl.stored x.q ⟨op, sl⟩)) := by
  simp only [plainStores, List.mem_cons, Prod.mk.injEq, List.not_mem_nil, or_false] at hop
  have h0 : op.perLane = false → (begun s x ⟨op, sl⟩).ctl.guard0 x.q sl = true := fun hl => by
    simpa [Ctl.active, hl] using hon
  rcases hop with ⟨rfl, rfl⟩ | ⟨rfl, rfl⟩ | ⟨rfl, rfl⟩ | ⟨rfl, rfl⟩
  · refine (if_pos (h0 rfl)).trans (congrArg (storeAt x _ _ _) (withOffsets_eq (length_toBytes ..) fun j hj => ?_))
    rw [begun_sreg, nth_toBytes _ _ _ hj]
    rfl
  · refine (if_neg (by simpa [Ctl.active, Op.perLane] using hon)).trans (congrArg (storeAt x _ _ _)
      (withOffsets_filter (p := fun j => ((begun s x ⟨.stV, sl⟩).ctl.guard x.q sl).getLsbD (j / 2)) (length_toBytes ..) fun j hj => ?_))
    rw [nth_bytesOfVec _ hj, begun_vreg, begun_guard]
    rfl
  · obtain ⟨hlen, hnth⟩ := nth_flatMap_toBytes (w := 4) (by omega) (fun j => (s.hw.ctl.areg x.q sl.b.val sl.c.val j).toNat) 32
    refine (if_pos (h0 rfl)).trans (congrArg (storeAt x _ _ _) ?_)
    simp only [rowOf, List.flatMap_map, begun_areg]
    refine withOffsets_eq hlen fun j hj => ?_
    rw [hnth j hj]
    rfl
  · obtain ⟨hlen, hnth⟩ := nth_flatMap_toBytes (w := 2) (by omega) (fun j => (narrow (s.hw.ctl.areg x.q sl.b.val sl.c.val j)).toNat) 32
    refine (if_pos (h0 rfl)).trans (congrArg (storeAt x _ _ _) ?_)
    simp only [rowOf, List.flatMap_map, begun_areg]
    refine withOffsets_eq hlen fun j hj => ?_
    rw [hnth j hj]
    rfl

/-! The task of a remote store enters its commit section (R177). -/

/-- The bundle as a store to g finds it. -/
def storing (s : State) (x : At) (i : Issued) (g : Tgt) : W :=
  if g.remote.isSome then (begun s x i).on (fun c => c.commit x.q) else begun s x i

/-- Registers, stream contexts, raster engines, Canopy's controllers and the register files are the same. -/
structure SameButCores (c d : Ctl) : Prop where
  regs : d.regs = c.regs
  vid : d.vid = c.vid
  ras : d.ras = c.ras
  cnp : d.cnp = c.cnp
  files : d.fab.sregs = c.fab.sregs ∧ d.fab.vregs = c.fab.vregs ∧ d.fab.aregs = c.fab.aregs ∧ d.fab.pregs = c.fab.pregs

theorem sameButCores_commit (c : Ctl) (q : Nat) : SameButCores c (c.commit q) := by
  unfold Ctl.commit
  split <;> exact ⟨rfl, rfl, rfl, rfl, rfl, rfl, rfl, rfl⟩

theorem sameButCores_storing (s : State) (x : At) (i : Issued) (g : Tgt) : SameButCores (begun s x i).ctl (storing s x i g).ctl := by
  unfold storing
  split
  · exact sameButCores_commit ..
  · exact ⟨rfl, rfl, rfl, rfl, rfl, rfl, rfl, rfl⟩

theorem storing_task {s : State} {x : At} (h : s.hw.ctl.atCore x.k = some x) (i : Issued) (g : Tgt) :
    ((storing s x i g).ctl.core x.q).task = some { x.t with inCommit := x.t.inCommit || g.remote.isSome } := by
  unfold storing
  cases g.remote.isSome with
  | false =>
    rw [Bool.or_false]
    exact begun_task h i
  | true =>
    rw [Bool.or_true, if_pos rfl, W.on_ctl, Ctl.commit_eq (begun_task h i), Ctl.core_coreSet_self]

theorem effect_storing {x : At} {posts : Bool} {l : List Nat} (s : State) (i : Issued) (g : Tgt) :
    Effect x posts l (begun s x i).ctl (storing s x i g).ctl := by
  unfold storing
  split
  · exact effect_commit _
  · exact Effect.refl _

/-- Which ring slots a store meets, and what they discard, is in the registers, the stream contexts and the raster engines. -/
theorem slots_of_parts {c d : Ctl} (hr : d.regs = c.regs) (hv : d.vid = c.vid) (hras : d.ras = c.ras) :
    (∀ g j, d.refAt g j = c.refAt g j) ∧ (∀ r, d.filled r = c.filled r) ∧ ∀ t o, d.lateTask t o = c.lateTask t o := by
  cases c
  cases d
  cases hr
  cases hv
  cases hras
  exact ⟨fun _ _ => rfl, fun _ => rfl, fun _ _ => rfl⟩

theorem lands_storing {s : State} {x : At} {i : Issued} {g : Tgt} {n : Nat} (h : Lands s x i g n) (j : Nat) (r : SlotRef) (hj : j < n)
    (href : (storing s x i g).ctl.refAt g j = some r) :
    (storing s x i g).ctl.filled r = false ∧ ∀ o j, r = .out o j → (storing s x i g).ctl.lateTask x.t o = false := by
  have hsame := sameButCores_storing s x i g
  obtain ⟨hrefs, hfilled, hlate⟩ := slots_of_parts hsame.regs hsame.vid hsame.ras
  rw [hrefs] at href
  obtain ⟨hf, hl⟩ := h j r hj href
  exact ⟨(hfilled r).trans hf, fun o j ho => (hlate x.t o).trans (hl o j ho)⟩

/-- Settles O24: outside Canopy a store that lands puts its bytes and touches no other. -/
theorem storesDirect : Obligations.StoresDirect := by
  unfold Obligations.StoresDirect
  intro k op n sl s x g hk c i hop h hon hgoes hlands hg
  have hsame := sameButCores_storing s x i g
  have hst := storedAt (w := storing s x i g) (x := x) n (c.stored x.q i) hg
  have hmem : (storing s x i g).mem = s.hw.mem := by unfold storing; split <;> rfl
  have hsound : (storing s x i g).Sound s.hw.mem := by unfold storing; split <;> exact sound_begun s x i
  have hfx : fx (begun s x i) x i (begun s x i) = (storing s x i g).storeKept x.n x.k g (bytesAt n (c.stored x.q i)) := by
    rw [fx_plainStore hop hon, storeAt, begun_ea, hgoes]
    exact W.store_lands (fun b hb => lt_of_mem_bytesAt hb) (lands_storing hlands)
  rw [exec_instr]
  refine (effect_completes hk h hfx (hst.sound _ hsound) ((effect_storing s i g).trans hst.effect) ?_).imp fun t ⟨hacts, hleft⟩ => ?_
  · split <;> decide
  · have hfab := hst.cache.fab
    obtain ⟨ts, tv, ta, tp⟩ := hleft.files (s := s) i (by rw [hfab]; exact hsame.files)
    refine ⟨hacts, sameFiles_of ts tv tp ta, ?_, fun a => ?_, ?_⟩
    · rw [hleft.gather, hst.cache.gather, ← begun_gather s x i, Ctl.gather, hsame.cnp, Ctl.gather]
    · rw [hleft.mem, hst.mem, hmem]
    · rw [hleft.core, Ctl.core, hfab]
      exact storing_task h.core i g

end Sys2Proof.Machine
end

section
/-! A strided load through a handle number that is no byte (04_stands_and_bundles.md R131): the lanes of LD.VX are translated one after
another, and a state that no descriptor makes lets the first lane move the second. -/

namespace Sys2Proof.Machine

/-! A task whose handle number no descriptor holds: bbHandle 0x1FF00 is not a byte, and the words of that handle are the registers
0x300000, 0x300004 (DBG_SAT) and 0x300008. The first lane's hit in the line cache saturates CNP_LC_HIT, which sets a bit of DBG_SAT and
so moves the handle's base before the second lane is read. -/

/-- The task with the stray handle. -/
def strayTask : Task :=
  { entry := 0, core := 0, tmode := true, spec := false, owner := 0x40, task := 0, frame := 0, line := 0, bbHandle := 0x1FF00, bbBase := 0,
    bbBound := 1, startSem := 0, startN := 0, startEn := false, done := [], args := [], template := 0, phase := 0, item := 0,
    inCommit := false, recurrent := false }

/-- An image with a code page, and nothing declared. -/
def strayImage : Image :=
  { bytes := List.replicate 64 1, models := [], batches := [], templates := [], groups := [], routes := [], pools := [],
    rings := [], sems := [], pairs := [], handles := [], code := [], resident := [], consts := [], deps := [], hc8 := [] }

/-- Core 0 runs it on stand 0, with lines 0 and 128 in the line cache, its hits one short of the most, s1 at the handle and two lanes in p1. -/
def strayCtl : Ctl :=
  let c := { Ctl.reset with img := { Ctl.reset.img with cur := some strayImage } }
  let c := (c.put (F.stdStateState 0) 3).put (F.stdStateLogical 0) 0
  let c := c.coreSet 0 { CoreSt.idle with task := some strayTask }
  let c := (c.wr (R.cnpHtW0 0x1FF00) 0x4003).put (F.cnpHtW2SizeM1 0x1FF00) 1023
  let c := { c with cnp := { c.cnp with lc := [⟨0, 0, false⟩, ⟨128, 0, false⟩] } }
  let c := (c.put F.cnpCfgLcb 1).put F.cnpLcHitCount 0xFFFFFFFE
  (c.sregSet 0 1 0x40000000).pregSet 0 1 3

/-- DRAM holds one byte, at its first address. -/
def strayState : State := ⟨⟨strayCtl, Mem.reset.wr (dramKey 0) 1⟩, []⟩

/-- LD.VX of v1 at s1, stride 0, under p1. -/
def straySlot : Slot :=
  { slot := 0, pn := false, ps := 1, d := 1, a := 1, b := 0, c := 0, resv := 0, imm := 0, upset := false, last := true }

def strayAt : At := ⟨0, 0, strayTask, 0⟩

/-- Where both lanes go as the bundle begins. -/
def strayTgt : Tgt := ⟨dramKey 0, 2, true, some 0x1FF00, 0, none⟩

theorem stray_issues : Issues strayState strayAt ⟨.ldVx, straySlot⟩ := by
  constructor <;> decide +kernel

theorem stray_goes : ∀ l < 64, (strayState.hw.ctl.guard 0 straySlot).getLsbD l = true →
    (begun strayState strayAt ⟨.ldVx, straySlot⟩).ctl.xlate 0 0 strayTask .load ((strayState.hw.ctl.ea 0 ⟨.ldVx, straySlot⟩ +
      l * (strayState.hw.ctl.sreg 0 straySlot.b.val).toNat) % 2 ^ 32) 2 = some strayTgt := by
  decide +kernel

theorem stray_filled : (begun strayState strayAt ⟨.ldVx, straySlot⟩).ctl.unfilled strayTgt = none := by decide +kernel

theorem stray_gather : ∀ e ∈ strayState.hw.ctl.gather 0, touched strayTgt 2 e = false := by decide +kernel

/-- Lane 1 of v1 of core 0 after a step. -/
def laneOne (o : Host.Outcome State Fault Refusal) : BitVec 16 :=
  match o with
  | .next t => lane (t.hw.ctl.vreg 0 1) 1
  | _ => 0

/-- The model reads lane 1 elsewhere, where DRAM holds zeros. -/
theorem stray_lane : laneOne (exec (.ldVx 0 straySlot) strayState) = 0 := by decide +kernel

theorem stray_stated : (strayState.hw.ctl.guard 0 straySlot).getLsbD 1 = true ∧
    BitVec.ofNat 16 (ofBytes (strayState.hw.mem.rdN strayTgt.key 2)) = 1 := by decide +kernel

/-- Refutes O23: the task's handle number is 0x1FF00, whose base is DBG_SAT; the first lane's hit moves the second. -/
theorem not_loadStrided : ¬ Obligations.LoadStrided := by
  unfold Obligations.LoadStrided
  intro h
  obtain ⟨t, ht, -, -, -, -, -, -, -, hlanes⟩ := h 0 straySlot strayState strayAt (fun _ => strayTgt) rfl stray_issues
    fun l hl hon => ⟨stray_goes l hl hon, stray_filled, stray_gather⟩
  obtain ⟨hon, hstated⟩ := stray_stated
  have hmodel := stray_lane
  rw [ht] at hmodel
  have hlane := (hlanes 1 (by decide)).trans ((if_pos hon).trans hstated)
  exact absurd (hmodel.symm.trans hlane) (by decide)

end Sys2Proof.Machine
end

section
/-! Held bundles (04_stands_and_bundles.md R140, 06_channels_and_semaphores.md R188, R198, R200). -/

namespace Sys2Proof.Machine

/-! A waiting slot that takes what it waits for (R188, R198, R200). -/

/-- What a wait that is over leaves of the controllers: the cores, the tiles, the predicates and the units. -/
structure Took (c d : Ctl) : Prop where
  cores : d.fab.cores = c.fab.cores
  aregs : d.fab.aregs = c.fab.aregs
  pregs : d.fab.pregs = c.fab.pregs
  units : SameUnits c d

theorem Took.trans {c d e : Ctl} (h : Took c d) (g : Took d e) : Took c e :=
  ⟨g.cores.trans h.cores, g.aregs.trans h.aregs, g.pregs.trans h.pregs, h.units.trans g.units⟩

theorem took_put (c : Ctl) (f : Fld) (v : Nat) : Took c (c.put f v) :=
  ⟨rfl, rfl, rfl, by constructor <;> rfl⟩

theorem took_semTake (c : Ctl) (sem n k : Nat) : Took c (c.semTake sem n k) :=
  ⟨rfl, rfl, rfl, by constructor <;> rfl⟩

theorem took_creditTake (c : Ctl) (p k n : Nat) : Took c (c.creditTake p k n) :=
  ⟨rfl, rfl, rfl, by constructor <;> rfl⟩

theorem took_receive (c : Ctl) (ch k : Nat) : Took c (c.receive ch k) :=
  ⟨rfl, rfl, rfl, by constructor <;> rfl⟩

theorem took_vregSet (c : Ctl) (q i : Nat) (v : BitVec 1024) : Took c (c.vregSet q i v) :=
  ⟨rfl, rfl, rfl, by constructor <;> rfl⟩

theorem took_sregSet (c : Ctl) (q i : Nat) (v : Word) : Took c (c.sregSet q i v) := by
  unfold Ctl.sregSet
  split <;> exact ⟨rfl, rfl, rfl, by constructor <;> rfl⟩

/-- The pool after a CRGET of n credits by core k. -/
def Ctl.creditGet (c : Ctl) (p n k : Nat) : Ctl :=
  (c.put (F.chnCpCountFree p) (c.get (F.chnCpCountFree p) - n)).creditTake p k (c.held p k + n)

theorem took_creditGet (c : Ctl) (p n k : Nat) : Took c (c.creditGet p n k) := (took_put ..).trans (took_creditTake ..)

theorem held_creditGet (c : Ctl) (p n k : Nat) : (c.creditGet p n k).held p k = c.held p k + n := mget_mset_self _ _ _ _

theorem get_semTake (c : Ctl) (sem n k : Nat) (h : n ≤ c.get (F.semCountCount sem)) :
    (c.semTake sem n k).get (F.semCountCount sem) + n = c.get (F.semCountCount sem) := by
  have hlt := Ctl.get_lt c (F.semCountCount sem)
  have hput := Ctl.get_put_self c (F.semCountCount sem) (c.get (F.semCountCount sem) - n) (by simp)
  rw [Nat.mod_eq_of_lt (by omega)] at hput
  exact (congrArg (· + n) hput).trans (Nat.sub_add_cancel h)

theorem free_creditGet (c : Ctl) (p n k : Nat) (h : n ≤ c.get (F.chnCpCountFree p)) :
    (c.creditGet p n k).get (F.chnCpCountFree p) + n = c.get (F.chnCpCountFree p) := by
  have hlt := Ctl.get_lt c (F.chnCpCountFree p)
  have hput := Ctl.get_put_self c (F.chnCpCountFree p) (c.get (F.chnCpCountFree p) - n) (by simp)
  rw [Nat.mod_eq_of_lt (by omega)] at hput
  exact (congrArg (· + n) hput).trans (Nat.sub_add_cancel h)

theorem fifo_receive (c : Ctl) (ch k : Nat) : (c.receive ch k).fifo ch k = (c.fifo ch k).tail := mget_mset_self _ _ _ _

theorem Ctl.fifo_vregSet (c : Ctl) (q i : Nat) (v : BitVec 1024) (ch k : Nat) : (c.vregSet q i v).fifo ch k = c.fifo ch k := rfl

theorem Ctl.fifo_sregSet (c : Ctl) (q i : Nat) (v : Word) (ch k : Nat) : (c.sregSet q i v).fifo ch k = c.fifo ch k := by
  unfold Ctl.sregSet
  split <;> rfl

theorem tryWait_recvV {c : Ctl} {q k : Nat} {sl : Slot} {m : Msg} {l : List Msg} (h : c.fifo (⟨.recvV, sl⟩ : Issued).chan k = m :: l) :
    c.tryWait q k ⟨.recvV, sl⟩ = ((c.receive (⟨.recvV, sl⟩ : Issued).chan k).vregSet q sl.d.val m, true) := by
  simp only [Ctl.tryWait, h]

theorem tryWait_recvS {c : Ctl} {q k : Nat} {sl : Slot} {m : Msg} {l : List Msg} (h : c.fifo (⟨.recvS, sl⟩ : Issued).chan k = m :: l) :
    c.tryWait q k ⟨.recvS, sl⟩ = ((c.receive (⟨.recvS, sl⟩ : Issued).chan k).sregSet q sl.d.val (m.setWidth 32), true) := by
  simp only [Ctl.tryWait, h]

theorem tryWait_recv_empty {c : Ctl} {q k : Nat} {i : Issued} (hop : i.op = .recvV ∨ i.op = .recvS) (h : c.fifo i.chan k = []) :
    c.tryWait q k i = (c, false) := by
  rcases hop with hop | hop <;> simp only [Ctl.tryWait, hop, h]

/-! A bundle held in one slot (R140). -/

section
variable {s : State} {x : At} {i : Issued} {k : Fin 128}

/-- A bundle whose one waiting slot does not get what it waits for stays held. -/
theorem resume_waits (hk : x.k = k.val) (hr : s.hw.ctl.running = true) (hc : s.hw.ctl.atCore x.k = some x)
    (hw : (s.hw.ctl.core x.q).waiting = [i]) (ht : s.hw.ctl.tryWait x.q x.k i = (s.hw.ctl, false)) :
    exec (.bundleComplete k) s = .next s := by
  have hall : s.hw.ctl.tryAll x.q x.k = s.hw.ctl := by simp [Ctl.tryAll, hw, ht]
  have hres : W.resume ⟨s.hw.ctl, s.hw.mem, []⟩ k.val = ⟨s.hw.ctl, s.hw.mem, []⟩ := by
    rw [hk] at hc hall
    simp [W.resume, hc, hr, hw, W.on, hall, W.finish]
  exact onHw_eq s (fun w => w.resume k.val) _ hres

/-- The controllers when the bundle at x, its one wait over in d, completes. -/
def Ctl.completed (d : Ctl) (x : At) (p : Nat) : Ctl :=
  (d.coreSet x.q { d.core x.q with waiting := [] }).put (F.stdCorePcPc x.n (x.q % 8)) p

/-- A bundle whose one waiting slot gets what it waits for completes. -/
theorem resume_completes {d : Ctl} (hk : x.k = k.val) (hr : s.hw.ctl.running = true) (hc : s.hw.ctl.atCore x.k = some x)
    (hw : (s.hw.ctl.core x.q).waiting = [i]) (hh : (s.hw.ctl.core x.q).halting = false)
    (ht : s.hw.ctl.tryWait x.q x.k i = (d, true)) (hd : Took s.hw.ctl d) :
    exec (.bundleComplete k) s = .next { s with hw := { s.hw with ctl := d.completed x (s.hw.ctl.core x.q).nextPc } } := by
  have hcore : d.core x.q = s.hw.ctl.core x.q := Ctl.core_of_cores hd.cores x.q
  have hall : s.hw.ctl.tryAll x.q x.k = d.coreSet x.q { d.core x.q with waiting := [] } := by
    simp [Ctl.tryAll, hw, ht, hcore]
  have hres : W.resume ⟨s.hw.ctl, s.hw.mem, []⟩ k.val = ⟨d.completed x (s.hw.ctl.core x.q).nextPc, s.hw.mem, []⟩ := by
    rw [hk] at hc hall
    simp [W.resume, hc, hr, hw, W.on, hall, W.finish, hcore, hh, Ctl.completed]
  exact onHw_eq s (fun w => w.resume k.val) _ hres

/-- What the completed bundle leaves of d. -/
theorem completed_keeps (d : Ctl) (x : At) (p : Nat) : (∀ f : Fld, f.addr < 0x78000 → (d.completed x p).get f = d.get f) ∧
    (∀ q, q ≠ x.q → (d.completed x p).core q = d.core q) ∧ ((d.completed x p).core x.q).waiting = [] ∧
    (d.completed x p).get (F.stdCorePcPc (x.q / 8) (x.q % 8)) = p % 4096 := by
  obtain ⟨hpc, -⟩ := coreAddr_ge x
  refine ⟨fun f hf => Ctl.get_of_rd (Ctl.rd_put_ne _ (F.stdCorePcPc x.n (x.q % 8)) _ (b := f.addr) ?_), fun q hq => ?_, ?_, get_put_pc ..⟩
  · show f.addr ≠ x.pcAddr
    omega
  · exact (Ctl.core_coreSet ..).trans (if_neg hq)
  · exact congrArg CoreSt.waiting (Ctl.core_coreSet_self ..)

theorem took_completed (d : Ctl) (x : At) (p : Nat) : SameUnits d (d.completed x p) ∧ (d.completed x p).fab.aregs = d.fab.aregs ∧
    (d.completed x p).fab.pregs = d.fab.pregs :=
  ⟨⟨rfl, rfl, rfl, rfl, rfl, rfl, rfl, rfl, rfl, rfl, rfl, rfl, rfl⟩, rfl, rfl⟩

/-- The reads of e that are those of d: the fields below the stands' registers, the credits held, the FIFOs and the scalar and vector files. -/
structure Reads (d e : Ctl) : Prop where
  get : ∀ f : Fld, f.addr < 0x78000 → e.get f = d.get f
  held : ∀ a b, e.held a b = d.held a b
  fifo : ∀ a b, e.fifo a b = d.fifo a b
  sreg : ∀ a b, e.sreg a b = d.sreg a b
  vreg : ∀ a b, e.vreg a b = d.vreg a b

theorem reads_completed (d : Ctl) (x : At) (p : Nat) : Reads d (d.completed x p) :=
  ⟨(completed_keeps d x p).1, fun _ _ => rfl, fun _ _ => rfl, fun _ _ => rfl, fun _ _ => rfl⟩

/-- A command on a held bundle: what it leaves in every case, and Q where what the bundle waits for is there. -/
def HeldOutcome (s : State) (x : At) (b : Bool) (Q : State → Prop) (t : State) : Prop :=
  t.hw.mem = s.hw.mem ∧ t.pending = s.pending ∧ (∀ q, q ≠ x.q → t.hw.ctl.core q = s.hw.ctl.core q) ∧ SameA s t ∧ SameP s t ∧
    SameUnits s.hw.ctl t.hw.ctl ∧ if b then Q t else t = s

theorem held_stays {b : Bool} {Q : State → Prop} (hb : b = false) (hk : x.k = k.val) (hr : s.hw.ctl.running = true)
    (hc : s.hw.ctl.atCore x.k = some x) (hw : (s.hw.ctl.core x.q).waiting = [i])
    (ht : s.hw.ctl.tryWait x.q x.k i = (s.hw.ctl, false)) : Completes (exec (.bundleComplete k) s) (HeldOutcome s x b Q) := by
  subst hb
  exact ⟨s, resume_waits hk hr hc hw ht, rfl, rfl, fun _ _ => rfl, rfl, rfl, .refl _, rfl⟩

theorem held_goes {d : Ctl} {b : Bool} {Q : State → Prop} (hb : b = true) (hk : x.k = k.val) (hr : s.hw.ctl.running = true)
    (hc : s.hw.ctl.atCore x.k = some x) (hw : (s.hw.ctl.core x.q).waiting = [i]) (hh : (s.hw.ctl.core x.q).halting = false)
    (ht : s.hw.ctl.tryWait x.q x.k i = (d, true)) (hd : Took s.hw.ctl d)
    (hQ : ∀ t : State, (t.hw.ctl.core x.q).waiting = [] → t.pcOf x = (s.hw.ctl.core x.q).nextPc % 4096 → Reads d t.hw.ctl → Q t) :
    Completes (exec (.bundleComplete k) s) (HeldOutcome s x b Q) := by
  subst hb
  obtain ⟨-, hothers, hwaiting, hpc⟩ := completed_keeps d x (s.hw.ctl.core x.q).nextPc
  obtain ⟨hunits, hareg, hpreg⟩ := took_completed d x (s.hw.ctl.core x.q).nextPc
  exact ⟨_, resume_completes hk hr hc hw hh ht hd, rfl, rfl, fun q hq => (hothers q hq).trans (Ctl.core_of_cores hd.cores q),
    hareg.trans hd.aregs, hpreg.trans hd.pregs, hd.units.trans hunits, hQ _ hwaiting hpc (reads_completed ..)⟩

end

/-- Settles O20: the held bundle takes what it waits for and completes, or stays as it was. -/
theorem heldBundleCompletes : Obligations.HeldBundleCompletes := by
  unfold Obligations.HeldBundleCompletes
  rintro k s x ⟨op, sl⟩ hk c there hr hc hop hw hh hd
  have hsem : (⟨op, sl⟩ : Issued).sem < 256 := Nat.mod_lt _ (by decide)
  rcases hop with rfl | rfl | rfl | rfl
  · by_cases h : c.semTurn x.k (⟨.swait, sl⟩ : Issued).sem = true ∧
        (⟨.swait, sl⟩ : Issued).count ≤ c.get (F.semCountCount (⟨.swait, sl⟩ : Issued).sem)
    · refine held_goes (by simp [there, h]) hk hr hc hw hh (if_pos h) (took_semTake ..) fun t hwait hpc hreads =>
        ⟨hwait, hpc, fun _ => ?_, nofun, nofun, nofun⟩
      rw [hreads.get _ (by simp only [R.semCount]; omega)]
      exact get_semTake _ _ _ _ h.2
    · exact held_stays (by simpa [there] using h) hk hr hc hw (if_neg h)
  · by_cases h : (⟨.crget, sl⟩ : Issued).count ≤ c.get (F.chnCpCountFree (⟨.crget, sl⟩ : Issued).sem)
    · refine held_goes (d := c.creditGet _ _ x.k) (by simp [there, h]) hk hr hc hw hh (if_pos h) (took_creditGet ..)
        fun t hwait hpc hreads => ⟨hwait, hpc, nofun, fun _ => ⟨?_, (hreads.held ..).trans (held_creditGet ..)⟩, nofun, nofun⟩
      rw [hreads.get _ (by simp only [R.chnCpCount]; omega)]
      exact free_creditGet _ _ _ _ h
    · exact held_stays (by simpa [there] using h) hk hr hc hw (if_neg h)
  · cases h : c.fifo (⟨.recvV, sl⟩ : Issued).chan x.k with
    | cons m l =>
      refine held_goes (by simp [there, h]) hk hr hc hw hh (tryWait_recvV h) ((took_receive ..).trans (took_vregSet ..))
        fun t hwait hpc hreads => ⟨hwait, hpc, nofun, nofun, fun _ => ⟨(hreads.vreg ..).trans (Ctl.vreg_vregSet_self ..), ?_⟩, nofun⟩
      rw [hreads.fifo, Ctl.fifo_vregSet, fifo_receive, h]
    | nil => exact held_stays (by simp [there, h]) hk hr hc hw (tryWait_recv_empty (.inl rfl) h)
  · cases h : c.fifo (⟨.recvS, sl⟩ : Issued).chan x.k with
    | cons m l =>
      have hd : sl.d.val < 64 := Nat.lt_trans hd (by decide)
      refine held_goes (by simp [there, h]) hk hr hc hw hh (tryWait_recvS h) ((took_receive ..).trans (took_sregSet ..))
        fun t hwait hpc hreads => ⟨hwait, hpc, nofun, nofun, nofun, fun _ => ⟨?_, ?_⟩⟩
      · rw [hreads.sreg, Ctl.sreg_sregSet _ _ _ _ _ hd hd]
        by_cases h0 : sl.d.val = 0
        · simp [h0]
        · simp [h0]
      · rw [hreads.fifo, Ctl.fifo_sregSet, fifo_receive, h]
    | nil => exact held_stays (by simp [there, h]) hk hr hc hw (tryWait_recv_empty (.inr rfl) h)

end Sys2Proof.Machine
end

section
/-! Slots staged and slots as bits (04_stands_and_bundles.md R127 … R129, Tables 4.5 and 4.6). -/

namespace Sys2Proof.Machine

/-! OP values (Table 4.6). -/

/-- The OP value of an operation names it. -/
theorem opOf_code (o : Op) : opOf o.code = some o := by cases o <;> rfl

theorem code_lt (o : Op) : o.code < 256 := by cases o <;> decide

/-- An OP value that names an operation is that operation's. -/
theorem code_opOf (v : BitVec 8) {o : Op} (ho : opOf v.toNat = some o) : o.code = v.toNat := by
  have h : ∀ v : Fin 256, (opOf v.val).all (fun o => o.code == v.val) = true := by decide +kernel
  have := h v.toFin
  rw [BitVec.val_toFin, ho] at this
  exact eq_of_beq this

/-! Slots as bits (Table 4.5). -/

/-- The fields of a word put together from them. -/
theorem extract_slot (op : BitVec 8) (pn : BitVec 1) (ps : BitVec 4) (d a b c : BitVec 6) (resv : BitVec 59) (imm : Word) {v : BitVec 128}
    (hv : v = op ++ pn ++ ps ++ d ++ a ++ b ++ c ++ resv ++ imm) :
    v.extractLsb' 120 8 = op ∧ v.extractLsb' 119 1 = pn ∧ v.extractLsb' 115 4 = ps ∧ v.extractLsb' 109 6 = d ∧ v.extractLsb' 103 6 = a ∧
      v.extractLsb' 97 6 = b ∧ v.extractLsb' 91 6 = c ∧ v.extractLsb' 32 59 = resv ∧ v.extractLsb' 0 32 = imm := by
  subst hv
  refine ⟨?_, ?_, ?_, ?_, ?_, ?_, ?_, ?_, BitVec.extractLsb'_append_eq_right⟩
  · iterate 8 refine (BitVec.extractLsb'_append_eq_of_le (by decide)).trans ?_
    exact BitVec.extractLsb'_eq_self
  · iterate 7 refine (BitVec.extractLsb'_append_eq_of_le (by decide)).trans ?_
    exact BitVec.extractLsb'_append_eq_right
  · iterate 6 refine (BitVec.extractLsb'_append_eq_of_le (by decide)).trans ?_
    exact BitVec.extractLsb'_append_eq_right
  · iterate 5 refine (BitVec.extractLsb'_append_eq_of_le (by decide)).trans ?_
    exact BitVec.extractLsb'_append_eq_right
  · iterate 4 refine (BitVec.extractLsb'_append_eq_of_le (by decide)).trans ?_
    exact BitVec.extractLsb'_append_eq_right
  · iterate 3 refine (BitVec.extractLsb'_append_eq_of_le (by decide)).trans ?_
    exact BitVec.extractLsb'_append_eq_right
  · iterate 2 refine (BitVec.extractLsb'_append_eq_of_le (by decide)).trans ?_
    exact BitVec.extractLsb'_append_eq_right
  · exact (BitVec.extractLsb'_append_eq_of_le (by decide)).trans BitVec.extractLsb'_append_eq_right

/-- A word put together from its own fields. -/
theorem append_slot (v : BitVec 128) : v.extractLsb' 120 8 ++ v.extractLsb' 119 1 ++ v.extractLsb' 115 4 ++ v.extractLsb' 109 6 ++
    v.extractLsb' 103 6 ++ v.extractLsb' 97 6 ++ v.extractLsb' 91 6 ++ v.extractLsb' 32 59 ++ v.extractLsb' 0 32 = v := by
  iterate 8 rw [BitVec.extractLsb'_append_extractLsb'_eq_extractLsb' (by rfl)]
  exact BitVec.extractLsb'_eq_self

theorem getLsbD_of_extract {w : Nat} {v : BitVec w} {i : Nat} {b : Bool} (h : v.extractLsb' i 1 = BitVec.ofBool b) : v.getLsbD i = b := by
  rw [BitVec.getLsbD_eq_extractLsb', h]
  cases b <;> rfl

theorem ofBool_getLsbD {w : Nat} (v : BitVec w) (i : Nat) : BitVec.ofBool (v.getLsbD i) = v.extractLsb' i 1 := by
  rw [BitVec.getLsbD_eq_extractLsb']
  have h : ∀ y : BitVec 1, BitVec.ofBool (y == 1#1) = y := by decide
  exact h _

/-- The slot of these fields, no fault in it. -/
def slotOf (n : Fin 8) (pn last : Bool) (ps : Fin 16) (d a b c : Fin 64) (resv : BitVec 59) (imm : Word) : Slot :=
  { slot := n, pn := pn, ps := ps, d := d, a := a, b := b, c := c, resv := resv, imm := imm, upset := false, last := last }

/-- A slot reads back as the fields put into it. -/
theorem slotOp_slotWord (n : Fin 8) (o : Op) (pn last : Bool) (ps : Fin 16) (d a b c : Fin 64) (resv : BitVec 59) (imm : Word) :
    slotOp n (slotWord ⟨o, slotOf n pn last ps d a b c resv imm⟩) last = ⟨o, slotOf n pn last ps d a b c resv imm⟩ := by
  generalize hv : slotWord ⟨o, slotOf n pn last ps d a b c resv imm⟩ = v
  obtain ⟨hop, hpn, hps, hd, ha, hb, hc, hresv, himm⟩ :=
    extract_slot (BitVec.ofNat 8 o.code) (BitVec.ofBool pn) (BitVec.ofFin ps) (BitVec.ofFin d) (BitVec.ofFin a) (BitVec.ofFin b)
      (BitVec.ofFin c) resv imm hv.symm
  have hcode : opOf (BitVec.ofNat 8 o.code).toNat = some o := by
    rw [BitVec.toNat_ofNat, Nat.mod_eq_of_lt (code_lt o), opOf_code]
  unfold slotOp slotFields
  rw [hop, getLsbD_of_extract hpn, hps, hd, ha, hb, hc, hresv, himm, hcode]
  rfl

/-- Every slot's bits are those of the fields they read as. -/
theorem slotWord_slotOp (n : Fin 8) (v : BitVec 128) (last : Bool) : slotWord (slotOp n v last) = v := by
  have hop : (slotFields n v last).badOp.getD (BitVec.ofNat 8 ((opOf (v.extractLsb' 120 8).toNat).getD .nop).code) = v.extractLsb' 120 8 := by
    unfold slotFields
    cases h : opOf (v.extractLsb' 120 8).toNat with
    | none => rfl
    | some o => exact (congrArg (BitVec.ofNat 8) (code_opOf _ h)).trans ((BitVec.ofNat_toNat ..).trans (BitVec.setWidth_eq _))
  refine Eq.trans ?_ (append_slot v)
  rw [← ofBool_getLsbD v 119]
  unfold slotWord slotOp
  dsimp only
  rw [hop]
  rfl

/-! Bundles as bytes (R128). -/

/-- The first n bytes of a number spell it modulo 256 ^ n. -/
theorem ofBytes_toBytes_mod (n : Nat) : ∀ x, ofBytes (toBytes n x) = x % 256 ^ n := by
  induction n with
  | zero => simp [toBytes, ofBytes, Nat.mod_one]
  | succ n ih =>
    intro x
    have htail : (List.range n).map (fun i => (BitVec.ofNat 8 (x >>> (8 * (i + 1))) : Byte)) = toBytes n (x / 256) := by
      refine List.map_congr_left fun i _ => ?_
      rw [Nat.mul_succ, Nat.add_comm, Nat.shiftRight_add, Nat.shiftRight_eq_div_pow x 8]
    rw [toBytes, List.range_succ_eq_map, List.map_cons, List.map_map, ofBytes]
    refine (congrArg (fun l => _ + 256 * ofBytes l) htail).trans ?_
    rw [ih, Nat.pow_succ', Nat.mod_mul]
    simp

theorem ofBytes_toBytes_toNat {n : Nat} (b : BitVec (8 * n)) : ofBytes (toBytes n b.toNat) = b.toNat :=
  (ofBytes_toBytes_mod n _).trans (Nat.mod_eq_of_lt (pow_bytes n ▸ b.isLt))

/-- The bytes that store a bundle read back as it. -/
theorem bundleOf_bundleBytes (b : BitVec 1024) : bundleOf (bundleBytes b) = b :=
  (congrArg (BitVec.ofNat 1024) (ofBytes_toBytes_toNat (n := 128) b)).trans ((BitVec.ofNat_toNat ..).trans (BitVec.setWidth_eq _))

/-! A slot that is not its bundle's last (R127). -/

theorem slot_stages {s : State} {x : At} {i : Issued} (hr : s.hw.ctl.running = true) (hc : s.hw.ctl.atCore x.k = some x)
    (hw : (s.hw.ctl.core x.q).waiting = []) (he : (s.hw.ctl.core x.q).ready = false) (hl : i.sl.last = false) :
    W.slot ⟨s.hw.ctl, s.hw.mem, []⟩ x.k i = ⟨s.hw.ctl.coreSet x.q { s.hw.ctl.core x.q with staged := stage (s.hw.ctl.core x.q).staged i },
      s.hw.mem, []⟩ := by
  unfold W.slot
  simp [hc, hr, hw, he, hl, W.on]

/-- Settles O7: a slot before the last is staged, and slots and bundles are their bits. -/
theorem slotStaged : Obligations.SlotStaged := by
  unfold Obligations.SlotStaged
  refine ⟨fun k op sl s x hk hr hc hw he hl => ?_, slotOp_slotWord, slotWord_slotOp, fun b => ⟨length_toBytes .., bundleOf_bundleBytes b⟩⟩
  obtain ⟨-, -, htask, -, -⟩ := atCore_q hc
  refine ⟨_, (exec_instr ..).trans (onHw_eq s _ _ (hk ▸ slot_stages (i := ⟨op, sl⟩) hr hc hw he hl)), rfl, rfl, ?_, ?_, ?_, fun q hq => ?_, _, rfl⟩
  · exact congrArg CoreSt.staged (Ctl.core_coreSet_self ..)
  · exact (congrArg CoreSt.task (Ctl.core_coreSet_self ..)).trans htask
  · exact (congrArg CoreSt.waiting (Ctl.core_coreSet_self ..)).trans hw
  · exact (Ctl.core_coreSet ..).trans (if_neg hq)

end Sys2Proof.Machine
end

section
/-! A bundle of two slots (04_stands_and_bundles.md R136). -/

namespace Sys2Proof.Machine

/-! A bundle that issues (R136, R142). -/

/-- The staged bundle b of the core at x as its slots find it. -/
def W.begunBundle (w : W) (x : At) (b : List Issued) : W :=
  ((w.on (fun c => c.coreSet x.q { c.core x.q with staged := [] })).on
    (fun c => (c.bundleEnergy x b).bump (F.stdCoreIssueCount x.n (x.q % 8)) 1)).on
    (fun c => c.coreSet x.q { c.core x.q with nextPc := (x.pc + 1) % 4096, halting := false, nacked := false, waited := false })

/-- A bundle that passes its checks acts slot by slot on what the registers held before it, and settles. -/
theorem tryIssue_passes {w : W} {x : At} {b : List Issued} (hb : (w.ctl.core x.q).staged = b)
    (hp : w.ctl.bundleCause x.q x.k x.t x.pc b = none) (hf : w.ctl.bundleBusy x.q x.k x.t b = false)
    (hs : b.findSome? (fun i => w.slotDetects x i) = none) : w.tryIssue x =
      (b.foldl (fun v i => fx (w.begunBundle x b) x i (v.mergeUpset x.n i.sl.mergeUpset)) (w.begunBundle x b)).settle x := by
  unfold W.tryIssue
  simp only [hb, hp, hf, hs, if_false, Bool.false_eq_true]
  rfl

/-- A bundle's last slot issues it. -/
theorem slot_last {w : W} {x : At} {i : Issued} {l : List Issued} (hr : w.ctl.running = true) (hc : w.ctl.atCore x.k = some x)
    (hw : (w.ctl.core x.q).waiting = []) (he : (w.ctl.core x.q).ready = false) (hi : i.sl.last = true)
    (hl : stage (w.ctl.core x.q).staged i = l) :
    w.slot x.k i = (w.on (fun _ => w.ctl.coreSet x.q { w.ctl.core x.q with staged := l })).tryIssue x := by
  unfold W.slot
  simp [hc, hr, hw, he, hi, hl, W.on]

/-- A core with other slots staged is where it was. -/
theorem atCore_staged {c : Ctl} {k : Nat} {x : At} (h : c.atCore k = some x) (l : List Issued) :
    (c.coreSet x.q { c.core x.q with staged := l }).atCore k = some x := by
  obtain ⟨-, -, htask, -, hphys⟩ := atCore_q h
  have hphys' : (c.coreSet x.q { c.core x.q with staged := l }).physOf k = some x.q := hphys
  rw [← h, Ctl.atCore, Ctl.atCore, hphys, hphys']
  simp only [Ctl.core_coreSet_self, htask]
  rfl

theorem begunBundle_vreg (w : W) (x : At) (b : List Issued) (q i : Nat) : (w.begunBundle x b).ctl.vreg q i = w.ctl.vreg q i := by
  simp [W.begunBundle]

theorem begunBundle_core (w : W) (x : At) (b : List Issued) : (w.begunBundle x b).ctl.core x.q = { w.ctl.core x.q with
    staged := [], nextPc := (x.pc + 1) % 4096, halting := false, nacked := false, waited := false } := by
  simp [W.begunBundle]

theorem begunBundle_files (w : W) (x : At) (b : List Issued) : (w.begunBundle x b).ctl.fab.sregs = w.ctl.fab.sregs ∧
    (w.begunBundle x b).ctl.fab.aregs = w.ctl.fab.aregs ∧ (w.begunBundle x b).ctl.fab.pregs = w.ctl.fab.pregs := by
  unfold W.begunBundle
  simp only [W.on_ctl]
  obtain ⟨r, hr⟩ := Ctl.bump_eq ((w.ctl.coreSet x.q { w.ctl.core x.q with staged := [] }).bundleEnergy x b)
    (F.stdCoreIssueCount x.n (x.q % 8)) 1
  rw [hr]
  exact ⟨rfl, rfl, rfl⟩

/-! VMOV in a bundle. -/

theorem accesses_vmov (c : Ctl) (q : Nat) (sl : Slot) : c.accesses q ⟨.vmov, sl⟩ = [] := by
  unfold Ctl.accesses
  split <;> rfl

/-- A well-formed VMOV whose destination no slot before it names passes every check. -/
theorem slotCause_vmov {c : Ctl} {q k : Nat} {t : Task} {before : List (RFile × Nat)} {sl : Slot}
    (hi : Issued.illegal ⟨.vmov, sl⟩ = false) (hr : Issued.badReg ⟨.vmov, sl⟩ = false) (hd : (RFile.v, sl.d.val) ∉ before) :
    c.slotCause q k t before ⟨.vmov, sl⟩ = 0 := by
  have hdests : Issued.dests ⟨.vmov, sl⟩ = [(.v, sl.d.val)] := by
    simp [Issued.dests, Op.form]
  unfold Ctl.slotCause
  simp [hi, hr, hdests, hd, accesses_vmov, Ctl.badSync, Ctl.badRoute, Ctl.badCredit]

/-- A VMOV under p0 writes the whole vector. -/
theorem fx_vmov (w0 w : W) (x : At) {sl : Slot} (hpn : sl.pn = false) (hps : sl.ps = 0) :
    fx w0 x ⟨.vmov, sl⟩ w = w.on (fun c => c.vregSet x.q sl.d.val (w0.ctl.vreg x.q sl.a.val)) := by
  have hguard : w0.ctl.guard x.q sl = BitVec.allOnes 64 := by simp [Ctl.guard, Ctl.preg, hpn, hps]
  have hmerge (old new : BitVec 1024) : mergeLanes (w0.ctl.guard x.q sl) old new = new :=
    vec_ext fun l hl => by rw [lane_mergeLanes _ _ _ _ hl, hguard, BitVec.getLsbD_allOnes, if_pos (by simpa using hl)]
  show vecWrite w0 x ⟨.vmov, sl⟩ w _ = _
  unfold vecWrite
  simp only [hmerge]

/-- VMOV of vB to vA in slot 3, not the bundle's last. -/
def movLeft (a b : Fin 32) : Slot := ⟨3, false, 0, ⟨a.val, by omega⟩, ⟨b.val, by omega⟩, 0, 0, 0, 0, false, false, none, 0, none⟩

/-- VMOV of vA to vB in slot 4, the bundle's last. -/
def movRight (a b : Fin 32) : Slot := ⟨4, false, 0, ⟨b.val, by omega⟩, ⟨a.val, by omega⟩, 0, 0, 0, 0, false, true, none, 0, none⟩

/-- The two moves, as a bundle. -/
def moves (a b : Fin 32) : List Issued := [⟨.vmov, movLeft a b⟩, ⟨.vmov, movRight a b⟩]

theorem movLeft_legal (a b : Fin 32) :
    Issued.illegal ⟨.vmov, movLeft a b⟩ = false ∧ Issued.badReg ⟨.vmov, movLeft a b⟩ = false := by
  refine ⟨rfl, ?_⟩
  simp [Issued.badReg, Op.form, inFile, movLeft, RFile.size]

theorem movRight_legal (a b : Fin 32) :
    Issued.illegal ⟨.vmov, movRight a b⟩ = false ∧ Issued.badReg ⟨.vmov, movRight a b⟩ = false := by
  refine ⟨rfl, ?_⟩
  simp [Issued.badReg, Op.form, inFile, movRight, RFile.size]

/-- The two moves issue: they are legal, name two vectors and touch no memory. -/
theorem moves_issue {w : W} {x : At} {a b : Fin 32} (hab : a ≠ b) (hst : (w.ctl.core x.q).staged = moves a b)
    (hpc : 128 * x.pc < w.ctl.codeEnd) : w.tryIssue x =
      (((w.begunBundle x (moves a b)).on (fun c => c.vregSet x.q a.val ((w.begunBundle x (moves a b)).ctl.vreg x.q b.val))).on
        (fun c => c.vregSet x.q b.val ((w.begunBundle x (moves a b)).ctl.vreg x.q a.val))).settle x := by
  have hne : b.val ≠ a.val := fun h => hab (Fin.ext h.symm)
  refine (tryIssue_passes hst ?_ ?_ rfl).trans ?_
  · obtain ⟨li, lr⟩ := movLeft_legal a b
    obtain ⟨ri, rr⟩ := movRight_legal a b
    have hleft := slotCause_vmov (c := w.ctl) (q := x.q) (k := x.k) (t := x.t) (before := []) li lr (List.not_mem_nil)
    have hright := slotCause_vmov (c := w.ctl) (q := x.q) (k := x.k) (t := x.t) (before := [(.v, a.val)]) ri rr
      (by simpa [movRight] using hne)
    have hdests : Issued.dests ⟨.vmov, movLeft a b⟩ = [(.v, a.val)] := by simp [Issued.dests, Op.form, movLeft]
    unfold Ctl.bundleCause
    rw [if_neg (by omega)]
    simp [moves, hleft, hdests, hright]
  · simp [Ctl.bundleBusy, moves, accesses_vmov]
  · simp only [moves, List.foldl_cons, List.foldl_nil, W.mergeUpset, movLeft, movRight, fx_vmov]

/-- What the two moves leave of the work area w: the vectors exchanged, the other files as before, and the PC moved. -/
structure Exchanged (x : At) (a b : Fin 32) (w t : W) : Prop where
  left : t.ctl.vreg x.q a.val = w.ctl.vreg x.q b.val
  right : t.ctl.vreg x.q b.val = w.ctl.vreg x.q a.val
  others : ∀ q i, i < 32 → ¬(q = x.q ∧ (i = a.val ∨ i = b.val)) → t.ctl.vreg q i = w.ctl.vreg q i
  pc : t.ctl.get (F.stdCorePcPc (x.q / 8) (x.q % 8)) = (x.pc + 1) % 4096
  acts : t.acts = w.acts
  files : t.ctl.fab.sregs = w.ctl.fab.sregs ∧ t.ctl.fab.aregs = w.ctl.fab.aregs ∧ t.ctl.fab.pregs = w.ctl.fab.pregs

theorem vreg_two_writes (c : Ctl) {a b : Fin 32} (u v : BitVec 1024) (f : Fld) (p q r i : Nat) (hi : i < 32) :
    (((c.vregSet q a.val u).vregSet q b.val v).put f p).vreg r i =
      if r = q ∧ i = b.val then v else if r = q ∧ i = a.val then u else c.vreg r i := by
  rw [← Ctl.vreg_vregSet _ _ _ _ _ a.isLt hi, ← Ctl.vreg_vregSet _ _ _ _ _ b.isLt hi]
  rfl

/-- Each move reads the vector as it stood when the bundle began (R136). -/
theorem moves_exchange {w : W} {x : At} {a b : Fin 32} (hab : a ≠ b) (hst : (w.ctl.core x.q).staged = moves a b)
    (hw : (w.ctl.core x.q).waiting = []) (hpc : 128 * x.pc < w.ctl.codeEnd) : Exchanged x a b w (w.tryIssue x) := by
  have hcore := begunBundle_core w x (moves a b)
  have hfiles := begunBundle_files w x (moves a b)
  have hvreg := begunBundle_vreg w x (moves a b)
  have hacts : (w.begunBundle x (moves a b)).acts = w.acts := rfl
  rw [moves_issue hab hst hpc, hvreg, hvreg]
  generalize w.begunBundle x (moves a b) = v at hcore hfiles hvreg hacts
  rw [settle_plain]
  · refine ⟨?_, ?_, fun q i hi hne => ?_, ?_, hacts, hfiles⟩
    · refine (vreg_two_writes _ _ _ _ _ _ _ _ a.isLt).trans ?_
      rw [if_neg (by simp [Fin.val_inj, hab]), if_pos ⟨rfl, rfl⟩]
    · exact (vreg_two_writes _ _ _ _ _ _ _ _ b.isLt).trans (if_pos ⟨rfl, rfl⟩)
    · refine (vreg_two_writes _ _ _ _ _ _ _ _ hi).trans ?_
      rw [if_neg (by tauto), if_neg (by tauto), hvreg]
    · refine (get_put_pc ..).trans ?_
      exact (congrArg (fun cs : CoreSt => cs.nextPc % 4096) hcore).trans (Nat.mod_mod ..)
  · exact (congrArg CoreSt.waiting hcore).trans hw
  · exact congrArg CoreSt.halting hcore

/-- The core at x with the left move staged. -/
def leftStaged (s : State) (x : At) (a b : Fin 32) : State :=
  { s with hw := { s.hw with ctl := s.hw.ctl.coreSet x.q { s.hw.ctl.core x.q with staged := [⟨.vmov, movLeft a b⟩] } } }

section
variable {k : Fin 128} {a b : Fin 32} {s : State} {x : At}

theorem exec_movLeft (hk : x.k = k.val) (hr : s.hw.ctl.running = true) (hc : s.hw.ctl.atCore x.k = some x)
    (hw : (s.hw.ctl.core x.q).waiting = []) (hst : (s.hw.ctl.core x.q).staged = []) :
    exec (.vmov k (movLeft a b)) s = .next (leftStaged s x a b) := by
  have hready : (s.hw.ctl.core x.q).ready = false := by rw [CoreSt.ready, hst]; rfl
  have hslot := slot_stages (i := ⟨.vmov, movLeft a b⟩) hr hc hw hready rfl
  rw [hst, hk] at hslot
  exact onHw_eq s (fun w => w.slot k.val ⟨.vmov, movLeft a b⟩) _ hslot

/-- The right move on a core that has the left one staged. -/
theorem exec_movRight (hk : x.k = k.val) (hr : s.hw.ctl.running = true) (hc : s.hw.ctl.atCore x.k = some x)
    (hw : (s.hw.ctl.core x.q).waiting = []) (hst : (s.hw.ctl.core x.q).staged = [⟨.vmov, movLeft a b⟩])
    (hpc : 128 * x.pc < s.hw.ctl.codeEnd) (hab : a ≠ b) :
    Completes (exec (.vmov k (movRight a b)) s) (fun t => t.hw.mem = s.hw.mem ∧
      Exchanged x a b ⟨s.hw.ctl, s.hw.mem, []⟩ ⟨t.hw.ctl, t.hw.mem, []⟩) := by
  have hready : (s.hw.ctl.core x.q).ready = false := by rw [CoreSt.ready, hst]; rfl
  have hslot := slot_last (w := ⟨s.hw.ctl, s.hw.mem, []⟩) (i := ⟨.vmov, movRight a b⟩) (l := moves a b) hr hc hw hready rfl
    ((congrArg (fun l => stage l _) hst).trans rfl)
  have hex := moves_exchange (w := (W.mk s.hw.ctl s.hw.mem []).on (fun _ =>
    s.hw.ctl.coreSet x.q { s.hw.ctl.core x.q with staged := moves a b })) (x := x) hab
    (congrArg CoreSt.staged (Ctl.core_coreSet_self ..)) ((congrArg CoreSt.waiting (Ctl.core_coreSet_self ..)).trans hw) hpc
  rw [hk] at hslot
  rw [← hslot] at hex
  obtain ⟨hl, hrt, ho, hp, hacts, hf⟩ := hex
  exact ⟨_, rfl, congrArg (fun as : List MAct => MAct.run s.hw.mem as.reverse) hacts, hl, hrt, ho, hp, rfl, hf⟩

end

/-- Settles O12: both moves read the vectors as they stood when the bundle began. -/
theorem bundleReadsFirst : Obligations.BundleReadsFirst := by
  unfold Obligations.BundleReadsFirst
  intro k a b s x hk left right hr hc hw hst hpc hab
  refine ⟨leftStaged s x a b, exec_movLeft hk hr hc hw hst, ?_⟩
  have hcore : (leftStaged s x a b).hw.ctl.core x.q = { s.hw.ctl.core x.q with staged := [⟨.vmov, movLeft a b⟩] } :=
    Ctl.core_coreSet_self ..
  refine (exec_movRight (s := leftStaged s x a b) hk hr (atCore_staged hc _) ((congrArg CoreSt.waiting hcore).trans hw)
    (congrArg CoreSt.staged hcore) hpc hab).imp fun t ⟨hmem, hex⟩ => ?_
  exact ⟨hex.left, hex.right, hex.others, hex.pc, hmem, hex.files⟩

end Sys2Proof.Machine
end

section
/-! Every step and the memories (05_memory_hierarchy.md R164, R165, R176): a command is a step over a work area, whose acts are all that
happens to the memories, and no act breaks their canonical form. -/

namespace Sys2Proof.Machine

/-- A change of the controllers alone is a step over the work area with no act. -/
theorem onCtl_eq_onHw (s : State) (f : Ctl → Ctl) : onCtl s f = onHw s (fun w => w.on f) := rfl

/-- Every command but a power-up out of order (R438) is a step over the work area; the commands listed change the controllers alone. -/
theorem exec_eq_onHw (i : Instr) (s : State) (h : i ≠ .pwrOkRise false) : ∃ f, exec i s = onHw s f := by
  cases i with
  | pwrOkRise ordered =>
    cases ordered with
    | false => exact absurd rfl h
    | true =>
      unfold exec execPwrOkRise
      exact ⟨_, (if_pos rfl).trans (onCtl_eq_onHw s _)⟩
  | rasterSlot | lintelLine | governorIntervalEnd | govEnable | avsAck | avsResponseTimeout | avsPoll | avsSettleCheck
  | avsSettleTimeout | streamArm | streamDisarm | inputLoss | planeFetch | rxLinkTraining | nativeAux | i2cOverAux | linkAddress
  | enumPathResources | allocatePayload | queryPayload | clearPayloadIdTable | remoteI2cRead | csiFrameStart | csiFrameEnd
  | csiLineStart | csiLineEnd | edidCommit | hpdPulseEnd | txHpdFall | txHpdRise | txLinkTraining | standWatchdog | cnpCfgWrite
  | dramClearDone | lineCacheFill | lineCacheClean | dramRefresh | dramRetrain | jobComplete | snap | histSnapCopy | dlUp
  | registerWrite | rcRead | glbTimeRead | wmstatRead | ringEnable | ringDisable | ringDoorbell | ringHeadWrite | descriptorFetch
  | modWindowEnd | ident | health | temp | rail | ceil | unitRead | unitReqHoldOff | unitReqClose | unitReqRelease | boot | alert
  | alertMask | wicketDoorbell | mailboxTake | commandComplete | rwGo | swap | networkEnable | evaluationEnd | listenEn | ack
  | audioSample | gladeFeatureVector | gladeEvaluationEnd | commandWindowEnd | refractEnd | stbyReqAssert | stbyReqDeassert
  | vgladeLoss | portTraining | trainingRetry | trainFrame | ackFrame | hingeAckSend | heartbeatMiss | splitHeartbeatWait
  | frameSyncEdge | frameSyncPulseEnd | frameSyncLost | peerWaitTimeout | currentWindow | energyRecord | sensorSample | thermalTrip
  | rotationAbort | rotationTick | resetNRelease | resetExit | bootPath | perstNDeassert | strapSample | ambSample | ambCfgWrite
  | idcode | samplePreload | extest | highz | clamp | dbgAccess | bypass | linkRecovery | tapReset | alertResponse =>
    unfold exec
    exact ⟨_, onCtl_eq_onHw s _⟩
  | _ =>
    unfold exec
    exact ⟨_, rfl⟩

/-- A step over the work area leaves the memories as a run of acts makes them. -/
theorem onHw_keeps_memWf {s t : State} {f : W → W} (h : onHw s f = .next t) (hs : s.memWf = true) : t.memWf = true := by
  obtain ⟨as, hmem, -, -⟩ := onHw_next s t f h
  rw [State.memWf, hmem]
  exact MAct.run_wf as s.hw.mem hs

theorem exec_keeps_memWf {i : Instr} {s t : State} (h : exec i s = .next t) (hs : s.memWf = true) : t.memWf = true := by
  by_cases hi : i = .pwrOkRise false
  · subst hi
    exact nomatch h
  · obtain ⟨f, hf⟩ := exec_eq_onHw i s hi
    exact onHw_keeps_memWf (hf.symm.trans h) hs

/-- Settles O31: a command keeps the form as its acts do (`exec_eq_onHw`, `MAct.run_wf`); a block that idles touches no memory. -/
theorem stepKeepsMemory : Obligations.StepKeepsMemory := by
  unfold Obligations.StepKeepsMemory
  intro s t hs h
  unfold step at h
  split at h
  · cases h
    exact hs
  · exact exec_keeps_memWf h hs

end Sys2Proof.Machine
end

section
/-! Stores to Canopy (05_memory_hierarchy.md R170): the bytes of a store merged into an entry of the stand's gather buffer. -/

namespace Sys2Proof.Machine

/-! Bytes merged into an entry. -/

theorem length_minsert {α : Type} (k : Nat) (v : α) (m : SMap α) : (minsert k v m).length = m.length + 1 := by
  induction m with
  | nil => rfl
  | cons p t ih =>
    unfold minsert
    split
    · rfl
    · simp [ih]

theorem length_mset_le {α : Type} [DecidableEq α] (d : α) (m : SMap α) (k : Nat) (v : α) : (mset d m k v).length ≤ m.length + 1 := by
  have herase : (merase m k).length ≤ m.length := List.length_filter_le ..
  unfold mset
  split
  · omega
  · rw [length_minsert]
    omega

/-- An entry with bytes of core k at offsets of its line. -/
def GbEntry.merge (e : GbEntry) (k : Nat) (bs : List (Nat × Byte)) : GbEntry :=
  { e with cores := if e.cores.contains k then e.cores else e.cores ++ [k]
           bytes := bs.foldl (fun m b => mset 256 m b.1 b.2.toNat) e.bytes }

theorem GbEntry.mem_cores_merge (e : GbEntry) (k : Nat) (bs : List (Nat × Byte)) (m : Nat) : m ∈ (e.merge k bs).cores ↔ m ∈ e.cores ∨ m = k := by
  by_cases h : k ∈ e.cores
  · simpa [GbEntry.merge, h] using fun hm => hm ▸ h
  · simp [GbEntry.merge, h]

theorem GbEntry.length_merge_le (e : GbEntry) (k : Nat) (bs : List (Nat × Byte)) :
    (e.merge k bs).bytes.length ≤ e.bytes.length + bs.length := by
  have hfold (l : List (Nat × Byte)) : ∀ m : SMap Nat, (l.foldl (fun m b => mset 256 m b.1 b.2.toNat) m).length ≤ m.length + l.length := by
    induction l with
    | nil => exact fun m => Nat.le_refl _
    | cons b t ih =>
      intro m
      have hset := length_mset_le 256 m b.1 b.2.toNat
      have hrest := ih (mset 256 m b.1 b.2.toNat)
      simp only [List.foldl_cons, List.length_cons]
      omega
  exact hfold bs e.bytes

/-- The bytes of a store with their offsets in a line. -/
def inLine (key line : Nat) (bs : List (Nat × Byte)) : List (Nat × Byte) := bs.map (fun b => (key + b.1 - line, b.2))

/-- What an entry holds at an offset of its line after the bytes f from a key were merged in. -/
theorem GbEntry.mget_merge (e : GbEntry) (k : Nat) {key line : Nat} (hl : line ≤ key) (f : Nat → Option Byte) (j : Nat) : ∀ n,
    mget 256 (e.merge k (inLine key line (bytesAt n f))).bytes j = if key ≤ line + j ∧ line + j < key + n then
      ((f (line + j - key)).map BitVec.toNat).getD (mget 256 e.bytes j) else mget 256 e.bytes j := by
  intro n
  induction n with
  | zero =>
    rw [if_neg (by omega)]
    rfl
  | succ n ih =>
    have hlast : mget 256 (e.merge k (inLine key line (bytesAt (n + 1) f))).bytes j = if j = key + n - line then
        ((f n).map BitVec.toNat).getD (mget 256 (e.merge k (inLine key line (bytesAt n f))).bytes j)
        else mget 256 (e.merge k (inLine key line (bytesAt n f))).bytes j := by
      rw [bytesAt_succ]
      cases f n with
      | none => simp
      | some b => simp [GbEntry.merge, inLine, List.foldl_append, mget_mset]
    rw [hlast, ih]
    by_cases hj : j = key + n - line
    · rw [if_pos hj, if_neg (by omega), if_pos (by omega), show line + j - key = n by omega]
    · rw [if_neg hj]
      exact if_congr (by omega) rfl rfl

/-! A store into the gather buffer. -/

/-- r is w but for the gather buffer of the stand of x, which holds es, and the count of merges. -/
structure Gathers (x : At) (es : List GbEntry) (w r : W) : Prop where
  effect : Effect x false [R.cnpGbMerge] w.ctl r.ctl
  gather : r.ctl.gather x.n = es
  fab : r.ctl.fab = w.ctl.fab
  mem : r.mem = w.mem
  acts : r.acts = w.acts

theorem gathers_set (x : At) (es : List GbEntry) (w : W) : Gathers x es w (w.on (fun c => c.gatherSet x.n es)) :=
  ⟨effect_gatherSet .., Ctl.gather_gatherSet_self .., rfl, rfl, rfl⟩

/-- Where a condition picks no entry of the buffer, its flush leaves what the buffer holds and every register. -/
theorem Gathers.flushNone {x : At} {es : List GbEntry} {w r : W} (h : Gathers x es w r) {p : GbEntry → Bool} (hp : ∀ e ∈ es, p e = false) :
    Gathers x es w (r.flushWhere x.n p) ∧ ∀ f, (r.flushWhere x.n p).ctl.get f = r.ctl.get f := by
  rw [flushWhere_none _ _ _ (by rwa [h.gather])]
  refine ⟨⟨h.effect.trans (effect_gatherSet ..), ?_, h.fab, h.mem, h.acts⟩, fun _ => rfl⟩
  exact (Ctl.gather_gatherSet_self ..).trans h.gather

/-- The condition under which a store's entry leaves at once: its line is filled. -/
def GbEntry.fills (lk : Nat) (e : GbEntry) : Bool := e.line == lk && e.bytes.length == 256

theorem Ctl.gather_bump (c : Ctl) (f : Fld) (n m : Nat) : (c.bump f n).gather m = c.gather m := by
  obtain ⟨r, hr⟩ := Ctl.bump_eq c f n
  rw [hr]
  rfl

/-- A store into a line the buffer holds merges into its entry, which counts (R170). -/
theorem gatherStore_held {x : At} {w : W} {lk : Nat} {bs : List (Nat × Byte)}
    (hheld : (w.ctl.gather x.n).any (fun e => e.line == lk) = true)
    (hroom : ∀ e ∈ w.ctl.gather x.n, e.line = lk → e.bytes.length + bs.length < 256) :
    Gathers x ((w.ctl.gather x.n).map (fun e => if e.line == lk then e.merge x.k bs else e)) w (w.gatherStore x.n x.k lk bs) ∧
      Counts w.ctl (w.gatherStore x.n x.k lk bs).ctl F.cnpGbMergeCount := by
  obtain ⟨e, hfind⟩ := Option.isSome_iff_exists.mp (List.find?_isSome.trans List.any_eq_true.symm |>.mpr hheld)
  generalize hes : (w.ctl.gather x.n).map (fun e => if e.line == lk then e.merge x.k bs else e) = es
  have hstore : w.gatherStore x.n x.k lk bs =
      ((w.on (fun c => c.gatherSet x.n es)).on (fun c => c.bump F.cnpGbMergeCount 1)).flushWhere x.n (GbEntry.fills lk) := by
    unfold W.gatherStore
    simp only [hfind, ← hes]
    rfl
  have hcount : Gathers x es w ((w.on (fun c => c.gatherSet x.n es)).on (fun c => c.bump F.cnpGbMergeCount 1)) := by
    obtain ⟨he, hg, hf, hm, ha⟩ := gathers_set x es w
    exact ⟨he.trans ((onlyRegs_bump _ F.cnpGbMergeCount 1).mono (by simp)).effect, (Ctl.gather_bump ..).trans hg, (Ctl.fab_bump ..).trans hf, hm, ha⟩
  obtain ⟨hgathers, hregs⟩ := hcount.flushNone (p := GbEntry.fills lk) fun e he => by
    obtain ⟨e, hmem, rfl⟩ := List.mem_map.mp (hes ▸ he)
    by_cases hline : e.line = lk
    · have hlen := e.length_merge_le x.k bs
      have := hroom e hmem hline
      simp [GbEntry.fills, hline]
      omega
    · simp [GbEntry.fills, hline]
  rw [hstore]
  exact ⟨hgathers, (hregs _).trans (counts_bump (w.ctl.gatherSet x.n es) _ (by decide) (by decide))⟩

/-- A store into a line the buffer does not hold makes a new last entry (R170). -/
theorem gatherStore_new {x : At} {w : W} {lk : Nat} {bs : List (Nat × Byte)}
    (hnew : (w.ctl.gather x.n).any (fun e => e.line == lk) = false) (hroom : (w.ctl.gather x.n).length < 8) (hbs : bs.length < 256) :
    Gathers x (w.ctl.gather x.n ++ [GbEntry.merge ⟨lk, [], []⟩ x.k bs]) w (w.gatherStore x.n x.k lk bs) ∧
      (w.gatherStore x.n x.k lk bs).ctl.get F.cnpGbMergeCount = w.ctl.get F.cnpGbMergeCount := by
  have hother : ∀ e ∈ w.ctl.gather x.n, (e.line == lk) = false := by simpa using hnew
  have hfind : (w.ctl.gather x.n).find? (fun e => e.line == lk) = none := List.find?_eq_none.mpr fun e he => by simp [hother e he]
  generalize hes : w.ctl.gather x.n ++ [GbEntry.merge ⟨lk, [], []⟩ x.k bs] = es
  have hstore : w.gatherStore x.n x.k lk bs = (w.on (fun c => c.gatherSet x.n es)).flushWhere x.n (GbEntry.fills lk) := by
    unfold W.gatherStore
    simp only [hfind, if_neg (show ¬ 8 ≤ (w.ctl.gather x.n).length by omega), ← hes]
    rfl
  obtain ⟨hgathers, hregs⟩ := (gathers_set x es w).flushNone (p := GbEntry.fills lk) fun e he => by
    rcases List.mem_append.mp (hes ▸ he) with hold | hone
    · simp [GbEntry.fills, hother e hold]
    · have hlen := GbEntry.length_merge_le ⟨lk, [], []⟩ x.k bs
      rw [List.mem_singleton.mp hone]
      simp [GbEntry.fills] at hlen ⊢
      omega
  rw [hstore]
  exact ⟨hgathers, hregs _⟩

/-- A store within one line of Canopy goes to the gather buffer whole. -/
theorem storeKept_canopy {w : W} {nd k : Nat} {g : Tgt} {bs : List (Nat × Byte)} (hlevel : g.level = 2) (hdram : g.dram = false) (hne : bs ≠ [])
    (hin : ∀ b ∈ bs, g.key + b.1 < lineKey g.key + 256) :
    w.storeKept nd k g bs = w.gatherStore nd k (lineKey g.key) (inLine g.key (lineKey g.key) bs) := by
  have hfirst : bs.filter (fun b => g.key + b.1 < lineKey g.key + 256) = bs :=
    List.filter_eq_self.mpr fun b hb => decide_eq_true (hin b hb)
  have hrest : bs.filter (fun b => lineKey g.key + 256 ≤ g.key + b.1) = [] :=
    List.filter_eq_nil_iff.mpr fun b hb => by simpa using hin b hb
  have hsome : bs.isEmpty = false := by simpa using hne
  unfold W.storeKept
  simp only [hsome, hdram, hlevel, hfirst, hrest, if_true, if_false, Bool.false_eq_true, List.isEmpty_nil]
  rfl

/-! The statement. -/

/-- The widths of the plain stores. -/
theorem plainStores_width {op : Op} {n : Nat} (hop : (op, n) ∈ plainStores) : 0 < n ∧ n < 256 := by
  simp only [plainStores, List.mem_cons, Prod.mk.injEq, List.not_mem_nil, or_false] at hop
  omega

/-- A plain store that acts stores a byte: the first, or the first of an enabled lane (R130). -/
theorem stored_some {op : Op} {n : Nat} {sl : Slot} {c : Ctl} {q : Nat} (hop : (op, n) ∈ plainStores) (hon : c.active q ⟨op, sl⟩ = true) :
    ∃ j < n, (c.stored q ⟨op, sl⟩ j).isSome := by
  simp only [plainStores, List.mem_cons, Prod.mk.injEq, List.not_mem_nil, or_false] at hop
  rcases hop with ⟨rfl, rfl⟩ | ⟨rfl, rfl⟩ | ⟨rfl, rfl⟩ | ⟨rfl, rfl⟩
  · exact ⟨0, by omega, rfl⟩
  · have hguard : c.guard q sl ≠ 0 := by simpa [Ctl.active, Op.perLane] using hon
    obtain ⟨l, hl, hbit⟩ : ∃ l < 64, (c.guard q sl).getLsbD l = true := by
      by_contra hnone
      push Not at hnone
      exact hguard (BitVec.eq_of_getLsbD_eq fun l hl => by simpa using hnone l hl)
    exact ⟨2 * l, by omega, by simp [Ctl.stored, hbit]⟩
  · exact ⟨0, by omega, rfl⟩
  · exact ⟨0, by omega, rfl⟩

theorem bytesAt_ne_nil {n : Nat} {f : Nat → Option Byte} (h : ∃ j < n, (f j).isSome) : bytesAt n f ≠ [] := by
  obtain ⟨j, hj, hf⟩ := h
  obtain ⟨b, hb⟩ := Option.isSome_iff_exists.mp hf
  exact List.ne_nil_of_mem (a := (j, b)) (List.mem_filterMap.mpr ⟨j, List.mem_range.mpr hj, by simp [hb]⟩)

theorem length_bytesAt_le (n : Nat) (f : Nat → Option Byte) : (bytesAt n f).length ≤ n :=
  (List.length_filterMap_le ..).trans (List.length_range ..).le

theorem pcAddr_lt {x : At} (hq : x.q < 136) : x.pcAddr < 0x100000 := by
  have hbase : stdBase (x.q / 8) ≤ 0xF8000 := by unfold stdBase; split <;> omega
  show stdBase (x.q / 8) + 0x100 + 0x40 * (x.q % 8) < 0x100000
  omega

/-- A store that entered the gather buffer: the bundle completes and leaves the buffer and the count of merges as the store did. -/
theorem gathers_completes {s : State} {x : At} {i : Issued} {k : Fin 128} {g : Tgt} {es : List GbEntry} {r : W} (hk : x.k = k.val)
    (h : Issues s x i) (hfx : fx (begun s x i) x i (begun s x i) = r) (hr : Gathers x es (storing s x i g) r) :
    Completes (onHw s (fun w => w.slot k.val i)) (fun t => TileActs x false [R.cnpGbMerge] s t ∧ SameFiles s t ∧ t.hw.mem = s.hw.mem ∧
      t.hw.ctl.gather x.n = es ∧ t.hw.ctl.get F.cnpGbMergeCount = r.ctl.get F.cnpGbMergeCount) := by
  obtain ⟨-, hq, -⟩ := atCore_q h.core
  have hpc := pcAddr_lt hq
  have hsame := sameButCores_storing s x i g
  have hmem : r.mem = s.hw.mem := hr.mem.trans (by unfold storing; split <;> rfl)
  have hacts : r.acts = [] := hr.acts.trans (by unfold storing; split <;> rfl)
  have hsound : r.Sound s.hw.mem := by
    rw [W.Sound, hmem, hacts]
    rfl
  refine (effect_completes hk h hfx hsound ((effect_storing s i g).trans hr.effect) (by decide)).imp fun t ⟨hacts, hleft⟩ => ?_
  obtain ⟨ts, tv, ta, tp⟩ := hleft.files (s := s) i (by rw [hr.fab]; exact hsame.files)
  exact ⟨hacts, sameFiles_of ts tv tp ta, hleft.mem.trans hmem, (hleft.gather _).trans hr.gather,
    Ctl.get_of_rd (hleft.rd _ (hpc.trans_le (by decide)).ne')⟩

/-- The count of merges, and the gather buffer, as a store of the bundle's slot finds them. -/
theorem storing_gather {s : State} {x : At} (h : s.hw.ctl.atCore x.k = some x) (i : Issued) (g : Tgt) :
    (storing s x i g).ctl.gather x.n = s.hw.ctl.gather x.n ∧
      (storing s x i g).ctl.get F.cnpGbMergeCount = s.hw.ctl.get F.cnpGbMergeCount := by
  have hsame := sameButCores_storing s x i g
  obtain ⟨-, hq, -⟩ := atCore_q h
  have hissue := issueAddr_lt hq
  refine ⟨?_, (Ctl.get_of_regs hsame.regs _).trans (Ctl.get_of_rd (begun_rd s x i (hissue.trans_le (by decide)).ne' (by decide)))⟩
  rw [Ctl.gather, hsame.cnp]
  exact begun_gather s x i x.n

/-- Settles O25: the store enters the gather buffer whole, merging into the line's entry or as a new one. -/
theorem storesGather : Obligations.StoresGather := by
  unfold Obligations.StoresGather
  intro k op n sl s x g hk c i ln held now hop h hon hgoes hlands hlevel hdram hline hroom hfull
  obtain ⟨hpos, hwidth⟩ := plainStores_width hop
  obtain ⟨hgather, hcount⟩ := storing_gather h.core i g
  have hln : ln ≤ g.key := Nat.sub_le ..
  have hnow (old j : Nat) : now old j = if g.key ≤ ln + j ∧ ln + j < g.key + n then
      ((c.stored x.q i (ln + j - g.key)).map BitVec.toNat).getD old else old := by
    refine ite_congr rfl (fun _ => ?_) fun _ => rfl
    cases c.stored x.q i (ln + j - g.key) <;> rfl
  have hfx : fx (begun s x i) x i (begun s x i) =
      (storing s x i g).gatherStore x.n x.k ln (inLine g.key ln (bytesAt n (c.stored x.q i))) := by
    rw [fx_plainStore hop hon, storeAt, begun_ea, hgoes]
    refine (W.store_lands (fun b hb => lt_of_mem_bytesAt hb) (lands_storing hlands)).trans ?_
    refine storeKept_canopy hlevel hdram (bytesAt_ne_nil (stored_some hop hon)) fun b hb => ?_
    have := lt_of_mem_bytesAt hb
    omega
  have hlen : (inLine g.key ln (bytesAt n (c.stored x.q i))).length ≤ n := by
    rw [inLine, List.length_map]
    exact length_bytesAt_le ..
  rw [exec_instr]
  by_cases hheld : held = true
  · obtain ⟨hgathers, hmerges⟩ := gatherStore_held (x := x) (w := storing s x i g) (lk := ln)
      (bs := inLine g.key ln (bytesAt n (c.stored x.q i))) (by rw [hgather]; exact hheld) (fun e he hl => by
        rw [hgather] at he
        have := hfull e he hl
        omega)
    refine (gathers_completes hk h hfx hgathers).imp fun t ⟨hacts, hfiles, hmem, hbuf, hget⟩ => ⟨hacts, hfiles, hmem, ?_⟩
    rw [if_pos hheld]
    refine ⟨?_, _, by rw [hbuf, hgather], fun e he => if_neg (by simpa using he), fun e he => ?_⟩
    · rw [Counts, hget, hmerges, hcount]
    · simp only [he, beq_self_eq_true, if_true]
      refine ⟨he, e.mem_cores_merge _ _, fun j => ?_⟩
      rw [hnow, ← e.mget_merge x.k hln]
  · obtain ⟨hgathers, hkept⟩ := gatherStore_new (x := x) (w := storing s x i g) (lk := ln)
      (bs := inLine g.key ln (bytesAt n (c.stored x.q i))) (by rw [hgather]; exact Bool.eq_false_iff.mpr hheld)
      (by rw [hgather]; exact hroom.resolve_left hheld) (by omega)
    refine (gathers_completes hk h hfx hgathers).imp fun t ⟨hacts, hfiles, hmem, hbuf, hget⟩ => ⟨hacts, hfiles, hmem, ?_⟩
    rw [if_neg hheld]
    refine ⟨hget.trans (hkept.trans hcount), _, by rw [hbuf, hgather], rfl, rfl, fun j => ?_⟩
    rw [hnow, GbEntry.mget_merge _ x.k hln]
    rfl

end Sys2Proof.Machine
end

section
/-! What a flush of the gather buffer writes (05_memory_hierarchy.md R171). -/

namespace Sys2Proof.Machine

/-- The byte a gather entry holds at an offset of its line, if its enable is set there. -/
def GbEntry.byte (e : GbEntry) (o : Nat) : Option Byte :=
  if mget 256 e.bytes o != 256 then some (BitVec.ofNat 8 (mget 256 e.bytes o)) else none

theorem GbEntry.getD_byte (e : GbEntry) (o : Nat) (b : Byte) :
    (e.byte o).getD b = if mget 256 e.bytes o ≠ 256 then BitVec.ofNat 8 (mget 256 e.bytes o) else b := by
  unfold GbEntry.byte
  by_cases h : mget 256 e.bytes o = 256 <;> simp [h]

/-- Bytes at the offsets a condition picks, put one at a time. -/
theorem puts_filter (w : W) (k n : Nat) (p : Nat → Bool) (b : Nat → Byte) :
    ((List.range n).filter p).foldl (fun w j => w.act (.put (k + j) [b j])) w =
      w.puts k (bytesAt n (fun j => if p j then some (b j) else none)) := by
  have hbytes : bytesAt n (fun j => if p j then some (b j) else none) = ((List.range n).filter p).map (fun j => (j, b j)) := by
    rw [bytesAt, ← List.filterMap_eq_map, List.filterMap_filter]
    exact List.filterMap_congr fun j _ => by by_cases hp : p j <;> simp [hp]
  rw [hbytes, W.puts, List.foldl_map]

/-- A word flushed, whole or by a merge, reads as if the bytes the entry holds in it were put one at a time. -/
theorem rd_flushWord (w : W) (e : GbEntry) (pend : Bool) (i a : Nat) : (w.flushWord e pend i).mem.rd a =
    (w.puts (e.line + 32 * i) (bytesAt 32 (fun j => e.byte (32 * i + j)))).mem.rd a := by
  have hputs := puts_filter w (e.line + 32 * i) 32 (fun j => mget 256 e.bytes (32 * i + j) != 256)
    (fun j => BitVec.ofNat 8 (mget 256 e.bytes (32 * i + j)))
  unfold W.flushWord
  dsimp only
  generalize hen : (List.range 32).filter (fun j => mget 256 e.bytes (32 * i + j) != 256) = en at hputs
  split
  next hnil =>
    rw [List.isEmpty_iff.mp hnil] at hputs
    exact congrArg (fun v : W => v.mem.rd a) hputs
  next =>
    simp only [apply_ite W.mem, W.on_mem, ite_self]
    split
    next hfull =>
      have hall : ∀ j < 32, e.byte (32 * i + j) = some (BitVec.ofNat 8 (mget 256 e.bytes (32 * i + j))) := by
        rw [← hen] at hfull
        intro j hj
        exact if_pos (List.length_filter_eq_length_iff.mp hfull j (List.mem_range.mpr hj))
      refine (MAct.rd_put ..).trans (Eq.trans ?_ (W.rd_puts ..).symm)
      rw [List.length_map, List.length_range]
      refine ite_congr rfl (fun h => ?_) (fun _ => rfl)
      rw [hall _ (by omega)]
      simp [show a - (e.line + 32 * i) < 32 by omega]
    next => exact congrArg (fun v : W => v.mem.rd a) hputs

/-- The first n words of an entry flushed write the bytes it holds in them. -/
theorem rd_flushWords (w : W) (e : GbEntry) (pend : Bool) (a : Nat) : ∀ n,
    ((List.range n).foldl (fun v i => v.flushWord e pend i) w).mem.rd a =
      if e.line ≤ a ∧ a < e.line + 32 * n then (e.byte (a - e.line)).getD (w.mem.rd a) else w.mem.rd a := by
  intro n
  induction n with
  | zero => exact (if_neg (by omega)).symm
  | succ n ih =>
    rw [List.range_succ, List.foldl_append, List.foldl_cons, List.foldl_nil, rd_flushWord, W.rd_puts, ih]
    by_cases hlast : e.line + 32 * n ≤ a ∧ a < e.line + 32 * n + 32
    · rw [if_pos hlast, if_neg (by omega), if_pos (by omega), show 32 * n + (a - (e.line + 32 * n)) = a - e.line by omega]
    · rw [if_neg hlast]
      exact if_congr (by omega) rfl rfl

/-- An entry flushed writes the bytes it holds, at its line, and no other (R171). -/
theorem rd_flushEntry (w : W) (e : GbEntry) (a : Nat) : (w.flushEntry e).mem.rd a =
    if e.line ≤ a ∧ a < e.line + 256 then (e.byte (a - e.line)).getD (w.mem.rd a) else w.mem.rd a :=
  rd_flushWords w e (w.mem.pendingAt e.line) a 8

/-- A FENCE of a core that wrote the stand's only entry flushes that entry and leaves the buffer empty (R139, R170). -/
theorem fence_single {w : W} {n k : Nat} {e : GbEntry} (h : w.ctl.gather n = [e]) (hk : k ∈ e.cores) :
    w.fence n k = (w.on (fun c => c.gatherSet n [])).flushEntry e := by
  unfold W.fence W.flushWhere
  simp [h, hk]

/-- Settles O26: the FENCE flushes the buffer's one entry (`fence_single`), which writes the bytes it holds (`rd_flushEntry`). -/
theorem flushWrites : Obligations.FlushWrites := by
  unfold Obligations.FlushWrites
  intro k sl s x e hk h hg hone hcore
  have hfx : fx (begun s x ⟨.fence, sl⟩) x ⟨.fence, sl⟩ (begun s x ⟨.fence, sl⟩) = (begun s x ⟨.fence, sl⟩).fence x.n x.k :=
    if_pos ((begun_guard0 ..).trans hg)
  have hfence := fence_single ((begun_gather s x ⟨.fence, sl⟩ x.n).trans hone) hcore
  obtain ⟨-, hgather, -, -⟩ := flushWhere_frame (begun s x ⟨.fence, sl⟩) x.n (fun e => e.cores.contains x.k)
  rw [begun_gather, hone] at hgather
  refine (effect_completes hk h hfx ((sound_begun s x _).flushWhere _ _) (effect_flushWhere _ _) (by decide)).imp
    fun t ⟨hacts, hleft⟩ => ?_
  obtain ⟨ts, tv, ta, tp⟩ := hleft.files (s := s) ⟨.fence, sl⟩ (flushWhere_files ..)
  refine ⟨?_, hacts.done, sameFiles_of ts tv tp ta, fun a => ?_⟩
  · rw [hleft.gather, W.fence, hgather]
    simp [hcore]
  · rw [hleft.mem, hfence, rd_flushEntry, GbEntry.getD_byte]
    simp only [ite_and]
    rfl

end Sys2Proof.Machine
end

section
/-! Accumulate-on-write (05_memory_hierarchy.md R165, R168, Table 5.9). -/

namespace Sys2Proof.Machine

/-! The values a put spells. -/

/-- Values of w bytes each put one after another read back one by one. -/
theorem rdN_put_values (m : Mem) (k : Nat) {w n j : Nat} (hw : 0 < w) (v : Nat → Nat) (hj : j < n) :
    (MAct.apply m (.put k ((List.range n).flatMap (fun r => toBytes w (v r))))).rdN (k + w * j) w = toBytes w (v j) := by
  obtain ⟨hlen, hnth⟩ := nth_flatMap_toBytes hw v n
  have hfit : w * j + w ≤ n * w := by
    rw [← Nat.mul_succ, Nat.mul_comm n w]
    exact Nat.mul_le_mul_left w hj
  refine List.map_congr_left fun b hb => ?_
  have hb := List.mem_range.mp hb
  rw [MAct.rd_put, hlen, if_pos (by omega), show k + w * j + b - k = w * j + b by omega]
  refine (hnth _ (by omega)).trans ?_
  rw [Nat.mul_add_div hw, Nat.div_eq_of_lt hb, Nat.add_zero, Nat.mul_add_mod, Nat.mod_eq_of_lt hb, Nat.shiftRight_eq_div_pow, Nat.pow_mul]

/-- The bytes of an accumulate-on-write: 32 elements of two or of four bytes. -/
theorem accBytes_half (old : List Byte) (row : List Word) : accBytes 3 old row = (List.range 32).flatMap (fun j =>
    toBytes 2 (fadd16 (BitVec.ofNat 16 (ofBytes ((old.drop (2 * j)).take 2))) (nth 0 row j)).toNat) := rfl

theorem accBytes_word {code : Nat} (h : code ≠ 3) (old : List Byte) (row : List Word) : accBytes code old row = (List.range 32).flatMap (fun j =>
    toBytes 4 (accOp code (w32 (ofBytes ((old.drop (4 * j)).take 4))) (nth 0 row j)).toNat) := if_neg h

theorem length_accBytes (code : Nat) (old : List Byte) (row : List Word) : (accBytes code old row).length = if code = 3 then 64 else 128 := by
  by_cases h : code = 3
  · rw [h, accBytes_half, (nth_flatMap_toBytes (by omega) _ 32).1]
    rfl
  · rw [accBytes_word h, (nth_flatMap_toBytes (by omega) _ 32).1, if_neg h]

/-- An element of two bytes after the accumulation (R168). -/
theorem half_accumulated (m : Mem) (k : Nat) (row : List Word) {j : Nat} (hj : j < 32) :
    BitVec.ofNat 16 (ofBytes ((MAct.apply m (.put k (accBytes 3 (m.rdN k 64) row))).rdN (k + 2 * j) 2)) =
      fadd16 (BitVec.ofNat 16 (ofBytes (m.rdN (k + 2 * j) 2))) (nth 0 row j) := by
  rw [accBytes_half, rdN_put_values m k (by omega) _ hj, ofBytes_toBytes_toNat (n := 2), rdN_slice m k (by omega)]
  simp

/-- An element of four bytes after the accumulation (R168). -/
theorem word_accumulated (m : Mem) (k : Nat) (row : List Word) {code j : Nat} (hc : code ≠ 3) (hj : j < 32) :
    w32 (ofBytes ((MAct.apply m (.put k (accBytes code (m.rdN k 128) row))).rdN (k + 4 * j) 4)) =
      accOp code (w32 (ofBytes (m.rdN (k + 4 * j) 4))) (nth 0 row j) := by
  rw [accBytes_word hc, rdN_put_values m k (by omega) _ hj, ofBytes_toBytes, rdN_slice m k (by omega)]
  exact BitVec.eq_of_toNat_eq (by simp [w32])

/-! A line written is not pending (R165). -/

theorem Mem.pendingAt_wr_self (m : Mem) (k : Nat) (b : Byte) : (m.wr k b).pendingAt k = false := by
  unfold Mem.pendingAt Mem.wr
  cases isDram k <;> simp

theorem Mem.pendingAt_wr {m : Mem} {k : Nat} (h : m.pendingAt k = false) (j : Nat) (b : Byte) : (m.wr j b).pendingAt k = false := by
  unfold Mem.pendingAt Mem.wr at *
  cases hd : isDram j
  · by_cases hl : lineKey k = lineKey j
    · simp [hl]
    · simpa [mget_mset_ne _ _ _ _ hl] using h
  · simpa using h

theorem Mem.pendingAt_wrN {bs : List Byte} : ∀ {m : Mem} {k : Nat} (_ : m.pendingAt k = false) (j : Nat), (m.wrN j bs).pendingAt k = false := by
  induction bs with
  | nil => exact fun h _ => h
  | cons b t ih => exact fun h j => ih (Mem.pendingAt_wr h j b) (j + 1)

/-- The line at the first byte of a put is no longer pending. -/
theorem MAct.pendingAt_put (m : Mem) (k : Nat) {bs : List Byte} (h : bs ≠ []) : (MAct.apply m (.put k bs)).pendingAt k = false := by
  cases bs with
  | nil => exact absurd rfl h
  | cons b t => exact Mem.pendingAt_wrN (bs := t) (m.pendingAt_wr_self k b) (k + 1)

/-! ST.ACC. -/

/-- The target of an accumulate-on-write lies in no core memory: what the cores run does not matter to it (Table 5.2). -/
theorem xlate_acc_coreSet (c : Ctl) (p : Nat) (v : CoreSt) (q k : Nat) (t : Task) (ea n : Nat) :
    (c.coreSet p v).xlate q k t .acc ea n = c.xlate q k t .acc ea n := by
  unfold Ctl.xlate
  simp only [reduceCtorEq, or_self, and_false, false_and, if_false]
  rfl

/-- The bundle as an accumulate-on-write finds it: its task in the commit section (R177). -/
def committing (s : State) (x : At) (i : Issued) : W := (begun s x i).on (fun c => c.commit x.q)

theorem committing_task {s : State} {x : At} (h : s.hw.ctl.atCore x.k = some x) (i : Issued) :
    ((committing s x i).ctl.core x.q).task = some { x.t with inCommit := true } := by
  rw [committing, W.on_ctl, Ctl.commit_eq (begun_task h i), Ctl.core_coreSet_self]

theorem committing_xlate {s : State} {x : At} {i : Issued} {ea n : Nat} {g : Tgt} (h : s.hw.ctl.atCore x.k = some x)
    (hg : GoesTo s x i .acc ea n g) : (committing s x i).ctl.xlate x.q x.k x.t .acc ea n = some g := by
  rw [committing, W.on_ctl, Ctl.commit_eq (begun_task h i), xlate_acc_coreSet]
  exact hg

/-- What an accumulate-on-write that lands leaves of the work area: the row's bytes put at its target. -/
def accumulated (s : State) (x : At) (i : Issued) (g : Tgt) (n code : Nat) : W :=
  (((committing s x i).on (fun c => c.gatherSet x.n (c.gather x.n))).act
    (.put g.key (accBytes code (s.hw.mem.rdN g.key n) (rowOf (begun s x i) x i)))).clrCount

/-- Where no entry of the gather buffer holds the line and no word detects, the accumulation is one put. -/
theorem accAt_plain {s : State} {x : At} {i : Issued} {g : Tgt} {n : Nat} (code : Nat) (hn : n ≤ 128)
    (hline : ∀ e ∈ (committing s x i).ctl.gather x.n, e.line ≠ lineKey g.key) (hup : i.sl.upset = false)
    (hpoison : ∀ j < 4, s.hw.mem.poisonAt (g.key + 32 * j) = false) :
    fxStAcc.accAt (begun s x i) x i (committing s x i) g n code = accumulated s x i g n code := by
  have hsound : (List.range (n / 32)).filter (fun j => !s.hw.mem.pendingAt g.key &&
      (s.hw.mem.poisonAt (g.key + 32 * j) || (i.sl.upset && j == i.sl.upsetWord))) = [] := by
    refine List.filter_eq_nil_iff.mpr fun j hj => ?_
    have hj := List.mem_range.mp hj
    simp [hup, hpoison j (by omega)]
  unfold fxStAcc.accAt
  rw [flushWhere_none _ _ _ fun e he => beq_eq_false_iff_ne.mpr (hline e he)]
  exact congrArg (List.foldl _ _) hsound

/-- The slot that an accumulate-on-write meets is that of its first byte. -/
theorem fxStAcc_lands {s : State} {x : At} {sl : Slot} {g : Tgt} {n : Nat} (h : s.hw.ctl.atCore x.k = some x)
    (hg0 : s.hw.ctl.guard0 x.q sl = true) (hn : (if fieldGet sl.imm 29 3 = 3 then 64 else 128) = n)
    (hg : GoesTo s x ⟨.stAcc, sl⟩ .acc (s.hw.ctl.ea x.q ⟨.stAcc, sl⟩) n g) (hl : Lands s x ⟨.stAcc, sl⟩ g n) :
    fxStAcc (begun s x ⟨.stAcc, sl⟩) x ⟨.stAcc, sl⟩ (begun s x ⟨.stAcc, sl⟩) =
      fxStAcc.accAt (begun s x ⟨.stAcc, sl⟩) x ⟨.stAcc, sl⟩ (committing s x ⟨.stAcc, sl⟩) g n (fieldGet sl.imm 29 3) := by
  have hpos : 0 < n := by split at hn <;> omega
  obtain ⟨hrefs, hfilled, hlate⟩ := slots_of_parts (c := (begun s x ⟨.stAcc, sl⟩).ctl) (d := (committing s x ⟨.stAcc, sl⟩).ctl)
    (sameButCores_commit ..).regs (sameButCores_commit ..).vid (sameButCores_commit ..).ras
  have hland (r : SlotRef) (href : (committing s x ⟨.stAcc, sl⟩).ctl.refAt g 0 = some r) :
      (committing s x ⟨.stAcc, sl⟩).ctl.filled r = false ∧
        ∀ o j, r = .out o j → (committing s x ⟨.stAcc, sl⟩).ctl.lateTask x.t o = false := by
    obtain ⟨hfill, hdrain⟩ := hl 0 r hpos ((hrefs g 0).symm.trans href)
    exact ⟨(hfilled r).trans hfill, fun o j ho => (hlate x.t o).trans (hdrain o j ho)⟩
  unfold fxStAcc gated
  rw [if_pos ((begun_guard0 ..).trans hg0)]
  dsimp only
  rw [begun_ea, hn, show (begun s x ⟨.stAcc, sl⟩).on (fun c => c.commit x.q) = committing s x ⟨.stAcc, sl⟩ from rfl, committing_xlate h hg]
  dsimp only
  cases hh : g.handle with
  | none => rfl
  | some h =>
    dsimp only
    cases href : (committing s x ⟨.stAcc, sl⟩).ctl.slotRef h g.off with
    | none => rfl
    | some r =>
      obtain ⟨hfill, hdrain⟩ := hland r (by rw [Ctl.refAt, hh]; exact href)
      cases r with
      | out o j => simp [hfill, hdrain o j rfl]
      | _ => simp [hfill]

theorem nth_rowOf (s : State) (x : At) (i : Issued) {j : Nat} (hj : j < 32) :
    nth 0 (rowOf (begun s x i) x i) j = s.hw.ctl.areg x.q i.sl.b.val i.sl.c.val j := by
  rw [rowOf, nth_map_range _ _ hj, begun_areg]

theorem accumulated_mem (s : State) (x : At) (i : Issued) (g : Tgt) (n code : Nat) : (accumulated s x i g n code).mem =
    MAct.apply s.hw.mem (.put g.key (accBytes code (s.hw.mem.rdN g.key n) (rowOf (begun s x i) x i))) := rfl

theorem accumulated_sound (s : State) (x : At) (i : Issued) (g : Tgt) (n code : Nat) : (accumulated s x i g n code).Sound s.hw.mem :=
  (((sound_begun s x i).on _).on _ |>.act _).on _

theorem accumulated_effect (s : State) (x : At) (i : Issued) (g : Tgt) (n code : Nat) :
    Effect x false [R.cnpClrPending] (begun s x i).ctl (accumulated s x i g n code).ctl :=
  ((effect_commit _).trans (effect_gatherSet _ _)).trans ((onlyRegs_put _ F.cnpClrPendingLines _).mono (by simp)).effect

/-- Settles O27: the accumulation is one put of the row's combined elements (`accAt_plain`), which read back one by one. -/
theorem accumulates : Obligations.Accumulates := by
  unfold Obligations.Accumulates
  intro k sl s x g hk c i code n row word half h hg0 hgoes hlands hline hup hpoison
  have hcode : fieldGet sl.imm 29 3 = code := by
    have := sl.imm.isLt
    rw [fieldGet_eq]
    omega
  have hn : (if fieldGet sl.imm 29 3 = 3 then 64 else 128) = n := by rw [hcode]
  have hgather : (committing s x i).ctl.gather x.n = c.gather x.n := by
    rw [committing, W.on_ctl, Ctl.gather_of_cnp (sameButCores_commit ..).cnp]
    exact begun_gather s x i x.n
  have hfx : fx (begun s x i) x i (begun s x i) = accumulated s x i g n code := by
    refine (fxStAcc_lands h.core hg0 hn hgoes hlands).trans ?_
    rw [hcode]
    exact accAt_plain code (by split at hn <;> omega) (by rw [hgather]; exact hline) hup hpoison
  have hlen : (accBytes code (s.hw.mem.rdN g.key n) (rowOf (begun s x i) x i)).length = n := length_accBytes ..
  refine (effect_completes hk h hfx (accumulated_sound ..) (accumulated_effect ..) (by decide)).imp fun t ⟨hacts, hleft⟩ => ?_
  obtain ⟨ts, tv, ta, tp⟩ := hleft.files (s := s) i (sameButCores_commit (begun s x i).ctl x.q).files
  have hmem := hleft.mem.trans (accumulated_mem ..)
  have hword (j : Nat) (hj : j < 32) (h3 : code ≠ 3) : word t j = accOp code (word s j) (row j) := by
    have hn4 : n = 128 := if_neg h3
    simp only [word, row, hmem, hn4, word_accumulated _ _ _ h3 hj, nth_rowOf s x i hj]
    rfl
  refine ⟨hacts, sameFiles_of ts tv tp ta, ?_, fun a ha => ?_, ?_, ?_, fun j hj => ⟨?_, ?_, ?_, ?_, ?_⟩⟩
  · exact (hleft.gather x.n).trans ((Ctl.gather_gatherSet_self ..).trans hgather)
  · rw [hmem, MAct.rd_put, hlen, if_neg (by omega)]
  · rw [hmem]
    refine MAct.pendingAt_put _ _ (List.ne_nil_of_length_pos ?_)
    rw [hlen]
    split at hn <;> omega
  · rw [hleft.core]
    exact committing_task h.core i
  · intro h0
    rw [hword j hj (by omega), h0]
    rfl
  · intro h1
    rw [hword j hj (by omega), h1]
    rfl
  · intro h2
    rw [hword j hj (by omega), h2]
    rfl
  · intro h3
    have hn2 : n = 64 := if_pos h3
    simp only [half, row, hmem, hn2, h3, half_accumulated _ _ _ hj, nth_rowOf s x i hj]
    rfl
  · intro h4
    rw [hword j hj (by omega), h4]
    rfl

end Sys2Proof.Machine
end

section
/-! Canopy's bank conflicts and the frames of the memory services (05_memory_hierarchy.md R154 … R176): an access that waited counts at its
bank, a DRAM line passes the line-cache tags, a detection of a unit posts. -/

namespace Sys2Proof.Machine

theorem Counts.congr {c c' d d' : Ctl} {f : Fld} (h : Counts c d f) (hc : c'.get f = c.get f) (hd : d'.get f = d.get f) : Counts c' d' f := by
  rw [Counts, hc, hd]
  exact h

/-! Bank conflicts (R156, log entry 154). -/

/-- The counters of the 64 banks. -/
def conflictRegs : List Nat := (List.range 64).map R.cnpConflict

theorem mem_conflictRegs (b : Fin 64) : (F.cnpConflictCount b).addr ∈ conflictRegs := List.mem_map.mpr ⟨b, List.mem_range.mpr b.isLt, rfl⟩

/-- The counters of the banks lie in a window of their own. -/
theorem conflictRegs_window {a : Nat} (h : a ∈ conflictRegs) : 0x100100 ≤ a ∧ a < 0x100200 := by
  obtain ⟨b, hb, rfl⟩ := List.mem_map.mp h
  have hb := List.mem_range.mp hb
  show 0x100100 ≤ 0x100100 + 0x4 * b ∧ 0x100100 + 0x4 * b < 0x100200
  omega

/-- From c to d each bank that an access waited at counted once, and no other. -/
def Conflicted (waits : List (Fin 64)) (c d : Ctl) : Prop :=
  (∀ b : Fin 64, b ∈ waits → Counts c d (F.cnpConflictCount b)) ∧
    ∀ b : Fin 64, b ∉ waits → d.get (F.cnpConflictCount b) = c.get (F.cnpConflictCount b)

/-- What counts at the banks is read from their counters alone. -/
theorem Conflicted.congr {waits : List (Fin 64)} {c c' d d' : Ctl} (h : Conflicted waits c d)
    (hc : ∀ a ∈ conflictRegs, c'.rd a = c.rd a) (hd : ∀ a ∈ conflictRegs, d'.rd a = d.rd a) : Conflicted waits c' d' := by
  have hc' (b : Fin 64) : c'.get (F.cnpConflictCount b) = c.get (F.cnpConflictCount b) := Ctl.get_of_rd (hc _ (mem_conflictRegs b))
  have hd' (b : Fin 64) : d'.get (F.cnpConflictCount b) = d.get (F.cnpConflictCount b) := Ctl.get_of_rd (hd _ (mem_conflictRegs b))
  exact ⟨fun b hb => (h.1 b hb).congr (hc' b) (hd' b), fun b hb => by rw [hc', hd', h.2 b hb]⟩

/-- A change outside the banks' counters and their window leaves what they count. -/
theorem Frame.rd_conflictRegs {b : Bool} {ps : List Part} {l : List Nat} {c d : Ctl} (h : Frame b ps l c d)
    (hl : ∀ a ∈ l, a < 0x100100 ∨ 0x100200 ≤ a) : ∀ a ∈ conflictRegs, d.rd a = c.rd a := by
  intro a ha
  obtain ⟨hlo, hhi⟩ := conflictRegs_window ha
  refine h.rd (fun hm => ?_) ?_
  · have := hl a hm
    omega
  · simp [postAddr]
    omega

theorem onlyRegs_conflicts (waits : List (Fin 64)) : ∀ c : Ctl, OnlyRegs (R.dbgSat :: conflictRegs) c (c.conflicts waits) := by
  induction waits with
  | nil => exact OnlyRegs.refl _
  | cons b t ih =>
    refine fun c => ((onlyRegs_bump c (F.cnpConflictCount b) 1).mono fun a ha => ?_).trans (ih _)
    simp only [List.mem_cons, List.not_mem_nil, or_false] at ha
    rcases ha with rfl | rfl
    · exact List.mem_cons_of_mem _ (mem_conflictRegs b)
    · exact List.mem_cons_self

/-- A count at one bank leaves the counters of the others. -/
theorem get_bump_conflict (c : Ctl) {b b' : Fin 64} (h : b' ≠ b) :
    (c.bump (F.cnpConflictCount b) 1).get (F.cnpConflictCount b') = c.get (F.cnpConflictCount b') := by
  have hsat : R.cnpConflict b' ≠ R.dbgSat := by
    have := (conflictRegs_window (mem_conflictRegs b')).2
    exact (this.trans (by decide)).ne
  have hne : R.cnpConflict b' ≠ R.cnpConflict b := by
    intro he
    exact h (Fin.ext (by simpa using he))
  exact Ctl.get_of_rd (Ctl.rd_bump_ne c _ 1 hne hsat)

theorem conflicted_conflicts {waits : List (Fin 64)} : waits.Nodup → ∀ c : Ctl, Conflicted waits c (c.conflicts waits) := by
  induction waits with
  | nil => exact fun _ c => ⟨fun _ hb => absurd hb List.not_mem_nil, fun _ _ => rfl⟩
  | cons b t ih =>
    intro hnodup c
    obtain ⟨hnew, hrest⟩ := List.nodup_cons.mp hnodup
    obtain ⟨hcount, hkeep⟩ := ih hrest (c.bump (F.cnpConflictCount b) 1)
    refine ⟨fun b' hb' => ?_, fun b' hb' => ?_⟩
    · by_cases he : b' = b
      · subst he
        have hsat := (conflictRegs_window (mem_conflictRegs b')).2
        exact (counts_bump c (F.cnpConflictCount b') (by simp) (hsat.trans (by decide)).ne).congr rfl (hkeep b' hnew)
      · exact (hcount b' ((List.mem_cons.mp hb').resolve_left he)).congr (get_bump_conflict c he).symm rfl
    · rw [List.mem_cons, not_or] at hb'
      exact (hkeep b' hb'.2).trans (get_bump_conflict c hb'.1)

/-! The line cache (R157, R158, R160). -/

theorem CacheOnly.frame {c d : Ctl} (h : CacheOnly c d) (b : Bool) : Frame b [.cnp] (R.dbgSat :: lcRegs) c d := by
  obtain ⟨hrd, r, lc, rfl⟩ := h
  have hregs : Frame b [.cnp] (R.dbgSat :: lcRegs) c { c with regs := r } :=
    (show OnlyRegs (R.dbgSat :: lcRegs) c { c with regs := r } from ⟨hrd, r, rfl⟩).frame b |>.mono (by simp) (by simp)
  exact hregs.trans frame_parts

theorem CacheOnly.out {c d : Ctl} (h : CacheOnly c d) : d.out = c.out := by
  obtain ⟨-, r, lc, rfl⟩ := h
  rfl

/-- Of Canopy's controllers the tags alone change. -/
theorem CacheOnly.cnp {c d : Ctl} (h : CacheOnly c d) : ∃ lc, d.cnp = { c.cnp with lc := lc } := by
  obtain ⟨-, r, lc, rfl⟩ := h
  exact ⟨lc, rfl⟩

theorem cacheOnly_lcUnit (c : Ctl) (key n : Nat) (dirty : Bool) : CacheOnly c (c.lcUnit key n dirty) := by
  unfold Ctl.lcUnit
  split
  · exact cacheOnly_lcSpan ..
  · exact CacheOnly.refl c

/-- The count of hits or of misses, as the cache holds the line or not. -/
def Ctl.lcCount (c : Ctl) (addr : Nat) : Fld := if c.cnp.lc.any (fun l => l.addr == addr / 256) then F.cnpLcHitCount else F.cnpLcMissCount

/-- A line touched is the last of the cache. -/
theorem lcTouch_last {c : Ctl} {addr : Nat} (core dirty : Bool) (hb : c.lcBanks ≠ 0) :
    (c.lcTouch addr core dirty).cnp.lc.getLast?.map (·.addr) = some (addr / 256) := by
  unfold Ctl.lcTouch
  rw [if_neg hb]
  cases hf : c.cnp.lc.find? (fun l => l.addr == addr / 256) with
  | some l =>
    have hl : l.addr = addr / 256 := by simpa using List.find?_some hf
    simp [hl]
  | none => simp

/-- Besides write-backs a line touched counts a core's hit or miss and nothing else. -/
theorem lcTouch_counts {c : Ctl} {addr : Nat} (core dirty : Bool) (hb : c.lcBanks ≠ 0) :
    RegsBut [R.dbgSat, R.cnpLcWb] (if core then c.bump (c.lcCount addr) 1 else c) (c.lcTouch addr core dirty) := by
  have hany : c.cnp.lc.any (fun l => l.addr == addr / 256) = (c.cnp.lc.find? (fun l => l.addr == addr / 256)).isSome :=
    Bool.eq_iff_iff.mpr (List.any_eq_true.trans List.find?_isSome.symm)
  rw [Ctl.lcCount, hany]
  cases hf : c.cnp.lc.find? (fun l => l.addr == addr / 256) with
  | some l =>
    rw [Ctl.lcTouch, if_neg hb]
    simp only [hf]
    exact fun _ _ => rfl
  | none =>
    obtain ⟨d, lc, hd, heq⟩ := lcTouch_miss core dirty hb hf
    rw [heq]
    rcases hd with rfl | ⟨v, rfl⟩
    · exact fun _ _ => rfl
    · intro a ha
      simp only [List.mem_cons, List.not_mem_nil, or_false, not_or] at ha
      show (Ctl.evict _ v).rd a = _
      unfold Ctl.evict
      cases v.dirty with
      | false => rfl
      | true => exact Ctl.rd_bump_ne _ F.cnpLcWbCount 1 ha.2 ha.1

/-- From c to d a DRAM line went over its channel, and DRC_LECC counted where its link ECC corrected it (R160). -/
def LineSent (write : Bool) (addr : Nat) (lecc : Bool) (c d : Ctl) : Prop :=
  d.out = c.out ++ [.dramLine write (addr / 256 % 16) (addr / 256 * 256)] ∧
    (lecc = true → Counts c d F.drcLeccCount) ∧ (lecc = false → d.get F.drcLeccCount = c.get F.drcLeccCount)

/-- What goes over a channel is read from the outputs and from DRC_LECC alone. -/
theorem LineSent.congr {write lecc : Bool} {addr : Nat} {c c' d d' : Ctl} (h : LineSent write addr lecc c d) (hc : c'.out = c.out)
    (hcr : c'.rd R.drcLecc = c.rd R.drcLecc) (hd : d'.out = d.out) (hdr : d'.rd R.drcLecc = d.rd R.drcLecc) : LineSent write addr lecc c' d' := by
  have hc' : c'.get F.drcLeccCount = c.get F.drcLeccCount := Ctl.get_of_rd hcr
  have hd' : d'.get F.drcLeccCount = d.get F.drcLeccCount := Ctl.get_of_rd hdr
  obtain ⟨hout, hcount, hkeep⟩ := h
  exact ⟨by rw [hc, hd, hout], fun hl => (hcount hl).congr hc' hd', fun hl => by rw [hc', hd', hkeep hl]⟩

theorem lineSent_dramLine (c : Ctl) (write : Bool) (addr : Nat) (lecc : Bool) : LineSent write addr lecc c (c.dramLine write addr lecc) := by
  cases lecc with
  | false => exact ⟨rfl, nofun, fun _ => rfl⟩
  | true => exact ⟨congrArg (· ++ _) (Ctl.out_bump c F.drcLeccCount 1), fun _ => counts_bump c F.drcLeccCount (by decide) (by decide), nofun⟩

theorem frame_dramLine (c : Ctl) (write : Bool) (addr : Nat) (lecc : Bool) :
    Frame false [.out] [R.drcLecc, R.dbgSat] c (c.dramLine write addr lecc) := by
  have hemit (d : Ctl) (o : Output) : Frame false [.out] [R.drcLecc, R.dbgSat] d (d.emit o) := (frame_emit false d o).mono (by simp) (by simp)
  cases lecc with
  | false => exact hemit ..
  | true => exact (((onlyRegs_bump c F.drcLeccCount 1).frame false).mono (by simp) (by simp)).trans (hemit ..)

/-! A detection of a unit (R176). -/

/-- The registers of a detection. -/
def detRegs : List Nat := [R.cnpDetCount, R.cnpDetAddr, R.cnpDetSrc]

theorem frame_wr (b : Bool) (c : Ctl) (a : Nat) (v : Word) : Frame b [] [a] c (c.wr a v) :=
  (show OnlyRegs [a] c (c.wr a v) from ⟨fun _ h => Ctl.rd_wr_ne c v (by simpa using h), _, rfl⟩).frame b

theorem frame_detPost (c : Ctl) (key core : Nat) (a src : Word) : Frame true [.fab] detRegs c (c.detPost key core a src) := by
  have hrepair : Frame true [.fab] detRegs c (if c.residentKey key then c.repairLater 2 key a core else c) := by
    split
    · exact frame_parts
    · exact Frame.refl ..
  have hcount (d : Ctl) : Frame true [.fab] detRegs d (d.bump F.cnpDetCountCanopy 1) := (frame_bump d F.cnpDetCountCanopy 1).mono (by simp) (by simp [detRegs])
  have haddr (d : Ctl) : Frame true [.fab] detRegs d (d.wr R.cnpDetAddr a) := (frame_wr true d _ _).mono (by simp) (by simp [detRegs])
  have hsrc (d : Ctl) : Frame true [.fab] detRegs d (d.wr R.cnpDetSrc src) := (frame_wr true d _ _).mono (by simp) (by simp [detRegs])
  have hpost (d : Ctl) : Frame true [.fab] detRegs d (d.event evDetErr 0x4000 a src) :=
    (posted_event d _ _ _ _ (by decide)).frame.mono (by simp) (by simp)
  unfold Ctl.detPost
  exact (((hrepair.trans (hcount _)).trans (haddr _)).trans (hsrc _)).trans (hpost _)

theorem canopyKey_low {o : Nat} (h : o < 0x10000000) : isDram (canopyKey o) = false := by
  unfold isDram canopyKey
  exact decide_eq_false (by omega)

/-- A unit's read brings the bytes that memory holds. -/
theorem unitRead_snd (w : W) (k n : Nat) : (w.unitRead k n).2 = w.mem.rdN k n := by
  unfold W.unitRead
  dsimp only
  split
  · rw [W.on_mem]
  · rfl

/-- A unit's read outside DRAM changes no more than a detection does. -/
theorem unitRead_detects (w : W) {k : Nat} (h : isDram k = false) (n : Nat) : Frame true [.fab] detRegs w.ctl (w.unitRead k n).1.ctl ∧
    (w.unitRead k n).1.mem = w.mem ∧ (w.unitRead k n).1.acts = w.acts := by
  have hlc (c : Ctl) : c.lcUnit k n false = c := by rw [Ctl.lcUnit, h, if_neg Bool.false_ne_true]
  obtain ⟨v, hv, hread⟩ := unitRead_fst w k n
  rw [hread, W.on_ctl, hlc, W.on_mem, W.on_acts]
  rcases hv with rfl | ⟨j, rfl⟩
  · exact ⟨Frame.refl .., rfl, rfl⟩
  · exact ⟨frame_detPost .., W.on_mem .., W.on_acts ..⟩

end Sys2Proof.Machine
end

section
/-! The Canopy partition, Clearing, the line cache, refresh and the aperture (05_memory_hierarchy.md R154 … R173). -/

namespace Sys2Proof.Machine

/-! A command with one act on the memories. -/

theorem W.on_mk (c : Ctl) (m : Mem) (as : List MAct) (f : Ctl → Ctl) : (W.mk c m as).on f = ⟨f c, m, as⟩ := rfl

theorem W.actC_mk (c : Ctl) (m : Mem) (as : List MAct) (a : MAct) :
    (W.mk c m as).actC a = ⟨c.put F.cnpClrPendingLines (MAct.apply m a).clrPending, MAct.apply m a, a :: as⟩ := rfl

theorem completes_onHw_act {s : State} {f : W → W} {d : Ctl} {a : MAct} {P : State → Prop}
    (hf : f ⟨s.hw.ctl, s.hw.mem, []⟩ = ⟨d, MAct.apply s.hw.mem a, [a]⟩) (h : P ⟨⟨d, MAct.apply s.hw.mem a⟩, s.pending⟩) :
    Completes (onHw s f) P := ⟨_, onHw_eq s f _ hf, h⟩

/-! The partition (R154, R155). -/

/-- Whether a Canopy handle is valid. -/
def Ctl.canopyHeld (c : Ctl) : Bool := (List.range 256).any (fun h => c.on (F.cnpHtW0Valid h) && !c.on (F.cnpHtW0Target h))

theorem Ctl.canopyHeld_iff (c : Ctl) : c.canopyHeld = true ↔ ∃ e < 256, c.on (F.cnpHtW0Valid e) = true ∧ c.on (F.cnpHtW0Target e) = false := by
  simp [canopyHeld]

theorem partOk_eq_false_iff (v : Word) : partOk v = false ↔ v.getLsbD 0 = true ∧
    (fieldGet v 4 6 = 0 ∨ fieldGet v 10 6 = 0 ∨ 64 ≤ 2 * min 4 (fieldGet v 1 3) + fieldGet v 4 6 + fieldGet v 10 6) := by
  unfold partOk
  dsimp only
  cases v.getLsbD 0 with
  | false => simp
  | true =>
    simp only [Bool.not_true, Bool.false_or, true_and, Bool.and_eq_false_iff, bne_eq_false_iff_eq, decide_eq_false_iff_not, Nat.not_lt]
    omega

theorem cnpCfgWrite_ignored {c : Ctl} {v : Word} (h : c.canopyHeld = true ∨ partOk v = false) :
    c.cnpCfgWrite v = c.put F.cnpStatusCfgIgn 1 := by
  refine if_pos ?_
  rcases h with h | h
  · exact Bool.or_eq_true_iff.mpr (.inl h)
  · exact Bool.or_eq_true_iff.mpr (.inr (by rw [h]; rfl))

/-- A partition taken: CNP_CFG holds it, and a new line-cache size starts the line cache anew. -/
theorem cnpCfgWrite_taken {c : Ctl} {v : Word} (hh : c.canopyHeld = false) (hp : partOk v = true) :
    (c.cnpCfgWrite v).rd R.cnpCfg = v &&& 0xFFFF ∧ Frame false [.cnp] [R.cnpCfg, R.cnpLcWb, R.dbgSat] c (c.cnpCfgWrite v) := by
  have hset : Frame false [.cnp] [R.cnpCfg, R.cnpLcWb, R.dbgSat] c (c.wr R.cnpCfg (v &&& 0xFFFF)) := (frame_wr ..).mono (by simp) (by simp)
  rw [Ctl.cnpCfgWrite, if_neg (by rw [hp]; simpa [Ctl.canopyHeld] using hh)]
  dsimp only
  split
  · exact ⟨Ctl.rd_wr_self .., hset⟩
  · refine ⟨(Ctl.rd_bump_ne _ F.cnpLcWbCount _ (by decide) (by decide)).trans (Ctl.rd_wr_self ..), ?_⟩
    exact hset.trans ((((onlyRegs_bump _ F.cnpLcWbCount _).frame false).mono (by simp) (by simp)).trans frame_parts)

/-! Clearing (R166). -/

theorem pendingAt_clear_self (m : Mem) (k : Nat) : (MAct.apply m (.clear k)).pendingAt k = false := by
  unfold MAct.apply
  dsimp only
  split
  · simp [Mem.pendingAt]
  · next h => simpa using h

theorem pendingAt_clear_ne (m : Mem) {k b : Nat} (h : lineKey b ≠ lineKey k) : (MAct.apply m (.clear k)).pendingAt b = m.pendingAt b := by
  unfold MAct.apply
  dsimp only
  split
  · simp only [Mem.pendingAt, mget_mset_ne _ _ _ _ h]
  · rfl

/-- The count of pending lines after an act and before the bank conflicts of the access, the conflicts counted after it. -/
theorem counted_conflicted {waits : List (Fin 64)} (hnodup : waits.Nodup) (c : Ctl) (n : Nat) :
    ((c.put F.cnpClrPendingLines n).conflicts waits).get F.cnpClrPendingLines = n % 2 ^ 21 ∧
    Conflicted waits c ((c.put F.cnpClrPendingLines n).conflicts waits) ∧
    Frame false [] (R.cnpClrPending :: R.dbgSat :: conflictRegs) c ((c.put F.cnpClrPendingLines n).conflicts waits) := by
  have hput : Frame false [] [R.cnpClrPending] c (c.put F.cnpClrPendingLines n) := frame_put ..
  have hwait := (onlyRegs_conflicts waits (c.put F.cnpClrPendingLines n)).frame false
  have hout : R.cnpClrPending ∉ R.dbgSat :: conflictRegs := by
    rw [List.mem_cons, not_or]
    exact ⟨by decide, fun h => absurd (conflictRegs_window h).1 (by decide)⟩
  refine ⟨(hwait.get hout (by decide)).trans (Ctl.get_put_self c F.cnpClrPendingLines n (by decide)), ?_, ?_⟩
  · exact (conflicted_conflicts hnodup _).congr (fun a ha => (hput.rd_conflictRegs (by decide) a ha).symm) fun _ _ => rfl
  · exact (hput.mono (by simp) (by simp)).trans (hwait.mono (by simp) (by simp))

theorem clearingWrite_clears {s : State} {waits : List (Fin 64)} {k : Nat} (hr : s.hw.ctl.running = true) (hnodup : waits.Nodup)
    (hk : s.hw.mem.nextPending = some k) : Completes (execClearingWrite waits s) (fun t => t.pending = s.pending ∧
      t.hw.mem.pendingAt k = false ∧ (∀ b, lineKey b ≠ lineKey k → t.hw.mem.pendingAt b = s.hw.mem.pendingAt b) ∧
      (∀ b, t.hw.mem.rd b = s.hw.mem.rd b) ∧ t.hw.ctl.get F.cnpClrPendingLines = t.hw.mem.clrPending % 2 ^ 21 ∧
      Conflicted waits s.hw.ctl t.hw.ctl ∧ Frame false [] (R.cnpClrPending :: R.dbgSat :: conflictRegs) s.hw.ctl t.hw.ctl) := by
  unfold execClearingWrite
  refine completes_onHw_act (d := (s.hw.ctl.put F.cnpClrPendingLines (MAct.apply s.hw.mem (.clear k)).clrPending).conflicts waits)
    (a := .clear k) ?_ ?_
  · simp only [hr, hk, W.actC_mk, W.on_mk]
  · exact ⟨rfl, pendingAt_clear_self .., fun _ hb => pendingAt_clear_ne _ hb, MAct.rd_clear _ k, counted_conflicted hnodup _ _⟩

theorem clearingWrite_idle {s : State} (waits : List (Fin 64)) (hk : s.hw.mem.nextPending = none) : execClearingWrite waits s = .next s := by
  unfold execClearingWrite
  refine onHw_eq s _ ⟨s.hw.ctl, s.hw.mem, []⟩ ?_
  dsimp only
  rw [hk]
  cases s.hw.ctl.running <;> rfl

/-! The line cache and DRAM (R157, R160, Table 5.7). -/

/-- A line that comes into the cache is its last, and counts a core's hit or miss. -/
theorem lineCacheFill_fills {c : Ctl} {addr : Nat} (core lecc : Bool) (hb : c.lcBanks ≠ 0) :
    let d := (c.lcTouch addr core false).dramLine false addr lecc
    LineSent false addr lecc c d ∧ d.cnp.lc.getLast?.map (·.addr) = some (addr / 256) ∧
    (∀ f : Fld, f ∈ [F.cnpLcHitCount, F.cnpLcMissCount] → d.get f = (if core then c.bump (c.lcCount addr) 1 else c).get f) ∧
    Frame false [.cnp, .out] (R.drcLecc :: R.dbgSat :: lcRegs) c d := by
  have hcache := cacheOnly_lcTouch c addr core false
  have hline := frame_dramLine (c.lcTouch addr core false) false addr lecc
  have hcnp := hline.1 .cnp (by simp) rfl
  refine ⟨?_, ?_, fun f hf => ?_, ?_⟩
  · exact (lineSent_dramLine ..).congr hcache.out.symm ((hcache.frame false).rd (by decide) (by decide)).symm rfl rfl
  · rw [show _ = _ from hcnp]
    exact lcTouch_last core false hb
  · simp only [List.mem_cons, List.not_mem_nil, or_false] at hf
    rcases hf with rfl | rfl <;>
      exact (hline.get (by decide) (by decide)).trans (Ctl.get_of_rd (lcTouch_counts core false hb _ (by decide)))
  · exact ((hcache.frame false).mono (by simp) (by simp)).trans (hline.mono (by simp) (by simp))

theorem get_hit_bump_miss (c : Ctl) : (c.bump F.cnpLcMissCount 1).get F.cnpLcHitCount = c.get F.cnpLcHitCount :=
  Ctl.get_of_rd (Ctl.rd_bump_ne c F.cnpLcMissCount 1 (by decide) (by decide))

theorem get_miss_bump_hit (c : Ctl) : (c.bump F.cnpLcHitCount 1).get F.cnpLcMissCount = c.get F.cnpLcMissCount :=
  Ctl.get_of_rd (Ctl.rd_bump_ne c F.cnpLcHitCount 1 (by decide) (by decide))

/-- The line cache's tags with one line clean. -/
def Ctl.lineClean (c : Ctl) (line : Nat) : Ctl :=
  { c with cnp := { c.cnp with lc := c.cnp.lc.map (fun (l : LcLine) => if l.addr = line then { l with dirty := false } else l) } }

theorem lineClean_clean {c : Ctl} {line : Nat} : ∀ l ∈ (c.lineClean line).cnp.lc, l.addr = line → l.dirty = false := by
  intro l hl ha
  obtain ⟨l', -, rfl⟩ := List.mem_map.mp hl
  by_cases h : l'.addr = line
  · simp [h]
  · rw [if_neg h] at ha
    exact absurd ha h

/-- A dirty line written back: it goes over its channel, is clean, and counts as a write-back. -/
theorem lineCacheClean_cleans {waits : List (Fin 64)} (hnodup : waits.Nodup) (c : Ctl) (addr : Nat) (lecc : Bool) :
    let d := (((c.lineClean (addr / 256)).bump F.cnpLcWbCount 1).dramLine true addr lecc).conflicts waits
    LineSent true addr lecc c d ∧ Conflicted waits c d ∧ (∀ l ∈ d.cnp.lc, l.addr = addr / 256 → l.dirty = false) ∧
    Counts c d F.cnpLcWbCount ∧ Frame false [.cnp, .out] (R.drcLecc :: R.dbgSat :: lcRegs ++ conflictRegs) c d := by
  have hclean : Frame false [.cnp] [] c (c.lineClean (addr / 256)) := frame_parts
  have hbump := (onlyRegs_bump (c.lineClean (addr / 256)) F.cnpLcWbCount 1).frame false
  have hcount := counts_bump (c.lineClean (addr / 256)) F.cnpLcWbCount (by decide) (by decide)
  have hout := Ctl.out_bump (c.lineClean (addr / 256)) F.cnpLcWbCount 1
  generalize (c.lineClean (addr / 256)).bump F.cnpLcWbCount 1 = c1 at hbump hcount hout
  have hline := frame_dramLine c1 true addr lecc
  have hsent := lineSent_dramLine c1 true addr lecc
  generalize c1.dramLine true addr lecc = c2 at hline hsent
  have hwait := (onlyRegs_conflicts waits c2).frame false
  have hmeet := conflicted_conflicts hnodup c2
  generalize c2.conflicts waits = d at hwait hmeet
  have hc1 : Frame false [.cnp] [R.cnpLcWb, R.dbgSat] c c1 := (hclean.mono (by simp) (by simp)).trans (hbump.mono (by simp) (by simp))
  have hfar (f : Fld) (hf : f.addr ≠ R.dbgSat) (hw : f.addr < 0x100100 ∨ 0x100200 ≤ f.addr) : f.addr ∉ R.dbgSat :: conflictRegs := by
    rw [List.mem_cons, not_or]
    refine ⟨hf, fun h => ?_⟩
    have := conflictRegs_window h
    omega
  refine ⟨?_, ?_, ?_, ?_, ?_⟩
  · exact hsent.congr hout.symm (hc1.rd (by decide) (by decide)).symm (hwait.1 .out (by simp) rfl)
      (hwait.rd (hfar F.drcLeccCount (by decide) (by decide)) (by decide))
  · exact hmeet.congr (fun a ha => ((hline.rd_conflictRegs (by decide) a ha).trans (hc1.rd_conflictRegs (by decide) a ha)).symm) fun _ _ => rfl
  · have hcnp : d.cnp = (c.lineClean (addr / 256)).cnp :=
      Eq.trans (hwait.1 .cnp (by simp) rfl) (Eq.trans (hline.1 .cnp (by simp) rfl) (hbump.1 .cnp (by simp) rfl))
    rw [hcnp]
    exact lineClean_clean
  · refine hcount.congr (Ctl.get_of_rd rfl) ?_
    exact (hwait.get (hfar F.cnpLcWbCount (by decide) (by decide)) (by decide)).trans (hline.get (by decide) (by decide))
  · refine ((hc1.mono (by simp) (by simp [lcRegs])).trans (hline.mono (by simp) (by simp))).trans (hwait.mono (by simp) ?_)
    exact List.cons_subset.mpr ⟨by simp, List.subset_append_right ..⟩

theorem dramRefresh_issues {s : State} {ch : Fin 16} {bank : Fin 32} (postpone : Bool) (hr : s.hw.ctl.running = true)
    (hp : ¬(postpone = true ∧ mget 0 s.hw.ctl.cnp.refresh (32 * ch.val + bank.val) < 8)) :
    CompletesCtl s (execDramRefresh ch bank postpone s) (fun d => d.out = s.hw.ctl.out ++ [.dram 0 ch bank] ∧
      mget 0 d.cnp.refresh (32 * ch.val + bank.val) =
        (if postpone then mget 0 s.hw.ctl.cnp.refresh (32 * ch.val + bank.val) else mget 0 s.hw.ctl.cnp.refresh (32 * ch.val + bank.val) - 1) ∧
      Frame false [.cnp, .out] [] s.hw.ctl d) := by
  unfold execDramRefresh
  refine completesCtl_onCtl ?_
  dsimp only
  rw [hr, if_neg (by decide), if_neg hp]
  exact ⟨rfl, mget_mset_self 0 s.hw.ctl.cnp.refresh _ _, frame_parts⟩

theorem dramRefresh_postpones {s : State} {ch : Fin 16} {bank : Fin 32} (hr : s.hw.ctl.running = true)
    (hp : mget 0 s.hw.ctl.cnp.refresh (32 * ch.val + bank.val) < 8) : CompletesCtl s (execDramRefresh ch bank true s) (fun d =>
      mget 0 d.cnp.refresh (32 * ch.val + bank.val) = mget 0 s.hw.ctl.cnp.refresh (32 * ch.val + bank.val) + 1 ∧
      Frame false [.cnp] [] s.hw.ctl d) := by
  unfold execDramRefresh
  refine completesCtl_onCtl ?_
  dsimp only
  rw [hr, if_neg (by decide), if_pos ⟨rfl, hp⟩]
  exact ⟨by simp, frame_parts⟩

theorem dramRetrain_retunes {s : State} (ch : Fin 16) (hr : s.hw.ctl.running = true) (ht : s.hw.ctl.on F.drcStatusTrained = true) :
    CompletesCtl s (execDramRetrain ch s) (fun d => d.out = s.hw.ctl.out ++ [.dram 1 ch 0] ∧
      d.cnp.retrainNext = (ch.val + 1) % 16 ∧ Frame false [.cnp, .out] [] s.hw.ctl d) := by
  unfold execDramRetrain
  refine completesCtl_onCtl ?_
  dsimp only
  rw [if_pos (by rw [hr, ht]; rfl)]
  exact ⟨rfl, rfl, frame_parts⟩

/-! The aperture (R172). -/

/-- A request that is allowed whole, as its execution tests it. -/
theorem aperture_allowed {c : Ctl} {a len : Nat} {write : Bool} (h : ∀ i < len, c.apertureOk (a + i) write = true) :
    (List.range len).all (fun i => c.apertureOk (a + i) write) = true := List.all_eq_true.mpr fun i hi => h i (List.mem_range.mp hi)

theorem aperture_denied {c : Ctl} {a len : Nat} {write : Bool} (h : ¬∀ i < len, c.apertureOk (a + i) write = true) :
    ¬(List.range len).all (fun i => c.apertureOk (a + i) write) = true :=
  fun hall => h fun i hi => List.all_eq_true.mp hall i (List.mem_range.mpr hi)

/-- A request denied: the violation counts, CNP_AP_LAST holds its address. -/
def Ctl.apertureViol (c : Ctl) (a : Nat) : Ctl := (c.bump F.cnpApViolCount 1).put F.cnpApLastAddr a

theorem apertureViol_counts {waits : List (Fin 64)} (hnodup : waits.Nodup) (c : Ctl) (a : BitVec 28) :
    let d := (c.conflicts waits).apertureViol a.toNat
    (Counts c d F.cnpApViolCount ∧ d.get F.cnpApLastAddr = a.toNat) ∧ Conflicted waits c d ∧ d.out = c.out ∧
    Frame false [] ([R.cnpApViol, R.cnpApLast, R.dbgSat] ++ conflictRegs) c d := by
  have hwait := (onlyRegs_conflicts waits c).frame false
  have hmeet := conflicted_conflicts hnodup c
  generalize c.conflicts waits = c1 at hwait hmeet
  have hbump := (onlyRegs_bump c1 F.cnpApViolCount 1).frame false
  have hcount := counts_bump c1 F.cnpApViolCount (by decide) (by decide)
  generalize hc2 : c1.bump F.cnpApViolCount 1 = c2 at hbump hcount
  have hput := frame_put false c2 F.cnpApLastAddr a.toNat
  have hviol : Frame false [] [R.cnpApViol, R.cnpApLast, R.dbgSat] c1 (c1.apertureViol a.toNat) := by
    rw [Ctl.apertureViol, hc2]
    exact (hbump.mono (by simp) (by simp)).trans (hput.mono (by simp) (by simp))
  have hfar : F.cnpApViolCount.addr ∉ R.dbgSat :: conflictRegs := by
    rw [List.mem_cons, not_or]
    exact ⟨by decide, fun h => absurd (conflictRegs_window h).1 (by decide)⟩
  refine ⟨⟨hcount.congr (hwait.get hfar (by decide)).symm ?_, ?_⟩, ?_, ?_, ?_⟩
  · rw [Ctl.apertureViol, hc2]
    exact hput.get (by decide) (by decide)
  · rw [Ctl.apertureViol, Ctl.get_put_self _ F.cnpApLastAddr _ (by decide)]
    exact Nat.mod_eq_of_lt a.isLt
  · exact hmeet.congr (fun _ _ => rfl) (hviol.rd_conflictRegs (by decide))
  · exact Eq.trans (hviol.1 .out (by simp) rfl) (hwait.1 .out (by simp) rfl)
  · refine (hwait.mono (by simp) ?_).trans (hviol.mono (by simp) (by simp))
    exact List.cons_subset.mpr ⟨by simp, List.subset_append_right ..⟩

section
variable {s : State} {a : BitVec 28} {len : Fin 513} {waits : List (Fin 64)}

/-- A write allowed whole puts its bytes in one act. -/
theorem apertureWrite_puts (data : List Byte) (hr : s.hw.ctl.running = true) (hl : s.hw.ctl.host.linkUp = true) (hnodup : waits.Nodup)
    (hall : ∀ i < len.val, s.hw.ctl.apertureOk (a.toNat + i) true = true) :
    Completes (execApertureAccess true a len data waits s) (fun t => t.pending = s.pending ∧
      (∀ i < len.val, t.hw.mem.rd (canopyKey (a.toNat + i)) = nth 0 data i) ∧
      (∀ b, (b < canopyKey a.toNat ∨ canopyKey (a.toNat + len) ≤ b) → t.hw.mem.rd b = s.hw.mem.rd b) ∧
      Conflicted waits s.hw.ctl t.hw.ctl ∧ Frame false [] (R.cnpClrPending :: R.dbgSat :: conflictRegs) s.hw.ctl t.hw.ctl) := by
  unfold execApertureAccess
  have hkey (i : Nat) : canopyKey (a.toNat + i) = canopyKey a.toNat + i := (Nat.add_assoc ..).symm
  have hwait := (onlyRegs_conflicts waits s.hw.ctl).frame false
  have hput (n : Nat) := frame_put false (s.hw.ctl.conflicts waits) F.cnpClrPendingLines n
  refine completes_onHw_act (a := .put (canopyKey a.toNat) ((List.range len.val).map (nth 0 data)))
    (d := (s.hw.ctl.conflicts waits).put F.cnpClrPendingLines
      (MAct.apply s.hw.mem (.put (canopyKey a.toNat) ((List.range len.val).map (nth 0 data)))).clrPending) ?_ ?_
  · dsimp only
    rw [hr, hl, if_neg (by decide), if_pos (aperture_allowed hall), if_pos rfl, W.on_mk, W.actC_mk]
  refine ⟨rfl, fun i hi => ?_, fun b hb => ?_, ?_, ?_⟩
  · rw [hkey, MAct.rd_put, List.length_map, List.length_range, if_pos (by omega), Nat.add_sub_cancel_left]
    exact nth_map_range 0 _ hi
  · rw [hkey] at hb
    rw [MAct.rd_put, List.length_map, List.length_range, if_neg (by omega)]
  · exact (conflicted_conflicts hnodup _).congr (fun _ _ => rfl) ((hput _).rd_conflictRegs (by decide))
  · exact (hwait.mono (by simp) (by simp)).trans ((hput _).mono (by simp) (by simp))

/-- A read allowed whole answers the bytes that the memory holds. -/
theorem apertureRead_answers (data : List Byte) (hr : s.hw.ctl.running = true) (hl : s.hw.ctl.host.linkUp = true) (hnodup : waits.Nodup)
    (hall : ∀ i < len.val, s.hw.ctl.apertureOk (a.toNat + i) false = true) :
    CompletesCtl s (execApertureAccess false a len data waits s) (fun d => Conflicted waits s.hw.ctl d ∧
      .aperture (s.hw.mem.rdN (canopyKey a.toNat) len) ∈ d.out ∧
      Frame true [.fab] ([R.cnpDetCount, R.cnpDetAddr, R.cnpDetSrc] ++ conflictRegs) s.hw.ctl d) := by
  unfold execApertureAccess
  have hbytes := unitRead_snd ⟨s.hw.ctl.conflicts waits, s.hw.mem, []⟩ (canopyKey a.toNat) len.val
  obtain ⟨hdet, hmem, hacts⟩ := unitRead_detects ⟨s.hw.ctl.conflicts waits, s.hw.mem, []⟩ (canopyKey_low a.isLt) len.val
  generalize hread : (W.mk (s.hw.ctl.conflicts waits) s.hw.mem []).unitRead (canopyKey a.toNat) len.val = r at hbytes hdet hmem hacts
  obtain ⟨⟨d, m, as⟩, bs⟩ := r
  obtain rfl : bs = _ := hbytes
  obtain rfl : m = _ := hmem
  obtain rfl : as = _ := hacts
  refine completesCtl_onHw (d := d.emit (.aperture (s.hw.mem.rdN (canopyKey a.toNat) len))) ?_ ?_
  · dsimp only
    rw [hr, hl, if_neg (by decide), if_pos (aperture_allowed hall), if_neg (by decide)]
    simp only [W.on_mk, hread]
  · have hwait : Frame true [.fab] (detRegs ++ conflictRegs) s.hw.ctl (s.hw.ctl.conflicts waits) := by
      obtain ⟨hparts, hregs⟩ := (onlyRegs_conflicts waits s.hw.ctl).frame true
      refine ⟨fun p _ => hparts p List.not_mem_nil, fun x hx hp => hregs x (fun hm => ?_) hp⟩
      rcases List.mem_cons.mp hm with rfl | hm
      · exact absurd hp (by decide)
      · exact hx (List.mem_append_right _ hm)
    have hemit : Frame true [.fab] (detRegs ++ conflictRegs) d (d.emit (.aperture (s.hw.mem.rdN (canopyKey a.toNat) len))) := by
      obtain ⟨hparts, hregs⟩ := frame_emit true d (.aperture (s.hw.mem.rdN (canopyKey a.toNat) len))
      refine ⟨fun p _ hp => hparts p (fun hm => ?_) hp, fun x _ hp => hregs x List.not_mem_nil hp⟩
      rw [List.mem_singleton] at hm
      subst hm
      exact absurd hp (by decide)
    refine ⟨?_, List.mem_append_right _ List.mem_cons_self, (hwait.trans (hdet.mono (by simp) (List.subset_append_left ..))).trans hemit⟩
    exact (conflicted_conflicts hnodup _).congr (fun _ _ => rfl) (hdet.rd_conflictRegs (by decide))

/-- A request denied: a write is discarded, a read answers zeros. -/
theorem apertureWrite_denied (data : List Byte) (hr : s.hw.ctl.running = true) (hl : s.hw.ctl.host.linkUp = true)
    (hall : ¬∀ i < len.val, s.hw.ctl.apertureOk (a.toNat + i) true = true) {P : Ctl → Prop}
    (h : P ((s.hw.ctl.conflicts waits).apertureViol a.toNat)) : CompletesCtl s (execApertureAccess true a len data waits s) P := by
  unfold execApertureAccess
  refine completesCtl_onHw ?_ h
  dsimp only
  rw [hr, hl, if_neg (by decide), if_neg (aperture_denied hall), if_pos rfl]
  rfl

theorem apertureRead_denied (data : List Byte) (hr : s.hw.ctl.running = true) (hl : s.hw.ctl.host.linkUp = true)
    (hall : ¬∀ i < len.val, s.hw.ctl.apertureOk (a.toNat + i) false = true) {P : Ctl → Prop}
    (h : P (((s.hw.ctl.conflicts waits).apertureViol a.toNat).emit (.aperture (List.replicate len 0)))) :
    CompletesCtl s (execApertureAccess false a len data waits s) P := by
  unfold execApertureAccess
  refine completesCtl_onHw ?_ h
  dsimp only
  rw [hr, hl, if_neg (by decide), if_neg (aperture_denied hall), if_neg (by decide)]
  rfl

end

/-! Revocation (R173). -/

theorem revokeClear_marks {s : State} {k n : Nat} {rest : List (Nat × Nat)} (h : s.hw.ctl.cnp.revoked = (k, n) :: rest) :
    Completes (execRevokeClear s) (fun t => t.pending = s.pending ∧
      (∀ b, k ≤ b → b < k + n → t.hw.mem.rd b = 0) ∧ (∀ b, (b < k ∨ k + n ≤ b) → t.hw.mem.rd b = s.hw.mem.rd b) ∧
      t.hw.ctl.cnp.revoked = rest ∧ (isDram k = false → t.hw.ctl.cnp = { s.hw.ctl.cnp with revoked := rest }) ∧
      Frame false [.cnp] (R.cnpClrPending :: R.dbgSat :: lcRegs) s.hw.ctl t.hw.ctl) := by
  unfold execRevokeClear
  have hpop : Frame false [.cnp] [] s.hw.ctl { s.hw.ctl with cnp := { s.hw.ctl.cnp with revoked := rest } } := frame_parts
  have hcnp : ({ s.hw.ctl with cnp := { s.hw.ctl.cnp with revoked := rest } } : Ctl).cnp = { s.hw.ctl.cnp with revoked := rest } := rfl
  have hwork : (W.mk s.hw.ctl s.hw.mem []).on (fun c => { c with cnp := { c.cnp with revoked := rest } }) =
    ⟨{ s.hw.ctl with cnp := { s.hw.ctl.cnp with revoked := rest } }, s.hw.mem, []⟩ := rfl
  generalize ({ s.hw.ctl with cnp := { s.hw.ctl.cnp with revoked := rest } } : Ctl) = c1 at hpop hcnp hwork
  have hput := frame_put false c1 F.cnpClrPendingLines (MAct.apply s.hw.mem (.mark k n)).clrPending
  refine completes_onHw_act (a := .mark k n)
    (d := (c1.put F.cnpClrPendingLines (MAct.apply s.hw.mem (.mark k n)).clrPending).lcUnit k n true) ?_ ?_
  · simp only [h, hwork, W.actC_mk, W.on_mk]
  generalize c1.put F.cnpClrPendingLines (MAct.apply s.hw.mem (.mark k n)).clrPending = c2 at hput
  have hcnp2 : c2.cnp = { s.hw.ctl.cnp with revoked := rest } := Eq.trans (hput.1 .cnp (by simp) rfl) hcnp
  have hcache := cacheOnly_lcUnit c2 k n true
  obtain ⟨lc, hlc⟩ := hcache.cnp
  refine ⟨rfl, fun b hlo hhi => ?_, fun b hb => ?_, ?_, fun hd => ?_, ?_⟩
  · rw [MAct.rd_mark]
    exact if_pos (decide_eq_true ⟨hlo, hhi⟩)
  · rw [MAct.rd_mark, if_neg (by simp only [inRange, decide_eq_true_eq]; omega)]
  · rw [hlc, hcnp2]
  · rw [Ctl.lcUnit, hd, if_neg Bool.false_ne_true]
    exact hcnp2
  · exact ((hpop.mono (by simp) (by simp)).trans (hput.mono (by simp) (by simp))).trans ((hcache.frame false).mono (by simp) (by simp))

end Sys2Proof.Machine
end

section
/-! Canopy and DRAM: the statement of 05_memory_hierarchy.md (R154 … R173). -/

namespace Sys2Proof.Machine

theorem cnpCfgWrite_refuses {s : State} {v : Word} (hr : s.hw.ctl.running = true) (h : s.hw.ctl.canopyHeld = true ∨ partOk v = false) :
    CompletesCtl s (execCnpCfgWrite v s) (fun d => d.on F.cnpStatusCfgIgn = true ∧ Frame false [] [R.cnpStatus] s.hw.ctl d) := by
  unfold execCnpCfgWrite
  refine completesCtl_onCtl ?_
  rw [if_pos hr, cnpCfgWrite_ignored h]
  exact ⟨Ctl.on_put_one _ (by decide) rfl, frame_put ..⟩

theorem cnpCfgWrite_partitions {s : State} {v : Word} (hr : s.hw.ctl.running = true) (hh : s.hw.ctl.canopyHeld = false) (hp : partOk v = true) :
    CompletesCtl s (execCnpCfgWrite v s) (fun d => d.rd R.cnpCfg = v &&& 0xFFFF ∧
      Frame false [.cnp] [R.cnpCfg, R.cnpLcWb, R.dbgSat] s.hw.ctl d) := by
  unfold execCnpCfgWrite
  refine completesCtl_onCtl ?_
  rw [if_pos hr]
  exact cnpCfgWrite_taken hh hp

theorem dramClearDone_idles {s : State} (h : Fin 256) (hr : s.hw.ctl.running = true) : CompletesCtl s (execDramClearDone h s) (fun d =>
    d.on (F.cnpHtW0Busy h) = false ∧ Frame false [] [R.cnpHtW0 h] s.hw.ctl d) := by
  unfold execDramClearDone
  refine completesCtl_onCtl ?_
  rw [if_pos hr]
  exact ⟨Ctl.on_put_zero _ (by simp), frame_put ..⟩

/-- The counts of a fill: a core's hit, a core's miss, or neither (R157). -/
theorem lineCacheFill_counts {s : State} {addr : Fin 17179869184} (core lecc : Bool) (hr : s.hw.ctl.running = true)
    (ha : addr.val < s.hw.ctl.dramSize) (hb : s.hw.ctl.lcBanks ≠ 0) : CompletesCtl s (execLineCacheFill addr core lecc s) (fun d =>
      LineSent false addr lecc s.hw.ctl d ∧ d.cnp.lc.getLast?.map (·.addr) = some (addr.val / 256) ∧
      (s.hw.ctl.cnp.lc.any (fun l => l.addr == addr.val / 256) = true → core = true →
        Counts s.hw.ctl d F.cnpLcHitCount ∧ d.get F.cnpLcMissCount = s.hw.ctl.get F.cnpLcMissCount) ∧
      (s.hw.ctl.cnp.lc.any (fun l => l.addr == addr.val / 256) = false → core = true →
        Counts s.hw.ctl d F.cnpLcMissCount ∧ d.get F.cnpLcHitCount = s.hw.ctl.get F.cnpLcHitCount) ∧
      (core = false → d.get F.cnpLcHitCount = s.hw.ctl.get F.cnpLcHitCount ∧ d.get F.cnpLcMissCount = s.hw.ctl.get F.cnpLcMissCount) ∧
      Frame false [.cnp, .out] (R.drcLecc :: R.dbgSat :: lcRegs) s.hw.ctl d) := by
  unfold execLineCacheFill
  refine completesCtl_onCtl ?_
  rw [if_pos ⟨hr, ha⟩]
  obtain ⟨hsent, hlast, hget, hframe⟩ := lineCacheFill_fills (c := s.hw.ctl) (addr := addr.val) core lecc hb
  have hhits := hget F.cnpLcHitCount (by simp)
  have hmisses := hget F.cnpLcMissCount (by simp)
  refine ⟨hsent, hlast, fun hhit hcore => ?_, fun hmiss hcore => ?_, fun hcore => ?_, hframe⟩
  · rw [if_pos hcore, Ctl.lcCount, if_pos hhit] at hhits hmisses
    exact ⟨(counts_bump _ _ (by decide) (by decide)).congr rfl hhits, hmisses.trans (get_miss_bump_hit _)⟩
  · rw [if_pos hcore, Ctl.lcCount, if_neg (by rw [hmiss]; decide)] at hhits hmisses
    exact ⟨(counts_bump _ _ (by decide) (by decide)).congr rfl hmisses, hhits.trans (get_hit_bump_miss _)⟩
  · rw [if_neg (by rw [hcore]; decide)] at hhits hmisses
    exact ⟨hhits, hmisses⟩

theorem lineCacheClean_writes {s : State} {addr : Fin 17179869184} {waits : List (Fin 64)} (lecc : Bool) (hr : s.hw.ctl.running = true)
    (hnodup : waits.Nodup) (hd : ∃ l ∈ s.hw.ctl.cnp.lc, l.addr = addr.val / 256 ∧ l.dirty = true) :
    CompletesCtl s (execLineCacheClean addr lecc waits s) (fun d => LineSent true addr lecc s.hw.ctl d ∧ Conflicted waits s.hw.ctl d ∧
      (∀ l ∈ d.cnp.lc, l.addr = addr.val / 256 → l.dirty = false) ∧ Counts s.hw.ctl d F.cnpLcWbCount ∧
      Frame false [.cnp, .out] (R.drcLecc :: R.dbgSat :: lcRegs ++ conflictRegs) s.hw.ctl d) := by
  unfold execLineCacheClean
  refine completesCtl_onCtl ?_
  have hany : (s.hw.ctl.running && s.hw.ctl.cnp.lc.any (fun l => l.addr == addr.val / 256 && l.dirty)) = true := by
    simpa [hr] using hd
  rw [if_pos hany]
  exact lineCacheClean_cleans hnodup s.hw.ctl addr.val lecc

/-- Settles O45: each command by the lemma that says what it does. -/
theorem canopyAndDram : Obligations.CanopyAndDram := by
  unfold Obligations.CanopyAndDram
  intro s v h addr core lecc ch bank a len data waits c held hr hnodup
  have hheld : c.canopyHeld = true ↔ held := c.canopyHeld_iff
  have hbad := partOk_eq_false_iff v
  refine ⟨fun hor => ?_, fun hfree hok => ?_, fun k hk => clearingWrite_clears hr hnodup hk, clearingWrite_idle waits, dramClearDone_idles h hr,
    lineCacheFill_counts core lecc hr, lineCacheClean_writes lecc hr hnodup, ?_, dramRefresh_postpones hr, fun hdue => ?_,
    dramRetrain_retunes ch hr, fun hl => ⟨apertureWrite_puts data hr hl hnodup, apertureRead_answers data hr hl hnodup, fun hno => ?_, fun hno => ?_⟩,
    fun k n rest hrev => revokeClear_marks hrev⟩
  case refine_1 => exact cnpCfgWrite_refuses hr (hor.imp hheld.mpr hbad.mpr)
  case refine_2 => exact cnpCfgWrite_partitions hr (Bool.eq_false_iff.mpr (mt hheld.mp hfree)) (Bool.of_not_eq_false (mt hbad.mp hok))
  case refine_3 => exact dramRefresh_issues false hr (by simp)
  case refine_4 => exact dramRefresh_issues true hr (by simpa using hdue)
  case refine_5 =>
    obtain ⟨hviol, hwait, -, hframe⟩ := apertureViol_counts hnodup c a
    exact apertureWrite_denied data hr hl hno ⟨hviol, hwait, hframe⟩
  case refine_6 =>
    obtain ⟨hviol, hwait, hout, hframe⟩ := apertureViol_counts hnodup c a
    exact apertureRead_denied data hr hl hno ⟨hviol, hwait, congrArg (· ++ _) hout,
      (hframe.mono (by simp) fun _ hm => hm).trans ((frame_emit ..).mono (by simp) (by simp))⟩

end Sys2Proof.Machine
end

section
/-! Bundles that wait (04_stands_and_bundles.md R140; 06_channels_and_semaphores.md R187 … R200): what the effect of a slot may change while
the memories and the gather buffers stay, and how a bundle with one waiting slot settles. -/

namespace Sys2Proof.Machine

/-! Changes that leave the memories and the gather buffers. -/

/-- What the effect of a slot of the core at x may change where no memory and no gather buffer does: d is c but for the registers of l,
those of a posting where it posts, DBG_SAT, the core's own bookkeeping, and the fabric outside cores and dispatch queues. -/
structure Kept (x : At) (posts : Bool) (l : List Nat) (c d : Ctl) : Prop where
  regs : ∀ a, (posts && postAddr a) = false → a ∉ R.dbgSat :: l → d.rd a = c.rd a
  task : (d.core x.q).task.map (fun u => { u with inCommit := false }) = (c.core x.q).task.map (fun u => { u with inCommit := false })
  staged : (d.core x.q).staged = (c.core x.q).staged
  others : ∀ q, q ≠ x.q → d.core q = c.core q
  units : SameUnits c d
  gather : ∀ n, d.gather n = c.gather n
  queues : d.fab.queues = c.fab.queues

section
variable {x : At} {posts : Bool} {l : List Nat} {c d : Ctl}

theorem Kept.refl (c : Ctl) : Kept x posts l c c := ⟨fun _ _ _ => rfl, rfl, rfl, fun _ _ => rfl, .refl c, fun _ => rfl, rfl⟩

theorem Kept.trans {e : Ctl} (h : Kept x posts l c d) (g : Kept x posts l d e) : Kept x posts l c e :=
  ⟨fun a hp ha => (g.regs a hp ha).trans (h.regs a hp ha), g.task.trans h.task, g.staged.trans h.staged,
    fun q hq => (g.others q hq).trans (h.others q hq), h.units.trans g.units, fun n => (g.gather n).trans (h.gather n),
    g.queues.trans h.queues⟩

theorem Kept.mono {l' : List Nat} (h : Kept x posts l c d) (hl : l ⊆ l') : Kept x posts l' c d :=
  { h with regs := fun a hp ha => h.regs a hp fun hm => ha (List.cons_subset_cons _ hl hm) }

/-- What changes without a posting changes where one is allowed. -/
theorem Kept.posting (h : Kept x false l c d) : Kept x posts l c d := { h with regs := fun a _ ha => h.regs a rfl ha }

theorem OnlyRegs.kept (h : OnlyRegs (R.dbgSat :: l) c d) : Kept x posts l c d := by
  obtain ⟨hrd, r, rfl⟩ := h
  exact ⟨fun a _ ha => hrd a ha, rfl, rfl, fun _ _ => rfl, ⟨rfl, rfl, rfl, rfl, rfl, rfl, rfl, rfl, rfl, rfl, rfl, rfl, rfl⟩, fun _ => rfl, rfl⟩

theorem kept_put (c : Ctl) (f : Fld) (v : Nat) : Kept x posts [f.addr] c (c.put f v) := ((onlyRegs_put c f v).mono (by simp)).kept

theorem kept_bump (c : Ctl) (f : Fld) (n : Nat) : Kept x posts [f.addr] c (c.bump f n) := ((onlyRegs_bump c f n).mono (by simp)).kept

theorem FilesOnly.kept (h : FilesOnly c d) : Kept x posts l c d := by
  obtain ⟨_, _, _, _, rfl⟩ := h
  exact ⟨fun _ _ _ => rfl, rfl, rfl, fun _ _ => rfl, ⟨rfl, rfl, rfl, rfl, rfl, rfl, rfl, rfl, rfl, rfl, rfl, rfl, rfl⟩, fun _ => rfl, rfl⟩

theorem Posted.kept (h : Posted c d) : Kept x true l c d :=
  ⟨fun a ha _ => h.rd a (by simpa using ha), by rw [h.core], by rw [h.core], fun q _ => h.core q, h.units, fun n => by simp only [Ctl.gather, h.cnp],
    by rw [h.fab]⟩

/-- The core's bookkeeping, its task but for the commit section and what it staged left. -/
theorem kept_coreSet (c : Ctl) {v : CoreSt}
    (ht : v.task.map (fun u => { u with inCommit := false }) = (c.core x.q).task.map (fun u => { u with inCommit := false }))
    (hs : v.staged = (c.core x.q).staged) : Kept x posts l c (c.coreSet x.q v) :=
  ⟨fun _ _ _ => rfl, by rw [Ctl.core_coreSet_self, ht], by rw [Ctl.core_coreSet_self, hs], fun _ hq => (Ctl.core_coreSet ..).trans (if_neg hq),
    ⟨rfl, rfl, rfl, rfl, rfl, rfl, rfl, rfl, rfl, rfl, rfl, rfl, rfl⟩, fun _ => rfl, rfl⟩

/-- The fabric outside cores and dispatch queues. -/
theorem kept_fab (c : Ctl) {f : Fab} (hc : f.cores = c.fab.cores) (hq : f.queues = c.fab.queues) : Kept x posts l c { c with fab := f } :=
  have hcore (q : Nat) : Ctl.core { c with fab := f } q = c.core q := Ctl.core_of_cores hc q
  ⟨fun _ _ _ => rfl, by rw [hcore], by rw [hcore], fun q _ => hcore q, ⟨rfl, rfl, rfl, rfl, rfl, rfl, rfl, rfl, rfl, rfl, rfl, rfl, rfl⟩,
    fun _ => rfl, hq⟩

/-- The task enters its commit section (R177). -/
theorem kept_commit (c : Ctl) : Kept x posts l c (c.commit x.q) := by
  unfold Ctl.commit
  cases h : (c.core x.q).task with
  | none => exact Kept.refl c
  | some t => exact kept_coreSet c (by rw [h]; rfl) rfl

@[simp] theorem Ctl.rd_await (c : Ctl) (q : Nat) (i : Issued) (a : Nat) : (c.await q i).rd a = c.rd a := rfl
@[simp] theorem Ctl.held_await (c : Ctl) (q : Nat) (i : Issued) (p k : Nat) : (c.await q i).held p k = c.held p k := rfl
@[simp] theorem Ctl.fifo_await (c : Ctl) (q : Nat) (i : Issued) (ch k : Nat) : (c.await q i).fifo ch k = c.fifo ch k := rfl

theorem kept_await (c : Ctl) (i : Issued) : Kept x posts l c (c.await x.q i) := kept_coreSet c rfl rfl

/-- The core's WAIT count, counted once in a bundle (Table 4.9). -/
theorem kept_countWait (c : Ctl) : Kept x posts [R.stdCoreWait (x.q / 8) (x.q % 8)] c (c.countWait x) := by
  unfold Ctl.countWait
  split
  · exact Kept.refl c
  · exact (kept_bump c (F.stdCoreWaitCount x.n (x.q % 8)) 1).trans (kept_coreSet _ (by rw [Ctl.core_bump]) (by rw [Ctl.core_bump]))

theorem kept_completed (c : Ctl) (p : Nat) : Kept x posts [x.pcAddr] c (c.completed x p) :=
  Kept.trans (d := c.coreSet x.q { c.core x.q with waiting := [] }) (kept_coreSet c rfl rfl) (kept_put _ (F.stdCorePcPc x.n (x.q % 8)) p)

end

/-- The registers of the cores are their own. -/
theorem coreAddr_distinct (x : At) : x.pcAddr ≠ x.issueAddr ∧ R.stdCoreWait (x.q / 8) (x.q % 8) ≠ x.pcAddr ∧
    R.stdCoreWait (x.q / 8) (x.q % 8) ≠ x.issueAddr := by
  show stdBase (x.q / 8) + 0x100 + 0x40 * (x.q % 8) ≠ stdBase (x.q / 8) + 0x108 + 0x40 * (x.q % 8) ∧
    stdBase (x.q / 8) + 0x10c + 0x40 * (x.q % 8) ≠ stdBase (x.q / 8) + 0x100 + 0x40 * (x.q % 8) ∧
    stdBase (x.q / 8) + 0x10c + 0x40 * (x.q % 8) ≠ stdBase (x.q / 8) + 0x108 + 0x40 * (x.q % 8)
  omega

theorem waitAddr_bounds {x : At} (hq : x.q < 136) :
    0x78000 ≤ R.stdCoreWait (x.q / 8) (x.q % 8) ∧ R.stdCoreWait (x.q / 8) (x.q % 8) < 0x100000 := by
  have hbase : 0x78000 ≤ stdBase (x.q / 8) ∧ stdBase (x.q / 8) ≤ 0xF8000 := by unfold stdBase; split <;> omega
  simp only [R.stdCoreWait]
  omega

theorem pcAddr_bounds {x : At} (hq : x.q < 136) : 0x78000 ≤ x.pcAddr ∧ x.pcAddr < 0x100000 := by
  have hbase : 0x78000 ≤ stdBase (x.q / 8) ∧ stdBase (x.q / 8) ≤ 0xF8000 := by unfold stdBase; split <;> omega
  show 0x78000 ≤ stdBase (x.q / 8) + 0x100 + 0x40 * (x.q % 8) ∧ stdBase (x.q / 8) + 0x100 + 0x40 * (x.q % 8) < 0x100000
  omega

section
variable {s : State} {x : At} {i : Issued} {k : Fin 128} {posts : Bool} {l l' : List Nat} {d : Ctl}

theorem begun_units (s : State) (x : At) (i : Issued) : SameUnits s.hw.ctl (begun s x i).ctl := by
  obtain ⟨r, cs, ef, em, h⟩ := begun_eq s x i
  rw [h]
  exact ⟨rfl, rfl, rfl, rfl, rfl, rfl, rfl, rfl, rfl, rfl, rfl, rfl, rfl⟩

theorem begun_queues (s : State) (x : At) (i : Issued) : (begun s x i).ctl.fab.queues = s.hw.ctl.fab.queues := by
  obtain ⟨r, cs, ef, em, h⟩ := begun_eq s x i
  rw [h]

/-- What a bundle that issued leaves where its effect and what follows it are kept within `Kept`. -/
theorem tileStep_of_kept (h : Issues s x i) (hd : Kept x posts l' (begun s x i).ctl d) (hl : ∀ a ∈ l', a = x.pcAddr ∨ a ∈ l)
    (hi : x.issueAddr ∉ l') : TileStep x posts l s ⟨⟨d, s.hw.mem⟩, s.pending⟩ := by
  obtain ⟨-, hq, -, -, -⟩ := atCore_q h.core
  obtain ⟨-, hissue⟩ := coreAddr_ge x
  refine ⟨rfl, rfl, ?_, fun a hp ha => ?_, ?_, ?_, fun q hne => ?_, (begun_units s x i).trans hd.units,
    fun n => (hd.gather n).trans (begun_gather ..), hd.queues.trans (begun_queues ..)⟩
  · refine (Ctl.get_of_rd (f := F.stdCoreIssueCount (x.q / 8) (x.q % 8)) (hd.regs x.issueAddr ?_ ?_)).trans (begun_issue s x i)
    · rw [postAddr_core hissue (issueAddr_lt hq), Bool.and_false]
    · simp [issueAddr_ne_dbgSat, hi]
  · simp only [List.mem_cons, not_or] at ha
    obtain ⟨hpc, hissue, hsat, hal⟩ := ha
    refine (hd.regs a hp ?_).trans (begun_rd s x i hissue hsat)
    simp only [List.mem_cons, not_or]
    exact ⟨hsat, fun hm => (hl a hm).elim hpc hal⟩
  · exact hd.task.trans (by rw [begun_task h.core]; rfl)
  · exact hd.staged.trans (by rw [begun_core, if_pos rfl])
  · exact (hd.others q hne).trans ((begun_core ..).trans (if_neg hne))

/-- A bundle whose effect and what follows it change the controllers alone. -/
theorem slot_runs (hk : x.k = k.val) (h : Issues s x i)
    (hset : (fx (begun s x i) x i (begun s x i)).settle x = (begun s x i).on (fun _ => d)) :
    onHw s (fun w => w.slot k.val i) = .next ⟨⟨d, s.hw.mem⟩, s.pending⟩ := by
  refine (congrArg (fun j => onHw s (fun w => w.slot j i)) hk.symm).trans (onHw_eq s (fun w => w.slot x.k i) ⟨d, s.hw.mem, []⟩ ?_)
  rw [slot_issues h, hset]
  rfl

/-- The PC of a held bundle has not moved. -/
theorem pcOf_kept (h : Issues s x i) (hd : Kept x posts l (begun s x i).ctl d) (hl : ∀ a ∈ l, a ≠ x.pcAddr) :
    d.get (F.stdCorePcPc (x.q / 8) (x.q % 8)) = s.pcOf x := by
  obtain ⟨-, hq, -, -, -⟩ := atCore_q h.core
  obtain ⟨hge, hlt⟩ := pcAddr_bounds hq
  have hsat : x.pcAddr ≠ R.dbgSat := by unfold R.dbgSat; omega
  refine Ctl.get_of_rd (f := F.stdCorePcPc (x.q / 8) (x.q % 8))
    ((hd.regs x.pcAddr ?_ ?_).trans (begun_rd s x i (coreAddr_distinct x).1 hsat))
  · rw [postAddr_core hge hlt, Bool.and_false]
  · simp only [List.mem_cons, not_or]
    exact ⟨hsat, fun hm => hl _ hm rfl⟩

end

/-! A bundle with one waiting slot. -/

/-- A slot that waits for an answer alone: a message sent (R187). -/
def Op.sends (o : Op) : Bool := o == .sendV || o == .sendS

/-- The one waiting slot gets what it waits for: the bundle completes (R140). -/
theorem settle_takes {w : W} {x : At} {i : Issued} {d : Ctl} (hw : (w.ctl.core x.q).waiting = [i]) (hh : (w.ctl.core x.q).halting = false)
    (ht : w.ctl.tryWait x.q x.k i = (d, true)) (hd : d.fab.cores = w.ctl.fab.cores) :
    w.settle x = w.on (fun _ => d.completed x (w.ctl.core x.q).nextPc) := by
  have hcore : d.core x.q = w.ctl.core x.q := Ctl.core_of_cores hd x.q
  have hall : w.ctl.tryAll x.q x.k = d.coreSet x.q { d.core x.q with waiting := [] } := by simp [Ctl.tryAll, hw, ht, hcore]
  simp [W.settle, W.finish, W.on, hall, hcore, hh, Ctl.completed]

theorem core_countWait (c : Ctl) (x : At) : (c.countWait x).core x.q = { c.core x.q with waited := true } := by
  unfold Ctl.countWait
  split
  next h => exact congrArg (fun b => { c.core x.q with waited := b }) h
  next => exact Ctl.core_coreSet_self ..

theorem fab_countWait (c : Ctl) (x : At) : ∃ cs, (c.countWait x).fab = { c.fab with cores := cs } := by
  unfold Ctl.countWait
  split
  · exact ⟨_, rfl⟩
  · obtain ⟨r, hr⟩ := Ctl.bump_eq c (F.stdCoreWaitCount x.n (x.q % 8)) 1
    rw [hr]
    exact ⟨_, rfl⟩

theorem rd_countWait_low (c : Ctl) (x : At) {a : Nat} (ha : a < 0x78000) : (c.countWait x).rd a = c.rd a := by
  have hbase : 0x78000 ≤ stdBase (x.q / 8) := by unfold stdBase; split <;> omega
  unfold Ctl.countWait
  split
  · rfl
  · refine Ctl.rd_bump_ne c (F.stdCoreWaitCount x.n (x.q % 8)) 1 (a := a) ?_ (by unfold R.dbgSat; omega)
    show a ≠ stdBase (x.q / 8) + 0x10c + 0x40 * (x.q % 8)
    omega

/-- The first wait of a bundle counts. -/
theorem counts_countWait {c : Ctl} {x : At} (h : (c.core x.q).waited = false) (hsat : R.stdCoreWait (x.q / 8) (x.q % 8) ≠ R.dbgSat) :
    Counts c (c.countWait x) (F.stdCoreWaitCount (x.q / 8) (x.q % 8)) := by
  rw [Ctl.countWait, if_neg (by rw [h]; exact Bool.false_ne_true)]
  exact counts_bump c (F.stdCoreWaitCount x.n (x.q % 8)) (by simp) hsat

/-- The one waiting slot goes on waiting: the bundle is held, its wait counted but for a message on its way (R140, Table 4.9). -/
theorem settle_waits {w : W} {x : At} {i : Issued} (hw : (w.ctl.core x.q).waiting = [i]) (ht : w.ctl.tryWait x.q x.k i = (w.ctl, false)) :
    w.settle x = if i.op.sends && !(w.ctl.core x.q).nacked then w else w.on (fun c => c.countWait x) := by
  have hall : w.on (fun c => c.tryAll x.q x.k) = w := by
    rw [W.on_at, show w.ctl.tryAll x.q x.k = w.ctl by simp [Ctl.tryAll, hw, ht]]
    rfl
  have hany : (w.ctl.core x.q).waiting.any (fun i => !(i.op == .sendV || i.op == .sendS) || (w.ctl.core x.q).nacked) =
      !(i.op.sends && !(w.ctl.core x.q).nacked) := by simp [hw, Op.sends]
  have hfinish (v : W) (hv : (v.ctl.core x.q).waiting = [i]) : v.finish x = v := by simp [W.finish, hv]
  unfold W.settle
  dsimp only
  rw [hall, hany]
  cases i.op.sends && !(w.ctl.core x.q).nacked with
  | true => exact hfinish w hw
  | false => exact hfinish (w.on (fun c => c.countWait x)) ((congrArg CoreSt.waiting (core_countWait w.ctl x)).trans hw)

/-! What a bundle of one slot leaves that waits for nothing, gets what it waits for, or is held. -/

section
variable {s : State} {x : At} {i : Issued} {k : Fin 128} {posts : Bool} {l : List Nat} {c d : Ctl}

/-- The register files of d are those of c. -/
def FilesAs (c d : Ctl) : Prop := d.fab.sregs = c.fab.sregs ∧ d.fab.vregs = c.fab.vregs ∧ d.fab.aregs = c.fab.aregs ∧ d.fab.pregs = c.fab.pregs

theorem FilesAs.trans {e : Ctl} (h : FilesAs c d) (g : FilesAs d e) : FilesAs c e := by
  obtain ⟨hs, hv, ha, hp⟩ := h
  obtain ⟨gs, gv, ga, gp⟩ := g
  exact ⟨gs.trans hs, gv.trans hv, ga.trans ha, gp.trans hp⟩

theorem FilesAs.of_fab (h : d.fab = c.fab) : FilesAs c d := by
  unfold FilesAs
  rw [h]
  exact ⟨rfl, rfl, rfl, rfl⟩

theorem filesAs_begun (s : State) (x : At) (i : Issued) : FilesAs s.hw.ctl (begun s x i).ctl := by
  obtain ⟨hs, hv, hp, ha⟩ := begun_files s x i
  exact ⟨hs, hv, ha, hp⟩

theorem filesAs_await (c : Ctl) (q : Nat) (i : Issued) : FilesAs c (c.await q i) := ⟨rfl, rfl, rfl, rfl⟩

theorem FilesAs.same {t : State} (h : FilesAs s.hw.ctl t.hw.ctl) : SameS s t ∧ SameV s t ∧ SameA s t ∧ SameP s t := h

/-- The state t is d outside the cores' bookkeeping and their registers. -/
structure Rests (d : Ctl) (t : State) : Prop where
  fab : ∃ cs, t.hw.ctl.fab = { d.fab with cores := cs }
  rd : ∀ a < 0x78000, t.hw.ctl.rd a = d.rd a

theorem Rests.files {t : State} (h : Rests d t) : FilesAs d t.hw.ctl := by
  obtain ⟨cs, hcs⟩ := h.fab
  unfold FilesAs
  rw [hcs]
  exact ⟨rfl, rfl, rfl, rfl⟩

theorem Rests.get {t : State} (h : Rests d t) {f : Fld} (hf : f.addr < 0x78000) : t.hw.ctl.get f = d.get f := Ctl.get_of_rd (h.rd _ hf)

theorem Rests.held {t : State} (h : Rests d t) (p k : Nat) : t.hw.ctl.held p k = d.held p k := by
  obtain ⟨cs, hcs⟩ := h.fab
  rw [Ctl.held, hcs]
  rfl

theorem Rests.fifos {t : State} (h : Rests d t) : t.hw.ctl.fab.fifos = d.fab.fifos := by
  obtain ⟨cs, hcs⟩ := h.fab
  rw [hcs]

theorem Rests.fifo {t : State} (h : Rests d t) (ch k : Nat) : t.hw.ctl.fifo ch k = d.fifo ch k := by rw [Ctl.fifo, h.fifos, Ctl.fifo]

theorem pcAddr_of_kept (hl : ∀ a ∈ l, a < 0x78000) : x.issueAddr ∉ x.pcAddr :: l := by
  obtain ⟨-, hissue⟩ := coreAddr_ge x
  simp only [List.mem_cons, not_or]
  exact ⟨(coreAddr_distinct x).1.symm, fun hm => by have := hl _ hm; omega⟩

/-- A slot that waits for nothing, its effect within `Kept`: the bundle completes (R140). -/
theorem acts_completes (hk : x.k = k.val) (h : Issues s x i) (hfx : fx (begun s x i) x i (begun s x i) = (begun s x i).on (fun _ => d))
    (hd : Kept x posts l (begun s x i).ctl d) (hw : (d.core x.q).waiting = []) (hh : (d.core x.q).halting = false)
    (hp : (d.core x.q).nextPc = (x.pc + 1) % 4096) (hl : ∀ a ∈ l, a < 0x78000) :
    Completes (onHw s (fun w => w.slot k.val i)) (fun t => TileStep x posts l s t ∧ Done x (x.pc + 1) t ∧
      Rests d t) := by
  obtain ⟨hpc, -⟩ := coreAddr_ge x
  have hset : (fx (begun s x i) x i (begun s x i)).settle x =
      (begun s x i).on (fun _ => d.put (F.stdCorePcPc x.n (x.q % 8)) ((x.pc + 1) % 4096)) := by
    rw [hfx, settle_plain _ _ hw hh]
    exact congrArg (fun p => (begun s x i).on (fun _ => d.put (F.stdCorePcPc x.n (x.q % 8)) p)) hp
  refine ⟨_, slot_runs hk h hset, tileStep_of_kept (l' := x.pcAddr :: l) h ?_ (by simp) (pcAddr_of_kept hl), ⟨?_, hw⟩, ⟨_, rfl⟩,
    fun a ha => Ctl.rd_put_ne _ (F.stdCorePcPc x.n (x.q % 8)) _ (b := a) (show a ≠ x.pcAddr by omega)⟩
  · exact (hd.mono (by simp)).trans ((kept_put d (F.stdCorePcPc x.n (x.q % 8)) _).mono (by simp [At.pcAddr, At.n]))
  · exact (get_put_pc d x _).trans (Nat.mod_mod _ _)

/-- The core's bookkeeping as the bundle's only slot finds it. -/
theorem begun_self (h : Issues s x i) : ((begun s x i).ctl.core x.q).waiting = [] ∧ ((begun s x i).ctl.core x.q).halting = false ∧
    ((begun s x i).ctl.core x.q).nextPc = (x.pc + 1) % 4096 ∧ ((begun s x i).ctl.core x.q).waited = false ∧
    ((begun s x i).ctl.core x.q).nacked = false := by
  rw [begun_core, if_pos rfl]
  exact ⟨h.waits, rfl, rfl, rfl, rfl⟩

/-- The core as a slot awaits, which no other did. -/
theorem core_await {c : Ctl} {q : Nat} (i : Issued) (hw : (c.core q).waiting = []) :
    (c.await q i).core q = { c.core q with waiting := [i] } := by
  unfold Ctl.await
  rw [Ctl.core_coreSet_self, hw]
  rfl

/-- A slot that waits and gets what it waits for as it issues: the bundle completes (R140). -/
theorem awaits_taken (hk : x.k = k.val) (h : Issues s x i)
    (hfx : fx (begun s x i) x i (begun s x i) = (begun s x i).on (fun _ => c.await x.q i)) (hc : Kept x false l (begun s x i).ctl c)
    (hcore : c.core x.q = (begun s x i).ctl.core x.q) (ht : (c.await x.q i).tryWait x.q x.k i = (d, true))
    (hd : Kept x false l (c.await x.q i) d) (hcores : d.fab.cores = (c.await x.q i).fab.cores) (hl : ∀ a ∈ l, a < 0x78000) :
    Completes (onHw s (fun w => w.slot k.val i)) (fun t => TileStep x false l s t ∧ Done x (x.pc + 1) t ∧
      Rests d t) := by
  obtain ⟨hpcge, -⟩ := coreAddr_ge x
  obtain ⟨hwait, hhalt, hnext, -, -⟩ := begun_self h
  rw [← hcore] at hwait hhalt hnext
  have hacore := core_await i hwait
  have hset : (fx (begun s x i) x i (begun s x i)).settle x = (begun s x i).on (fun _ => d.completed x ((x.pc + 1) % 4096)) := by
    rw [hfx, ← hnext]
    generalize begun s x i = w
    rw [settle_takes (w := w.on (fun _ => c.await x.q i)) (congrArg CoreSt.waiting hacore) ((congrArg CoreSt.halting hacore).trans hhalt) ht hcores]
    rw [W.on_ctl, hacore]
    rfl
  obtain ⟨-, -, hwaiting, hpc⟩ := completed_keeps d x ((x.pc + 1) % 4096)
  have hkept : Kept x false (x.pcAddr :: l) (begun s x i).ctl (d.completed x ((x.pc + 1) % 4096)) :=
    ((hc.trans ((kept_await c i).trans hd)).mono (by simp)).trans ((kept_completed d _).mono (by simp))
  exact ⟨_, slot_runs hk h hset, tileStep_of_kept h hkept (by simp) (pcAddr_of_kept hl), ⟨hpc.trans (Nat.mod_mod _ _), hwaiting⟩,
    ⟨_, rfl⟩, fun a ha => Ctl.rd_put_ne _ (F.stdCorePcPc x.n (x.q % 8)) _ (b := a) (show a ≠ x.pcAddr by omega)⟩

/-- A slot that waits for what is not there: the bundle is held, and the core's WAIT counts (R140, Table 4.9). -/
theorem awaits_held (hk : x.k = k.val) (h : Issues s x i) (hi : i.op.sends = false)
    (hfx : fx (begun s x i) x i (begun s x i) = (begun s x i).on (fun _ => c.await x.q i)) (hc : Kept x false l (begun s x i).ctl c)
    (hcore : c.core x.q = (begun s x i).ctl.core x.q) (ht : (c.await x.q i).tryWait x.q x.k i = (c.await x.q i, false))
    (hl : ∀ a ∈ l, a < 0x78000) :
    Completes (onHw s (fun w => w.slot k.val i)) (fun t => TileStep x false (l ++ [R.stdCoreWait (x.q / 8) (x.q % 8)]) s t ∧
      HeldIn x i s t ∧ Counts s.hw.ctl t.hw.ctl (F.stdCoreWaitCount (x.q / 8) (x.q % 8)) ∧ Rests (c.await x.q i) t) := by
  obtain ⟨-, hq, -, -, -⟩ := atCore_q h.core
  obtain ⟨-, hwpc, hwissue⟩ := coreAddr_distinct x
  obtain ⟨hwge, hwlt⟩ := waitAddr_bounds hq
  obtain ⟨hpc, hissue⟩ := coreAddr_ge x
  obtain ⟨hwait, -, -, hwaited, -⟩ := begun_self h
  rw [← hcore] at hwait hwaited
  have hsat : R.stdCoreWait (x.q / 8) (x.q % 8) ≠ R.dbgSat := by unfold R.dbgSat; omega
  have hacore := core_await i hwait
  have hset : (fx (begun s x i) x i (begun s x i)).settle x = (begun s x i).on (fun _ => (c.await x.q i).countWait x) := by
    rw [hfx]
    generalize begun s x i = w
    rw [settle_waits (w := w.on (fun _ => c.await x.q i)) (congrArg CoreSt.waiting hacore) ht, hi]
    rfl
  have hkept : Kept x false (l ++ [R.stdCoreWait (x.q / 8) (x.q % 8)]) (begun s x i).ctl ((c.await x.q i).countWait x) :=
    ((hc.trans (kept_await c i)).mono (by simp)).trans ((kept_countWait _).mono (by simp))
  refine ⟨_, slot_runs hk h hset, tileStep_of_kept h hkept (fun a ha => .inr ha) ?_, ⟨pcOf_kept h hkept ?_, ?_⟩, ?_,
    fab_countWait .., fun a ha => rd_countWait_low _ x ha⟩
  · simp only [List.mem_append, List.mem_singleton, not_or]
    exact ⟨fun hm => by have := hl _ hm; omega, hwissue.symm⟩
  · intro a ha
    simp only [List.mem_append, List.mem_singleton] at ha
    rcases ha with hm | rfl
    · have := hl _ hm
      omega
    · exact hwpc
  · exact (congrArg CoreSt.waiting (core_countWait ..)).trans (congrArg CoreSt.waiting hacore)
  · refine Counts.congr (c := c.await x.q i) (d := (c.await x.q i).countWait x)
      (counts_countWait ((congrArg CoreSt.waited hacore).trans hwaited) hsat) ?_ rfl
    refine (Ctl.get_of_rd (f := F.stdCoreWaitCount (x.q / 8) (x.q % 8)) ((hc.regs _ rfl ?_).trans (begun_rd s x i hwissue hsat))).symm
    simp only [List.mem_cons, not_or]
    exact ⟨hsat, fun hm => by have := hl _ hm; omega⟩

end

end Sys2Proof.Machine
end

section
/-! SWAIT, CRGET and STRY (06_channels_and_semaphores.md R198, R200): counts and credits taken, or waited for. -/

namespace Sys2Proof.Machine

/-! Whose turn it is (R198). -/

/-- What decides whose turn it is at a semaphore is its count, the core served last, where the logical cores run, their bundles and queues. -/
theorem semTurn_congr {c d : Ctl} {k sem : Nat} (hn : d.get (F.semCountCount sem) = c.get (F.semCountCount sem))
    (hlast : d.fab.semLast = c.fab.semLast) (hphys : ∀ j, d.physOf j = c.physOf j) (hqueues : d.fab.queues = c.fab.queues)
    (hcore : ∀ q, (d.core q).task = (c.core q).task ∧ (d.core q).waiting = (c.core q).waiting) : d.semTurn k sem = c.semTurn k sem := by
  have hneed (j : Nat) : d.semNeed j sem = c.semNeed j sem := by
    unfold Ctl.semNeed
    rw [hphys j]
    cases c.physOf j with
    | none => rfl
    | some q =>
      obtain ⟨htask, hwaiting⟩ := hcore q
      dsimp only
      rw [htask, hwaiting, hqueues]
  unfold Ctl.semTurn
  simp only [hn, hlast, hneed]

/-- Where logical cores run is read from the stands' state registers. -/
theorem physOf_of_rd {c d : Ctl} (h : ∀ n < 17, d.rd (R.stdState n) = c.rd (R.stdState n)) (j : Nat) : d.physOf j = c.physOf j := by
  have hfind : d.standOf (j / 8) = c.standOf (j / 8) := by
    refine List.find?_congr fun n hn => ?_
    have hrd := h n (List.mem_range.mp hn)
    rw [Ctl.get_of_rd (f := F.stdStateState n) hrd, Ctl.get_of_rd (f := F.stdStateLogical n) hrd]
  unfold Ctl.physOf
  rw [hfind]

theorem begun_physOf (s : State) (x : At) (i : Issued) (j : Nat) : (begun s x i).ctl.physOf j = s.hw.ctl.physOf j := by
  refine physOf_of_rd (fun n hn => begun_rd s x i ?_ ?_) j
  · show stdBase n + 0 ≠ stdBase (x.q / 8) + 0x108 + 0x40 * (x.q % 8)
    unfold stdBase
    split <;> split <;> omega
  · show stdBase n + 0 ≠ R.dbgSat
    unfold stdBase R.dbgSat
    split <;> omega

theorem begun_semLast (s : State) (x : At) (i : Issued) : (begun s x i).ctl.fab.semLast = s.hw.ctl.fab.semLast := by
  obtain ⟨r, cs, ef, em, h⟩ := begun_eq s x i
  rw [h]

/-- A register below those of the stands reads, when the bundle has begun, as before. -/
theorem begun_rd_low (s : State) (x : At) (i : Issued) {a : Nat} (h : a < 0x78000) : (begun s x i).ctl.rd a = s.hw.ctl.rd a := by
  obtain ⟨-, hissue⟩ := coreAddr_ge x
  exact begun_rd s x i (by omega) (by unfold R.dbgSat; omega)

/-- Whose turn it is as the bundle's waiting slot finds it. -/
theorem begun_semTurn (s : State) (x : At) (i : Issued) {sem : Nat} (hs : sem < 256) (hw : (s.hw.ctl.core x.q).waiting = []) (k : Nat) :
    ((begun s x i).ctl.await x.q i).semTurn k sem = (s.hw.ctl.held1 x i).semTurn k sem := by
  have hlow := begun_rd_low s x i (a := R.semCount sem) (by simp only [R.semCount]; omega)
  have hlast := begun_semLast s x i
  have hphys := begun_physOf s x i
  have hqueues := begun_queues s x i
  have hbcore := begun_core s x i
  generalize (begun s x i).ctl = b at hlow hlast hphys hqueues hbcore
  refine semTurn_congr (Ctl.get_of_rd (f := F.semCountCount sem) hlow) hlast hphys hqueues fun q => ?_
  unfold Ctl.await Ctl.held1
  rw [Ctl.core_coreSet, Ctl.core_coreSet, hbcore, hbcore, if_pos rfl, hw]
  by_cases hq : q = x.q
  · rw [if_pos hq, if_pos hq]
    exact ⟨rfl, rfl⟩
  · rw [if_neg hq, if_neg hq, if_neg hq]
    exact ⟨rfl, rfl⟩

/-! Counts and credits taken or waited for. -/

theorem kept_semTake {x : At} {posts : Bool} (c : Ctl) (sem n k : Nat) : Kept x posts [R.semCount sem] c (c.semTake sem n k) :=
  (kept_put c (F.semCountCount sem) _).trans (kept_fab _ rfl rfl)

theorem kept_creditGet {x : At} {posts : Bool} (c : Ctl) (p n k : Nat) : Kept x posts [R.chnCpCount p] c (c.creditGet p n k) :=
  (kept_put c (F.chnCpCountFree p) _).trans (kept_fab _ rfl rfl)

theorem filesAs_semTake (c : Ctl) (sem n k : Nat) : FilesAs c (c.semTake sem n k) := ⟨rfl, rfl, rfl, rfl⟩

theorem filesAs_creditGet (c : Ctl) (p n k : Nat) : FilesAs c (c.creditGet p n k) := ⟨rfl, rfl, rfl, rfl⟩

theorem rd_semTake (c : Ctl) (sem n k : Nat) : (c.semTake sem n k).rd (R.semCount sem) =
    fieldPut (c.rd (R.semCount sem)) 0 16 (c.get (F.semCountCount sem) - n) :=
  (Ctl.rd_put c (F.semCountCount sem) _ (R.semCount sem)).trans (if_pos rfl)

theorem rd_creditGet (c : Ctl) (p n k : Nat) : (c.creditGet p n k).rd (R.chnCpCount p) =
    fieldPut (c.rd (R.chnCpCount p)) 0 16 (c.get (F.chnCpCountFree p) - n) :=
  (Ctl.rd_put c (F.chnCpCountFree p) _ (R.chnCpCount p)).trans (if_pos rfl)

theorem begun_held (s : State) (x : At) (i : Issued) (p k : Nat) : (begun s x i).ctl.held p k = s.hw.ctl.held p k := by
  obtain ⟨r, cs, ef, em, h⟩ := begun_eq s x i
  rw [h]
  rfl

theorem preg_of_file {c d : Ctl} (h : d.fab.pregs = c.fab.pregs) (q i : Nat) : d.preg q i = c.preg q i := by rw [Ctl.preg, h, Ctl.preg]

section
variable {s : State} {x : At} {k : Fin 128} {sl : Slot}

/-- SWAIT (R198). -/
theorem exec_swait (hk : x.k = k.val) (hg : s.hw.ctl.guard0 x.q sl = true) (h : Issues s x ⟨.swait, sl⟩) :
    let sem := sl.imm.toNat % 256
    let n := sl.imm.toNat / 256 % 65536
    Completes (exec (.swait k sl) s) (fun t => SameS s t ∧ SameV s t ∧ SameA s t ∧ SameP s t ∧
      (if (s.hw.ctl.held1 x ⟨.swait, sl⟩).semTurn x.k sem = true ∧ n ≤ s.hw.ctl.get (F.semCountCount sem) then
        TileStep x false [R.semCount sem] s t ∧ Done x (x.pc + 1) t ∧
          t.hw.ctl.rd (R.semCount sem) = fieldPut (s.hw.ctl.rd (R.semCount sem)) 0 16 (s.hw.ctl.get (F.semCountCount sem) - n)
      else TileStep x false [R.stdCoreWait (x.q / 8) (x.q % 8)] s t ∧ HeldIn x ⟨.swait, sl⟩ s t ∧
        Counts s.hw.ctl t.hw.ctl (F.stdCoreWaitCount (x.q / 8) (x.q % 8)))) := by
  intro sem n
  have hsem : sem < 256 := Nat.mod_lt _ (by decide)
  have haddr : R.semCount sem < 0x78000 := by simp only [R.semCount]; omega
  have hcount : Issued.count ⟨.swait, sl⟩ = n := fieldGet_eq sl.imm 8 16
  have hrd : ((begun s x ⟨.swait, sl⟩).ctl.await x.q ⟨.swait, sl⟩).rd (R.semCount sem) = s.hw.ctl.rd (R.semCount sem) :=
    (Ctl.rd_await ..).trans (begun_rd_low s x _ haddr)
  have hget : ((begun s x ⟨.swait, sl⟩).ctl.await x.q ⟨.swait, sl⟩).get (F.semCountCount sem) = s.hw.ctl.get (F.semCountCount sem) :=
    Ctl.get_of_rd (f := F.semCountCount sem) hrd
  have hbegun := (filesAs_begun s x ⟨.swait, sl⟩).trans (filesAs_await _ x.q ⟨.swait, sl⟩)
  have hfx : fx (begun s x ⟨.swait, sl⟩) x ⟨.swait, sl⟩ (begun s x ⟨.swait, sl⟩) =
      (begun s x ⟨.swait, sl⟩).on (fun _ => (begun s x ⟨.swait, sl⟩).ctl.await x.q ⟨.swait, sl⟩) :=
    (if_pos ((begun_guard0 ..).trans hg)).trans (W.on_at _ _)
  have htry : ((begun s x ⟨.swait, sl⟩).ctl.await x.q ⟨.swait, sl⟩).tryWait x.q x.k ⟨.swait, sl⟩ =
      if (s.hw.ctl.held1 x ⟨.swait, sl⟩).semTurn x.k sem = true ∧ n ≤ s.hw.ctl.get (F.semCountCount sem) then
        (((begun s x ⟨.swait, sl⟩).ctl.await x.q ⟨.swait, sl⟩).semTake sem n x.k, true)
      else ((begun s x ⟨.swait, sl⟩).ctl.await x.q ⟨.swait, sl⟩, false) := by
    rw [← begun_semTurn s x ⟨.swait, sl⟩ hsem h.waits x.k, ← hget, ← hcount]
    rfl
  by_cases hthere : (s.hw.ctl.held1 x ⟨.swait, sl⟩).semTurn x.k sem = true ∧ n ≤ s.hw.ctl.get (F.semCountCount sem)
  · rw [if_pos hthere] at htry
    simp only [if_pos hthere]
    refine (awaits_taken hk h hfx (.refl _) rfl htry (kept_semTake ..) rfl (by simpa using haddr)).imp fun t ⟨hstep, hdone, hrests⟩ => ?_
    obtain ⟨ts, tv, ta, tp⟩ := ((hbegun.trans (filesAs_semTake ..)).trans hrests.files).same
    refine ⟨ts, tv, ta, tp, hstep, hdone, ?_⟩
    rw [hrests.rd _ haddr, rd_semTake, hrd, hget]
  · rw [if_neg hthere] at htry
    simp only [if_neg hthere]
    refine (awaits_held (l := []) hk h rfl hfx (.refl _) rfl htry (by simp)).imp fun t ⟨hstep, hheld, hwaits, hrests⟩ => ?_
    obtain ⟨ts, tv, ta, tp⟩ := (hbegun.trans hrests.files).same
    exact ⟨ts, tv, ta, tp, hstep, hheld, hwaits⟩

/-- CRGET (R200). -/
theorem exec_crget (hk : x.k = k.val) (hg : s.hw.ctl.guard0 x.q sl = true) (h : Issues s x ⟨.crget, sl⟩) :
    let p := sl.imm.toNat % 256
    let n := sl.imm.toNat / 256 % 65536
    Completes (exec (.crget k sl) s) (fun t => SameS s t ∧ SameV s t ∧ SameA s t ∧ SameP s t ∧
      (if n ≤ s.hw.ctl.get (F.chnCpCountFree p) then
        TileStep x false [R.chnCpCount p] s t ∧ Done x (x.pc + 1) t ∧
          t.hw.ctl.rd (R.chnCpCount p) = fieldPut (s.hw.ctl.rd (R.chnCpCount p)) 0 16 (s.hw.ctl.get (F.chnCpCountFree p) - n) ∧
          t.hw.ctl.held p x.k = s.hw.ctl.held p x.k + n
      else TileStep x false [R.stdCoreWait (x.q / 8) (x.q % 8)] s t ∧ HeldIn x ⟨.crget, sl⟩ s t ∧
        Counts s.hw.ctl t.hw.ctl (F.stdCoreWaitCount (x.q / 8) (x.q % 8)) ∧ t.hw.ctl.held p x.k = s.hw.ctl.held p x.k)) := by
  intro p n
  have hp : p < 256 := Nat.mod_lt _ (by decide)
  have haddr : R.chnCpCount p < 0x78000 := by simp only [R.chnCpCount]; omega
  have hcount : Issued.count ⟨.crget, sl⟩ = n := fieldGet_eq sl.imm 8 16
  have hrd : ((begun s x ⟨.crget, sl⟩).ctl.await x.q ⟨.crget, sl⟩).rd (R.chnCpCount p) = s.hw.ctl.rd (R.chnCpCount p) :=
    (Ctl.rd_await ..).trans (begun_rd_low s x _ haddr)
  have hget : ((begun s x ⟨.crget, sl⟩).ctl.await x.q ⟨.crget, sl⟩).get (F.chnCpCountFree p) = s.hw.ctl.get (F.chnCpCountFree p) :=
    Ctl.get_of_rd (f := F.chnCpCountFree p) hrd
  have hheld : ((begun s x ⟨.crget, sl⟩).ctl.await x.q ⟨.crget, sl⟩).held p x.k = s.hw.ctl.held p x.k := (Ctl.held_await ..).trans (begun_held s x _ p x.k)
  have hbegun := (filesAs_begun s x ⟨.crget, sl⟩).trans (filesAs_await _ x.q ⟨.crget, sl⟩)
  have hfx : fx (begun s x ⟨.crget, sl⟩) x ⟨.crget, sl⟩ (begun s x ⟨.crget, sl⟩) =
      (begun s x ⟨.crget, sl⟩).on (fun _ => (begun s x ⟨.crget, sl⟩).ctl.await x.q ⟨.crget, sl⟩) :=
    (if_pos ((begun_guard0 ..).trans hg)).trans (W.on_at _ _)
  have htry : ((begun s x ⟨.crget, sl⟩).ctl.await x.q ⟨.crget, sl⟩).tryWait x.q x.k ⟨.crget, sl⟩ =
      if n ≤ s.hw.ctl.get (F.chnCpCountFree p) then (((begun s x ⟨.crget, sl⟩).ctl.await x.q ⟨.crget, sl⟩).creditGet p n x.k, true)
      else ((begun s x ⟨.crget, sl⟩).ctl.await x.q ⟨.crget, sl⟩, false) := by
    rw [← hget, ← hcount]
    rfl
  by_cases hthere : n ≤ s.hw.ctl.get (F.chnCpCountFree p)
  · rw [if_pos hthere] at htry
    simp only [if_pos hthere]
    refine (awaits_taken hk h hfx (.refl _) rfl htry (kept_creditGet ..) rfl (by simpa using haddr)).imp fun t ⟨hstep, hdone, hrests⟩ => ?_
    obtain ⟨ts, tv, ta, tp⟩ := ((hbegun.trans (filesAs_creditGet ..)).trans hrests.files).same
    refine ⟨ts, tv, ta, tp, hstep, hdone, ?_, ?_⟩
    · rw [hrests.rd _ haddr, rd_creditGet, hrd, hget]
    · rw [hrests.held, held_creditGet, hheld]
  · rw [if_neg hthere] at htry
    simp only [if_neg hthere]
    refine (awaits_held (l := []) hk h rfl hfx (.refl _) rfl htry (by simp)).imp fun t ⟨hstep, hheldIn, hwaits, hrests⟩ => ?_
    obtain ⟨ts, tv, ta, tp⟩ := (hbegun.trans hrests.files).same
    exact ⟨ts, tv, ta, tp, hstep, hheldIn, hwaits, (hrests.held p x.k).trans hheld⟩

/-- What STRY does under its guard: the count is taken and pD says so, or pD says that it is not there (R198). -/
def Ctl.tryTake (c : Ctl) (q sem n d : Nat) : Ctl :=
  (if n ≤ c.get (F.semCountCount sem) then c.put (F.semCountCount sem) (c.get (F.semCountCount sem) - n) else c).pregSet q d
    (allBits (decide (n ≤ c.get (F.semCountCount sem))))

theorem rd_tryTake (c : Ctl) (q sem n d : Nat) : (c.tryTake q sem n d).rd (R.semCount sem) = if n ≤ c.get (F.semCountCount sem) then
    fieldPut (c.rd (R.semCount sem)) 0 16 (c.get (F.semCountCount sem) - n) else c.rd (R.semCount sem) := by
  unfold Ctl.tryTake
  rw [Ctl.rd_of_regs (Ctl.pregSet_regs ..)]
  split
  · exact (Ctl.rd_put c (F.semCountCount sem) _ (R.semCount sem)).trans (if_pos rfl)
  · rfl

theorem kept_tryTake {x : At} {posts : Bool} (c : Ctl) (sem n d : Nat) : Kept x posts [R.semCount sem] c (c.tryTake x.q sem n d) := by
  unfold Ctl.tryTake
  refine Kept.trans ?_ (filesOnly_pregSet ..).kept
  split
  · exact kept_put c (F.semCountCount sem) _
  · exact Kept.refl c

theorem core_tryTake (c : Ctl) (q sem n d r : Nat) : (c.tryTake q sem n d).core r = c.core r := by
  unfold Ctl.tryTake
  rw [Ctl.core_pregSet]
  split <;> rfl

theorem tryTake_files (c : Ctl) (q sem n d : Nat) : (c.tryTake q sem n d).fab =
    (c.pregSet q d (allBits (decide (n ≤ c.get (F.semCountCount sem))))).fab := by
  unfold Ctl.tryTake Ctl.pregSet
  split <;> split <;> rfl

/-- STRY (R198, Table 4.6). -/
theorem exec_stry (hk : x.k = k.val) (hg : s.hw.ctl.guard0 x.q sl = true) (h : Issues s x ⟨.stry, sl⟩) :
    let sem := sl.imm.toNat % 256
    let n := sl.imm.toNat / 256 % 65536
    Completes (exec (.stry k sl) s) (fun t =>
      TileStep x false [R.semCount sem] s t ∧ Done x (x.pc + 1) t ∧ PregsBut x.q sl.d.val s t ∧ SameS s t ∧ SameV s t ∧ SameA s t ∧
      t.hw.ctl.preg x.q sl.d.val = (if sl.d.val = 0 then BitVec.allOnes 64
        else allBits (decide (n ≤ s.hw.ctl.get (F.semCountCount sem)))) ∧
      t.hw.ctl.rd (R.semCount sem) = (if n ≤ s.hw.ctl.get (F.semCountCount sem) then
        fieldPut (s.hw.ctl.rd (R.semCount sem)) 0 16 (s.hw.ctl.get (F.semCountCount sem) - n) else s.hw.ctl.rd (R.semCount sem))) := by
  intro sem n
  have hsem : sem < 256 := Nat.mod_lt _ (by decide)
  have haddr : R.semCount sem < 0x78000 := by simp only [R.semCount]; omega
  have hcount : Issued.count ⟨.stry, sl⟩ = n := fieldGet_eq sl.imm 8 16
  have hd : sl.d.val < 16 := issues_file h .p rfl
  have hrd : (begun s x ⟨.stry, sl⟩).ctl.rd (R.semCount sem) = s.hw.ctl.rd (R.semCount sem) := begun_rd_low s x _ haddr
  have hget : (begun s x ⟨.stry, sl⟩).ctl.get (F.semCountCount sem) = s.hw.ctl.get (F.semCountCount sem) :=
    Ctl.get_of_rd (f := F.semCountCount sem) hrd
  have htake (c : Ctl) : (if n ≤ c.get (F.semCountCount sem) then
      (c.put (F.semCountCount sem) (c.get (F.semCountCount sem) - n)).pregSet x.q sl.d.val (BitVec.allOnes 64)
      else c.pregSet x.q sl.d.val 0) = c.tryTake x.q sem n sl.d.val := by
    unfold Ctl.tryTake
    split
    next hn => simp [hn, allBits]
    next hn => simp [hn, allBits]
  have hfx : fx (begun s x ⟨.stry, sl⟩) x ⟨.stry, sl⟩ (begun s x ⟨.stry, sl⟩) =
      (begun s x ⟨.stry, sl⟩).on (fun _ => (begun s x ⟨.stry, sl⟩).ctl.tryTake x.q sem n sl.d.val) := by
    rw [← htake, ← hcount]
    exact (if_pos ((begun_guard0 ..).trans hg)).trans (W.on_at _ _)
  obtain ⟨hwait, hhalt, hnext, -, -⟩ := begun_self h
  refine (acts_completes (posts := false) hk h hfx (kept_tryTake ..) (by rw [core_tryTake, hwait]) (by rw [core_tryTake, hhalt]) (by rw [core_tryTake, hnext])
    (by simpa using haddr)).imp fun t ⟨hstep, hdone, hrests⟩ => ?_
  obtain ⟨ps, pv, pa⟩ := pregSet_files (begun s x ⟨.stry, sl⟩).ctl x.q sl.d.val
    (allBits (decide (n ≤ (begun s x ⟨.stry, sl⟩).ctl.get (F.semCountCount sem))))
  obtain ⟨bs, bv, ba, -⟩ := filesAs_begun s x ⟨.stry, sl⟩
  obtain ⟨ts, tv, ta, tp⟩ := hrests.files
  rw [tryTake_files] at ts tv ta tp
  have hpreg (r j : Nat) (hj : j < 16) : t.hw.ctl.preg r j = if r = x.q ∧ j = sl.d.val ∧ sl.d.val ≠ 0 then
      allBits (decide (n ≤ s.hw.ctl.get (F.semCountCount sem))) else s.hw.ctl.preg r j := by
    rw [preg_of_file tp, Ctl.preg_pregSet _ _ _ _ _ hd hj, begun_preg, hget]
  refine ⟨hstep, hdone, fun r j hj hne => ?_, ts.trans (ps.trans bs), tv.trans (pv.trans bv), ta.trans (pa.trans ba), ?_, ?_⟩
  · rw [hpreg r j hj, if_neg (by tauto)]
  · rw [hpreg _ _ hd]
    by_cases h0 : sl.d.val = 0
    · simp [h0]
    · simp [h0]
  · rw [hrests.rd _ haddr, rd_tryTake, hrd, hget]

end

/-- Settles O13: SWAIT and CRGET by what their waiting slot finds, STRY by what it takes. -/
theorem takesCounts : Obligations.TakesCounts := by
  unfold Obligations.TakesCounts
  intro k sl s x hk sem n wait hg
  exact ⟨exec_swait hk hg, exec_crget hk hg, exec_stry hk hg⟩

end Sys2Proof.Machine
end

section
/-! SSIG on the full semaphore of a slot ring (06_channels_and_semaphores.md R205). -/

namespace Sys2Proof.Machine

/-! One slot filled. -/

/-- Bit j of a number with bit i set. -/
theorem testBit_setBit_eq (x i j : Nat) : (setBit x i).testBit j = (x.testBit j || j == i) := by
  unfold setBit
  cases hx : x.testBit i with
  | true =>
    rw [if_pos rfl]
    by_cases hji : j = i
    · rw [hji, hx, Bool.true_or]
    · simp [hji]
  | false =>
    rw [if_neg Bool.false_ne_true, Nat.add_comm]
    rcases lt_trichotomy j i with hlt | rfl | hgt
    · rw [Nat.testBit_two_pow_add_gt hlt]
      simp [hlt.ne]
    · rw [Nat.testBit_two_pow_add_eq, hx]
      simp
    · have hbit : x / 2 ^ i % 2 = 0 := by
        rw [Nat.testBit_eq_decide_div_mod_eq] at hx
        simpa using hx
      have hhigh : (2 ^ i + x) / 2 ^ (i + 1) = x / 2 ^ (i + 1) := by
        rw [Nat.pow_succ, ← Nat.div_div_eq_div_mul, ← Nat.div_div_eq_div_mul, Nat.add_div_left _ (by positivity)]
        omega
      obtain ⟨m, rfl⟩ := Nat.exists_eq_add_of_lt hgt
      have habove (y : Nat) : y.testBit (m + (i + 1)) = (y / 2 ^ (i + 1)).testBit m := (Nat.testBit_div_two_pow y m).symm
      rw [show i + m + 1 = m + (i + 1) by omega, habove, hhigh, ← habove]
      simp [show m + (i + 1) ≠ i by omega]

theorem setBit_lt {x i n : Nat} (hx : x < 2 ^ n) (hi : i < n) : setBit x i < 2 ^ n := by
  refine Nat.lt_pow_two_of_testBit _ fun j hj => ?_
  rw [testBit_setBit_eq, Nat.testBit_lt_two_pow (Nat.lt_of_lt_of_le hx (Nat.pow_le_pow_right (by decide) hj))]
  simp [show j ≠ i by omega]

/-- The slot at TAIL filled where it was empty: its fill tag, and TAIL one on (R205). -/
theorem fillOne_empty {c : Ctl} {r : Nat} (core : Nat) (h : (c.get (F.chnSrStateFill r)).testBit (c.get (F.chnSrStateTail r)) = false) :
    let d := c.fillOne r core
    OnlyRegs [R.chnSrState r] c d ∧
    (∀ i, (d.get (F.chnSrStateFill r)).testBit i = ((c.get (F.chnSrStateFill r)).testBit i || i == c.get (F.chnSrStateTail r))) ∧
    d.get (F.chnSrStateTail r) = (c.get (F.chnSrStateTail r) + 1) % (c.get (F.chnSrCfgSlotsM1 r) + 1) ∧
    d.get (F.chnSrStateHead r) = c.get (F.chnSrStateHead r) ∧ d.on (F.chnSrStateValid r) = c.on (F.chnSrStateValid r) := by
  intro d
  have hd : d = (c.put (F.chnSrStateFill r) (setBit (c.get (F.chnSrStateFill r)) (c.get (F.chnSrStateTail r)))).put (F.chnSrStateTail r)
      ((c.get (F.chnSrStateTail r) + 1) % (c.get (F.chnSrCfgSlotsM1 r) + 1)) := by
    show (if tbit (c.get (F.chnSrStateFill r)) (c.get (F.chnSrStateTail r)) then _ else _) = _
    rw [if_neg (show ¬ tbit (c.get (F.chnSrStateFill r)) (c.get (F.chnSrStateTail r)) = true from fun ht => by
      rw [tbit, h] at ht
      exact absurd ht (by decide))]
  have hfill : c.get (F.chnSrStateFill r) < 2 ^ 16 := Ctl.get_lt c (F.chnSrStateFill r)
  have htail : c.get (F.chnSrStateTail r) < 2 ^ 4 := Ctl.get_lt c (F.chnSrStateTail r)
  have hslots : c.get (F.chnSrCfgSlotsM1 r) < 2 ^ 4 := Ctl.get_lt c (F.chnSrCfgSlotsM1 r)
  rw [hd]
  refine ⟨(onlyRegs_put c (F.chnSrStateFill r) _).trans (onlyRegs_put _ (F.chnSrStateTail r) _), fun i => ?_, ?_, ?_, ?_⟩
  · rw [Ctl.get_put_ne _ (F.chnSrStateTail r) (F.chnSrStateFill r) _ (by simp) (by simp), Ctl.get_put_self _ _ _ (by simp),
      Nat.mod_eq_of_lt (setBit_lt hfill (by omega)), testBit_setBit_eq]
  · rw [Ctl.get_put_self _ _ _ (by simp)]
    exact Nat.mod_eq_of_lt (by show _ < 2 ^ 4; have := Nat.mod_lt (c.get (F.chnSrStateTail r) + 1) (show 0 < c.get (F.chnSrCfgSlotsM1 r) + 1 by omega); omega)
  · rw [Ctl.get_put_ne _ (F.chnSrStateTail r) (F.chnSrStateHead r) _ (by simp) (by simp),
      Ctl.get_put_ne _ (F.chnSrStateFill r) (F.chnSrStateHead r) _ (by simp) (by simp)]
  · rw [Ctl.on_put_ne _ (F.chnSrStateTail r) (F.chnSrStateValid r) _ (by simp) (by simp),
      Ctl.on_put_ne _ (F.chnSrStateFill r) (F.chnSrStateValid r) _ (by simp) (by simp)]

/-! A signal on a semaphore that one slot ring alone uses. -/

/-- A fold one of whose steps alone changes the state. -/
theorem foldl_one {α β : Type} {f : β → α → β} {c : β} {r : α} {l : List α} (hr : r ∈ l) (hn : l.Nodup)
    (hbefore : ∀ a ∈ l, a ≠ r → f c a = c) (hafter : ∀ a ∈ l, a ≠ r → f (f c r) a = f c r) : l.foldl f c = f c r := by
  induction l with
  | nil => exact absurd hr (by simp)
  | cons a t ih =>
    obtain ⟨hat, hnt⟩ := List.nodup_cons.mp hn
    rw [List.foldl_cons]
    by_cases har : a = r
    · subst har
      exact foldl_unchanged f (f c a) t fun b hb => hafter b (List.mem_cons_of_mem _ hb) fun hba => hat (hba ▸ hb)
    · rw [hbefore a List.mem_cons_self har]
      exact ih ((List.mem_cons.mp hr).resolve_left (Ne.symm har)) hnt (fun b hb => hbefore b (List.mem_cons_of_mem _ hb))
        (fun b hb => hafter b (List.mem_cons_of_mem _ hb))

/-- Semaphore sem is the full semaphore of slot ring r, and no other ring or pool uses it. -/
structure Ctl.FullSemOf (c : Ctl) (r sem : Nat) : Prop where
  valid : c.on (F.chnSrStateValid r) = true
  full : c.get (F.chnSrCfgFullSem r) = sem
  rings : ∀ q < 128, q ≠ r → c.on (F.chnSrStateValid q) = true → c.get (F.chnSrCfgFullSem q) ≠ sem ∧ c.get (F.chnSrCfgFullSem q) + 1 ≠ sem
  lines : ∀ i < 24, c.armedAs i 0 = true → c.get (F.stcCtrlSrc i) = 3 ∨ c.get (F.stcRingSem i) + 1 ≠ sem
  pools : ∀ p < 256, c.on (F.chnCpGuardValid p) = true → c.get (F.chnCpGuardLinksem p) ≠ sem

theorem Ctl.armedAs_of_rd {c d : Ctl} {i : Nat} (h : d.rd (R.stcCtrl i) = c.rd (R.stcCtrl i)) (dir : Nat) : d.armedAs i dir = c.armedAs i dir := by
  simp only [Ctl.armedAs, Ctl.on_of_rd (f := F.stcCtrlArm i) h, Ctl.get_of_rd (f := F.stcCtrlDir i) h]

/-- The uses of a semaphore are read from configuration registers and the rings' VALID bits. -/
theorem Ctl.FullSemOf.of_rd {c d : Ctl} {r sem : Nat} (h : c.FullSemOf r sem) (hr : r < 128)
    (hrd : ∀ a, linkAddr a → a ≠ R.chnSrState r → d.rd a = c.rd a) (hv : d.on (F.chnSrStateValid r) = true) : d.FullSemOf r sem := by
  have hcfg (q : Nat) (hq : q < 128) : d.get (F.chnSrCfgFullSem q) = c.get (F.chnSrCfgFullSem q) :=
    Ctl.get_of_rd (f := F.chnSrCfgFullSem q) (hrd _ (by unfold linkAddr; simp only [R.chnSrCfg]; omega) (by simp only [R.chnSrCfg, R.chnSrState]; omega))
  refine ⟨hv, (hcfg r hr).trans h.full, fun q hq hne hvq => ?_, fun i hi ha => ?_, fun p hp hvp => ?_⟩
  · rw [hcfg q hq]
    refine h.rings q hq hne ((Ctl.on_of_rd (f := F.chnSrStateValid q) (hrd _ ?_ ?_)).symm.trans hvq)
    · unfold linkAddr; simp only [R.chnSrState]; omega
    · simp only [R.chnSrState]; omega
  · have hctl : d.rd (R.stcCtrl i) = c.rd (R.stcCtrl i) :=
      hrd _ (by unfold linkAddr; simp only [R.stcCtrl]; omega) (by simp only [R.stcCtrl, R.chnSrState]; omega)
    rw [Ctl.get_of_rd (f := F.stcCtrlSrc i) hctl, Ctl.get_of_rd (f := F.stcRingSem i)
      (hrd _ (by unfold linkAddr; simp only [R.stcRing]; omega) (by simp only [R.stcRing, R.chnSrState]; omega))]
    exact h.lines i hi ((Ctl.armedAs_of_rd hctl 0).symm.trans ha)
  · have hg : d.rd (R.chnCpGuard p) = c.rd (R.chnCpGuard p) :=
      hrd _ (by unfold linkAddr; simp only [R.chnCpGuard]; omega) (by simp only [R.chnCpGuard, R.chnSrState]; omega)
    rw [Ctl.get_of_rd (f := F.chnCpGuardLinksem p) hg]
    exact h.pools p hp ((Ctl.on_of_rd (f := F.chnCpGuardValid p) hg).symm.trans hvp)

/-- A signal of 1 on the full semaphore of slot ring r, whose slot at TAIL is empty, is the count and that slot's filling (R205). -/
theorem signal_fills {c : Ctl} {r sem : Nat} (hr : r < 128) (hs : sem < 256) (h : c.FullSemOf r sem) (k : Nat)
    (hempty : (c.get (F.chnSrStateFill r)).testBit (c.get (F.chnSrStateTail r)) = false) :
    c.signal sem 1 k = (c.semAdd sem 1).fillOne r k := by
  have hadd (a : Nat) (ha : linkAddr a ∨ a = R.chnSrState r) : (c.semAdd sem 1).rd a = c.rd a :=
    (semAdd_onlyRegs c sem 1).1 a (by
      simp only [linkAddr, R.semCount, R.chnSrState, List.mem_singleton] at ha ⊢
      omega)
  have hstate : (c.semAdd sem 1).rd (R.chnSrState r) = c.rd (R.chnSrState r) := hadd _ (.inr rfl)
  have hbefore : (c.semAdd sem 1).FullSemOf r sem :=
    h.of_rd hr (fun a ha _ => hadd a (.inl ha)) ((Ctl.on_of_rd (f := F.chnSrStateValid r) hstate).trans h.valid)
  have hempty' : ((c.semAdd sem 1).get (F.chnSrStateFill r)).testBit ((c.semAdd sem 1).get (F.chnSrStateTail r)) = false := by
    rw [Ctl.get_of_rd (f := F.chnSrStateFill r) hstate, Ctl.get_of_rd (f := F.chnSrStateTail r) hstate, hempty]
  obtain ⟨⟨hfrd, -⟩, -, -, -, hfv⟩ := fillOne_empty k hempty'
  have hafter : ((c.semAdd sem 1).fillOne r k).FullSemOf r sem :=
    hbefore.of_rd hr (fun a _ hne => hfrd a (by simpa using hne)) (hfv.trans hbefore.valid)
  unfold Ctl.signal
  generalize c.semAdd sem 1 = d at hbefore hafter
  have hring (e : Ctl) (he : e.FullSemOf r sem) (q : Nat) (hq : q < 128) (hne : q ≠ r) :
      (if !e.on (F.chnSrStateValid q) then e
      else if e.get (F.chnSrCfgFullSem q) == sem then forN 1 (fun _ c => c.fillOne q k) e
      else if e.get (F.chnSrCfgFullSem q) + 1 == sem then forN 1 (fun _ c => c.drainOne q k) e else e) = e := by
    cases hv : e.on (F.chnSrStateValid q) with
    | false => rfl
    | true =>
      obtain ⟨hfull, hdrain⟩ := he.rings q hq hne hv
      simp [hfull, hdrain]
  have hself : (if !d.on (F.chnSrStateValid r) then d
      else if d.get (F.chnSrCfgFullSem r) == sem then forN 1 (fun _ c => c.fillOne r k) d
      else if d.get (F.chnSrCfgFullSem r) + 1 == sem then forN 1 (fun _ c => c.drainOne r k) d else d) = d.fillOne r k := by
    rw [hbefore.valid, hbefore.full]
    simp [forN]
  have htags : d.signalTags sem 1 k = d.fillOne r k := by
    unfold Ctl.signalTags
    dsimp only
    rw [foldl_one (r := r) (List.mem_range.mpr hr) List.nodup_range (fun q hq hne => hring d hbefore q (List.mem_range.mp hq) hne)
      (fun q hq hne => by rw [hself]; exact hring _ hafter q (List.mem_range.mp hq) hne), hself]
    refine foldl_unchanged _ _ (List.range 24) fun i hi => ?_
    cases hv : (d.fillOne r k).armedAs i 0 with
    | false => rfl
    | true =>
      rcases hafter.lines i (List.mem_range.mp hi) hv with hsrc | hsem
      · simp [hsrc]
      · simp [hsem]
  rw [htags]
  refine foldl_unchanged _ _ (List.range 256) fun p hp => ?_
  cases hv : (d.fillOne r k).on (F.chnCpGuardValid p) with
  | false => rfl
  | true => simp [hafter.pools p (List.mem_range.mp hp) hv]

/-- Settles O16: the SSIG of a drained core is its signal, and the signal is the count and one slot's filling. -/
theorem signalFillsSlot : Obligations.SignalFillsSlot := by
  unfold Obligations.SignalFillsSlot
  intro k sl s x r hk sem c tail hg hd h hn hvalid hsemr hrings hlines hpools hempty
  have hsem : sem < 256 := Nat.mod_lt _ (by decide)
  have hlow (a : Nat) (ha : a < 0x78000) : (fenced s x ⟨.ssig, sl⟩).rd a = c.rd a := fenced_rd_low h.core _ ha
  have hget {f : Fld} (hf : f.addr < 0x78000) : (fenced s x ⟨.ssig, sl⟩).get f = c.get f := Ctl.get_of_rd (hlow _ hf)
  have hstate : R.chnSrState r < 0x78000 := by simp only [R.chnSrState]; omega
  have hcfg : R.chnSrCfg r < 0x78000 := by simp only [R.chnSrCfg]; omega
  have hcount : R.semCount sem < 0x78000 := by simp only [R.semCount]; omega
  have hfull : (fenced s x ⟨.ssig, sl⟩).FullSemOf r sem :=
    Ctl.FullSemOf.of_rd (c := c) ⟨hvalid, hsemr, hrings, hlines, hpools⟩ r.isLt (fun a ha _ => hlow a (by unfold linkAddr at ha; omega))
      ((Ctl.on_of_rd (f := F.chnSrStateValid r) (hlow _ hstate)).trans hvalid)
  have hempty' : ((fenced s x ⟨.ssig, sl⟩).get (F.chnSrStateFill r)).testBit ((fenced s x ⟨.ssig, sl⟩).get (F.chnSrStateTail r)) = false := by
    rw [hget (f := F.chnSrStateFill r) hstate, hget (f := F.chnSrStateTail r) hstate]
    exact hempty
  have hcnt : Issued.count ⟨.ssig, sl⟩ = 1 := (fieldGet_eq sl.imm 8 16).trans hn
  have hfx : fx (begun s x ⟨.ssig, sl⟩) x ⟨.ssig, sl⟩ (begun s x ⟨.ssig, sl⟩) =
      (begun s x ⟨.ssig, sl⟩).on (fun _ => ((fenced s x ⟨.ssig, sl⟩).semAdd sem 1).fillOne r x.k) := by
    refine (if_pos ((begun_guard0 ..).trans hg)).trans ((fence_commit hd _).trans ?_)
    rw [hcnt]
    exact congrArg (fun d => (begun s x ⟨.ssig, sl⟩).on (fun _ => d)) (signal_fills r.isLt hsem hfull x.k hempty')
  have hadd := semAdd_onlyRegs (fenced s x ⟨.ssig, sl⟩) sem 1
  have hst : ((fenced s x ⟨.ssig, sl⟩).semAdd sem 1).rd (R.chnSrState r) = (fenced s x ⟨.ssig, sl⟩).rd (R.chnSrState r) :=
    hadd.1 _ (by simp only [R.chnSrState, R.semCount, List.mem_singleton]; omega)
  have hsl : ((fenced s x ⟨.ssig, sl⟩).semAdd sem 1).rd (R.chnSrCfg r) = (fenced s x ⟨.ssig, sl⟩).rd (R.chnSrCfg r) :=
    hadd.1 _ (by simp only [R.chnSrCfg, R.semCount, List.mem_singleton]; omega)
  obtain ⟨hfrd, hbits, htail, hhead, -⟩ := fillOne_empty (c := (fenced s x ⟨.ssig, sl⟩).semAdd sem 1) (r := r) x.k (by
    rw [Ctl.get_of_rd (f := F.chnSrStateFill r) hst, Ctl.get_of_rd (f := F.chnSrStateTail r) hst, hempty'])
  rw [Ctl.get_of_rd (f := F.chnSrStateTail r) hst, hget (f := F.chnSrStateTail r) hstate] at hbits htail
  rw [Ctl.get_of_rd (f := F.chnSrStateHead r) hst, hget (f := F.chnSrStateHead r) hstate] at hhead
  rw [Ctl.get_of_rd (f := F.chnSrCfgSlotsM1 r) hsl, hget (f := F.chnSrCfgSlotsM1 r) hcfg] at htail
  have hregs : OnlyRegs [R.semCount sem, R.chnSrState r] (fenced s x ⟨.ssig, sl⟩)
      (((fenced s x ⟨.ssig, sl⟩).semAdd sem 1).fillOne r x.k) := (hadd.mono (by simp)).trans (hfrd.mono (by simp))
  refine (fenced_completes hk h hfx (hregs.mono fun a ha => List.mem_cons_of_mem _ ha).effect ?_ fun a ha => ?_).imp
    fun t ht => ?_
  · obtain ⟨-, u, hu⟩ := hregs
    exact ⟨_, u, hu⟩
  · simp only [List.mem_cons, List.not_mem_nil, or_false] at ha
    rcases ha with rfl | rfl
    · exact hcount
    · exact hstate
  obtain ⟨⟨hstep, hdone, -, -⟩, hleft⟩ := ht
  refine ⟨hstep, hdone, fun i _ => ?_, ?_, ?_, ?_⟩
  · rw [hleft.get_low (f := F.chnSrStateFill r) hstate]
    refine (hbits i).trans ?_
    rw [Ctl.get_of_rd (f := F.chnSrStateFill r) hst, hget (f := F.chnSrStateFill r) hstate]
  · exact (hleft.get_low (f := F.chnSrStateTail r) hstate).trans htail
  · exact (hleft.get_low (f := F.chnSrStateHead r) hstate).trans hhead
  · refine (hleft.get_low (f := F.semCountCount sem) hcount).trans ?_
    refine (Ctl.get_of_rd (f := F.semCountCount sem) (hfrd.1 _ (by simp only [R.chnSrState, R.semCount, List.mem_singleton]; omega))).trans ?_
    rw [get_semAdd, hget (f := F.semCountCount sem) hcount]

end Sys2Proof.Machine
end

section
/-! SEND (06_channels_and_semaphores.md R187, R191, R193): what holds a message, and what turns it back at the sender. -/

namespace Sys2Proof.Machine

/-! Receivers and levels. -/

theorem receivers_of_rd {c d : Ctl} (h : ∀ a < 0x78000, d.rd a = c.rd a) {ch : Nat} (hch : ch < 1024) : d.receivers ch = c.receivers ch := by
  have hroute : d.rd (R.chnRoute ch) = c.rd (R.chnRoute ch) := h _ (by simp only [R.chnRoute]; omega)
  have hgroup (g k : Nat) (hg : g < 32) (hk : k < 128) : d.inGroup g k = c.inGroup g k := by
    unfold Ctl.inGroup
    rw [h _ (by simp only [R.chnGrpMask]; omega)]
  unfold Ctl.receivers
  rw [Ctl.on_of_rd (f := F.chnRouteMcast ch) hroute, Ctl.get_of_rd (f := F.chnRouteDst ch) hroute]
  rw [List.filter_congr fun k hk => hgroup _ k (Nat.mod_lt _ (by decide)) (List.mem_range.mp hk)]

theorem level_of_rd {c d : Ctl} (h : ∀ a < 0x78000, d.rd a = c.rd a) (hf : d.fab.fifos = c.fab.fifos) {ch : Nat} (hch : ch < 1024) :
    d.level ch = c.level ch := by
  unfold Ctl.level Ctl.fifo
  rw [receivers_of_rd h hch, hf]

/-- Whether a channel is capacity-checked and at its CAP (R193). -/
def Ctl.capped (c : Ctl) (ch : Nat) : Bool := c.on (F.chnRouteMode ch) && decide (c.get (F.chnOrderCapM1 ch) + 1 ≤ c.level ch)

theorem capped_of_rd {c d : Ctl} (h : ∀ a < 0x78000, d.rd a = c.rd a) (hf : d.fab.fifos = c.fab.fifos) {ch : Nat} (hch : ch < 1024) :
    d.capped ch = c.capped ch := by
  unfold Ctl.capped
  rw [level_of_rd h hf hch, Ctl.on_of_rd (f := F.chnRouteMode ch) (h _ (by simp only [R.chnRoute]; omega)),
    Ctl.get_of_rd (f := F.chnOrderCapM1 ch) (h _ (by simp only [R.chnOrder]; omega))]

/-! A negative acknowledgement (R191, R197). -/

/-- The negative acknowledgements by line, their line, and the channels whose NACK_STORM the frame has posted. -/
def Ctl.stormSet (c : Ctl) (line : SMap Nat) (win : Nat × Nat) (posted : List Nat) : Ctl :=
  { c with fab := { c.fab with nackLine := line, nackWin := win, stormPosted := posted } }

/-- It counts, and it may post NACK_STORM. -/
theorem nack_cases (c : Ctl) (ch : Nat) : ∃ line win posted, Posted ((c.bump (F.chnNackCount ch) 1).stormSet line win posted) (c.nack ch) := by
  let line := if c.nackWindow = c.fab.nackWin then c.fab.nackLine else []
  let n := mget 0 line ch + 1
  let d := (c.bump (F.chnNackCount ch) 1).stormSet (mset 0 line ch n) c.nackWindow (c.bump (F.chnNackCount ch) 1).fab.stormPosted
  have heq : c.nack ch = if d.get F.chnStormThr = 0 ∨ n < d.get F.chnStormThr ∨ d.fab.stormPosted.contains ch then d
      else (d.stormSet d.fab.nackLine d.fab.nackWin (ch :: d.fab.stormPosted)).event evNackStorm (0x2000 + ch) (w32 n)
        (w32 (d.get (F.chnRouteSrc ch))) := rfl
  rw [heq]
  split
  · exact ⟨_, _, _, .refl _⟩
  · exact ⟨_, _, _, posted_event (d.stormSet d.fab.nackLine d.fab.nackWin (ch :: d.fab.stormPosted)) evNackStorm _ _ _ (by decide)⟩

theorem nack_fab (c : Ctl) (ch : Nat) : ∃ line win posted, (c.nack ch).fab = { c.fab with nackLine := line, nackWin := win, stormPosted := posted } := by
  obtain ⟨line, win, posted, h⟩ := nack_cases c ch
  obtain ⟨r, hr⟩ := Ctl.bump_eq c (F.chnNackCount ch) 1
  rw [hr] at h
  exact ⟨line, win, posted, h.fab⟩

theorem kept_stormSet {x : At} {posts : Bool} {l : List Nat} (c : Ctl) (line : SMap Nat) (win : Nat × Nat) (posted : List Nat) :
    Kept x posts l c (c.stormSet line win posted) := kept_fab c rfl rfl

theorem kept_nack {x : At} (c : Ctl) (ch : Nat) : Kept x true [R.chnNack ch] c (c.nack ch) := by
  obtain ⟨line, win, posted, h⟩ := nack_cases c ch
  exact ((kept_bump c (F.chnNackCount ch) 1).trans (kept_stormSet ..)).trans h.kept

theorem core_nack (c : Ctl) (ch q : Nat) : (c.nack ch).core q = c.core q := by
  obtain ⟨line, win, posted, h⟩ := nack_fab c ch
  exact Ctl.core_of_cores (by rw [h]) q

theorem fifos_nack (c : Ctl) (ch : Nat) : (c.nack ch).fab.fifos = c.fab.fifos := by
  obtain ⟨line, win, posted, h⟩ := nack_fab c ch
  rw [h]

theorem filesAs_nack (c : Ctl) (ch : Nat) : FilesAs c (c.nack ch) := by
  obtain ⟨line, win, posted, h⟩ := nack_fab c ch
  unfold FilesAs
  rw [h]
  exact ⟨rfl, rfl, rfl, rfl⟩

/-- The registers of the channels are none of those that a posting changes. -/
theorem postAddr_channel {a : Nat} (h : 0x60000 ≤ a) (h' : a < 0x68000) : postAddr a = false := by
  unfold postAddr
  simp
  omega

theorem counts_nack (c : Ctl) {ch : Nat} (hch : ch < 1024) : Counts c (c.nack ch) (F.chnNackCount ch) := by
  obtain ⟨line, win, posted, h⟩ := nack_cases c ch
  refine Counts.congr (counts_bump c (F.chnNackCount ch) (by simp) (by simp only [R.chnNack, R.dbgSat]; omega)) rfl ?_
  exact Ctl.get_of_rd (f := F.chnNackCount ch)
    (h.rd _ (postAddr_channel (by simp only [R.chnNack]; omega) (by simp only [R.chnNack]; omega)))

/-! The controllers after the FENCE of a send whose core has nothing gathered (R139). -/

section
variable {s : State} {x : At} {i : Issued} {k : Fin 128}

theorem kept_fenced {posts : Bool} {l : List Nat} (s : State) (x : At) (i : Issued) : Kept x posts l (begun s x i).ctl (fenced s x i) := by
  unfold fenced
  generalize (begun s x i).ctl = c
  refine Kept.trans ?_ (kept_commit _)
  refine ⟨fun _ _ _ => rfl, rfl, rfl, fun _ _ => rfl, ⟨rfl, rfl, rfl, rfl, rfl, rfl, rfl, rfl, rfl, rfl, rfl, rfl, rfl⟩, fun n => ?_, rfl⟩
  by_cases hn : n = x.n
  · rw [hn, Ctl.gather_gatherSet_self]
  · exact mget_mset_ne _ _ _ _ hn

theorem fenced_fifos (h : s.hw.ctl.atCore x.k = some x) (i : Issued) : (fenced s x i).fab.fifos = s.hw.ctl.fab.fifos := by
  obtain ⟨r, cs, ef, em, hb⟩ := begun_eq s x i
  rw [fenced_eq h, hb]
  rfl

theorem filesAs_fenced (h : s.hw.ctl.atCore x.k = some x) (i : Issued) : FilesAs s.hw.ctl (fenced s x i) := by
  obtain ⟨hs, hv, hp, ha⟩ := fenced_files h i
  exact ⟨hs, hv, ha, hp⟩

theorem fenced_self (h : Issues s x i) : ((fenced s x i).core x.q).waiting = [] ∧ ((fenced s x i).core x.q).halting = false ∧
    ((fenced s x i).core x.q).nextPc = (x.pc + 1) % 4096 := by
  rw [fenced_core h.core, if_pos rfl]
  exact ⟨h.waits, rfl, rfl⟩

theorem fenced_capped (h : s.hw.ctl.atCore x.k = some x) (i : Issued) {ch : Nat} (hch : ch < 1024) :
    (fenced s x i).capped ch = s.hw.ctl.capped ch :=
  capped_of_rd (fun _ ha => fenced_rd_low h i ha) (fenced_fifos h i) hch

/-! A message sent. -/

/-- The core holds message m in slot i. -/
def Ctl.holdMsg (c : Ctl) (q : Nat) (i : Issued) (m : Msg) : Ctl :=
  (c.await q i).coreSet q { (c.await q i).core q with msg := m, nacked := false }

theorem core_holdMsg {c : Ctl} {q : Nat} (i : Issued) (m : Msg) (hw : (c.core q).waiting = []) :
    (c.holdMsg q i m).core q = { c.core q with waiting := [i], msg := m, nacked := false } := by
  unfold Ctl.holdMsg
  rw [Ctl.core_coreSet_self, core_await i hw]

theorem kept_holdMsg {posts : Bool} {l : List Nat} (c : Ctl) (i : Issued) (m : Msg) : Kept x posts l c (c.holdMsg x.q i m) :=
  (kept_await c i).trans (kept_coreSet _ rfl rfl)

theorem filesAs_holdMsg (c : Ctl) (q : Nat) (i : Issued) (m : Msg) : FilesAs c (c.holdMsg q i m) := ⟨rfl, rfl, rfl, rfl⟩

theorem fifos_holdMsg (c : Ctl) (q : Nat) (i : Issued) (m : Msg) : (c.holdMsg q i m).fab.fifos = c.fab.fifos := rfl

/-- A message is answered by a command of its own: the bundle's own attempts take nothing for it. -/
theorem tryWait_sends (c : Ctl) (q k : Nat) (hi : i.op.sends = true) : c.tryWait q k i = (c, false) := by
  obtain ⟨o, sl⟩ := i
  have ho : o = .sendV ∨ o = .sendS := by simpa [Op.sends] using hi
  rcases ho with rfl | rfl <;> simp [Ctl.tryWait]

/-- What a send under its guard does once its FENCE is done: turned back at the sender where its channel is at its CAP with RETRY 0
(R193), else held (R187). -/
theorem sendMsg_of {w0 w v : W} (hg : w0.ctl.guard0 x.q i.sl = true) (hv : (w.fence x.n x.k).on (fun c => c.commit x.q) = v) (m : Msg) :
    sendMsg w0 x i m w =
      if v.ctl.capped i.chan && !v.ctl.on (F.chnRouteRetry i.chan) then v.on (fun c => (c.nack i.chan).pregSet x.q i.sl.d.val 0)
      else if v.ctl.capped i.chan then v.on (fun c => (((c.await x.q i).coreSet x.q
        { (c.await x.q i).core x.q with msg := m, nacked := true }).nack i.chan).bump (F.chnStallCount i.chan) 1)
      else v.on (fun c => c.holdMsg x.q i m) := by
  unfold sendMsg gated
  rw [if_pos hg]
  dsimp only
  rw [hv, show (v.ctl.on (F.chnRouteMode i.chan) && decide (v.ctl.get (F.chnOrderCapM1 i.chan) + 1 ≤ v.ctl.level i.chan)) =
    v.ctl.capped i.chan from rfl]
  cases v.ctl.capped i.chan with
  | false => simp only [Bool.false_and, Bool.false_eq_true, if_false, Ctl.holdMsg]
  | true =>
    simp only [if_true]
    rw [W.on_on]

theorem fence_fenced (hd : Drained s x.n x.k) (i : Issued) :
    ((begun s x i).fence x.n x.k).on (fun c => c.commit x.q) = (begun s x i).on (fun _ => fenced s x i) := by
  rw [fence_begun hd, W.on_on]
  exact W.on_at _ _

theorem fx_sendV (w : W) (x : At) (sl : Slot) :
    fx w x ⟨.sendV, sl⟩ w = sendMsg w x ⟨.sendV, sl⟩ (w.ctl.vreg x.q sl.a.val) w := rfl

theorem fx_sendS (w : W) (x : At) (sl : Slot) :
    fx w x ⟨.sendS, sl⟩ w = sendMsg w x ⟨.sendS, sl⟩ ((w.ctl.sreg x.q sl.a.val).setWidth 1024) w := rfl

/-- A send whose channel is not at its CAP holds its bundle (R187). -/
theorem send_holds (hk : x.k = k.val) (hg : s.hw.ctl.guard0 x.q i.sl = true) (hd : Drained s x.n x.k) (h : Issues s x i) (hi : i.op.sends = true)
    {m : Msg} (hfx : fx (begun s x i) x i (begun s x i) = sendMsg (begun s x i) x i m (begun s x i)) (hcap : s.hw.ctl.capped i.chan = false) :
    Completes (onHw s (fun w => w.slot k.val i)) (fun t => TileStep x false [] s t ∧ HeldIn x i s t ∧ (t.hw.ctl.core x.q).msg = m ∧
      (t.hw.ctl.core x.q).nacked = false ∧ t.hw.ctl.fab.fifos = s.hw.ctl.fab.fifos ∧ SameS s t ∧ SameV s t ∧ SameA s t ∧ SameP s t) := by
  have hch : i.chan < 1024 := Nat.mod_lt _ (by decide)
  obtain ⟨hwait, -, -⟩ := fenced_self h
  have hcore := core_holdMsg i m hwait
  have hset : (fx (begun s x i) x i (begun s x i)).settle x = (begun s x i).on (fun _ => (fenced s x i).holdMsg x.q i m) := by
    rw [hfx, sendMsg_of ((begun_guard0 ..).trans hg) (fence_fenced hd i), W.on_ctl, fenced_capped h.core i hch, hcap]
    generalize begun s x i = w
    refine (settle_waits (w := w.on (fun _ => (fenced s x i).holdMsg x.q i m)) (congrArg CoreSt.waiting hcore)
      (tryWait_sends _ x.q x.k hi)).trans ?_
    rw [W.on_ctl, hcore, hi]
    rfl
  have hkept : Kept x false [] (begun s x i).ctl ((fenced s x i).holdMsg x.q i m) := (kept_fenced s x i).trans (kept_holdMsg _ i m)
  have hfiles : FilesAs s.hw.ctl ((fenced s x i).holdMsg x.q i m) := (filesAs_fenced h.core i).trans (filesAs_holdMsg ..)
  have hfifos : ((fenced s x i).holdMsg x.q i m).fab.fifos = s.hw.ctl.fab.fifos := (fifos_holdMsg ..).trans (fenced_fifos h.core i)
  obtain ⟨ts, tv, ta, tp⟩ := FilesAs.same (t := ⟨⟨_, s.hw.mem⟩, s.pending⟩) hfiles
  exact ⟨_, slot_runs hk h hset, tileStep_of_kept h hkept (by simp) (by simp), ⟨pcOf_kept h hkept (by simp), congrArg CoreSt.waiting hcore⟩,
    congrArg CoreSt.msg hcore, congrArg CoreSt.nacked hcore, hfifos, ts, tv, ta, tp⟩

/-- A send at the CAP of a channel with RETRY 0 is turned back at the sender (R191, R193). -/
theorem send_turned (hk : x.k = k.val) (hg : s.hw.ctl.guard0 x.q i.sl = true) (hd : Drained s x.n x.k) (h : Issues s x i)
    (hdst : i.sl.d.val < 16) {m : Msg} (hfx : fx (begun s x i) x i (begun s x i) = sendMsg (begun s x i) x i m (begun s x i))
    (hcap : s.hw.ctl.capped i.chan = true) (hretry : s.hw.ctl.on (F.chnRouteRetry i.chan) = false) :
    Completes (onHw s (fun w => w.slot k.val i)) (fun t => TileStep x true [R.chnNack i.chan] s t ∧ Done x (x.pc + 1) t ∧
      Counts s.hw.ctl t.hw.ctl (F.chnNackCount i.chan) ∧ t.hw.ctl.preg x.q i.sl.d.val = (if i.sl.d.val = 0 then BitVec.allOnes 64 else 0) ∧
      t.hw.ctl.fab.fifos = s.hw.ctl.fab.fifos ∧ SameS s t ∧ SameV s t ∧ SameA s t ∧ PregsBut x.q i.sl.d.val s t) := by
  have hch : i.chan < 1024 := Nat.mod_lt _ (by decide)
  have haddr : R.chnNack i.chan < 0x78000 := by simp only [R.chnNack]; omega
  obtain ⟨hwait, hhalt, hnext⟩ := fenced_self h
  have hfx' : fx (begun s x i) x i (begun s x i) =
      (begun s x i).on (fun _ => ((fenced s x i).nack i.chan).pregSet x.q i.sl.d.val 0) := by
    rw [hfx, sendMsg_of ((begun_guard0 ..).trans hg) (fence_fenced hd i), W.on_ctl, fenced_capped h.core i hch, hcap,
      Ctl.on_of_rd (f := F.chnRouteRetry i.chan) (fenced_rd_low h.core i (by simp only [R.chnRoute]; omega)), hretry]
    rfl
  have hcore : (((fenced s x i).nack i.chan).pregSet x.q i.sl.d.val 0).core x.q = (fenced s x i).core x.q := by
    rw [Ctl.core_pregSet, core_nack]
  refine (acts_completes (posts := true) (l := [R.chnNack i.chan]) hk h hfx' ?_ (by rw [hcore, hwait]) (by rw [hcore, hhalt])
    (by rw [hcore, hnext]) (by simpa using haddr)).imp fun t ⟨hstep, hdone, hrests⟩ => ?_
  · exact (kept_fenced s x i).trans ((kept_nack _ i.chan).trans (filesOnly_pregSet ..).kept)
  obtain ⟨ps, pv, pa⟩ := pregSet_files ((fenced s x i).nack i.chan) x.q i.sl.d.val 0
  obtain ⟨ns, nv, na, np⟩ := (filesAs_fenced h.core i).trans (filesAs_nack _ i.chan)
  obtain ⟨ts, tv, ta, tp⟩ := hrests.files
  have hpreg (r j : Nat) (hj : j < 16) : t.hw.ctl.preg r j =
      if r = x.q ∧ j = i.sl.d.val ∧ i.sl.d.val ≠ 0 then 0 else s.hw.ctl.preg r j := by
    rw [preg_of_file tp, Ctl.preg_pregSet _ _ _ _ _ hdst hj, preg_of_file np]
  refine ⟨hstep, hdone, ?_, ?_, ?_, ts.trans (ps.trans ns), tv.trans (pv.trans nv), ta.trans (pa.trans na), fun r j hj hne => ?_⟩
  · refine (counts_nack (fenced s x i) hch).congr (Ctl.get_of_rd (f := F.chnNackCount i.chan) (fenced_rd_low h.core i haddr)).symm ?_
    refine (hrests.get (f := F.chnNackCount i.chan) haddr).trans ?_
    exact Ctl.get_of_rd (f := F.chnNackCount i.chan) (Ctl.rd_of_regs (Ctl.pregSet_regs ..) _)
  · rw [hpreg _ _ hdst]
    by_cases h0 : i.sl.d.val = 0
    · simp [h0]
    · simp [h0]
  · refine hrests.fifos.trans (Eq.trans ?_ ((fifos_nack _ i.chan).trans (fenced_fifos h.core i)))
    unfold Ctl.pregSet
    split <;> rfl
  · rw [hpreg r j hj, if_neg fun ⟨hr, hjd, _⟩ => hne ⟨hr, hjd⟩]

end

/-- Settles O17: a send within its channel's capacity is held with its message, one beyond it is turned back at the sender. -/
theorem sendHolds : Obligations.SendHolds := by
  unfold Obligations.SendHolds
  intro k sl s x hk ch capped holds turned hg hd
  refine ⟨fun hcap => ⟨fun h => ?_, fun h => ?_⟩, fun hcap hretry => ⟨fun h => ?_, fun h => ?_⟩⟩
  · exact send_holds (i := ⟨.sendV, sl⟩) hk hg hd h rfl ((fx_sendV ..).trans (by rw [begun_vreg])) hcap
  · exact send_holds (i := ⟨.sendS, sl⟩) hk hg hd h rfl ((fx_sendS ..).trans (by rw [begun_sreg])) hcap
  · exact send_turned (i := ⟨.sendV, sl⟩) hk hg hd h (issues_file h .p rfl) (fx_sendV ..) hcap hretry
  · exact send_turned (i := ⟨.sendS, sl⟩) hk hg hd h (issues_file h .p rfl) (fx_sendS ..) hcap hretry

end Sys2Proof.Machine
end

section
/-! RECV and TRECV (06_channels_and_semaphores.md R188, R191): the oldest message of a FIFO, taken or waited for. -/

namespace Sys2Proof.Machine

/-! A message taken. -/

/-- The FIFOs after a message is taken: one entry fewer at its receiver (R188). -/
theorem fifo_receive_at (c : Ctl) {ch k : Nat} (hk : k < 128) (b : Nat) {j : Nat} (hj : j < 128) :
    (c.receive ch k).fifo b j = if b = ch ∧ j = k then (c.fifo ch k).tail else c.fifo b j := by
  refine (mget_mset [] c.fab.fifos (128 * ch + k) (128 * b + j) (c.fifo ch k).tail).trans ?_
  by_cases hat : b = ch ∧ j = k
  · rw [if_pos (by omega), if_pos hat]
  · rw [if_neg (by omega), if_neg hat]
    rfl

section
variable {x : At} {posts : Bool} {l : List Nat}

theorem kept_fifoRegs (c : Ctl) (ch : Nat) : Kept x posts [R.chnFifo ch] c (c.fifoRegs ch) :=
  (kept_put c (F.chnFifoLevel ch) _).trans (kept_put _ (F.chnFifoPeak ch) _)

theorem kept_receive (c : Ctl) (ch k : Nat) : Kept x posts [R.chnFifo ch] c (c.receive ch k) :=
  Kept.trans (d := { c with fab := { c.fab with fifos := mset [] c.fab.fifos (128 * ch + k) (c.fifo ch k).tail } })
    (kept_fab c rfl rfl) (kept_fifoRegs _ ch)

end

theorem filesAs_receive (c : Ctl) (ch k : Nat) : FilesAs c (c.receive ch k) := ⟨rfl, rfl, rfl, rfl⟩

theorem filesAs_bump (c : Ctl) (f : Fld) (n : Nat) : FilesAs c (c.bump f n) := .of_fab (Ctl.fab_bump ..)

theorem begun_fifo (s : State) (x : At) (i : Issued) (ch k : Nat) : (begun s x i).ctl.fifo ch k = s.hw.ctl.fifo ch k := by
  obtain ⟨r, cs, ef, em, h⟩ := begun_eq s x i
  rw [h]
  rfl

/-- A channel's registers are below those of the stands. -/
theorem channelAddr_low {i : Issued} : R.chnStall i.chan < 0x78000 ∧ R.chnFifo i.chan < 0x78000 := by
  have hch : i.chan < 1024 := Nat.mod_lt _ (by decide)
  simp only [R.chnStall, R.chnFifo]
  omega

theorem counts_stall {s : State} {x : At} {i j : Issued} {t : Ctl} (h : ∀ a < 0x78000, t.rd a = ((begun s x i).ctl.bump (F.chnStallCount j.chan) 1).rd a) :
    Counts s.hw.ctl t (F.chnStallCount j.chan) := by
  obtain ⟨hstall, -⟩ := channelAddr_low (i := j)
  refine Counts.congr (counts_bump (begun s x i).ctl (F.chnStallCount j.chan) (by simp) ?_)
    (Ctl.get_of_rd (f := F.chnStallCount j.chan) (begun_rd_low s x i hstall)).symm (Ctl.get_of_rd (f := F.chnStallCount j.chan) (h _ hstall))
  show R.chnStall j.chan ≠ R.dbgSat
  unfold R.dbgSat
  omega

section
variable {s : State} {x : At} {k : Fin 128} {i : Issued}

/-- A RECV on an empty FIFO holds its bundle and counts in STALL (R191). -/
theorem recv_held (hk : x.k = k.val) (hg : s.hw.ctl.guard0 x.q i.sl = true) (h : Issues s x i) (hi : i.op = .recvV ∨ i.op = .recvS)
    (hfx : fx (begun s x i) x i (begun s x i) = recvIssue (begun s x i) x i (begun s x i)) (hq : s.hw.ctl.fifo i.chan x.k = []) :
    Completes (onHw s (fun w => w.slot k.val i)) (fun t => TileStep x false [R.chnStall i.chan, R.stdCoreWait (x.q / 8) (x.q % 8)] s t ∧
      HeldIn x i s t ∧ Counts s.hw.ctl t.hw.ctl (F.chnStallCount i.chan)) := by
  obtain ⟨hstall, -⟩ := channelAddr_low (i := i)
  have hempty := (begun_fifo s x i i.chan x.k).trans hq
  have hfx' : fx (begun s x i) x i (begun s x i) =
      (begun s x i).on (fun _ => ((begun s x i).ctl.bump (F.chnStallCount i.chan) 1).await x.q i) := by
    rw [hfx, recvIssue, gated_on, begun_guard0, hg, if_pos rfl, hempty]
    rfl
  have hfifo : (((begun s x i).ctl.bump (F.chnStallCount i.chan) 1).await x.q i).fifo i.chan x.k = [] := by
    rw [Ctl.fifo_await, Ctl.fifo, Ctl.fab_bump]
    exact hempty
  have hsends : i.op.sends = false := by rcases hi with h | h <;> rw [h] <;> rfl
  refine (awaits_held (l := [R.chnStall i.chan]) hk h hsends hfx' (kept_bump _ (F.chnStallCount i.chan) 1) (Ctl.core_bump ..)
    (tryWait_recv_empty hi hfifo) (by simpa using hstall)).imp fun t ⟨hstep, hheld, _, hrests⟩ => ⟨hstep, hheld, ?_⟩
  exact counts_stall fun a ha => (hrests.rd a ha).trans (Ctl.rd_await ..)

/-- A RECV on a FIFO that holds a message takes it and completes (R188): what it writes is d, of the controllers with the message taken. -/
theorem recv_taken (hk : x.k = k.val) (hg : s.hw.ctl.guard0 x.q i.sl = true) (h : Issues s x i)
    (hfx : fx (begun s x i) x i (begun s x i) = recvIssue (begun s x i) x i (begun s x i)) (hq : s.hw.ctl.fifo i.chan x.k ≠ [])
    {f : Ctl → Ctl} (hf : ∀ c, FilesOnly c (f c) ∧ (f c).fab.cores = c.fab.cores ∧ (f c).fab.fifos = c.fab.fifos)
    (ht : ∀ c : Ctl, c.fifo i.chan x.k = s.hw.ctl.fifo i.chan x.k → c.tryWait x.q x.k i = (f (c.receive i.chan x.k), true)) :
    Completes (onHw s (fun w => w.slot k.val i)) (fun t => TileStep x false [R.chnFifo i.chan] s t ∧ Done x (x.pc + 1) t ∧
      (∀ b j, j < 128 → t.hw.ctl.fifo b j = if b = i.chan ∧ j = x.k then (s.hw.ctl.fifo i.chan x.k).tail else s.hw.ctl.fifo b j) ∧
      ∃ c, FilesAs s.hw.ctl c ∧ FilesAs (f c) t.hw.ctl) := by
  obtain ⟨-, haddr⟩ := channelAddr_low (i := i)
  have hfifo (b j : Nat) : ((begun s x i).ctl.await x.q i).fifo b j = s.hw.ctl.fifo b j := (Ctl.fifo_await ..).trans (begun_fifo ..)
  have hfx' : fx (begun s x i) x i (begun s x i) = (begun s x i).on (fun _ => (begun s x i).ctl.await x.q i) := by
    rw [hfx, recvIssue, gated_on, begun_guard0, hg, if_pos rfl]
    simp [begun_fifo, hq]
  have hfiles : FilesAs s.hw.ctl (((begun s x i).ctl.await x.q i).receive i.chan x.k) :=
    ((filesAs_begun s x i).trans (filesAs_await ..)).trans (filesAs_receive ..)
  obtain ⟨honly, hcores, hfifos⟩ := hf (((begun s x i).ctl.await x.q i).receive i.chan x.k)
  have hat (b : Nat) {j : Nat} (hj : j < 128) := fifo_receive_at ((begun s x i).ctl.await x.q i) (ch := i.chan) (k := x.k) (hk ▸ k.isLt) b hj
  have hd : Kept x false [R.chnFifo i.chan] ((begun s x i).ctl.await x.q i) (f (((begun s x i).ctl.await x.q i).receive i.chan x.k)) :=
    (kept_receive ..).trans honly.kept
  have hcores' : (f (((begun s x i).ctl.await x.q i).receive i.chan x.k)).fab.cores = ((begun s x i).ctl.await x.q i).fab.cores :=
    hcores.trans (took_receive ..).cores
  refine (awaits_taken (l := [R.chnFifo i.chan]) hk h hfx' (.refl _) rfl (ht _ (hfifo ..)) hd hcores' (by simpa using haddr)).imp
    fun t ⟨hstep, hdone, hrests⟩ => ⟨hstep, hdone, fun b j hj => ?_, _, hfiles, hrests.files⟩
  rw [hrests.fifo, Ctl.fifo, hfifos, ← Ctl.fifo, hat b hj, hfifo, hfifo]

/-- Operand C of an issued slot lies in its file. -/
theorem issues_file_c (h : Issues s x i) {f : RFile} (hf : i.op.form.c = some f) : i.sl.c.val < f.size := by
  obtain ⟨hreg, -⟩ := slotCause_zero (issues_cause h)
  simp only [Issued.badReg, hf, Bool.or_eq_false_iff, Bool.not_eq_false', Bool.and_eq_true, inFile, decide_eq_true_eq] at hreg
  exact hreg.1.2

/-- What TRECV.V does under its guard (R191). -/
def Ctl.tryReceive (c : Ctl) (q k ch d p : Nat) : Ctl :=
  match c.fifo ch k with
  | [] => (c.bump (F.chnStallCount ch) 1).pregSet q p 0
  | m :: _ => ((c.receive ch k).vregSet q d m).pregSet q p (BitVec.allOnes 64)

theorem tryReceive_empty {c : Ctl} {q k ch d p : Nat} (h : c.fifo ch k = []) :
    c.tryReceive q k ch d p = (c.bump (F.chnStallCount ch) 1).pregSet q p 0 := by rw [Ctl.tryReceive, h]

theorem tryReceive_taken {c : Ctl} {q k ch d p : Nat} {m : Msg} {ms : List Msg} (h : c.fifo ch k = m :: ms) :
    c.tryReceive q k ch d p = ((c.receive ch k).vregSet q d m).pregSet q p (BitVec.allOnes 64) := by rw [Ctl.tryReceive, h]

theorem fx_trecvV (w : W) (x : At) (sl : Slot) (hg : w.ctl.guard0 x.q sl = true) : fx w x ⟨.trecvV, sl⟩ w =
    w.on (fun _ => w.ctl.tryReceive x.q x.k (⟨.trecvV, sl⟩ : Issued).chan sl.d.val sl.c.val) := (if_pos hg).trans (W.on_at _ _)

end

section
variable {s : State} {x : At} {k : Fin 128} {sl : Slot}

/-- TRECV.V on an empty FIFO (R191). -/
theorem trecv_empty (hk : x.k = k.val) (hg : s.hw.ctl.guard0 x.q sl = true) (h : Issues s x ⟨.trecvV, sl⟩)
    (hq : s.hw.ctl.fifo (sl.imm.toNat % 1024) x.k = []) :
    Completes (exec (.trecvV k sl) s) (fun t => SameS s t ∧ SameA s t ∧ PregsBut x.q sl.c.val s t ∧
      t.hw.ctl.preg x.q sl.c.val = (if sl.c.val = 0 then BitVec.allOnes 64 else 0) ∧
      TileStep x false [R.chnStall (sl.imm.toNat % 1024)] s t ∧ Done x (x.pc + 1) t ∧ SameV s t ∧
      Counts s.hw.ctl t.hw.ctl (F.chnStallCount (sl.imm.toNat % 1024))) := by
  obtain ⟨hstall, -⟩ := channelAddr_low (i := ⟨.trecvV, sl⟩)
  obtain ⟨hwait, hhalt, hnext, -, -⟩ := begun_self h
  have hc : sl.c.val < 16 := issues_file_c h rfl
  have hfx := fx_trecvV (begun s x ⟨.trecvV, sl⟩) x sl ((begun_guard0 ..).trans hg)
  have hq' : s.hw.ctl.fifo (⟨.trecvV, sl⟩ : Issued).chan x.k = [] := hq
  rw [tryReceive_empty ((begun_fifo ..).trans hq')] at hfx
  have hbump := filesAs_bump (begun s x ⟨.trecvV, sl⟩).ctl (F.chnStallCount (⟨.trecvV, sl⟩ : Issued).chan) 1
  have hkept := kept_bump (x := x) (posts := false) (begun s x ⟨.trecvV, sl⟩).ctl (F.chnStallCount (⟨.trecvV, sl⟩ : Issued).chan) 1
  have hcore : (((begun s x ⟨.trecvV, sl⟩).ctl.bump (F.chnStallCount (⟨.trecvV, sl⟩ : Issued).chan) 1).pregSet x.q sl.c.val 0).core x.q =
      (begun s x ⟨.trecvV, sl⟩).ctl.core x.q := by rw [Ctl.core_pregSet, Ctl.core_bump]
  refine (acts_completes (posts := false) hk h hfx (hkept.trans (filesOnly_pregSet ..).kept) (by rw [hcore, hwait]) (by rw [hcore, hhalt])
    (by rw [hcore, hnext]) (by simpa using hstall)).imp fun t ⟨hstep, hdone, hrests⟩ => ?_
  obtain ⟨ps, pv, pa⟩ := pregSet_files ((begun s x ⟨.trecvV, sl⟩).ctl.bump (F.chnStallCount (⟨.trecvV, sl⟩ : Issued).chan) 1) x.q sl.c.val 0
  obtain ⟨bs, bv, ba, bp⟩ := (filesAs_begun s x ⟨.trecvV, sl⟩).trans hbump
  obtain ⟨ts, tv, ta, tp⟩ := hrests.files
  have hpreg (r j : Nat) (hj : j < 16) : t.hw.ctl.preg r j = if r = x.q ∧ j = sl.c.val ∧ sl.c.val ≠ 0 then 0 else s.hw.ctl.preg r j := by
    rw [preg_of_file tp, Ctl.preg_pregSet _ _ _ _ _ hc hj, preg_of_file bp]
  refine ⟨ts.trans (ps.trans bs), ta.trans (pa.trans ba), fun r j hj hne => ?_, ?_, hstep, hdone, tv.trans (pv.trans bv), ?_⟩
  · rw [hpreg r j hj, if_neg fun ⟨hr, hjc, _⟩ => hne ⟨hr, hjc⟩]
  · rw [hpreg _ _ hc]
    by_cases h0 : sl.c.val = 0
    · simp [h0]
    · simp [h0]
  · exact counts_stall (j := ⟨.trecvV, sl⟩) fun a ha => (hrests.rd a ha).trans (Ctl.rd_of_regs (Ctl.pregSet_regs ..) a)

/-- A TRECV.V that writes the message m and its predicate to the controllers c completes. -/
theorem trecv_writes {l : List Nat} {c : Ctl} {m : Msg} (hk : x.k = k.val) (h : Issues s x ⟨.trecvV, sl⟩)
    (hfx : fx (begun s x ⟨.trecvV, sl⟩) x ⟨.trecvV, sl⟩ (begun s x ⟨.trecvV, sl⟩) =
      (begun s x ⟨.trecvV, sl⟩).on (fun _ => (c.vregSet x.q sl.d.val m).pregSet x.q sl.c.val (BitVec.allOnes 64)))
    (hkept : Kept x false l (begun s x ⟨.trecvV, sl⟩).ctl c) (hcores : c.fab.cores = (begun s x ⟨.trecvV, sl⟩).ctl.fab.cores)
    (hfiles : FilesAs s.hw.ctl c) (hl : ∀ a ∈ l, a < 0x78000) :
    Completes (exec (.trecvV k sl) s) (fun t => TileStep x false l s t ∧ Done x (x.pc + 1) t ∧ t.hw.ctl.fab.fifos = c.fab.fifos ∧
      SameS s t ∧ SameA s t ∧ PregsBut x.q sl.c.val s t ∧ t.hw.ctl.preg x.q sl.c.val = BitVec.allOnes 64 ∧
      t.hw.ctl.vreg x.q sl.d.val = m ∧ VregsBut x.q sl.d.val s t) := by
  obtain ⟨hwait, hhalt, hnext, -, -⟩ := begun_self h
  have hc : sl.c.val < 16 := issues_file_c h rfl
  have hd : sl.d.val < 32 := issues_file h .v rfl
  have hcore : ((c.vregSet x.q sl.d.val m).pregSet x.q sl.c.val (BitVec.allOnes 64)).core x.q = (begun s x ⟨.trecvV, sl⟩).ctl.core x.q :=
    (Ctl.core_pregSet ..).trans (Ctl.core_of_cores hcores x.q)
  refine (acts_completes (posts := false) hk h hfx ((hkept.trans (filesOnly_vregSet ..).kept).trans (filesOnly_pregSet ..).kept)
    (by rw [hcore, hwait]) (by rw [hcore, hhalt]) (by rw [hcore, hnext]) hl).imp fun t ⟨hstep, hdone, hrests⟩ => ?_
  obtain ⟨ps, pv, pa⟩ := pregSet_files (c.vregSet x.q sl.d.val m) x.q sl.c.val (BitVec.allOnes 64)
  obtain ⟨cs, cv, ca, cp⟩ := hfiles
  obtain ⟨ts, tv, ta, tp⟩ := hrests.files
  have hpreg (r j : Nat) (hj : j < 16) : t.hw.ctl.preg r j =
      if r = x.q ∧ j = sl.c.val ∧ sl.c.val ≠ 0 then BitVec.allOnes 64 else s.hw.ctl.preg r j := by
    have hleft : (c.vregSet x.q sl.d.val m).preg r j = s.hw.ctl.preg r j := preg_of_file cp r j
    rw [preg_of_file tp, Ctl.preg_pregSet _ _ _ _ _ hc hj, hleft]
  have hvreg (r j : Nat) (hj : j < 32) : t.hw.ctl.vreg r j = if r = x.q ∧ j = sl.d.val then m else s.hw.ctl.vreg r j := by
    rw [Ctl.vreg, tv, pv, ← Ctl.vreg, Ctl.vreg_vregSet _ _ _ _ _ hd hj, Ctl.vreg, cv, ← Ctl.vreg]
  refine ⟨hstep, hdone, hrests.fifos.trans ?_, ts.trans (ps.trans cs), ta.trans (pa.trans ca), fun r j hj hne => ?_, ?_, ?_, fun r j hj hne => ?_⟩
  · unfold Ctl.pregSet
    split <;> rfl
  · rw [hpreg r j hj, if_neg fun ⟨hr, hjc, _⟩ => hne ⟨hr, hjc⟩]
  · rw [hpreg _ _ hc]
    by_cases h0 : sl.c.val = 0
    · simp [h0]
    · simp [h0]
  · rw [hvreg _ _ hd, if_pos ⟨rfl, rfl⟩]
  · rw [hvreg r j hj, if_neg hne]

/-- TRECV.V on a FIFO that holds messages (R188, R191). -/
theorem trecv_taken (hk : x.k = k.val) (hg : s.hw.ctl.guard0 x.q sl = true) (h : Issues s x ⟨.trecvV, sl⟩) {m : Msg} {ms : List Msg}
    (hq : s.hw.ctl.fifo (sl.imm.toNat % 1024) x.k = m :: ms) :
    Completes (exec (.trecvV k sl) s) (fun t => SameS s t ∧ SameA s t ∧ PregsBut x.q sl.c.val s t ∧
      t.hw.ctl.preg x.q sl.c.val = BitVec.allOnes 64 ∧
      (TileStep x false [R.chnFifo (sl.imm.toNat % 1024)] s t ∧ Done x (x.pc + 1) t ∧
        (∀ b j, j < 128 → t.hw.ctl.fifo b j = if b = sl.imm.toNat % 1024 ∧ j = x.k then ms else s.hw.ctl.fifo b j)) ∧
      t.hw.ctl.vreg x.q sl.d.val = m ∧ VregsBut x.q sl.d.val s t) := by
  obtain ⟨-, haddr⟩ := channelAddr_low (i := ⟨.trecvV, sl⟩)
  have hq' : s.hw.ctl.fifo (⟨.trecvV, sl⟩ : Issued).chan x.k = m :: ms := hq
  have hfx := fx_trecvV (begun s x ⟨.trecvV, sl⟩) x sl ((begun_guard0 ..).trans hg)
  rw [tryReceive_taken ((begun_fifo ..).trans hq')] at hfx
  refine (trecv_writes hk h hfx (kept_receive ..) (took_receive ..).cores ((filesAs_begun ..).trans (filesAs_receive ..))
    (by simpa using haddr)).imp fun t ⟨hstep, hdone, hfifos, ts, ta, hp, hpd, hv, hvd⟩ => ⟨ts, ta, hp, hpd, ⟨hstep, hdone, fun b j hj => ?_⟩, hv, hvd⟩
  rw [Ctl.fifo, hfifos, ← Ctl.fifo, fifo_receive_at _ (hk ▸ k.isLt) b hj, begun_fifo, begun_fifo, hq', List.tail_cons,
    show (⟨.trecvV, sl⟩ : Issued).chan = sl.imm.toNat % 1024 from rfl]

theorem fx_recvV (w : W) (x : At) (sl : Slot) : fx w x ⟨.recvV, sl⟩ w = recvIssue w x ⟨.recvV, sl⟩ w := rfl

theorem fx_recvS (w : W) (x : At) (sl : Slot) : fx w x ⟨.recvS, sl⟩ w = recvIssue w x ⟨.recvS, sl⟩ w := rfl

/-- RECV.V on a FIFO that holds messages (R188). -/
theorem recvV_taken (hk : x.k = k.val) (hg : s.hw.ctl.guard0 x.q sl = true) (h : Issues s x ⟨.recvV, sl⟩) {m : Msg} {ms : List Msg}
    (hq : s.hw.ctl.fifo (sl.imm.toNat % 1024) x.k = m :: ms) :
    Completes (exec (.recvV k sl) s) (fun t => (TileStep x false [R.chnFifo (sl.imm.toNat % 1024)] s t ∧ Done x (x.pc + 1) t ∧
        (∀ b j, j < 128 → t.hw.ctl.fifo b j = if b = sl.imm.toNat % 1024 ∧ j = x.k then ms else s.hw.ctl.fifo b j)) ∧
      t.hw.ctl.vreg x.q sl.d.val = m ∧ VregsBut x.q sl.d.val s t ∧ SameS s t ∧ SameA s t ∧ SameP s t) := by
  have hd : sl.d.val < 32 := issues_file h .v rfl
  have hq' : s.hw.ctl.fifo (⟨.recvV, sl⟩ : Issued).chan x.k = m :: ms := hq
  refine (recv_taken (i := ⟨.recvV, sl⟩) (f := fun c => c.vregSet x.q sl.d.val m) hk hg h (fx_recvV ..) (by simp [hq'])
    (fun c => ⟨filesOnly_vregSet .., rfl, rfl⟩) (fun c hc => tryWait_recvV (hc.trans hq'))).imp
    fun t ⟨hstep, hdone, hfifo, c, ⟨cs, cv, ca, cp⟩, ts, tv, ta, tp⟩ => ?_
  have hvreg (r j : Nat) (hj : j < 32) : t.hw.ctl.vreg r j = if r = x.q ∧ j = sl.d.val then m else s.hw.ctl.vreg r j := by
    rw [Ctl.vreg, tv, ← Ctl.vreg, Ctl.vreg_vregSet _ _ _ _ _ hd hj, Ctl.vreg, cv, ← Ctl.vreg]
  rw [hq'] at hfifo
  exact ⟨⟨hstep, hdone, hfifo⟩, by rw [hvreg _ _ hd, if_pos ⟨rfl, rfl⟩], fun r j hj hne => by rw [hvreg r j hj, if_neg hne],
    ts.trans cs, ta.trans ca, tp.trans cp⟩

/-- RECV.S on a FIFO that holds messages (R188). -/
theorem recvS_taken (hk : x.k = k.val) (hg : s.hw.ctl.guard0 x.q sl = true) (h : Issues s x ⟨.recvS, sl⟩) {m : Msg} {ms : List Msg}
    (hq : s.hw.ctl.fifo (sl.imm.toNat % 1024) x.k = m :: ms) :
    Completes (exec (.recvS k sl) s) (fun t => (TileStep x false [R.chnFifo (sl.imm.toNat % 1024)] s t ∧ Done x (x.pc + 1) t ∧
        (∀ b j, j < 128 → t.hw.ctl.fifo b j = if b = sl.imm.toNat % 1024 ∧ j = x.k then ms else s.hw.ctl.fifo b j)) ∧
      t.hw.ctl.sreg x.q sl.d.val = (if sl.d.val = 0 then 0 else m.setWidth 32) ∧ SregsBut x.q sl.d.val s t ∧ SameV s t ∧ SameA s t ∧ SameP s t) := by
  have hd : sl.d.val < 64 := sl.d.isLt
  have hq' : s.hw.ctl.fifo (⟨.recvS, sl⟩ : Issued).chan x.k = m :: ms := hq
  refine (recv_taken (i := ⟨.recvS, sl⟩) (f := fun c => c.sregSet x.q sl.d.val (m.setWidth 32)) hk hg h (fx_recvS ..) (by simp [hq'])
    (fun c => ⟨filesOnly_sregSet .., by unfold Ctl.sregSet; split <;> rfl, by unfold Ctl.sregSet; split <;> rfl⟩)
    (fun c hc => tryWait_recvS (hc.trans hq'))).imp
    fun t ⟨hstep, hdone, hfifo, c, ⟨cs, cv, ca, cp⟩, ts, tv, ta, tp⟩ => ?_
  obtain ⟨wv, wp, wa⟩ := sregSet_files c x.q sl.d.val (m.setWidth 32)
  have hsreg (r j : Nat) (hj : j < 64) : t.hw.ctl.sreg r j =
      if r = x.q ∧ j = sl.d.val ∧ sl.d.val ≠ 0 then m.setWidth 32 else s.hw.ctl.sreg r j := by
    rw [Ctl.sreg, ts, ← Ctl.sreg, Ctl.sreg_sregSet _ _ _ _ _ hd hj, Ctl.sreg, cs, ← Ctl.sreg]
  rw [hq'] at hfifo
  refine ⟨⟨hstep, hdone, hfifo⟩, ?_, fun r j hj hne => ?_, tv.trans (wv.trans cv), ta.trans (wa.trans ca), tp.trans (wp.trans cp)⟩
  · rw [hsreg _ _ hd]
    by_cases h0 : sl.d.val = 0
    · simp [h0]
    · simp [h0]
  · rw [hsreg r j hj, if_neg fun ⟨hr, hjd, _⟩ => hne ⟨hr, hjd⟩]

end

/-- Settles O19: by whether the FIFO is empty as the bundle issues. -/
theorem receives : Obligations.Receives := by
  unfold Obligations.Receives
  intro k sl s x hk ch q wait popped hg
  cases hq : s.hw.ctl.fifo ch x.k with
  | nil =>
    have hq' : q = [] := hq
    simp only [if_pos hq', decide_eq_false (not_not.mpr hq')]
    exact ⟨fun h => recv_held (i := ⟨.recvV, sl⟩) hk hg h (.inl rfl) (fx_recvV ..) hq,
      fun h => recv_held (i := ⟨.recvS, sl⟩) hk hg h (.inr rfl) (fx_recvS ..) hq, fun h => trecv_empty hk hg h hq⟩
  | cons m ms =>
    have hq' : q = m :: ms := hq
    have hne : q ≠ [] := by rw [hq']; exact List.cons_ne_nil m ms
    simp only [if_neg hne, decide_eq_true hne]
    simp only [popped, hq', List.tail_cons, List.headD_cons]
    exact ⟨fun h => recvV_taken hk hg h hq, fun h => recvS_taken hk hg h hq,
      fun h => (trecv_taken hk hg h hq).imp fun t ⟨ts, ta, tp, hp, hrest⟩ => ⟨ts, ta, tp, by rw [hp]; split <;> rfl, hrest⟩⟩

end Sys2Proof.Machine
end

section
/-! SEND_ANSWER and SEND_RETRY (06_channels_and_semaphores.md R187 … R191): a held message accepted by every receiver or by none. -/

namespace Sys2Proof.Machine

/-! A message delivered. -/

/-- Message m last in the FIFO of receiver k. -/
def Ctl.push (c : Ctl) (ch : Nat) (m : Msg) (k : Nat) : Ctl :=
  { c with fab := { c.fab with fifos := mset [] c.fab.fifos (128 * ch + k) (c.fifo ch k ++ [m]) } }

theorem deliver_eq (c : Ctl) (ch : Nat) (m : Msg) :
    c.deliver ch m = (((c.receivers ch).foldl (fun c k => c.push ch m k) c).bump (F.chnMsgCount ch) 1).fifoRegs ch := rfl

theorem fifo_push (c : Ctl) {ch k : Nat} (m : Msg) (hk : k < 128) (b : Nat) {j : Nat} (hj : j < 128) :
    (c.push ch m k).fifo b j = if b = ch ∧ j = k then c.fifo b j ++ [m] else c.fifo b j := by
  refine (mget_mset [] c.fab.fifos (128 * ch + k) (128 * b + j) (c.fifo ch k ++ [m])).trans ?_
  by_cases hat : b = ch ∧ j = k
  · rw [if_pos (by omega), if_pos hat, hat.1, hat.2]
  · rw [if_neg (by omega), if_neg hat]
    rfl

theorem pushes_eq (l : List Nat) (ch : Nat) (m : Msg) :
    ∀ c : Ctl, ∃ f, l.foldl (fun c k => c.push ch m k) c = { c with fab := { c.fab with fifos := f } } := by
  induction l with
  | nil => exact fun c => ⟨c.fab.fifos, rfl⟩
  | cons k l ih => exact fun c => ih (c.push ch m k)

/-- Each of the receivers gets the message once (R196). -/
theorem fifo_pushes {l : List Nat} (hn : l.Nodup) (hl : ∀ k ∈ l, k < 128) (ch : Nat) (m : Msg) (b : Nat) {j : Nat} (hj : j < 128) (c : Ctl) :
    (l.foldl (fun c k => c.push ch m k) c).fifo b j = if b = ch ∧ j ∈ l then c.fifo b j ++ [m] else c.fifo b j := by
  induction l generalizing c with
  | nil => simp
  | cons k l ih =>
    obtain ⟨hk, hn⟩ := List.nodup_cons.mp hn
    obtain ⟨hk128, hl⟩ := List.forall_mem_cons.mp hl
    rw [List.foldl_cons, ih hn hl, fifo_push c m hk128 b hj]
    by_cases hjk : j = k
    · simp [hjk, hk]
    · simp [hjk]

theorem receivers_nodup (c : Ctl) (ch : Nat) : (c.receivers ch).Nodup := by
  unfold Ctl.receivers
  split
  · exact List.nodup_range.filter _
  · exact List.nodup_singleton _

theorem receivers_lt (c : Ctl) (ch : Nat) : ∀ k ∈ c.receivers ch, k < 128 := by
  intro k hk
  unfold Ctl.receivers at hk
  split at hk
  · exact List.mem_range.mp (List.mem_filter.mp hk).1
  · rw [List.mem_singleton.mp hk]
    exact Ctl.get_lt c (F.chnRouteDst ch)

section
variable {x : At} {posts : Bool}

theorem kept_deliver (c : Ctl) (ch : Nat) (m : Msg) : Kept x posts [R.chnMsg ch, R.chnFifo ch] c (c.deliver ch m) := by
  obtain ⟨f, hf⟩ := pushes_eq (c.receivers ch) ch m c
  rw [deliver_eq, hf]
  refine Kept.trans (d := { c with fab := { c.fab with fifos := f } }) (kept_fab c rfl rfl) ?_
  exact ((kept_bump _ (F.chnMsgCount ch) 1).mono (by simp)).trans ((kept_fifoRegs _ ch).mono (by simp))

end

theorem fab_fifoRegs (c : Ctl) (ch : Nat) : (c.fifoRegs ch).fab = c.fab := rfl

theorem onlyRegs_fifoRegs (c : Ctl) (ch : Nat) : OnlyRegs [R.chnFifo ch] c (c.fifoRegs ch) :=
  (onlyRegs_put c (F.chnFifoLevel ch) _).trans (onlyRegs_put _ (F.chnFifoPeak ch) _)

theorem deliver_fab (c : Ctl) (ch : Nat) (m : Msg) : ∃ f, (c.deliver ch m).fab = { c.fab with fifos := f } := by
  obtain ⟨f, hf⟩ := pushes_eq (c.receivers ch) ch m c
  rw [deliver_eq, hf, fab_fifoRegs, Ctl.fab_bump]
  exact ⟨f, rfl⟩

theorem fifo_deliver (c : Ctl) (ch : Nat) (m : Msg) (b : Nat) {j : Nat} (hj : j < 128) :
    (c.deliver ch m).fifo b j = if b = ch ∧ j ∈ c.receivers ch then c.fifo b j ++ [m] else c.fifo b j := by
  rw [deliver_eq, Ctl.fifo, fab_fifoRegs, Ctl.fab_bump, ← Ctl.fifo]
  exact fifo_pushes (receivers_nodup c ch) (receivers_lt c ch) ch m b hj c

theorem counts_deliver (c : Ctl) {ch : Nat} (hch : ch < 1024) (m : Msg) : Counts c (c.deliver ch m) (F.chnMsgCount ch) := by
  obtain ⟨f, hf⟩ := pushes_eq (c.receivers ch) ch m c
  rw [deliver_eq, hf]
  refine Counts.congr (counts_bump { c with fab := { c.fab with fifos := f } } (F.chnMsgCount ch) (by simp)
    (by simp only [R.chnMsg, R.dbgSat]; omega)) rfl (Ctl.get_of_rd (f := F.chnMsgCount ch) ?_)
  exact (onlyRegs_fifoRegs _ ch).1 _ (by simp only [R.chnMsg, R.chnFifo, List.mem_singleton]; omega)

/-! The answer. -/

/-- The message that slot i of the core at x holds answered: the slot waits no more, its predicate says which answer it was, and the
PC goes to p. -/
def Ctl.answered (c : Ctl) (x : At) (i : Issued) (v : BitVec 64) (p : Nat) : Ctl :=
  ((c.coreSet x.q { c.core x.q with waiting := [], nacked := false }).pregSet x.q i.sl.d.val v).put (F.stdCorePcPc x.n (x.q % 8)) p

/-- A negative acknowledgement of a message that the core at x goes on holding, counted: the first of a message counts as a wait (R191). -/
def Ctl.turnedBack (c : Ctl) (x : At) (ch : Nat) (again : Bool) : Ctl :=
  if again then c.nack ch else ((c.nack ch).bump (F.chnStallCount ch) 1).countWait x

/-- A message that the core at x goes on holding after a negative acknowledgement (R189). -/
def Ctl.heldBack (c : Ctl) (x : At) (ch : Nat) (again : Bool) : Ctl :=
  (c.turnedBack x ch again).coreSet x.q { (c.turnedBack x ch again).core x.q with nacked := true }

section
variable {x : At} {i : Issued} {posts : Bool} {l : List Nat} {c d : Ctl}

theorem kept_answered (c : Ctl) (i : Issued) (v : BitVec 64) (p : Nat) : Kept x posts [x.pcAddr] c (c.answered x i v p) :=
  Kept.trans (d := (c.coreSet x.q { c.core x.q with waiting := [], nacked := false }).pregSet x.q i.sl.d.val v)
    ((kept_coreSet c (v := { c.core x.q with waiting := [], nacked := false }) rfl rfl).trans (filesOnly_pregSet ..).kept) (kept_put _ (F.stdCorePcPc x.n (x.q % 8)) p)

theorem core_answered (c : Ctl) (i : Issued) (v : BitVec 64) (p : Nat) :
    (c.answered x i v p).core x.q = { c.core x.q with waiting := [], nacked := false } := by
  unfold Ctl.answered
  rw [Ctl.core_put, Ctl.core_pregSet, Ctl.core_coreSet_self]

theorem pc_answered (c : Ctl) (i : Issued) (v : BitVec 64) (p : Nat) :
    (c.answered x i v p).get (F.stdCorePcPc (x.q / 8) (x.q % 8)) = p % 4096 := get_put_pc _ x p

theorem preg_answered (c : Ctl) (v : BitVec 64) (p : Nat) (hd : i.sl.d.val < 16) :
    (c.answered x i v p).preg x.q i.sl.d.val = if i.sl.d.val = 0 then BitVec.allOnes 64 else v := by
  refine (Ctl.preg_pregSet _ _ _ _ _ hd hd _).trans ?_
  by_cases h0 : i.sl.d.val = 0
  · simp [h0]
  · simp [h0]

theorem answered_files (c : Ctl) (i : Issued) (v : BitVec 64) (p : Nat) : (c.answered x i v p).fab.sregs = c.fab.sregs ∧
    (c.answered x i v p).fab.vregs = c.fab.vregs ∧ (c.answered x i v p).fab.aregs = c.fab.aregs ∧
    (c.answered x i v p).fab.fifos = c.fab.fifos := by
  unfold Ctl.answered Ctl.pregSet
  split <;> exact ⟨rfl, rfl, rfl, rfl⟩

theorem rd_answered_low (c : Ctl) (i : Issued) (v : BitVec 64) (p : Nat) {a : Nat} (ha : a < 0x78000) : (c.answered x i v p).rd a = c.rd a := by
  obtain ⟨hpc, -⟩ := coreAddr_ge x
  exact (Ctl.rd_put_ne _ (F.stdCorePcPc x.n (x.q % 8)) _ (b := a) (show a ≠ x.pcAddr by omega)).trans (Ctl.rd_of_regs (Ctl.pregSet_regs ..) a)

/-- A bundle whose one waiting slot is answered completes (R140). -/
theorem answered_finishes {w : W} (v : BitVec 64) (hc : c.core x.q = d.core x.q) (hw : (d.core x.q).waiting = [i])
    (hh : (d.core x.q).halting = false) :
    (w.on (fun _ => (c.coreSet x.q { c.core x.q with waiting := (c.core x.q).waiting.filter (fun j => j != i), nacked := false }).pregSet
      x.q i.sl.d.val v)).finish x = w.on (fun _ => c.answered x i v (d.core x.q).nextPc) := by
  have hfilter : (c.core x.q).waiting.filter (fun j => j != i) = [] := by rw [hc, hw]; simp
  rw [hfilter]
  unfold W.finish
  rw [W.on_ctl, Ctl.core_pregSet, Ctl.core_coreSet_self, hc, if_neg (by simp), hh, if_neg Bool.false_ne_true]
  unfold Ctl.answered
  rw [hc]
  rfl

/-- What an answer to the message held in slot i does. -/
def Ctl.answerMsg (c : Ctl) (x : At) (i : Issued) (again : Bool) : Ctl :=
  if !c.capped i.chan && c.accepts i.chan then
    (c.deliver i.chan (c.core x.q).msg).answered x i (BitVec.allOnes 64) (c.core x.q).nextPc
  else if c.on (F.chnRouteRetry i.chan) then c.heldBack x i.chan again
  else (c.nack i.chan).answered x i 0 (c.core x.q).nextPc

theorem answer_eq {w : W} {k : Nat} {again : Bool} (hr : w.ctl.running = true) (hx : w.ctl.atCore k = some x)
    (hi : i.op = .sendV ∨ i.op = .sendS) (hw : (w.ctl.core x.q).waiting = [i]) (hh : (w.ctl.core x.q).halting = false)
    (hn : (w.ctl.core x.q).nacked = again) : w.answer k again = w.on (fun _ => w.ctl.answerMsg x i again) := by
  have hfind : (w.ctl.core x.q).waiting.find? (fun i => i.op == .sendV || i.op == .sendS) = some i := by
    rw [hw, List.find?_cons_of_pos (by simpa using hi)]
  have hgo : ¬ (!w.ctl.running || (w.ctl.core x.q).nacked != again) = true := by rw [hr, hn]; simp
  have hcapped : (w.ctl.on (F.chnRouteMode i.chan) && decide (w.ctl.get (F.chnOrderCapM1 i.chan) + 1 ≤ w.ctl.level i.chan)) =
    w.ctl.capped i.chan := rfl
  have hdeliver : (w.ctl.deliver i.chan (w.ctl.core x.q).msg).core x.q = w.ctl.core x.q := by
    obtain ⟨f, hf⟩ := deliver_fab w.ctl i.chan (w.ctl.core x.q).msg
    exact Ctl.core_of_cores (by rw [hf]) x.q
  unfold W.answer
  rw [hx]
  dsimp only
  rw [hfind]
  dsimp only
  rw [if_neg hgo, hcapped]
  by_cases hacc : (!w.ctl.capped i.chan && w.ctl.accepts i.chan) = true
  · rw [if_pos hacc, Ctl.answerMsg, if_pos hacc, W.on_at]
    exact answered_finishes _ hdeliver hw hh
  rw [if_neg hacc]
  by_cases hretry : w.ctl.on (F.chnRouteRetry i.chan) = true
  · rw [if_pos hretry, Ctl.answerMsg, if_neg hacc, if_pos hretry]
    exact W.on_at w (fun c => c.heldBack x i.chan again)
  · rw [if_neg hretry, Ctl.answerMsg, if_neg hacc, if_neg hretry, W.on_at]
    exact answered_finishes _ (core_nack ..) hw hh

theorem turnedBack_again (c : Ctl) (x : At) (ch : Nat) : c.turnedBack x ch true = c.nack ch := if_pos rfl

theorem turnedBack_first (c : Ctl) (x : At) (ch : Nat) :
    c.turnedBack x ch false = ((c.nack ch).bump (F.chnStallCount ch) 1).countWait x := if_neg Bool.false_ne_true

/-- A message held back leaves the core with its waiting slot and its message. -/
theorem core_heldBack (c : Ctl) (x : At) (ch : Nat) (again : Bool) : ∃ waited,
    (c.heldBack x ch again).core x.q = { c.core x.q with nacked := true, waited := waited } := by
  unfold Ctl.heldBack
  rw [Ctl.core_coreSet_self]
  cases again with
  | true =>
    rw [turnedBack_again, core_nack]
    exact ⟨_, rfl⟩
  | false =>
    rw [turnedBack_first, core_countWait, Ctl.core_bump, core_nack]
    exact ⟨true, rfl⟩

theorem kept_turnedBack (c : Ctl) (ch : Nat) (again : Bool) :
    Kept x true [R.chnNack ch, R.chnStall ch, R.stdCoreWait (x.q / 8) (x.q % 8)] c (c.turnedBack x ch again) := by
  have hnack : Kept x true [R.chnNack ch, R.chnStall ch, R.stdCoreWait (x.q / 8) (x.q % 8)] c (c.nack ch) := (kept_nack c ch).mono (by simp)
  cases again with
  | true =>
    rw [turnedBack_again]
    exact hnack
  | false =>
    rw [turnedBack_first]
    exact hnack.trans (((kept_bump _ (F.chnStallCount ch) 1).mono (by simp)).trans ((kept_countWait _).mono (by simp)))

theorem kept_heldBack (c : Ctl) (ch : Nat) (again : Bool) :
    Kept x true [R.chnNack ch, R.chnStall ch, R.stdCoreWait (x.q / 8) (x.q % 8)] c (c.heldBack x ch again) := by
  have h := kept_turnedBack (x := x) c ch again
  unfold Ctl.heldBack
  generalize c.turnedBack x ch again = d at h
  exact h.trans (kept_coreSet d (v := { d.core x.q with nacked := true }) rfl rfl)

theorem turnedBack_fab (c : Ctl) (x : At) (ch : Nat) (again : Bool) : ∃ cs, (c.turnedBack x ch again).fab = { (c.nack ch).fab with cores := cs } := by
  cases again with
  | true =>
    rw [turnedBack_again]
    exact ⟨_, rfl⟩
  | false =>
    rw [turnedBack_first]
    obtain ⟨cs, hcs⟩ := fab_countWait ((c.nack ch).bump (F.chnStallCount ch) 1) x
    exact ⟨cs, by rw [hcs, Ctl.fab_bump]⟩

theorem heldBack_fab (c : Ctl) (x : At) (ch : Nat) (again : Bool) :
    FilesAs c (c.heldBack x ch again) ∧ (c.heldBack x ch again).fab.fifos = c.fab.fifos := by
  obtain ⟨ns, nv, na, np⟩ := filesAs_nack c ch
  have hfifos := fifos_nack c ch
  obtain ⟨cs, hcs⟩ := turnedBack_fab c x ch again
  unfold Ctl.heldBack
  generalize c.turnedBack x ch again = d at hcs
  have hd : FilesAs c d ∧ d.fab.fifos = c.fab.fifos := by
    unfold FilesAs
    rw [hcs]
    exact ⟨⟨ns, nv, na, np⟩, hfifos⟩
  exact hd

theorem counts_heldBack (c : Ctl) (x : At) {ch : Nat} (hch : ch < 1024) (again : Bool) : Counts c (c.heldBack x ch again) (F.chnNackCount ch) := by
  have hrd : (c.turnedBack x ch again).rd (R.chnNack ch) = (c.nack ch).rd (R.chnNack ch) := by
    cases again with
    | true => rw [turnedBack_again]
    | false =>
      rw [turnedBack_first, rd_countWait_low _ x (by simp only [R.chnNack]; omega)]
      exact Ctl.rd_bump_ne _ (F.chnStallCount ch) 1 (by simp only [R.chnNack, R.chnStall]; omega) (by simp only [R.chnNack, R.dbgSat]; omega)
  refine (counts_nack c hch).congr rfl (Ctl.get_of_rd (f := F.chnNackCount ch) ?_)
  unfold Ctl.heldBack
  generalize c.turnedBack x ch again = d at hrd
  exact hrd

/-- A register of the channels that is not among those of l is left by what is kept, and the PC where it is none of them. -/
theorem Kept.channel (h : Kept x posts l c d) {f : Fld} (hlo : 0x60000 ≤ f.addr) (hhi : f.addr < 0x68000) (hf : f.addr ∉ l) : d.get f = c.get f := by
  refine Ctl.get_of_rd (h.regs _ (by rw [postAddr_channel hlo hhi, Bool.and_false]) ?_)
  simp only [List.mem_cons, not_or]
  exact ⟨by unfold R.dbgSat; omega, hf⟩

end

/-! The three answers. -/

section
variable {x : At} {i : Issued} {s : State}

/-- What every answer leaves. -/
structure Answers (x : At) (c d : Ctl) : Prop where
  sregs : d.fab.sregs = c.fab.sregs
  vregs : d.fab.vregs = c.fab.vregs
  aregs : d.fab.aregs = c.fab.aregs
  others : ∀ q, q ≠ x.q → d.core q = c.core q

/-- An answer that completes the bundle (R140), after a change e of the controllers. -/
theorem answers_answered {l : List Nat} {posts : Bool} {c e : Ctl} (v : BitVec 64) (p : Nat) (hk : Kept x posts l c e) (hf : FilesAs c e) :
    Answers x c (e.answered x i v p) := by
  obtain ⟨es, ev, ea, -⟩ := hf
  obtain ⟨ds, dv, da, -⟩ := answered_files (x := x) e i v p
  have hkept : Kept x posts (x.pcAddr :: l) c (e.answered x i v p) := (hk.mono (by simp)).trans ((kept_answered e i v p).mono (by simp))
  exact ⟨ds.trans es, dv.trans ev, da.trans ea, hkept.others⟩

/-- The bundle of an answered message: nothing waits, the PC has moved, the predicate says which answer it was (R189). -/
theorem after_answered (c : Ctl) (ok : Bool) (p : Nat) (hd : i.sl.d.val < 16) : ((c.answered x i (allBits ok) p).core x.q).waiting = [] ∧
    (c.answered x i (allBits ok) p).get (F.stdCorePcPc (x.q / 8) (x.q % 8)) = p % 4096 ∧
    (c.answered x i (allBits ok) p).preg x.q i.sl.d.val = if i.sl.d.val = 0 then BitVec.allOnes 64 else allBits ok :=
  ⟨congrArg CoreSt.waiting (core_answered c i _ p), pc_answered c i _ p, preg_answered c _ p hd⟩

/-- A message accepted (R187, R196). -/
theorem answer_accepted (c : Ctl) (m : Msg) (p : Nat) (hd : i.sl.d.val < 16) :
    let d := (c.deliver i.chan m).answered x i (allBits true) p
    Answers x c d ∧ (d.core x.q).waiting = [] ∧ d.get (F.stdCorePcPc (x.q / 8) (x.q % 8)) = p % 4096 ∧
    d.preg x.q i.sl.d.val = (if i.sl.d.val = 0 then BitVec.allOnes 64 else allBits true) ∧ Counts c d (F.chnMsgCount i.chan) ∧
    d.get (F.chnNackCount i.chan) = c.get (F.chnNackCount i.chan) ∧
    ∀ b j, j < 128 → d.fifo b j = if b = i.chan ∧ j ∈ c.receivers i.chan then c.fifo b j ++ [m] else c.fifo b j := by
  intro d
  have hch : i.chan < 1024 := Nat.mod_lt _ (by decide)
  have hkept := kept_deliver (x := x) (posts := false) c i.chan m
  obtain ⟨f, hf⟩ := deliver_fab c i.chan m
  have hfiles : FilesAs c (c.deliver i.chan m) := by
    unfold FilesAs
    rw [hf]
    exact ⟨rfl, rfl, rfl, rfl⟩
  obtain ⟨hwait, hpc, hpreg⟩ := after_answered (x := x) (c.deliver i.chan m) true p hd
  have hlow {g : Fld} (hg : g.addr < 0x78000) : d.get g = (c.deliver i.chan m).get g := Ctl.get_of_rd (rd_answered_low _ i _ p hg)
  have hmsg := counts_deliver c hch m
  refine ⟨answers_answered _ p hkept hfiles, hwait, hpc, hpreg, hmsg.congr rfl (hlow ?_), (hlow ?_).trans (hkept.channel ?_ ?_ ?_), fun b j hj => ?_⟩
  · simp only [R.chnMsg]; omega
  · simp only [R.chnNack]; omega
  · simp only [R.chnNack]; omega
  · simp only [R.chnNack]; omega
  · simp only [R.chnNack, R.chnMsg, R.chnFifo, List.mem_cons, List.not_mem_nil, or_false]; omega
  · obtain ⟨-, -, -, hfifos⟩ := answered_files (x := x) (c.deliver i.chan m) i (allBits true) p
    rw [Ctl.fifo, hfifos, ← Ctl.fifo, fifo_deliver c i.chan m b hj]

/-- A message refused without a resend (R189). -/
theorem answer_refused (c : Ctl) (p : Nat) (hd : i.sl.d.val < 16) :
    let d := (c.nack i.chan).answered x i (allBits false) p
    Answers x c d ∧ (d.core x.q).waiting = [] ∧ d.get (F.stdCorePcPc (x.q / 8) (x.q % 8)) = p % 4096 ∧
    d.preg x.q i.sl.d.val = (if i.sl.d.val = 0 then BitVec.allOnes 64 else allBits false) ∧ d.fab.fifos = c.fab.fifos ∧
    Counts c d (F.chnNackCount i.chan) ∧ d.get (F.chnMsgCount i.chan) = c.get (F.chnMsgCount i.chan) := by
  intro d
  have hch : i.chan < 1024 := Nat.mod_lt _ (by decide)
  have hkept := kept_nack (x := x) c i.chan
  obtain ⟨hwait, hpc, hpreg⟩ := after_answered (x := x) (c.nack i.chan) false p hd
  obtain ⟨-, -, -, hfifos⟩ := answered_files (x := x) (c.nack i.chan) i (allBits false) p
  have hlow {g : Fld} (hg : g.addr < 0x78000) : d.get g = (c.nack i.chan).get g := Ctl.get_of_rd (rd_answered_low _ i _ p hg)
  have hnack := counts_nack c hch
  refine ⟨answers_answered _ p hkept (filesAs_nack c i.chan), hwait, hpc, hpreg, hfifos.trans (fifos_nack c i.chan), hnack.congr rfl (hlow ?_),
    (hlow ?_).trans (hkept.channel ?_ ?_ ?_)⟩
  · simp only [R.chnNack]; omega
  · simp only [R.chnMsg]; omega
  · simp only [R.chnMsg]; omega
  · simp only [R.chnMsg]; omega
  · simp only [R.chnNack, R.chnMsg, List.mem_cons, List.not_mem_nil, or_false]; omega

/-- A message refused that its core goes on holding (R189). -/
theorem answer_heldBack (c : Ctl) (again : Bool) (hq : x.q < 136) (hw : (c.core x.q).waiting = [i]) :
    let d := c.heldBack x i.chan again
    Answers x c d ∧ d.fab.fifos = c.fab.fifos ∧ Counts c d (F.chnNackCount i.chan) ∧
    d.get (F.chnMsgCount i.chan) = c.get (F.chnMsgCount i.chan) ∧
    d.get (F.stdCorePcPc (x.q / 8) (x.q % 8)) = c.get (F.stdCorePcPc (x.q / 8) (x.q % 8)) ∧ (d.core x.q).waiting = [i] ∧
    (d.core x.q).nacked = true ∧ (d.core x.q).msg = (c.core x.q).msg ∧ d.fab.pregs = c.fab.pregs := by
  intro d
  have hch : i.chan < 1024 := Nat.mod_lt _ (by decide)
  have hkept := kept_heldBack (x := x) c i.chan again
  obtain ⟨⟨hs, hv, ha, hp⟩, hfifos⟩ := heldBack_fab c x i.chan again
  obtain ⟨waited, hcore⟩ := core_heldBack c x i.chan again
  obtain ⟨hge, hlt⟩ := pcAddr_bounds hq
  obtain ⟨-, hwait, -⟩ := coreAddr_distinct x
  have hwlow := waitAddr_bounds hq
  refine ⟨⟨hs, hv, ha, hkept.others⟩, hfifos, counts_heldBack c x hch again, hkept.channel ?_ ?_ ?_,
    Ctl.get_of_rd (f := F.stdCorePcPc (x.q / 8) (x.q % 8)) (hkept.regs x.pcAddr ?_ ?_), ?_, ?_, ?_, hp⟩
  · simp only [R.chnMsg]; omega
  · simp only [R.chnMsg]; omega
  · simp only [R.chnNack, R.chnMsg, R.chnStall, List.mem_cons, List.not_mem_nil, or_false]; omega
  · rw [postAddr_core hge hlt, Bool.and_false]
  · simp only [R.chnNack, R.chnStall, R.dbgSat, List.mem_cons, List.not_mem_nil, or_false]; omega
  · exact (congrArg CoreSt.waiting hcore).trans hw
  · exact congrArg CoreSt.nacked hcore
  · exact (congrArg CoreSt.msg hcore).trans rfl

end

/-- Settles O18: by which of the three answers it is. -/
theorem sendAnswered : Obligations.SendAnswered := by
  unfold Obligations.SendAnswered
  intro k s x i again hk c ch capped accepted after hr hx hop hw hh hn hd
  obtain ⟨-, hq, -, -, -⟩ := atCore_q hx
  rw [hk] at hx
  have hexec : exec (if again then .sendRetry k else .sendAnswer k) s = onHw s (fun w => w.answer k.val again) := by cases again <;> rfl
  have hrun := onHw_eq s (fun w => w.answer k.val again) _ (answer_eq (w := ⟨s.hw.ctl, s.hw.mem, []⟩) hr hx hop hw hh hn)
  refine ⟨_, hexec.trans hrun, rfl, rfl, ?_⟩
  by_cases hacc : accepted = true
  · rw [if_pos hacc]
    have hans : c.answerMsg x i again = (c.deliver i.chan (c.core x.q).msg).answered x i (allBits true) (c.core x.q).nextPc := if_pos hacc
    obtain ⟨⟨hs, hv, ha, hothers⟩, hafter, hpc, hpreg, hrest⟩ := answer_accepted (x := x) c (c.core x.q).msg (c.core x.q).nextPc hd
    rw [← hans] at hs hv ha hothers hafter hpc hpreg hrest
    exact ⟨hs, hv, ha, hothers, ⟨hafter, hpc, hpreg⟩, hrest⟩
  rw [if_neg hacc]
  by_cases hretry : c.on (F.chnRouteRetry ch) = true
  · rw [if_pos hretry]
    have hans : c.answerMsg x i again = c.heldBack x i.chan again := (if_neg hacc).trans (if_pos hretry)
    obtain ⟨⟨hs, hv, ha, hothers⟩, hfifos, hnack, hmsg, hpc, hwait, hnacked, hm, hp⟩ := answer_heldBack c again hq hw
    rw [← hans] at hs hv ha hothers hfifos hnack hmsg hpc hwait hnacked hm hp
    exact ⟨hs, hv, ha, hothers, hfifos, hnack, hmsg, ⟨hpc, hwait⟩, hnacked, hm, hp⟩
  · rw [if_neg hretry]
    have hans : c.answerMsg x i again = (c.nack i.chan).answered x i (allBits false) (c.core x.q).nextPc := (if_neg hacc).trans (if_neg hretry)
    obtain ⟨⟨hs, hv, ha, hothers⟩, hafter, hpc, hpreg, hfifos, hnack, hmsg⟩ := answer_refused (x := x) c (c.core x.q).nextPc hd
    rw [← hans] at hs hv ha hothers hafter hpc hpreg hfifos hnack hmsg
    exact ⟨hs, hv, ha, hothers, hfifos, hnack, hmsg, hafter, hpc, hpreg⟩

end Sys2Proof.Machine
end

section
/-! Misuse of ring slots (06_channels_and_semaphores.md R206, R208): a load from an unfilled slot, a store into a filled one. -/

namespace Sys2Proof.Machine

/-! Slots and their counters. -/

/-- The ring or context of a slot reference is one of those there are. -/
def SlotRef.bounded : SlotRef → Prop
  | .ring r _ => r < 128
  | .line s _ | .out s _ => s < 24

theorem slotRef_bounded {c : Ctl} {h off : Nat} {r : SlotRef} (hr : c.slotRef h off = some r) : r.bounded := by
  have hmem {p : Nat → Bool} {n a : Nat} (ha : (List.range n).find? p = some a) : a < n := List.mem_range.mp (List.mem_of_find?_eq_some ha)
  unfold Ctl.slotRef at hr
  split at hr
  next a ha =>
    obtain rfl := Option.some.inj hr
    exact hmem ha
  split at hr
  next a ha =>
    obtain rfl := Option.some.inj hr
    exact hmem ha
  split at hr
  next a ha =>
    obtain rfl := Option.some.inj hr
    exact hmem ha
  · exact absurd hr (by simp)

/-- The counter of reads of unfilled slots that a slot's ring has (R206, R207). -/
def SlotRef.underFld : SlotRef → Fld
  | .ring a _ => F.chnSrUnderCount a
  | .line a _ | .out a _ => F.chnStrmUnderCount a

/-- Where the counters of the rings lie: below the stands' registers, and none that a posting changes. -/
theorem underFld_addr {r : SlotRef} (h : r.bounded) : r.underFld.addr < 0x78000 ∧ postAddr r.underFld.addr = false := by
  have hring (a : Nat) (ha : a < 128) : R.chnSrUnder a < 0x78000 ∧ postAddr (R.chnSrUnder a) = false := by
    simp only [R.chnSrUnder, postAddr, Bool.or_eq_false_iff, decide_eq_false_iff_not]; omega
  have hstrm (a : Nat) (ha : a < 24) : R.chnStrmUnder a < 0x78000 ∧ postAddr (R.chnStrmUnder a) = false := by
    simp only [R.chnStrmUnder, postAddr, Bool.or_eq_false_iff, decide_eq_false_iff_not]; omega
  cases r with
  | ring a j => exact hring a h
  | line a j => exact hstrm a h
  | out a j => exact hstrm a h

theorem underFld_fits (r : SlotRef) : r.underFld.lo + r.underFld.n ≤ 32 := by cases r <;> exact le_refl 32

/-- The rings whose first read of an unfilled slot, and whose first write into a filled one, the frame has posted. -/
def Ctl.misuseSet (c : Ctl) (unders overs : List Nat) : Ctl := { c with fab := { c.fab with underPosted := unders, overPosted := overs } }

/-- A read of an unfilled slot counts, and it may post SLOT_UNDER (R206). -/
theorem slotUnder_cases (c : Ctl) (r : SlotRef) (k : Nat) : ∃ unders overs,
    Posted ((c.bump r.underFld 1).misuseSet unders overs) (c.slotUnder r k) := by
  have heq : c.slotUnder r k = if (c.bump r.underFld 1).fab.underPosted.contains r.source then c.bump r.underFld 1
      else ((c.bump r.underFld 1).misuseSet (r.source :: (c.bump r.underFld 1).fab.underPosted) (c.bump r.underFld 1).fab.overPosted).event
        evSlotUnder r.source (w32 r.slot) (w32 k) := by cases r <;> rfl
  rw [heq]
  generalize c.bump r.underFld 1 = d
  split
  · exact ⟨d.fab.underPosted, d.fab.overPosted, .refl d⟩
  · exact ⟨_, _, posted_event (d.misuseSet _ _) evSlotUnder _ _ _ (by decide)⟩

/-- The counter of writes into filled slots, which slot rings alone have (log entry 89). -/
def Ctl.overBump (c : Ctl) : SlotRef → Ctl
  | .ring a _ => c.bump (F.chnSrOverCount a) 1
  | _ => c

/-- A write into a filled slot counts where its ring has a counter, and it may post SLOT_OVER (R206). -/
theorem slotOver_cases (c : Ctl) (r : SlotRef) (k : Nat) : ∃ unders overs, Posted ((c.overBump r).misuseSet unders overs) (c.slotOver r k) := by
  have heq : c.slotOver r k = if (c.overBump r).fab.overPosted.contains r.source then c.overBump r
      else ((c.overBump r).misuseSet (c.overBump r).fab.underPosted (r.source :: (c.overBump r).fab.overPosted)).event
        evSlotOver r.source (w32 r.slot) (w32 k) := by cases r <;> rfl
  rw [heq]
  generalize c.overBump r = d
  split
  · exact ⟨d.fab.underPosted, d.fab.overPosted, .refl d⟩
  · exact ⟨_, _, posted_event (d.misuseSet _ _) evSlotOver _ _ _ (by decide)⟩

section
variable {x : At} {c d : Ctl} {r : SlotRef}

/-- What a count, what is posted once and its posting leave. -/
theorem misuse_leaves {unders overs : List Nat} (hb : d.fab = c.fab) {e : Ctl} (hp : Posted (d.misuseSet unders overs) e) :
    FilesAs c e ∧ ∀ q, e.core q = c.core q := by
  have hfab : e.fab = { c.fab with underPosted := unders, overPosted := overs } := by rw [hp.fab, ← hb]; rfl
  constructor
  · unfold FilesAs
    rw [hfab]
    exact ⟨rfl, rfl, rfl, rfl⟩
  · exact fun q => Ctl.core_of_cores (by rw [hfab]) q

theorem slotUnder_leaves (c : Ctl) (r : SlotRef) (k : Nat) : FilesAs c (c.slotUnder r k) ∧ ∀ q, (c.slotUnder r k).core q = c.core q := by
  obtain ⟨unders, overs, h⟩ := slotUnder_cases c r k
  exact misuse_leaves (Ctl.fab_bump ..) h

theorem fab_overBump (c : Ctl) (r : SlotRef) : (c.overBump r).fab = c.fab := by
  cases r with
  | ring a j => exact Ctl.fab_bump ..
  | line a j => rfl
  | out a j => rfl

theorem slotOver_leaves (c : Ctl) (r : SlotRef) (k : Nat) : FilesAs c (c.slotOver r k) ∧ ∀ q, (c.slotOver r k).core q = c.core q := by
  obtain ⟨unders, overs, h⟩ := slotOver_cases c r k
  exact misuse_leaves (fab_overBump ..) h

theorem kept_slotUnder (c : Ctl) (r : SlotRef) (k : Nat) : Kept x true [r.underFld.addr] c (c.slotUnder r k) := by
  obtain ⟨unders, overs, h⟩ := slotUnder_cases c r k
  exact ((kept_bump c r.underFld 1).trans (kept_fab _ rfl rfl : Kept x true _ _ ((c.bump r.underFld 1).misuseSet unders overs))).trans h.kept

theorem counts_slotUnder (c : Ctl) (h : r.bounded) (k : Nat) : Counts c (c.slotUnder r k) r.underFld := by
  obtain ⟨unders, overs, hp⟩ := slotUnder_cases c r k
  obtain ⟨hlow, hpost⟩ := underFld_addr h
  exact (counts_bump c r.underFld (underFld_fits r) (by unfold R.dbgSat; omega)).congr rfl (Ctl.get_of_rd (hp.rd _ hpost))

/-- The registers that a write into a filled slot counts in. -/
def SlotRef.overRegs : SlotRef → List Nat
  | .ring a _ => [R.chnSrOver a]
  | _ => []

theorem kept_slotOver (c : Ctl) (r : SlotRef) (k : Nat) : Kept x true r.overRegs c (c.slotOver r k) := by
  obtain ⟨unders, overs, h⟩ := slotOver_cases c r k
  have hbump : Kept x true r.overRegs c (c.overBump r) := by
    cases r with
    | ring a j => exact kept_bump c (F.chnSrOverCount a) 1
    | line a j => exact Kept.refl c
    | out a j => exact Kept.refl c
  exact (hbump.trans (kept_fab _ rfl rfl : Kept x true _ _ ((c.overBump r).misuseSet unders overs))).trans h.kept

theorem counts_slotOver (c : Ctl) {a : Nat} (h : a < 128) (j k : Nat) : Counts c (c.slotOver (.ring a j) k) (F.chnSrOverCount a) := by
  obtain ⟨unders, overs, hp⟩ := slotOver_cases c (.ring a j) k
  refine (counts_bump c (F.chnSrOverCount a) (by simp) (by simp only [R.chnSrOver, R.dbgSat]; omega)).congr rfl
    (Ctl.get_of_rd (f := F.chnSrOverCount a) (hp.rd _ ?_))
  simp only [R.chnSrOver, postAddr, Bool.or_eq_false_iff, decide_eq_false_iff_not]
  omega

end

/-! Loads and stores of one slot. -/

/-- A load from an unfilled slot (R206). -/
theorem load_unfilled {w : W} {g : Tgt} {h : Nat} {r : SlotRef} (nd k n : Nat) (hg : g.handle = some h) (hr : w.ctl.slotRef h g.off = some r)
    (hf : w.ctl.filled r = false) : w.load nd k g n = (w.on (fun c => c.slotUnder r k), List.replicate n 0) := by
  have hu : w.ctl.unfilled g = some r := by simp [Ctl.unfilled, hg, hr, hf]
  rw [W.load, hu]

/-- Whether a store of task t into a slot is that of a drained output line (R208). -/
def Ctl.lateIn (c : Ctl) (t : Task) : SlotRef → Bool
  | .out s _ => c.lateTask t s
  | _ => false

theorem eraseDups_replicate {α : Type} [BEq α] [LawfulBEq α] (a : α) (n : Nat) : (List.replicate (n + 1) a).eraseDups = [a] := by
  rw [List.replicate_succ, List.eraseDups_cons]
  simp

/-- Whether the byte of a store at offset o of its target is written (R206, R208). -/
def Ctl.landsAt (c : Ctl) (t : Task) (g : Tgt) (o : Nat) : Bool :=
  match c.refAt g o with
  | some r => !c.lateIn t r && !c.filled r
  | none => true

theorem store_eq (w : W) (nd k : Nat) (t : Task) (g : Tgt) (bs : List (Nat × Byte)) : w.store nd k t g bs =
    ((((bs.filterMap (fun b => w.ctl.refAt g b.1)).eraseDups.filter (fun r => !w.ctl.lateIn t r && w.ctl.filled r)).foldl
      (fun w r => w.on (fun c => c.slotOver r k)) w).storeKept nd k g (bs.filter (fun b => w.ctl.landsAt t g b.1))) := rfl

/-- A store whose bytes lie in one ring slot is discarded where the slot is filled, and counted where its line is not drained. -/
theorem store_in_slot {w : W} {g : Tgt} {r : SlotRef} {n : Nat} (nd k : Nat) (t : Task) {bs : List Byte} (hn : bs.length = n + 1)
    (hr : ∀ j < n + 1, w.ctl.refAt g j = some r) (hd : w.ctl.lateIn t r = true ∨ w.ctl.filled r = true) :
    w.store nd k t g (withOffsets bs) = if w.ctl.lateIn t r then w else w.on (fun c => c.slotOver r k) := by
  have hmem {b : Nat × Byte} (hb : b ∈ withOffsets bs) : w.ctl.refAt g b.1 = some r := by
    obtain ⟨j, hj, rfl⟩ := List.mem_map.mp hb
    exact hr j (hn ▸ List.mem_range.mp hj)
  have hrefs : (withOffsets bs).filterMap (fun b => w.ctl.refAt g b.1) = List.replicate (n + 1) r := by
    rw [List.filterMap_congr (g := some ∘ fun _ => r) fun b hb => hmem hb, List.filterMap_eq_map, List.map_const', withOffsets,
      List.length_map, List.length_range, hn]
  have hkept : (withOffsets bs).filter (fun b => w.ctl.landsAt t g b.1) = [] := by
    refine List.filter_eq_nil_iff.mpr fun b hb => ?_
    rw [Ctl.landsAt, hmem hb]
    rcases hd with hlate | hfilled
    · simp [hlate]
    · simp [hfilled]
  rw [store_eq, hrefs, eraseDups_replicate, hkept]
  cases hlate : w.ctl.lateIn t r with
  | true => simp [hlate, W.storeKept]
  | false =>
    have hfilled : w.ctl.filled r = true := hd.resolve_left (by simp [hlate])
    simp [hlate, hfilled, W.storeKept]

section
variable {s : State} {x : At} {k : Fin 128} {sl : Slot} {g : Tgt} {h : Nat} {r : SlotRef}

/-- LD.S from an unfilled slot (R206). -/
theorem exec_ldS_unfilled (hk : x.k = k.val) (hg : s.hw.ctl.guard0 x.q sl = true) (hi : Issues s x ⟨.ldS, sl⟩)
    (hgo : GoesTo s x ⟨.ldS, sl⟩ .load (s.hw.ctl.ea x.q ⟨.ldS, sl⟩) 4 g) (hh : g.handle = some h)
    (hr : (begun s x ⟨.ldS, sl⟩).ctl.slotRef h g.off = some r) (hf : (begun s x ⟨.ldS, sl⟩).ctl.filled r = false) :
    Completes (exec (.ldS k sl) s) (fun t => TileStep x true [r.underFld.addr] s t ∧ Done x (x.pc + 1) t ∧ Counts s.hw.ctl t.hw.ctl r.underFld ∧
      SregsBut x.q sl.d.val s t ∧ SameV s t ∧ SameP s t ∧ SameA s t ∧ t.hw.ctl.sreg x.q sl.d.val = 0) := by
  have hb := slotRef_bounded hr
  obtain ⟨hlow, -⟩ := underFld_addr hb
  obtain ⟨hwait, hhalt, hnext, -, -⟩ := begun_self hi
  have hfx : fx (begun s x ⟨.ldS, sl⟩) x ⟨.ldS, sl⟩ (begun s x ⟨.ldS, sl⟩) =
      (begun s x ⟨.ldS, sl⟩).on (fun _ => ((begun s x ⟨.ldS, sl⟩).ctl.slotUnder r x.k).sregSet x.q sl.d.val 0) := by
    have hload := (loadAt_goes hgo).trans (load_unfilled x.n x.k 4 hh hr hf)
    refine (if_pos ((begun_guard0 ..).trans hg)).trans ?_
    refine (congrArg (fun p : W × List Byte => p.1.on (fun c => c.sregSet x.q sl.d.val (w32 (ofBytes p.2)))) hload).trans ?_
    generalize begun s x ⟨.ldS, sl⟩ = w
    exact W.on_at w (fun c => (c.slotUnder r x.k).sregSet x.q sl.d.val 0)
  obtain ⟨⟨us, uv, ua, up⟩, hcore⟩ := slotUnder_leaves (begun s x ⟨.ldS, sl⟩).ctl r x.k
  obtain ⟨bs, bv, ba, bp⟩ := filesAs_begun s x ⟨.ldS, sl⟩
  have hkept := kept_slotUnder (x := x) (begun s x ⟨.ldS, sl⟩).ctl r x.k
  have hcounts := counts_slotUnder (begun s x ⟨.ldS, sl⟩).ctl hb x.k
  have hcore' : (((begun s x ⟨.ldS, sl⟩).ctl.slotUnder r x.k).sregSet x.q sl.d.val 0).core x.q = (begun s x ⟨.ldS, sl⟩).ctl.core x.q :=
    (Ctl.core_sregSet ..).trans (hcore _)
  refine (acts_completes (posts := true) (l := [r.underFld.addr]) hk hi hfx (hkept.trans (filesOnly_sregSet ..).kept) (by rw [hcore', hwait])
    (by rw [hcore', hhalt]) (by rw [hcore', hnext]) (by simpa using hlow)).imp fun t ⟨hstep, hdone, hrests⟩ => ?_
  obtain ⟨wv, wp, wa⟩ := sregSet_files ((begun s x ⟨.ldS, sl⟩).ctl.slotUnder r x.k) x.q sl.d.val 0
  obtain ⟨ts, tv, ta, tp⟩ := hrests.files
  have hsreg (q j : Nat) (hj : j < 64) : t.hw.ctl.sreg q j = if q = x.q ∧ j = sl.d.val ∧ sl.d.val ≠ 0 then 0 else s.hw.ctl.sreg q j := by
    rw [Ctl.sreg, ts, ← Ctl.sreg, Ctl.sreg_sregSet _ _ _ _ _ sl.d.isLt hj, Ctl.sreg, us, bs, ← Ctl.sreg]
  refine ⟨hstep, hdone, hcounts.congr (Ctl.get_of_rd (begun_rd_low s x _ hlow)).symm ?_, fun q j hj hne => ?_, tv.trans (wv.trans (uv.trans bv)),
    tp.trans (wp.trans (up.trans bp)), ta.trans (wa.trans (ua.trans ba)), ?_⟩
  · exact Ctl.get_of_rd ((hrests.rd _ hlow).trans (Ctl.rd_of_regs (Ctl.sregSet_regs ..) _))
  · rw [hsreg q j hj, if_neg fun ⟨hq, hjd, _⟩ => hne ⟨hq, hjd⟩]
  · rw [hsreg _ _ sl.d.isLt]
    by_cases h0 : sl.d.val = 0
    · simp [h0]
    · simp [h0]

/-- What an ST.S into one ring slot that discards it does. -/
theorem fx_stS_discarded (hg : s.hw.ctl.guard0 x.q sl = true) (hgo : GoesTo s x ⟨.stS, sl⟩ .store (s.hw.ctl.ea x.q ⟨.stS, sl⟩) 4 g)
    (hrem : g.remote = none) (hr : ∀ j < 4, (begun s x ⟨.stS, sl⟩).ctl.refAt g j = some r)
    (hd : (begun s x ⟨.stS, sl⟩).ctl.lateIn x.t r = true ∨ (begun s x ⟨.stS, sl⟩).ctl.filled r = true) :
    fx (begun s x ⟨.stS, sl⟩) x ⟨.stS, sl⟩ (begun s x ⟨.stS, sl⟩) = (begun s x ⟨.stS, sl⟩).on (fun _ =>
      if (begun s x ⟨.stS, sl⟩).ctl.lateIn x.t r then (begun s x ⟨.stS, sl⟩).ctl else (begun s x ⟨.stS, sl⟩).ctl.slotOver r x.k) := by
  refine (if_pos ((begun_guard0 ..).trans hg)).trans ?_
  unfold storeAt
  rw [begun_ea, hgo]
  dsimp only
  rw [hrem, Option.isSome_none, if_neg Bool.false_ne_true, store_in_slot x.n x.k x.t (length_toBytes ..) hr hd]
  split
  · rfl
  · exact W.on_at ..

/-- ST.S into a ring slot that discards it (R206, R208): it changes the controllers from what the bundle finds to d. -/
theorem stS_discards {posts : Bool} {l : List Nat} {d : Ctl} (hk : x.k = k.val) (hi : Issues s x ⟨.stS, sl⟩)
    (hfx : fx (begun s x ⟨.stS, sl⟩) x ⟨.stS, sl⟩ (begun s x ⟨.stS, sl⟩) = (begun s x ⟨.stS, sl⟩).on (fun _ => d))
    (hkept : Kept x posts l (begun s x ⟨.stS, sl⟩).ctl d) (hd : FilesAs (begun s x ⟨.stS, sl⟩).ctl d ∧ ∀ q, d.core q = (begun s x ⟨.stS, sl⟩).ctl.core q)
    (hl : ∀ a ∈ l, a < 0x78000) :
    Completes (exec (.stS k sl) s) (fun t => SameFiles s t ∧ Done x (x.pc + 1) t ∧ TileStep x posts l s t ∧ Rests d t) := by
  obtain ⟨hfiles, hcore⟩ := hd
  obtain ⟨hwait, hhalt, hnext, -, -⟩ := begun_self hi
  refine (acts_completes hk hi hfx hkept (by rw [hcore, hwait]) (by rw [hcore, hhalt]) (by rw [hcore, hnext]) hl).imp
    fun t ⟨hstep, hdone, hrests⟩ => ?_
  obtain ⟨ts, tv, ta, tp⟩ := (((filesAs_begun ..).trans hfiles).trans hrests.files).same
  exact ⟨sameFiles_of ts tv tp ta, hdone, hstep, hrests⟩

end

/-- Settles O28: by what a load does at an unfilled slot and what a store does whose bytes lie in one slot. -/
theorem ringMisuse : Obligations.RingMisuse := by
  unfold Obligations.RingMisuse
  intro k sl s x g h r hk c ld st under hg hh
  refine ⟨fun hi hgo hr hf => ?_, fun hi hgo hr hrem hlate hf => ?_, fun o j hro hi hgo hr hrem hlate => ?_⟩
  · have hunder : under = r.underFld := by cases r <;> rfl
    rw [hunder]
    exact exec_ldS_unfilled hk hg hi hgo hh hr hf
  · have hlate' : (begun s x ⟨.stS, sl⟩).ctl.lateIn x.t r = false := by
      cases r with
      | ring a i => rfl
      | line a i => rfl
      | out a i => exact hlate a i rfl
    have hfx := fx_stS_discarded hg hgo hrem hr (.inr hf)
    rw [hlate', if_neg Bool.false_ne_true] at hfx
    have hb : r.bounded := slotRef_bounded (h := h) (off := g.off + 0) (by
      have h0 := hr 0 (by decide)
      rw [Ctl.refAt, hh] at h0
      exact h0)
    have hl : ∀ a ∈ r.overRegs, a < 0x78000 := by
      cases r with
      | ring a i =>
        have ha : a < 128 := hb
        simp only [SlotRef.overRegs, R.chnSrOver, List.mem_singleton]
        omega
      | line a i => exact fun a ha => absurd ha (by simp [SlotRef.overRegs])
      | out a i => exact fun a ha => absurd ha (by simp [SlotRef.overRegs])
    have hcounts := fun a ha => counts_slotOver (begun s x ⟨.stS, sl⟩).ctl (a := a) ha
    refine (stS_discards hk hi hfx (kept_slotOver ..) (slotOver_leaves ..) hl).imp fun t ⟨hfiles, hdone, hstep, hrests⟩ => ⟨hfiles, hdone, ?_⟩
    cases r with
    | ring a i =>
      have ha : R.chnSrOver a < 0x78000 := hl _ (by simp [SlotRef.overRegs])
      refine ⟨hstep, (hcounts a hb i x.k).congr (Ctl.get_of_rd (f := F.chnSrOverCount a) (begun_rd_low s x _ ha)).symm ?_⟩
      exact hrests.get (f := F.chnSrOverCount a) ha
    | line a i => exact hstep
    | out a i => exact hstep
  · subst hro
    have hfx := fx_stS_discarded hg hgo hrem hr (.inl hlate)
    rw [show (begun s x ⟨.stS, sl⟩).ctl.lateIn x.t (.out o j) = true from hlate, if_pos rfl] at hfx
    exact (stS_discards hk hi hfx (Kept.refl _) ⟨.of_fab rfl, fun _ => rfl⟩ (by simp)).imp fun t ⟨hfiles, hdone, hstep, _⟩ => ⟨hstep, hdone, hfiles⟩

end Sys2Proof.Machine
end

section
/-! Handle entries (05_memory_hierarchy.md R152, R162, R163, R173): what a commit stores and what it marks. -/

namespace Sys2Proof.Machine

/-! What a commit stores. -/

/-- The registers of a handle entry that a commit writes. -/
abbrev htRegs (e : Nat) : List Nat := [R.cnpHtW0 e, R.cnpHtW1 e, R.cnpHtW2 e]

/-- The entry after a commit of the word w0 with a base and a size (R152, R167). -/
def Ctl.htStore (c : Ctl) (e : Nat) (w0 : Word) (base size : Nat) (busy : Bool) : Ctl :=
  (((c.put (F.cnpHtW1Base e) base).put (F.cnpHtW2SizeM1 e) (size - 1)).wr (R.cnpHtW0 e) ((w0 &&& 0xFF0F) ||| w32 (16 * bit busy))).put
    (F.cnpHtW0Epoch e) (c.get (F.cnpHtW0Epoch e) + 1)

section
variable (c : Ctl) {e : Nat} {w0 : Word} {base size : Nat} (busy : Bool)

theorem onlyRegs_wr (a : Nat) (v : Word) : OnlyRegs [a] c (c.wr a v) := ⟨fun _ h => Ctl.rd_wr_ne c v (by simpa using h), _, rfl⟩

theorem onlyRegs_htStore : OnlyRegs (htRegs e) c (c.htStore e w0 base size busy) := by
  have hbase := (onlyRegs_put c (F.cnpHtW1Base e) base).mono (m := htRegs e) (by simp)
  have hsize := (onlyRegs_put (c.put (F.cnpHtW1Base e) base) (F.cnpHtW2SizeM1 e) (size - 1)).mono (m := htRegs e) (by simp)
  have hword := (onlyRegs_wr ((c.put (F.cnpHtW1Base e) base).put (F.cnpHtW2SizeM1 e) (size - 1)) (R.cnpHtW0 e)
    ((w0 &&& 0xFF0F) ||| w32 (16 * bit busy))).mono (m := htRegs e) (by simp)
  exact hbase.trans (hsize.trans (hword.trans ((onlyRegs_put _ (F.cnpHtW0Epoch e) _).mono (by simp))))

theorem get_htStore_base (h : base < 2 ^ 26) : (c.htStore e w0 base size busy).get (F.cnpHtW1Base e) = base := by
  unfold Ctl.htStore
  rw [Ctl.get_put_ne _ (F.cnpHtW0Epoch e) (F.cnpHtW1Base e) _ (by simp) (.inl (by simp only [R.cnpHtW0, R.cnpHtW1]; omega)),
    Ctl.get_of_rd (f := F.cnpHtW1Base e) (Ctl.rd_wr_ne _ _ (by simp only [R.cnpHtW0, R.cnpHtW1]; omega)),
    Ctl.get_put_ne _ (F.cnpHtW2SizeM1 e) (F.cnpHtW1Base e) _ (by simp) (.inl (by simp only [R.cnpHtW1, R.cnpHtW2]; omega)),
    Ctl.get_put_self _ _ _ (by simp)]
  exact Nat.mod_eq_of_lt h

theorem get_htStore_size (h : 1 ≤ size) (h' : size ≤ 32768) : (c.htStore e w0 base size busy).get (F.cnpHtW2SizeM1 e) + 1 = size := by
  unfold Ctl.htStore
  rw [Ctl.get_put_ne _ (F.cnpHtW0Epoch e) (F.cnpHtW2SizeM1 e) _ (by simp) (.inl (by simp only [R.cnpHtW0, R.cnpHtW2]; omega)),
    Ctl.get_of_rd (f := F.cnpHtW2SizeM1 e) (Ctl.rd_wr_ne _ _ (by simp only [R.cnpHtW0, R.cnpHtW2]; omega)), Ctl.get_put_self _ _ _ (by simp)]
  show (size - 1) % 2 ^ 15 + 1 = size
  omega

theorem get_htStore_epoch : (c.htStore e w0 base size busy).get (F.cnpHtW0Epoch e) = (c.get (F.cnpHtW0Epoch e) + 1) % 65536 :=
  Ctl.get_put_self _ (F.cnpHtW0Epoch e) _ (by simp)

/-- Bit i of the word stored, beside BUSY and EPOCH that are set of their own. -/
theorem stored_bit (i : Nat) (hi : i < 16) : ((w0 &&& 0xFF0F) ||| w32 (16 * bit busy)).getLsbD i =
    if i = 4 then busy else (decide (i < 4 ∨ 8 ≤ i) && w0.getLsbD i) := by
  have hmask : (0xFF0F : Word).getLsbD i = decide (i < 4 ∨ 8 ≤ i) := by revert i; decide
  have hbusy : (w32 (16 * bit busy)).getLsbD i = (busy && decide (i = 4)) := by cases busy <;> revert i <;> decide
  rw [BitVec.getLsbD_or, BitVec.getLsbD_and, hmask, hbusy]
  by_cases h4 : i = 4
  · simp [h4]
  · simp [h4, Bool.and_comm]

/-- The flags and OWNER of an entry are those of the word committed. -/
theorem get_htStore_word {lo n : Nat} (h : lo + n ≤ 4 ∨ 8 ≤ lo ∧ lo + n ≤ 16) :
    (c.htStore e w0 base size busy).get ⟨R.cnpHtW0 e, lo, n⟩ = fieldGet w0 lo n := by
  unfold Ctl.htStore
  rw [Ctl.get_put_ne _ (F.cnpHtW0Epoch e) ⟨R.cnpHtW0 e, lo, n⟩ _ (by simp) (.inr (.inl (by simp only; omega)))]
  refine Nat.eq_of_testBit_eq fun j => ?_
  rw [Ctl.get, Ctl.rd_wr_self]
  dsimp only
  rw [fieldGet_testBit, fieldGet_testBit]
  by_cases hj : j < n
  · rw [stored_bit busy _ (by omega), if_neg (by omega)]
    simp [show lo + j < 4 ∨ 8 ≤ lo + j by omega]
  · simp [hj]

theorem on_htStore_busy : (c.htStore e w0 base size busy).on (F.cnpHtW0Busy e) = busy := by
  rw [Ctl.on_bit]
  unfold Ctl.htStore
  rw [← Ctl.on_bit, Ctl.on_put_ne _ (F.cnpHtW0Epoch e) (F.cnpHtW0Busy e) _ (by simp) (by simp), Ctl.on_bit, Ctl.rd_wr_self,
    stored_bit busy 4 (by decide), if_pos rfl]

end

/-! The word of a commit. -/

theorem fieldGet_htWord (valid dram wr spec : Bool) {owner : Nat} (ho : owner < 256) : let w0 := htWord valid dram wr spec owner
    fieldGet w0 0 1 = bit valid ∧ fieldGet w0 1 1 = bit dram ∧ fieldGet w0 3 1 = bit spec ∧ fieldGet w0 8 8 = owner := by
  intro w0
  have hv := bit_lt valid
  have hd := bit_lt dram
  have hw := bit_lt wr
  have hs := bit_lt spec
  have hval : w0.toNat = bit valid + 2 * bit dram + 4 * bit wr + 8 * bit spec + 256 * owner :=
    (BitVec.toNat_ofNat ..).trans (Nat.mod_eq_of_lt (by omega))
  simp only [fieldGet_eq, hval]
  omega

theorem getLsbD_of_fieldGet {v : Word} {i : Nat} {b : Bool} (h : fieldGet v i 1 = bit b) : v.getLsbD i = b := by
  have hbit := fieldGet_testBit v i 1 0
  rw [h] at hbit
  cases b <;> simpa [bit] using hbit.symm

/-- An accepted base and size fit the registers. -/
theorem base_lt_of_htOk {c : Ctl} {w0 : Word} {base size : Nat} (h : c.htOk w0 base size = true) (hs : 1 ≤ size) : base < 2 ^ 26 := by
  have hdram : c.dramSize ≤ 2 ^ 34 := by
    unfold Ctl.dramSize
    have hpow : 2 ^ min 2 (c.get F.drcCfgDensity) ≤ 2 ^ 2 := Nat.pow_le_pow_right (by decide) (Nat.min_le_left ..)
    omega
  have hcanopy : c.canopySpace ≤ 2 ^ 28 := by
    unfold Ctl.canopySpace
    omega
  unfold Ctl.htOk at h
  simp only [Bool.and_eq_true, decide_eq_true_eq] at h
  obtain ⟨⟨hlimit, -⟩, -⟩ := h
  split at hlimit <;> omega

/-! What a commit marks. -/

/-- A revoked range noted until its accepted requests are done (R173). -/
def Ctl.revoke (c : Ctl) (key n : Nat) : Ctl := { c with cnp := { c.cnp with revoked := c.cnp.revoked ++ [(key, n)] } }

/-- What a commit that passes its checks does, its words stored in v: it marks the range for Clearing or notes its revocation. -/
theorem htCommit_eq {w v : W} {e : Nat} {w0 : Word} {base size : Nat} (hok : w.ctl.htOk w0 base size = true)
    (hv : v = w.on (fun _ => w.ctl.htStore e w0 base size (w0.getLsbD 1 && (w.ctl.htMarks e w0 || w.ctl.on (F.cnpHtW0Busy e))))) :
    w.htCommit e w0 base size = if !w.ctl.htMarks e w0 then (v, true)
      else if w.ctl.get (F.cnpHtW0Owner e) == 0x80 && fieldGet w0 8 8 != 0x80 then (v.on (fun c => c.revoke (v.ctl.hKey e 0) (size * 256)), true)
      else ((v.actC (.mark (v.ctl.hKey e 0) (size * 256))).on (fun c => c.lcUnit (v.ctl.hKey e 0) (size * 256) true), true) := by
  have hstore : w.on (fun c => (((c.put (F.cnpHtW1Base e) base).put (F.cnpHtW2SizeM1 e) (size - 1)).wr (R.cnpHtW0 e) ((w0 &&& 0xFF0F) |||
      w32 (16 * bit (w0.getLsbD 1 && (w.ctl.htMarks e w0 || w.ctl.on (F.cnpHtW0Busy e)))))).put (F.cnpHtW0Epoch e)
        (w.ctl.get (F.cnpHtW0Epoch e) + 1)) = v := by
    rw [hv]
    exact W.on_at ..
  unfold W.htCommit
  dsimp only
  rw [if_neg (by rw [hok]; decide), hstore]
  rfl

/-- A commit that passes its checks and marks nothing stores its words. -/
theorem htCommit_stores {w : W} {e : Nat} {w0 : Word} {base size : Nat} (hok : w.ctl.htOk w0 base size = true)
    (hm : w.ctl.htMarks e w0 = false) :
    w.htCommit e w0 base size = (w.on (fun _ => w.ctl.htStore e w0 base size (w0.getLsbD 1 && w.ctl.on (F.cnpHtW0Busy e))), true) := by
  rw [htCommit_eq hok rfl, hm]
  rfl

end Sys2Proof.Machine
end

section
/-! Tasks placed in the dispatch queues (06_channels_and_semaphores.md R183, R210; 07_schedules_and_tiling.md R231, R233). -/

namespace Sys2Proof.Machine

/-! A descriptor at the tail of a queue. -/

theorem queues_enqueue (c : Ctl) (k : Nat) (t : Task) (j : Nat) :
    mget [] (c.enqueue k t).fab.queues j = if j = k then mget [] c.fab.queues k ++ [t] else mget [] c.fab.queues j :=
  mget_mset [] c.fab.queues k j _

/-- What a descriptor placed in the queue of core k leaves, with what holds of it. -/
theorem enqueue_queued (c : Ctl) (k : Nat) {t : Task} {P : Task → Prop} (ht : P t) :
    (∃ u, mget [] (c.enqueue k t).fab.queues k = mget [] c.fab.queues k ++ [u] ∧ P u) ∧
    (∀ i, i ≠ k → mget [] (c.enqueue k t).fab.queues i = mget [] c.fab.queues i) ∧
    (c.enqueue k t).fab = { c.fab with queues := (c.enqueue k t).fab.queues } :=
  ⟨⟨t, by rw [queues_enqueue, if_pos rfl], ht⟩, fun i hi => by rw [queues_enqueue, if_neg hi], rfl⟩

theorem frame_enqueue (b : Bool) (c : Ctl) (k : Nat) (t : Task) : Frame b [.fab] [] c (c.enqueue k t) := frame_parts

theorem frame_jobSet (b : Bool) (c : Ctl) (j : Nat) (v : Option Job) : Frame b [.jobs] [] c (c.jobSet j v) := by
  refine ⟨fun p hp _ => ?_, fun _ _ _ => rfl⟩
  cases p with
  | jobs => exact absurd (List.mem_singleton.mpr rfl) hp
  | link => exact ⟨rfl, rfl⟩
  | rings => exact ⟨rfl, rfl⟩
  | _ => rfl

/-! What firmware places. -/

section
variable {s : State}

/-- TASK_ENQUEUE without re-arms places its task. -/
theorem exec_taskEnqueue {src : TaskSrc} {P : Ctl → Prop} (hr : s.hw.ctl.running = true) (h : P (s.hw.ctl.place src)) :
    CompletesCtl s (exec (.taskEnqueue src []) s) P := by
  refine completesCtl_onHw (f := fun w => if !w.ctl.running then w else (([] : List Rearm).foldl W.rearm w).on (fun c => c.place src))
    (d := s.hw.ctl.place src) ?_ h
  dsimp only
  rw [hr]
  rfl

theorem place_raw {c : Ctl} {k : Fin 128} {ws : List Word} (hp : c.placeable k.val = true) (hd : descReserved ws = false) :
    c.place (.raw k ws) = c.enqueue k.val (taskOf ws 65536 0 0 false) :=
  (if_pos hp).trans (if_neg (by rw [hd]; exact Bool.false_ne_true))

/-- A descriptor with a reserved bit set enters no queue: it is posted (R183). -/
theorem posted_place_raw {c : Ctl} {k : Fin 128} {ws : List Word} (hp : c.placeable k.val = true) (hd : descReserved ws = true) :
    Posted c (c.place (.raw k ws)) := by
  have heq : c.place (.raw k ws) = c.enqueueRaw k.val ws := if_pos hp
  rw [heq, Ctl.enqueueRaw, if_pos hd]
  exact posted_postNormal ..

/-- The fields of a descriptor's task that raw words show (Table 6.1). -/
theorem taskOf_fields (ws : List Word) (template item phase : Nat) (recurrent : Bool) : let t := taskOf ws template item phase recurrent
    t.entry = (nth 0 ws 0).toNat % 4096 ∧ t.owner = (nth 0 ws 0).toNat / 2 ^ 24 ∧ t.task = nth 0 ws 1 ∧ t.frame = nth 0 ws 2 ∧
    t.line = (nth 0 ws 3).toNat % 8192 ∧ t.args = (List.range 15).map (fun i => nth 0 ws (8 + i)) := by
  intro t
  have hw := (nth 0 ws 0).isLt
  have hentry : t.entry = (nth 0 ws 0).toNat / 2 ^ 0 % 2 ^ 12 := fieldGet_eq _ 0 12
  have howner : t.owner = (nth 0 ws 0).toNat / 2 ^ 24 % 2 ^ 8 := fieldGet_eq _ 24 8
  have hline : t.line = (nth 0 ws 3).toNat / 2 ^ 0 % 2 ^ 13 := fieldGet_eq _ 0 13
  exact ⟨by omega, by omega, rfl, rfl, by omega, rfl⟩

/-- The task of a line step: its owner is its output's, its frame and line those asked for (R231). -/
theorem taskOf_lineWords (tmpl : List Word) (core o : Nat) (frame : Word) (m : Nat) (shape : List Word) (template item phase : Nat)
    (recurrent : Bool) (ho : o < 24) : let t := taskOf (lineWords tmpl core (1 + o) frame m shape) template item phase recurrent
    t.owner = 1 + o ∧ t.frame = frame ∧ t.line = m % 8192 := by
  intro t
  have howner : t.owner = (1 + o) % 2 ^ 8 := fieldGet_fieldPut_self _ 24 8 _ (by decide)
  have hline : t.line = m % 2 ^ 13 := fieldGet_fieldPut_self _ 0 13 _ (by decide)
  exact ⟨by omega, rfl, hline⟩

theorem place_line {c : Ctl} {i o : Fin 24} {r t j m : Nat} {sc : Schedule} {v : TileVariant} {st : LineStep} {im : Image}
    (hsc : c.schedule (c.get (F.stcSchedActModel i)) (c.get (F.stcSchedActBucket i)) = some sc) (hv : (c.vc i).variant = some v)
    (hst : sc.steps[r]? = some st) (him : c.img.cur = some im) (harm : c.armedAs i 0 = true) (hout : c.outOf i = some o.val)
    (hon : c.stepsOn i = true) (ht : t < tvTiles v (c.vc i).hactSel) (hj : j < st.split) (hp : c.placeable (tvCore v r t j) = true) :
    ∃ x, c.place (.line i o r t j m) = c.enqueue (tvCore v r t j) x ∧ x.owner = 1 + o.val ∧ x.frame = (c.vc o).frame ∧ x.line = m % 8192 := by
  have hok : (c.armedAs i 0 && (c.outOf i == some o.val || ((c.outOf i).isNone && o.val == i.val)) && c.stepsOn i) = true := by
    simp [harm, hout, hon]
  refine ⟨_, ?_, taskOf_lineWords (nth [] im.templates st.template) (tvCore v r t j) o.val (c.vc o).frame m (c.shapeWords i o v t) st.template 0
    (match (c.vc i).pair with
      | some p => p.2.2
      | none => 0) st.recurrent o.isLt⟩
  show c.enqueueLine i.val o.val r t j m = _
  unfold Ctl.enqueueLine
  rw [hsc, hv, him]
  dsimp only
  rw [hst]
  dsimp only
  rw [if_pos ⟨hok, ht, hj, hp⟩, if_pos hout] <;> rfl

theorem place_item {c : Ctl} {j : Fin 64} {jb : Job} {t : Task} {rest : List Task} (hj : c.job j = some jb) (hi : jb.items = t :: rest)
    (hp : c.placeable t.core = true) : c.place (.item j) = (c.jobSet j (some { jb with items := rest })).enqueue t.core t := by
  show c.enqueueItem j.val = _
  unfold Ctl.enqueueItem
  rw [hj]
  dsimp only
  rw [hi]
  exact if_pos hp

/-- Placing a task changes queues and jobs, or posts. -/
theorem frame_place (c : Ctl) (src : TaskSrc) : Frame true [.fab, .jobs] [] c (c.place src) := by
  have henq (d : Ctl) (k : Nat) (t : Task) : Frame true [.fab, .jobs] [] d (d.enqueue k t) := (frame_enqueue true d k t).mono (by simp) (by simp)
  cases src with
  | raw k ws =>
    unfold Ctl.place Ctl.enqueueRaw
    dsimp only
    split
    · split
      · exact (posted_postNormal ..).frame.mono (by simp) (by simp)
      · exact henq ..
    · exact Frame.refl ..
  | line i o r t j m =>
    unfold Ctl.place Ctl.enqueueLine
    dsimp only
    split
    · exact Frame.refl ..
    · split
      · split
        · exact henq ..
        · exact Frame.refl ..
      · exact Frame.refl ..
  | item j =>
    unfold Ctl.place Ctl.enqueueItem
    dsimp only
    split
    · split
      · split
        · exact ((frame_jobSet true c j _).mono (by simp) (by simp)).trans (henq ..)
        · exact Frame.refl ..
      · exact Frame.refl ..
    · exact Frame.refl ..

/-! Re-arms (R163, R210). -/

/-- The checks of a commit read the flags and the owner of its word. -/
theorem htOk_congr (c : Ctl) {v w : Word} (hd : v.getLsbD 1 = w.getLsbD 1) (hs : v.getLsbD 3 = w.getLsbD 3)
    (ho : fieldGet v 8 8 = fieldGet w 8 8) (base size : Nat) : c.htOk v base size = c.htOk w base size := by
  unfold Ctl.htOk
  rw [hd, hs, ho]

/-- A re-arm commits the new base and size with the entry's own flags and owner. -/
theorem rearm_stores {w : W} {r : Rearm} (hvalid : w.ctl.on (F.cnpHtW0Valid r.handle.val) = true) (h1 : 1 ≤ r.size) (h2 : r.size ≤ 32768)
    (hok : w.ctl.htOk (w.ctl.rd (R.cnpHtW0 r.handle.val)) r.base r.size = true)
    (hown : w.ctl.ownerHolds (w.ctl.get (F.cnpHtW0Owner r.handle.val)) (w.ctl.on (F.cnpHtW0Target r.handle.val)) r.base r.size = true) :
    ∃ w0 busy, fieldGet w0 0 1 = 1 ∧ fieldGet w0 1 1 = bit (w.ctl.on (F.cnpHtW0Target r.handle.val)) ∧
      fieldGet w0 8 8 = w.ctl.get (F.cnpHtW0Owner r.handle.val) ∧
      w.rearm r = w.on (fun _ => w.ctl.htStore r.handle.val w0 r.base r.size busy) := by
  have howner : w.ctl.get (F.cnpHtW0Owner r.handle.val) < 256 := Ctl.get_lt w.ctl (F.cnpHtW0Owner r.handle.val)
  obtain ⟨fv, fd, fs, fo⟩ := fieldGet_htWord true (w.ctl.on (F.cnpHtW0Target r.handle.val)) (w.ctl.on (F.cnpHtW0Wr r.handle.val))
    (w.ctl.on (F.cnpHtW0Spec r.handle.val)) howner
  have hgo : (w.ctl.on (F.cnpHtW0Valid r.handle.val) && decide (1 ≤ r.size ∧ r.size ≤ 32768) &&
      w.ctl.ownerHolds (w.ctl.get (F.cnpHtW0Owner r.handle.val)) (w.ctl.on (F.cnpHtW0Target r.handle.val)) r.base r.size) = true := by
    rw [hvalid, hown, decide_eq_true ⟨h1, h2⟩]
    rfl
  have hmarks : w.ctl.htMarks r.handle.val (htWord true (w.ctl.on (F.cnpHtW0Target r.handle.val)) (w.ctl.on (F.cnpHtW0Wr r.handle.val))
      (w.ctl.on (F.cnpHtW0Spec r.handle.val)) (w.ctl.get (F.cnpHtW0Owner r.handle.val))) = false := by
    unfold Ctl.htMarks
    dsimp only
    rw [hvalid, fo]
    simp
  have hok' := (htOk_congr w.ctl ((getLsbD_of_fieldGet fd).trans (Ctl.on_bit ..)) ((getLsbD_of_fieldGet fs).trans (Ctl.on_bit ..)) fo
    r.base r.size).trans hok
  exact ⟨_, _, fv, fd, fo, (if_pos hgo).trans (congrArg Prod.fst (htCommit_stores hok' hmarks))⟩

/-- TASK_ENQUEUE after one re-arm (R163, R210). -/
theorem exec_taskEnqueue_rearm (hr : s.hw.ctl.running = true) (src : TaskSrc) (r : Rearm) : let c := s.hw.ctl
    let h := r.handle.val
    c.on (F.cnpHtW0Valid h) = true → 1 ≤ r.size → r.size ≤ 32768 → c.htOk (c.rd (R.cnpHtW0 h)) r.base r.size = true →
    c.ownerHolds (c.get (F.cnpHtW0Owner h)) (c.on (F.cnpHtW0Target h)) r.base r.size = true →
    CompletesCtl s (exec (.taskEnqueue src [r]) s) (fun d => d.get (F.cnpHtW1Base h) = r.base ∧ d.get (F.cnpHtW2SizeM1 h) + 1 = r.size ∧
      d.get (F.cnpHtW0Owner h) = c.get (F.cnpHtW0Owner h) ∧ d.on (F.cnpHtW0Valid h) = true ∧
      d.on (F.cnpHtW0Target h) = c.on (F.cnpHtW0Target h) ∧ d.get (F.cnpHtW0Epoch h) = (c.get (F.cnpHtW0Epoch h) + 1) % 65536 ∧
      Frame true [.fab, .jobs] [R.cnpHtW0 h, R.cnpHtW1 h, R.cnpHtW2 h] c d) := by
  intro c h hvalid h1 h2 hok hown
  obtain ⟨w0, busy, fv, fd, fo, hstore⟩ := rearm_stores (w := ⟨s.hw.ctl, s.hw.mem, []⟩) hvalid h1 h2 hok hown
  have hgo : (if !(W.mk s.hw.ctl s.hw.mem []).ctl.running then ⟨s.hw.ctl, s.hw.mem, []⟩
      else ([r].foldl W.rearm ⟨s.hw.ctl, s.hw.mem, []⟩).on (fun c => c.place src)) =
      ⟨(c.htStore h w0 r.base r.size busy).place src, s.hw.mem, []⟩ := by
    rw [if_neg (by rw [hr]; decide), List.foldl_cons, List.foldl_nil, hstore]
    rfl
  refine completesCtl_onHw (f := fun w => if !w.ctl.running then w else ([r].foldl W.rearm w).on (fun c => c.place src)) hgo ?_
  have hframe := frame_place (c.htStore h w0 r.base r.size busy) src
  have hlow : h < 256 := r.handle.isLt
  have hget {f : Fld} (hf : f.addr < 0x200000) (hf' : 0x100000 ≤ f.addr) :
      ((c.htStore h w0 r.base r.size busy).place src).get f = (c.htStore h w0 r.base r.size busy).get f :=
    hframe.get (by simp) (by unfold postAddr; simp; omega)
  have hw0 : R.cnpHtW0 h < 0x200000 ∧ 0x100000 ≤ R.cnpHtW0 h := by simp only [R.cnpHtW0]; omega
  refine ⟨?_, ?_, ?_, ?_, ?_, ?_, (((onlyRegs_htStore c busy).frame true).mono (by simp) (fun _ ha => ha)).trans (hframe.mono (fun _ hp => hp) (by simp))⟩
  · rw [hget (f := F.cnpHtW1Base h) (by simp only [R.cnpHtW1]; omega) (by simp only [R.cnpHtW1]; omega),
      get_htStore_base c busy (base_lt_of_htOk hok h1)]
  · rw [hget (f := F.cnpHtW2SizeM1 h) (by simp only [R.cnpHtW2]; omega) (by simp only [R.cnpHtW2]; omega), get_htStore_size c busy h1 h2]
  · rw [hget (f := F.cnpHtW0Owner h) hw0.1 hw0.2, get_htStore_word c busy (.inr (by decide)), fo]
  · rw [Ctl.on, hget (f := F.cnpHtW0Valid h) hw0.1 hw0.2, get_htStore_word c busy (.inl (by decide)), fv]
    rfl
  · rw [Ctl.on, hget (f := F.cnpHtW0Target h) hw0.1 hw0.2, get_htStore_word c busy (.inl (by decide)), fd]
    cases c.on (F.cnpHtW0Target h) <;> rfl
  · rw [hget (f := F.cnpHtW0Epoch h) hw0.1 hw0.2, get_htStore_epoch]

end

end Sys2Proof.Machine
end

section
/-! The start of a task (06_channels_and_semaphores.md R126, R184; 05_memory_hierarchy.md R162). -/

namespace Sys2Proof.Machine

/-! The registers of a core whose task starts. -/

section
variable (c : Ctl) (q : Nat)

theorem vreg_clearRegs {i : Nat} (hi : i < 32) : (c.clearRegs q).vreg q i = 0 := by
  refine (mget_mdrop 0 (inRange (32 * q) 32) c.fab.vregs (32 * q + i)).trans (if_pos ?_)
  simp [inRange, hi]

theorem preg_clearRegs {i : Nat} (h0 : i ≠ 0) (hi : i < 16) : (c.clearRegs q).preg q i = 0 := by
  rw [Ctl.preg, if_neg h0]
  refine (mget_mdrop 0 (inRange (16 * q) 16) c.fab.pregs (16 * q + i)).trans (if_pos ?_)
  simp [inRange, hi]

theorem areg_clearRegs {i row col : Nat} (hi : i < 8) (hrow : row < 16) (hcol : col < 32) : (c.clearRegs q).areg q i row col = 0 := by
  refine (mget_mdrop 0 (inRange (4096 * q) 4096) c.fab.aregs (((q * 8 + i) * 16 + row) * 32 + col)).trans (if_pos ?_)
  simp only [inRange, decide_eq_true_eq]
  omega

theorem sreg_clearRegs {i : Nat} (hi : i < 64) : (c.clearRegs q).sreg q i = 0 := by
  unfold Ctl.sreg
  split
  · rfl
  · refine (mget_mdrop 0 (inRange (64 * q) 64) c.fab.sregs (64 * q + i)).trans (if_pos ?_)
    simp [inRange, hi]

/-- The registers s1 to sn written. -/
theorem sreg_sregSets (f : Nat → Word) {n : Nat} (hn : n < 64) {j : Nat} (hj : j < 64) :
    ((List.range n).foldl (fun c i => c.sregSet q (i + 1) (f i)) c).sreg q j = if 1 ≤ j ∧ j ≤ n then f (j - 1) else c.sreg q j := by
  induction n with
  | zero =>
    rw [if_neg (by omega)]
    rfl
  | succ n ih =>
    rw [List.range_succ, List.foldl_append, List.foldl_cons, List.foldl_nil, Ctl.sreg_sregSet _ _ _ _ _ (by omega) hj, ih (by omega)]
    by_cases hat : j = n + 1
    · rw [if_pos ⟨rfl, hat, by omega⟩, if_pos (by omega), hat]
      rfl
    · rw [if_neg (by omega)]
      by_cases hlow : 1 ≤ j ∧ j ≤ n
      · rw [if_pos hlow, if_pos (by omega)]
      · rw [if_neg hlow, if_neg (by omega)]

end

theorem filesOnly_sregSets (c : Ctl) (q n : Nat) (f : Nat → Word) : FilesOnly c ((List.range n).foldl (fun c i => c.sregSet q (i + 1) (f i)) c) :=
  filesOnly_foldl _ _ (fun c _ => filesOnly_sregSet c _ _ _) c

/-- The registers of core q cleared and the arguments written (R126). -/
def Ctl.argRegs (c : Ctl) (q : Nat) (t : Task) : Ctl := (List.range 15).foldl (fun c i => c.sregSet q (i + 1) (nth 0 t.args i)) (c.clearRegs q)

theorem filesOnly_argRegs (c : Ctl) (q : Nat) (t : Task) : FilesOnly c (c.argRegs q t) :=
  FilesOnly.trans (d := c.clearRegs q) ⟨_, _, _, _, rfl⟩ (filesOnly_sregSets _ q 15 _)

theorem sregSets_files (c : Ctl) (q n : Nat) (f : Nat → Word) : let d := (List.range n).foldl (fun c i => c.sregSet q (i + 1) (f i)) c
    d.fab.vregs = c.fab.vregs ∧ d.fab.pregs = c.fab.pregs ∧ d.fab.aregs = c.fab.aregs :=
  ⟨foldl_keeps (fun c : Ctl => c.fab.vregs) _ (fun c i => (sregSet_files c q (i + 1) (f i)).1) _ c,
    foldl_keeps (fun c : Ctl => c.fab.pregs) _ (fun c i => (sregSet_files c q (i + 1) (f i)).2.1) _ c,
    foldl_keeps (fun c : Ctl => c.fab.aregs) _ (fun c i => (sregSet_files c q (i + 1) (f i)).2.2) _ c⟩

/-- What a task set running finds of its core's registers (R126): arguments, and zeros. -/
structure FreshRegs (d : Ctl) (q : Nat) (t : Task) : Prop where
  args : ∀ i < 15, d.sreg q (i + 1) = nth 0 t.args i
  sregs : ∀ i, 16 ≤ i → i < 64 → d.sreg q i = 0
  vregs : ∀ i < 32, d.vreg q i = 0
  pregs : ∀ i, 1 ≤ i → i < 16 → d.preg q i = 0
  aregs : ∀ i r j, i < 8 → r < 16 → j < 32 → d.areg q i r j = 0

theorem freshRegs_argRegs (c : Ctl) (q : Nat) (t : Task) : FreshRegs (c.argRegs q t) q t := by
  obtain ⟨hv, hp, ha⟩ := sregSets_files (c.clearRegs q) q 15 (fun i => nth 0 t.args i)
  have hsreg {j : Nat} (hj : j < 64) := sreg_sregSets (c.clearRegs q) q (fun i => nth 0 t.args i) (n := 15) (by decide) hj
  refine ⟨fun i hi => ?_, fun i hi hi' => ?_, fun i hi => ?_, fun i hi hi' => ?_, fun i r j hi hr hj => ?_⟩
  · exact (hsreg (by omega)).trans (if_pos (by omega))
  · exact ((hsreg hi').trans (if_neg (by omega))).trans (sreg_clearRegs c q hi')
  · exact (congrArg (fun m => mget 0 m (32 * q + i)) hv).trans (vreg_clearRegs c q hi)
  · exact (preg_of_file hp q i).trans (preg_clearRegs c q (by omega) hi')
  · exact (congrArg (fun m => mget 0 m (((q * 8 + i) * 16 + r) * 32 + j)) ha).trans (areg_clearRegs c q hi hr hj)

theorem FreshRegs.of_files {c d : Ctl} {q : Nat} {t : Task} (h : FreshRegs c q t) (hf : FilesAs c d) : FreshRegs d q t := by
  obtain ⟨hs, hv, ha, hp⟩ := hf
  obtain ⟨args, sregs, vregs, pregs, aregs⟩ := h
  have hsreg (i : Nat) : d.sreg q i = c.sreg q i := by rw [Ctl.sreg, hs, Ctl.sreg]
  refine ⟨fun i hi => (hsreg _).trans (args i hi), fun i hi hi' => (hsreg _).trans (sregs i hi hi'), fun i hi => ?_, fun i hi hi' => ?_,
    fun i r j hi hr hj => ?_⟩
  · rw [Ctl.vreg, hv]
    exact vregs i hi
  · rw [preg_of_file hp]
    exact pregs i hi hi'
  · rw [Ctl.areg, ha]
    exact aregs i r j hi hr hj

/-! A task set running (R126). -/

theorem runTask_eq (c : Ctl) (q : Nat) (t : Task) : c.runTask q t =
    ((c.argRegs q t).put (F.stdCorePcPc (q / 8) (q % 8)) t.entry).coreSet q
      { CoreSt.idle with task := some { t with inCommit := false }, prevOwner := t.owner } := rfl

section
variable (c : Ctl) (q : Nat) (t : Task)

theorem freshRegs_runTask : FreshRegs (c.runTask q t) q t := by
  rw [runTask_eq]
  have h := freshRegs_argRegs c q t
  generalize c.argRegs q t = d at h
  exact h.of_files ⟨rfl, rfl, rfl, rfl⟩

theorem core_runTask (r : Nat) : (c.runTask q t).core r =
    if r = q then { CoreSt.idle with task := some { t with inCommit := false }, prevOwner := t.owner } else c.core r := by
  rw [runTask_eq, Ctl.core_coreSet]
  refine if_congr Iff.rfl rfl ?_
  obtain ⟨_, _, _, _, h⟩ := filesOnly_argRegs c q t
  rw [Ctl.core_put, h]
  rfl

theorem pc_runTask : (c.runTask q t).get (F.stdCorePcPc (q / 8) (q % 8)) = t.entry % 4096 := by
  rw [runTask_eq]
  generalize c.argRegs q t = d
  exact Ctl.get_put_self d (F.stdCorePcPc (q / 8) (q % 8)) t.entry (by simp)

theorem FilesOnly.frame {c d : Ctl} (h : FilesOnly c d) (b : Bool) : Frame b [.fab] [] c d := by
  obtain ⟨_, _, _, _, rfl⟩ := h
  exact frame_parts

theorem frame_runTask (b : Bool) : Frame b [.fab] [R.stdCorePc (q / 8) (q % 8)] c (c.runTask q t) := by
  rw [runTask_eq]
  have hset (d : Ctl) (v : CoreSt) : Frame b [.fab] [] d (d.coreSet q v) := frame_parts
  exact ((filesOnly_argRegs c q t).frame b |>.mono (by simp) (by simp)).trans
    (((frame_put b _ (F.stdCorePcPc (q / 8) (q % 8)) _).mono (by simp) (by simp)).trans ((hset _ _).mono (by simp) (by simp)))

theorem queues_runTask : (c.runTask q t).fab.queues = c.fab.queues := by
  rw [runTask_eq]
  obtain ⟨_, _, _, _, h⟩ := filesOnly_argRegs c q t
  rw [h]
  rfl

end

/-! The dispatcher (R162, R184). -/

/-- The head of a queue taken, with its semaphore's count. -/
def Ctl.dequeue (c : Ctl) (k : Nat) (t : Task) (rest : List Task) : Ctl :=
  let d := { c with fab := { c.fab with queues := mset [] c.fab.queues k rest } }
  if t.startEn then d.semTake t.startSem t.startN k else d

/-- A job's item counted as started (R233). -/
def Ctl.itemStarts (c : Ctl) (t : Task) : Ctl :=
  if t.isJob then
    match c.job (t.owner - 0x40) with
    | some j => c.jobSet (t.owner - 0x40) (some { j with started := j.started + 1 })
    | none => c
  else c

section
variable (c : Ctl) (k : Nat) (t : Task) (rest : List Task)

theorem frame_itemStarts (b : Bool) : Frame b [.jobs] [] c (c.itemStarts t) := by
  unfold Ctl.itemStarts
  split
  · split
    · exact frame_jobSet ..
    · exact Frame.refl ..
  · exact Frame.refl ..

theorem frame_dequeue (b : Bool) : Frame b [.fab] [R.semCount t.startSem] c (c.dequeue k t rest) := by
  have hqueue : Frame b [.fab] [R.semCount t.startSem] c { c with fab := { c.fab with queues := mset [] c.fab.queues k rest } } := frame_parts
  have htake (d : Ctl) : Frame b [.fab] [R.semCount t.startSem] d (d.semTake t.startSem t.startN k) :=
    ((frame_put b d (F.semCountCount t.startSem) _).mono (by simp) (by simp)).trans frame_parts
  unfold Ctl.dequeue
  dsimp only
  split
  · exact hqueue.trans (htake _)
  · exact hqueue

theorem fab_dequeue : ∃ last, (c.dequeue k t rest).fab = { c.fab with queues := mset [] c.fab.queues k rest, semLast := last } := by
  unfold Ctl.dequeue
  dsimp only
  split
  · exact ⟨_, rfl⟩
  · exact ⟨_, rfl⟩

/-- A head that waits for a count takes it (R184). -/
theorem count_dequeue (hs : t.startEn = true) (hn : t.startN ≤ c.get (F.semCountCount t.startSem)) :
    (c.dequeue k t rest).get (F.semCountCount t.startSem) + t.startN = c.get (F.semCountCount t.startSem) := by
  unfold Ctl.dequeue
  dsimp only
  rw [if_pos hs]
  exact get_semTake { c with fab := { c.fab with queues := mset [] c.fab.queues k rest } } t.startSem t.startN k hn

end

/-- The operand buffer and the scratch region of core q marked for Clearing where its previous task had another owner (R162). -/
def W.markCore (w : W) (q : Nat) (same : Bool) : W :=
  if same then w
  else (w.act (.mark (opbufKey q 0) Config.opbufBytes)).act (.mark (cmemKey q w.ctl.scratchAt) (Config.coreMemBytes - w.ctl.scratchAt))

theorem markCore_ctl (w : W) (q : Nat) (same : Bool) : (w.markCore q same).ctl = w.ctl := by
  unfold W.markCore
  split <;> rfl

/-- What the dispatcher does with a ready head. -/
theorem taskStart_starts {w : W} {k q : Nat} {t : Task} {rest : List Task} (hq : w.ctl.physOf k = some q)
    (hqueue : mget [] w.ctl.fab.queues k = t :: rest) (hidle : (w.ctl.core q).task = none) (hrun : w.ctl.mayRun (q / 8) = true)
    (hready : w.ctl.headReady k t = true) : w.taskStart k = ((w.on (fun _ => w.ctl.dequeue k t rest)).markCore q
      (decide ((w.ctl.core q).prevOwner = t.owner))).on (fun c => (c.itemStarts t).runTask q t) := by
  have hdequeue : (if t.startEn then (w.on (fun c => { c with fab := { c.fab with queues := mset [] c.fab.queues k rest } })).on
      (fun c => c.semTake t.startSem t.startN k) else w.on (fun c => { c with fab := { c.fab with queues := mset [] c.fab.queues k rest } })) =
      w.on (fun _ => w.ctl.dequeue k t rest) := by
    unfold Ctl.dequeue
    cases t.startEn with
    | true => exact W.on_at w (fun c => Ctl.semTake { c with fab := { c.fab with queues := mset [] c.fab.queues k rest } } t.startSem t.startN k)
    | false => exact W.on_at w (fun c => { c with fab := { c.fab with queues := mset [] c.fab.queues k rest } })
  have hitem (v : W) : ((if t.isJob then v.on (fun c => match c.job (t.owner - 0x40) with
      | some j => c.jobSet (t.owner - 0x40) (some { j with started := j.started + 1 })
      | none => c) else v).on (fun c => c.runTask q t)) = v.on (fun c => (c.itemStarts t).runTask q t) := by
    unfold Ctl.itemStarts
    cases t.isJob <;> rfl
  unfold W.taskStart
  rw [hq, hqueue]
  dsimp only
  rw [if_pos ⟨hidle, hrun, hready⟩, hdequeue]
  unfold W.markCore
  simp only [decide_eq_true_eq]
  exact hitem _

/-- The operand buffer of a core marked reads zero (R162). -/
theorem rd_markCore (w : W) (q : Nat) {b : Nat} (hb : b < Config.opbufBytes) : (w.markCore q false).mem.rd (opbufKey q b) = 0 := by
  unfold W.markCore W.act
  rw [if_neg Bool.false_ne_true]
  dsimp only
  rw [MAct.rd_mark, MAct.rd_mark, if_pos (show inRange (opbufKey q 0) Config.opbufBytes (opbufKey q b) = true from
    decide_eq_true ⟨by simp only [opbufKey]; omega, by simp only [opbufKey]; omega⟩)]
  exact ite_self _

theorem run_markCore (c d : Ctl) (m : Mem) (q : Nat) (same : Bool) (f : Ctl → Ctl) :
    MAct.run m (((⟨c, m, []⟩ : W).on (fun _ => d)).markCore q same |>.on f).acts.reverse = (((⟨c, m, []⟩ : W).on (fun _ => d)).markCore q same).mem := by
  cases same <;> rfl

section
variable {s : State} {k : Fin 128}

theorem exec_taskStart (hr : s.hw.ctl.running = true) {w : W} (hw : W.taskStart ⟨s.hw.ctl, s.hw.mem, []⟩ k.val = w) :
    exec (.taskStart k) s = .next ⟨⟨w.ctl, MAct.run s.hw.mem w.acts.reverse⟩, s.pending⟩ :=
  onHw_eq s (fun w => if w.ctl.running then w.taskStart k.val else w) w ((if_pos hr).trans hw)

/-- TASK_START of a ready head on an idle core (R126, R162, R184). -/
theorem taskStart_ready (hr : s.hw.ctl.running = true) {q : Nat} {t : Task} {rest : List Task} (hq : s.hw.ctl.physOf k.val = some q)
    (hqueue : mget [] s.hw.ctl.fab.queues k.val = t :: rest) (hidle : (s.hw.ctl.core q).task = none) (hrun : s.hw.ctl.mayRun (q / 8) = true)
    (hready : s.hw.ctl.headReady k.val t = true) : let c := s.hw.ctl
    Completes (exec (.taskStart k) s) (fun u => let d := u.hw.ctl
      u.pending = s.pending ∧ mget [] d.fab.queues k.val = rest ∧ (∀ i, i ≠ k.val → mget [] d.fab.queues i = mget [] c.fab.queues i) ∧
      (d.core q).task = some { t with inCommit := false } ∧ (∀ r, r ≠ q → d.core r = c.core r) ∧
      d.get (F.stdCorePcPc (q / 8) (q % 8)) = t.entry % 4096 ∧ FreshRegs d q t ∧
      (t.startEn = true → t.startSem < 256 → d.get (F.semCountCount t.startSem) + t.startN = c.get (F.semCountCount t.startSem)) ∧
      ((c.core q).prevOwner = t.owner → u.hw.mem = s.hw.mem) ∧
      ((c.core q).prevOwner ≠ t.owner → ∀ b < Config.opbufBytes, u.hw.mem.rd (opbufKey q b) = 0) ∧
      Frame false [.fab, .jobs] [R.stdCorePc (q / 8) (q % 8), R.semCount t.startSem] c d) := by
  intro c
  have hstart := taskStart_starts (w := ⟨s.hw.ctl, s.hw.mem, []⟩) hq hqueue hidle hrun hready
  have hctl : (((⟨c, s.hw.mem, []⟩ : W).on (fun _ => c.dequeue k.val t rest)).markCore q (decide ((c.core q).prevOwner = t.owner))).ctl =
      c.dequeue k.val t rest := markCore_ctl ..
  have hmem := run_markCore c (c.dequeue k.val t rest) s.hw.mem q (decide ((c.core q).prevOwner = t.owner)) (fun c => (c.itemStarts t).runTask q t)
  refine ⟨_, exec_taskStart hr hstart, rfl, ?_⟩
  dsimp only
  rw [hmem, W.on_ctl, hctl]
  obtain ⟨last, hfab⟩ := fab_dequeue c k.val t rest
  have hframe := frame_dequeue c k.val t rest false
  have hitem := frame_itemStarts (c.dequeue k.val t rest) t false
  have hifab : ((c.dequeue k.val t rest).itemStarts t).fab = (c.dequeue k.val t rest).fab := hitem.1 .fab (by simp) rfl
  have hqueues (i : Nat) : mget [] (((c.dequeue k.val t rest).itemStarts t).runTask q t).fab.queues i =
      if i = k.val then rest else mget [] c.fab.queues i := by
    rw [queues_runTask, hifab, hfab]
    exact mget_mset ..
  have hrunframe := frame_runTask ((c.dequeue k.val t rest).itemStarts t) q t false
  refine ⟨by rw [hqueues, if_pos rfl], fun i hi => by rw [hqueues, if_neg hi], ?_, fun r hne => ?_, pc_runTask .., freshRegs_runTask ..,
    fun hs hsem => ?_, fun hsame => ?_, fun hdiff b hb => ?_, ?_⟩
  · rw [core_runTask, if_pos rfl]
  · rw [core_runTask, if_neg hne]
    exact Ctl.core_of_cores (by rw [hifab, hfab]) r
  · have hn : t.startN ≤ c.get (F.semCountCount t.startSem) := by
      unfold Ctl.headReady at hready
      rw [hs] at hready
      simp only [Bool.not_true, Bool.false_or, Bool.and_eq_true, decide_eq_true_eq] at hready
      exact hready.1
    have hrd : (((c.dequeue k.val t rest).itemStarts t).runTask q t).rd (R.semCount t.startSem) = (c.dequeue k.val t rest).rd (R.semCount t.startSem) := by
      refine (hrunframe.2 _ ?_ rfl).trans (hitem.2 _ (by simp) rfl)
      have hbase : 0x78000 ≤ stdBase (q / 8) := by unfold stdBase; split <;> omega
      simp only [R.semCount, R.stdCorePc, List.mem_singleton]
      omega
    rw [Ctl.get_of_rd (f := F.semCountCount t.startSem) hrd]
    exact count_dequeue c k.val t rest hs hn
  · rw [decide_eq_true hsame]
    rfl
  · rw [decide_eq_false hdiff]
    exact rd_markCore _ q hb
  · exact ((hframe.mono (by simp) (by simp)).trans (hitem.mono (by simp) (by simp))).trans (hrunframe.mono (by simp) (by simp))

/-- TASK_START of a head that is not ready (R184). -/
theorem taskStart_waits (hr : s.hw.ctl.running = true) {q : Nat} {t : Task} {rest : List Task} (hq : s.hw.ctl.physOf k.val = some q)
    (hqueue : mget [] s.hw.ctl.fab.queues k.val = t :: rest) (hready : s.hw.ctl.headReady k.val t = false) :
    exec (.taskStart k) s = .next s := by
  refine exec_taskStart hr (w := ⟨s.hw.ctl, s.hw.mem, []⟩) ?_
  unfold W.taskStart
  rw [hq, hqueue]
  exact if_neg fun hgo => by
    obtain ⟨-, -, hgo⟩ := hgo
    rw [hready] at hgo
    exact absurd hgo (by decide)

end

end Sys2Proof.Machine
end

section
/-! The stand watchdog and the wait limit (04_stands_and_bundles.md R120 … R122, R143). -/

namespace Sys2Proof.Machine

/-! A stand's state set (R119). -/

theorem onlyRegs_setStand (c : Ctl) (n st lg : Nat) : OnlyRegs [R.stdState n] c (c.setStand n st lg) := by
  unfold Ctl.setStand Ctl.unitState Ctl.nextEpoch
  split
  · exact OnlyRegs.refl ..
  split
  · exact OnlyRegs.refl ..
  · exact ((onlyRegs_put c (F.stdStateState n) st).trans (onlyRegs_put _ (F.stdStateLogical n) lg)).trans (onlyRegs_put _ (F.stdStateEpoch n) _)

theorem state_setStand (c : Ctl) {n : Nat} (hn : n < 17) (st lg : Nat) : (c.setStand n st lg).get (F.stdStateState n) = st % 8 := by
  unfold Ctl.setStand Ctl.unitState Ctl.nextEpoch
  rw [if_neg (by omega)]
  split
  next h =>
    simp only [List.all_cons, List.all_nil, Bool.and_true, Bool.and_eq_true, beq_iff_eq] at h
    exact h.1
  next =>
    simp only [List.foldl_cons, List.foldl_nil]
    rw [Ctl.get_put_ne _ (F.stdStateEpoch n) (F.stdStateState n) _ (by simp) (by simp),
      Ctl.get_put_ne _ (F.stdStateLogical n) (F.stdStateState n) _ (by simp) (by simp), Ctl.get_put_self _ _ _ (by simp)]
    rfl

/-- The registers of the stands are none of those that a posting changes. -/
theorem postAddr_stdState {n : Nat} (hn : n < 17) : postAddr (R.stdState n) = false :=
  postAddr_core (by simp only [R.stdState, stdBase]; split <;> omega) (by simp only [R.stdState, stdBase]; split <;> omega)

/-! What a failed stand is: its state, its gather buffer, its cores (R122). -/

/-- Stand n is FAILED, its gather buffer is empty and its cores hold no task. -/
structure Ctl.Failed (c : Ctl) (n : Nat) : Prop where
  state : c.get (F.stdStateState n) = 5
  gather : c.gather n = []
  idle : ∀ i < 8, (c.core (8 * n + i)).task = none

/-- A change that leaves the stand's state register, Canopy's controllers and the cores leaves it FAILED. -/
theorem Ctl.Failed.of_same {c d : Ctl} {n : Nat} (h : c.Failed n) (hrd : d.rd (R.stdState n) = c.rd (R.stdState n)) (hcnp : d.cnp = c.cnp)
    (hcores : d.fab.cores = c.fab.cores) : d.Failed n := by
  refine ⟨(Ctl.get_of_rd (f := F.stdStateState n) hrd).trans h.state, ?_, fun i hi => ?_⟩
  · rw [Ctl.gather, hcnp]
    exact h.gather
  · rw [Ctl.core_of_cores hcores]
    exact h.idle i hi

theorem Ctl.Failed.of_posted {c d : Ctl} {n : Nat} (hn : n < 17) (h : c.Failed n) (hp : Posted c d) : d.Failed n :=
  h.of_same (hp.rd _ (postAddr_stdState hn)) hp.cnp (by rw [hp.fab])

theorem Ctl.Failed.of_regs {c d : Ctl} {n : Nat} {l : List Nat} (h : c.Failed n) (ho : OnlyRegs l c d) (hl : R.stdState n ∉ l) : d.Failed n := by
  obtain ⟨hrd, r, rfl⟩ := ho
  exact h.of_same (hrd _ hl) rfl rfl

/-- Another stand's state set, read as something else than FAILED before, leaves stand n FAILED. -/
theorem Ctl.Failed.setStand {c : Ctl} {n m : Nat} (h : c.Failed n) {st lg : Nat} (hm : c.get (F.stdStateState m) ≠ 5) :
    (c.setStand m st lg).Failed n := by
  refine h.of_regs (onlyRegs_setStand c m st lg) fun hmem => hm ?_
  rw [← h.state, Ctl.get, Ctl.get]
  exact congrArg (fun a => fieldGet (c.rd a) 0 3) (List.mem_singleton.mp hmem).symm

theorem Ctl.Failed.rotFail {c : Ctl} {n : Nat} (h : c.Failed n) (st : Nat) : (c.rotFail n st).Failed n := by
  unfold Ctl.rotFail
  split
  · exact h
  next l e _ =>
    split
    · exact h
    · have hentering : (if n ≠ e ∧ c.get (F.stdStateState e) = 2 then c.setStand e 1 0 else c).Failed n := by
        split
        next he => exact h.setStand (by rw [he.2]; decide)
        · exact h
      dsimp only
      generalize (if n ≠ e ∧ c.get (F.stdStateState e) = 2 then c.setStand e 1 0 else c) = d at hentering
      have hleaving : (if n = e ∧ d.get (F.stdStateState l) = 4 then d.setStand l 3 (d.get (F.stdStateLogical l)) else d).Failed n := by
        split
        next hl => exact hentering.setStand (by rw [hl.2]; decide)
        · exact hentering
      exact hleaving.of_same rfl rfl rfl

theorem answer_host (c : Ctl) (m st detail ep : Nat) (res : List Word) : ∃ h, c.answer m st detail ep res = { c with host := h } := by
  unfold Ctl.answer
  split
  · exact ⟨_, rfl⟩
  · exact ⟨_, rfl⟩

theorem bistEnd_eq (c : Ctl) (st detail : Nat) (res : List Word) : ∃ p h, c.bistEnd st detail res = { c with pwr := p, host := h } := by
  unfold Ctl.bistEnd
  split
  · exact ⟨_, _, rfl⟩
  · dsimp only
    split
    · obtain ⟨h, hh⟩ := answer_host { c with pwr := { c.pwr with bist := none, bistOn := none } } _ st detail _ res
      exact ⟨_, h, hh⟩
    · exact ⟨_, _, rfl⟩

theorem Ctl.Failed.bistGone {c : Ctl} {n : Nat} (h : c.Failed n) : (c.bistGone n).Failed n := by
  unfold Ctl.bistGone
  split
  · split
    · obtain ⟨p, host, heq⟩ := bistEnd_eq c stBadArg 3 []
      rw [heq]
      exact h.of_same rfl rfl rfl
    · exact h
  · exact h

theorem onlyRegs_rotRegs (c : Ctl) : OnlyRegs [R.phcRotStatus] c c.rotRegs :=
  ((onlyRegs_put c F.phcRotStatusSpare _).trans (onlyRegs_put _ F.phcRotStatusNext _)).trans (onlyRegs_put _ F.phcRotStatusRemain _)

/-! The tasks of a failed stand abandoned. -/

theorem task_leaveCore (c : Ctl) (q : Nat) (stopped : Bool) (r : Nat) :
    ((c.leaveCore q stopped).core r).task = if r = q then none else (c.core r).task := by
  unfold Ctl.leaveCore
  split
  next h =>
    split
    next hr => rw [hr, h]
    · rfl
  next t h =>
    dsimp only
    rw [Ctl.core_coreSet]
    split
    · rfl
    · split <;> rfl

theorem tasks_leaveCores (l : List Nat) (base : Nat) (c : Ctl) {i : Nat} (hi : i ∈ l) :
    ((l.foldl (fun c i => c.leaveCore (base + i) false) c).core (base + i)).task = none := by
  have hkeeps (l : List Nat) (d : Ctl) (hd : (d.core (base + i)).task = none) :
      ((l.foldl (fun c i => c.leaveCore (base + i) false) d).core (base + i)).task = none := by
    induction l generalizing d with
    | nil => exact hd
    | cons j l ih => exact ih _ (by rw [task_leaveCore, hd, ite_self])
  induction l generalizing c with
  | nil => exact absurd hi (by simp)
  | cons j l ih =>
    rcases List.mem_cons.mp hi with rfl | hi
    · exact hkeeps l _ (by rw [task_leaveCore, if_pos rfl])
    · exact ih _ hi

/-- The bookkeeping of power that a stand which fails leaves. -/
def Ctl.dropStand (c : Ctl) (n : Nat) : Ctl :=
  let p := c.pwr
  { c with pwr := { p with routine := mset 0 p.routine n 0, routineOk := mset false p.routineOk n false,
                           remaps := p.remaps.filter (fun r => r.2.1 != n), holdPend := p.holdPend.filter (· != n),
                           relPend := p.relPend.filter (· != n), bistOn := if p.bistOn = some n then none else p.bistOn } }

/-- A stand that fails (R122, R491). -/
theorem failed_failStand (c : Ctl) {n : Nat} (hn : n < 17) (cause detail : Nat) : (c.failStand n cause detail).Failed n := by
  unfold Ctl.failStand
  dsimp only
  generalize (if c.get (F.stdStateState n) = 3 ∨ c.get (F.stdStateState n) = 4 then c.get (F.stdStateLogical n) else 0xF) = served
  have hidle (i : Nat) (hi : i < 8) : ((forN 8 (fun i c => c.leaveCore (8 * n + i) false) c).core (8 * n + i)).task = none :=
    tasks_leaveCores (List.range 8) (8 * n) c (List.mem_range.mpr hi)
  generalize forN 8 (fun i c => c.leaveCore (8 * n + i) false) c = d at hidle
  have hset : (Ctl.setStand (Ctl.gatherSet { d with fab := { d.fab with queues := mdrop (fun k => k / 8 == served) d.fab.queues } } n []) n 5 0).Failed n := by
    have hg := Ctl.gather_gatherSet_self { d with fab := { d.fab with queues := mdrop (fun k => k / 8 == served) d.fab.queues } } n []
    have hc (i : Nat) (hi : i < 8) : ((Ctl.gatherSet { d with fab := { d.fab with queues := mdrop (fun k => k / 8 == served) d.fab.queues } } n []).core
      (8 * n + i)).task = none := hidle i hi
    generalize Ctl.gatherSet { d with fab := { d.fab with queues := mdrop (fun k => k / 8 == served) d.fab.queues } } n [] = e at hg hc
    obtain ⟨-, r, hr⟩ := onlyRegs_setStand e n 5 0
    refine ⟨state_setStand e hn 5 0, ?_, fun i hi => ?_⟩
    · rw [hr]
      exact hg
    · rw [hr]
      exact hc i hi
  generalize Ctl.setStand (Ctl.gatherSet { d with fab := { d.fab with queues := mdrop (fun k => k / 8 == served) d.fab.queues } } n []) n 5 0 = e at hset
  have hfail : ∀ v, (e.wr (R.dbgStdFail n) v).Failed n := fun v => hset.of_regs (onlyRegs_wr e _ v) (by
    have hp := postAddr_stdState hn
    simp only [List.mem_singleton]
    intro heq
    rw [heq] at hp
    simp [postAddr, R.dbgStdFail] at hp
    omega)
  have hdrop {f : Ctl} (hf : f.Failed n) : ((f.dropStand n).rotRegs).Failed n :=
    Ctl.Failed.of_regs (c := f.dropStand n) (hf.of_same rfl rfl rfl) (onlyRegs_rotRegs _) (by
      simp only [R.stdState, R.phcRotStatus, List.mem_singleton]
      unfold stdBase
      split <;> omega)
  have hend := hdrop ((hfail (w32 (cause + 256 * (c.frameNow.toNat % 2 ^ 24)))).rotFail (c.get (F.stdStateState n))).bistGone
  split
  · exact hend.of_posted hn (posted_postNormal ..)
  · exact hend

/-! The watchdog (R120). -/

section
variable {s : State} {n : Fin 17} {b : Fin 8}

theorem exec_standWatchdog (s : State) (n : Fin 17) (b : Fin 8) : exec (.standWatchdog n b) s = onCtl s (fun x =>
    let cs := x.core (8 * n.val + b.val)
    let st := x.get (F.stdStateState n.val)
    if x.running ∧ (st = 3 ∨ st = 4) ∧ cs.task.isSome ∧ cs.waiting = [] ∧ cs.ready = false ∧ x.get (F.stdWdogLimit n.val) ≠ 0 then
      x.failStand n.val 1 (x.get (F.stdCorePcPc n.val b.val))
    else x) := rfl

/-- A held bundle that waits for nothing fails its stand (R120, R122). -/
theorem standWatchdog_fails (hr : s.hw.ctl.running = true)
    (hst : s.hw.ctl.get (F.stdStateState n) = 3 ∨ s.hw.ctl.get (F.stdStateState n) = 4)
    (ht : (s.hw.ctl.core (8 * n.val + b.val)).task.isSome = true) (hw : (s.hw.ctl.core (8 * n.val + b.val)).waiting = [])
    (hn : (s.hw.ctl.core (8 * n.val + b.val)).ready = false) (hl : s.hw.ctl.get (F.stdWdogLimit n) ≠ 0) :
    CompletesCtl s (exec (.standWatchdog n b) s) (fun d => d.get (F.stdStateState n) = 5 ∧
      d.gather n.val = [] ∧ ∀ i < 8, (d.core (8 * n.val + i)).task = none) := by
  rw [exec_standWatchdog]
  refine completesCtl_onCtl ?_
  dsimp only
  rw [if_pos ⟨hr, hst, ht, hw, hn, hl⟩]
  obtain ⟨hstate, hgather, hidle⟩ := failed_failStand s.hw.ctl n.isLt 1 (s.hw.ctl.get (F.stdCorePcPc n.val b.val))
  exact ⟨hstate, hgather, hidle⟩

theorem standWatchdog_off (hl : s.hw.ctl.get (F.stdWdogLimit n) = 0) : exec (.standWatchdog n b) s = .next s := by
  rw [exec_standWatchdog, onCtl]
  dsimp only
  rw [if_neg fun h => h.2.2.2.2.2 hl]

end

/-! The wait limit of host jobs (R121, R143). -/

section
variable {s : State} {k : Fin 128} {x : At}

/-- A core fault's registers before the stand's gather buffer is flushed. -/
def Ctl.faultMark (c : Ctl) (q slot cause : Nat) : Ctl :=
  let d := c.wr (R.stdCoreFault (q / 8) (q % 8)) (w32 (c.get (F.stdCorePcPc (q / 8) (q % 8)) + 4096 * cause + 65536 * slot))
  d.put (F.stdFaultCore (q / 8)) (setBit (d.get (F.stdFaultCore (q / 8))) (q % 8))

theorem coreFault_eq (w : W) (q k : Nat) (t : Task) (slot cause code : Nat) : ∃ ws, w.coreFault q k t slot cause code =
    (((w.on (fun _ => w.ctl.faultMark q slot cause)).flushWhere (q / 8) (fun _ => true)).on
      (fun c => ((c.itemEnd t .fault).leaveCore q true).postNormal ws)) := by
  refine ⟨statusRec 4 (0x0100 + q / 8) stOk (faultWords (w.ctl.get (F.stdCorePcPc (q / 8) (q % 8))) cause slot k t.task t.frame t.line false code), ?_⟩
  unfold W.coreFault
  dsimp only
  rw [W.on_on, W.on_at w]
  rfl

theorem rd_faultMark (c : Ctl) (q slot cause : Nat) : (c.faultMark q slot cause).rd (R.stdCoreFault (q / 8) (q % 8)) =
    w32 (c.get (F.stdCorePcPc (q / 8) (q % 8)) + 4096 * cause + 65536 * slot) := by
  unfold Ctl.faultMark
  dsimp only
  rw [Ctl.rd_put_ne _ (F.stdFaultCore (q / 8)) _ (by simp only [R.stdCoreFault, R.stdFault]; omega), Ctl.rd_wr_self]

theorem fault_faultMark (c : Ctl) (q slot cause : Nat) : ((c.faultMark q slot cause).get (F.stdFaultCore (q / 8))).testBit (q % 8) = true := by
  unfold Ctl.faultMark
  dsimp only
  generalize c.wr (R.stdCoreFault (q / 8) (q % 8)) _ = d
  have hd : d.get (F.stdFaultCore (q / 8)) < 2 ^ 8 := Ctl.get_lt d (F.stdFaultCore (q / 8))
  rw [Ctl.get_put_self _ _ _ (by simp)]
  have hfit : setBit (d.get (F.stdFaultCore (q / 8))) (q % 8) % 2 ^ 8 = setBit (d.get (F.stdFaultCore (q / 8))) (q % 8) :=
    Nat.mod_eq_of_lt (setBit_lt hd (by omega))
  rw [hfit, testBit_setBit]

/-- The registers of a stand and of its cores are none of those that a flush changes. -/
theorem Flushed.rd_core {c d : Ctl} (h : Flushed c d) {a : Nat} (hlow : 0x78000 ≤ a) (hhigh : a < 0x100000) : d.rd a = c.rd a :=
  h.rd a (postAddr_core hlow hhigh) (by
    simp only [flushRegs, R.cnpGbRmw, R.cnpDetCount, R.cnpDetAddr, R.cnpDetSrc, R.cnpClrPending, List.mem_cons, List.not_mem_nil, or_false]
    omega)

/-- What a fault of core q leaves of the controllers: its registers, the core stopped with no task, the register files as before. -/
structure Ctl.Faulted (c d : Ctl) (q slot cause : Nat) : Prop where
  word : d.rd (R.stdCoreFault (q / 8) (q % 8)) = w32 (c.get (F.stdCorePcPc (q / 8) (q % 8)) + 4096 * cause + 65536 * slot)
  fault : (d.get (F.stdFaultCore (q / 8))).testBit (q % 8) = true
  core : (d.core q).task = none ∧ (d.core q).stopped = true
  files : d.fab.sregs = c.fab.sregs ∧ d.fab.vregs = c.fab.vregs ∧ d.fab.pregs = c.fab.pregs ∧ d.fab.aregs = c.fab.aregs

theorem faulted_flushed {v w : W} {q : Nat} {t : Task} (hq : q < 136) (ht : (v.ctl.core q).task = some t) (u : Task) (slot cause : Nat)
    (ws : List Word) (hw : w = ((v.on (fun _ => v.ctl.faultMark q slot cause)).flushWhere (q / 8) (fun _ => true)).on
      (fun c => ((c.itemEnd u .fault).leaveCore q true).postNormal ws)) : v.ctl.Faulted w.ctl q slot cause := by
  subst hw
  rw [W.on_ctl]
  obtain ⟨hflush, -, -, -⟩ := flushWhere_frame (v.on (fun _ => v.ctl.faultMark q slot cause)) (q / 8) (fun _ => true)
  obtain ⟨fs, fv, fa, fp⟩ := flushWhere_files (v.on (fun _ => v.ctl.faultMark q slot cause)) (q / 8) (fun _ => true)
  generalize ((v.on (fun _ => v.ctl.faultMark q slot cause)).flushWhere (q / 8) (fun _ => true)).ctl = d at hflush fs fv fa fp
  rw [W.on_ctl] at hflush fs fv fa fp
  have hcore : d.core q = v.ctl.core q := by
    obtain ⟨r, hr⟩ := hflush.fab
    refine (Ctl.core_of_cores (d := d) (c := v.ctl) ?_ q)
    rw [hr]
    rfl
  obtain ⟨host, hitem⟩ := itemEnd_host d u .fault
  rw [hitem]
  have hpost := posted_postNormal (Ctl.leaveCore { d with host := host } q true) ws
  obtain ⟨lregs, lcore, -, ls, lv, lp, la⟩ := leaveCore_frame (c := { d with host := host }) (q := q) (t := t) (hcore ▸ ht) true
  generalize Ctl.leaveCore { d with host := host } q true = e at hpost lregs lcore ls lv lp la
  generalize e.postNormal ws = g at hpost
  have hbase : 0x78000 ≤ stdBase (q / 8) ∧ stdBase (q / 8) ≤ 0xF8000 := by unfold stdBase; split <;> omega
  have hrd {a : Nat} (hlow : 0x78000 ≤ a) (hhigh : a < 0x100000) : g.rd a = (v.ctl.faultMark q slot cause).rd a := by
    rw [hpost.rd a (postAddr_core hlow hhigh), Ctl.rd, lregs]
    exact hflush.rd_core hlow hhigh
  have hfiles : (v.ctl.faultMark q slot cause).fab = v.ctl.fab := rfl
  refine ⟨?_, ?_, ?_, ?_⟩
  · rw [hrd (by simp only [R.stdCoreFault]; omega) (by simp only [R.stdCoreFault]; omega), rd_faultMark]
  · rw [Ctl.get_of_rd (f := F.stdFaultCore (q / 8)) (hrd (by simp only [R.stdFault]; omega) (by simp only [R.stdFault]; omega)),
      fault_faultMark]
  · have hposted : g.core q = e.core q := Ctl.core_of_cores (by rw [hpost.fab]) q
    rw [hposted, lcore]
    exact ⟨rfl, rfl⟩
  · rw [hpost.fab, ls, lv, lp, la]
    exact ⟨fs.trans (congrArg _ hfiles), fv.trans (congrArg _ hfiles), fp.trans (congrArg _ hfiles), fa.trans (congrArg _ hfiles)⟩

theorem exec_waitLimit (s : State) (k : Fin 128) : exec (.waitLimit k) s = onHw s (fun w => w.waitLimit k.val) := rfl

/-- A wait of a host job at its limit is a fault of its core with cause 10 (R121, R143). -/
theorem waitLimit_faults (hr : s.hw.ctl.running = true) {i : Issued} {l : List Issued} (hx : s.hw.ctl.atCore k.val = some x)
    (hw : (s.hw.ctl.core x.q).waiting = i :: l) (hj : x.t.isJob = true) (hl : s.hw.ctl.get (F.stdWdogJobWait x.n) ≠ 0) :
    Completes (exec (.waitLimit k) s) (fun u =>
      u.hw.ctl.rd (R.stdCoreFault (x.q / 8) (x.q % 8)) = w32 (x.pc + 4096 * 10 + 65536 * i.sl.slot.val) ∧
      (u.hw.ctl.get (F.stdFaultCore (x.q / 8))).testBit (x.q % 8) = true ∧ (u.hw.ctl.core x.q).task = none ∧
      (u.hw.ctl.core x.q).stopped = true ∧ SameFiles s u ∧ u.pending = s.pending) := by
  obtain ⟨-, hq, ht, hpc, -⟩ := atCore_q hx
  have hgo : W.waitLimit ⟨s.hw.ctl, s.hw.mem, []⟩ k.val = W.coreFault ⟨s.hw.ctl, s.hw.mem, []⟩ x.q k.val x.t i.sl.slot.val 10 0 := by
    unfold W.waitLimit
    dsimp only
    rw [hx]
    dsimp only
    rw [hw]
    exact if_neg (by simp [hr, hj, hl])
  obtain ⟨ws, hfault⟩ := coreFault_eq ⟨s.hw.ctl, s.hw.mem, []⟩ x.q k.val x.t i.sl.slot.val 10 0
  obtain ⟨hword, hbit, hcore, fs, fv, fp, fa⟩ := faulted_flushed (v := ⟨s.hw.ctl, s.hw.mem, []⟩) hq ht x.t i.sl.slot.val 10 ws hfault
  rw [exec_waitLimit]
  refine ⟨_, onHw_eq s _ _ hgo, ?_⟩
  exact ⟨by rw [hword, hpc], hbit, hcore.1, hcore.2, sameFiles_of fs fv fp fa, rfl⟩

end

end Sys2Proof.Machine
end

section
/-! O39: tasks placed, started and stopped (06_channels_and_semaphores.md R183, R184; 04_stands_and_bundles.md R120 … R122, R126). -/

namespace Sys2Proof.Machine

/-- Settles O39, from what each source of a task places in the queues, from the start of a head, and from the end of a stand or a core. -/
theorem tasks : Obligations.Tasks := by
  intro s k ws c queue queued hr
  refine ⟨fun hp hd => ?_, fun hp hd => ?_, fun i o r t j m sc v st im hsc hv hst him harm hout hon ht hj hp => ?_,
    fun j jb t rest hj hi hp => ?_, fun src r => exec_taskEnqueue_rearm hr src r, fun q t rest hq hqueue hidle => ⟨fun hrun hready => ?_,
    fun hready => taskStart_waits hr hq hqueue hready⟩, fun n b hst ht hw hn => ⟨fun hl => standWatchdog_fails hr hst ht hw hn hl,
    fun hl => standWatchdog_off hl⟩, fun x i l hx hw hj hl => waitLimit_faults hr hx hw hj hl⟩
  · refine exec_taskEnqueue hr ?_
    rw [place_raw hp hd]
    exact ⟨enqueue_queued c k.val (taskOf_fields ws 65536 0 0 false), frame_enqueue false c k.val _⟩
  · exact exec_taskEnqueue hr (posted_place_raw hp hd).frame
  · refine exec_taskEnqueue hr ?_
    obtain ⟨x, hx, hfields⟩ := place_line hsc hv hst him harm hout hon ht hj hp
    rw [hx]
    exact ⟨enqueue_queued c (tvCore v r t j) hfields, frame_enqueue false c (tvCore v r t j) x⟩
  · refine exec_taskEnqueue hr ?_
    rw [place_item hj hi hp]
    refine ⟨enqueue_queued (c.jobSet j (some { jb with items := rest })) t.core rfl, ?_, ?_⟩
    · exact mget_mset_self none c.host.jobs j.val (some { jb with items := rest })
    · exact ((frame_jobSet false c j _).mono (by simp) (by simp)).trans ((frame_enqueue false _ t.core t).mono (by simp) (by simp))
  · obtain ⟨u, hu, hpend, hhead, hqueues, htask, hothers, hpc, hregs, hsem, hsame, hdiff, hframe⟩ := taskStart_ready hr hq hqueue hidle hrun hready
    exact ⟨u, hu, hpend, hhead, hqueues, htask, hothers, hpc, hregs.args, hregs.sregs, hregs.vregs, hregs.pregs, hregs.aregs, hsem, hsame,
      hdiff, hframe⟩

end Sys2Proof.Machine
end

section
/-! The frame that every Warden command runs in (10_warden_commands.md R303 … R311, R318): its start and its answer. -/

namespace Sys2Proof.Machine

/-! The start of a command. -/

/-- The command ws of mailbox m noted as started. -/
def Ctl.begins (c : Ctl) (m : Nat) (ws : List Word) : Ctl :=
  { c with host := { c.host with taken := mset none c.host.taken m (some ⟨ws, none, true⟩) } }

section
variable {c : Ctl} {mem : Mem} {m op : Nat} {ws : List Word} {pre : Ctl → List Word → Option (Nat × Nat)} {f : W → List Word → Nat → W}

theorem taken_begins (c : Ctl) (m : Nat) (ws : List Word) (x : Nat) :
    (c.begins m ws).taken x = if x = m then some ⟨ws, none, true⟩ else c.taken x :=
  mget_mset none c.host.taken m x (some ⟨ws, none, true⟩)

/-- Only mailboxes change as a command starts. -/
theorem frame_begins (b : Bool) (c : Ctl) (m : Nat) (ws : List Word) : Frame b [.mail] [] c (c.begins m ws) := by
  refine ⟨fun p hp _ => ?_, fun _ _ _ => rfl⟩
  cases p with
  | mail => exact absurd (List.mem_singleton.mpr rfl) hp
  | link => exact ⟨rfl, rfl⟩
  | rings => exact ⟨rfl, rfl⟩
  | _ => rfl

/-- A command that may start does so, and meets the checks that all share. -/
theorem command_waits (h : Waits c m ws) (hfw : c.get F.wktFwFwstate = 1) (hop : reqOp ws = op)
    (hdef : reqDefined ws ((argMasks ws).getD []) = true) : W.command ⟨c, mem, []⟩ m op pre f = match pre c ws with
      | some (st, d) => W.reply ⟨c.begins m ws, mem, []⟩ m (reqObj ws) st d []
      | none => if (nth 0 ws 0).getLsbD 24 ∧ hasEpoch (reqObj ws) ∧ fieldGet (nth 0 ws 1) 0 16 ≠ c.epochOf (reqObj ws) then
          (W.on ⟨c.begins m ws, mem, []⟩ (fun c => c.epochStale (reqObj ws) (fieldGet (nth 0 ws 1) 0 16) 0)).reply m (reqObj ws) stRevoked 1 []
        else if c.secRefuses op then W.reply ⟨c.begins m ws, mem, []⟩ m (reqObj ws) stBadArg 8 []
        else f ⟨c.begins m ws, mem, []⟩ ws (reqObj ws) := by
  have hgo : ¬(!(c.running && c.get F.wktFwFwstate != 0 && reqOp ws == op && c.mayStart m ⟨ws, none, false⟩)) = true := by
    simp [h.runs, hfw, hop, h.first]
  unfold W.command
  rw [h.taken]
  dsimp only
  rw [if_neg hgo, if_neg (by rw [hfw]; exact fun hrec => absurd hrec.1 (by decide)), if_neg (by rw [hdef]; decide)] <;> rfl

/-- What no shared check refuses has its effect. -/
theorem command_starts (h : Starts c m op ws) (hpre : pre c ws = none) :
    W.command ⟨c, mem, []⟩ m op pre f = f ⟨c.begins m ws, mem, []⟩ ws (reqObj ws) := by
  rw [command_waits h.toWaits h.fw h.opcode h.defined, hpre]
  dsimp only
  rw [if_neg fun hstale => hstale.2.2 (h.fresh hstale.1 hstale.2.1), if_neg (by rw [h.primary]; exact Bool.false_ne_true)]

/-- What the command's own check refuses is answered so. -/
theorem command_refused (h : Starts c m op ws) {st d : Nat} (hpre : pre c ws = some (st, d)) :
    W.command ⟨c, mem, []⟩ m op pre f = W.reply ⟨c.begins m ws, mem, []⟩ m (reqObj ws) st d [] := by
  rw [command_waits h.toWaits h.fw h.opcode h.defined, hpre]

end

/-! Its answer. -/

section
variable {c d : Ctl} {m : Nat} {ws : List Word} {st detail : Nat} {res : List Word}

/-- An answer to a mailbox with a command. -/
theorem answer_taken (d : Ctl) {m : Nat} {t : Taken} (h : d.taken m = some t) (st detail ep : Nat) (res : List Word) :
    d.answer m st detail ep res =
      { d with host := { d.host with taken := mset none d.host.taken m (some { t with answer := some (st, detail, ep, res) }) } } := by
  unfold Ctl.answer
  rw [h]

theorem frame_answer (b : Bool) (d : Ctl) (m st detail ep : Nat) (res : List Word) : Frame b [.mail] [] d (d.answer m st detail ep res) := by
  unfold Ctl.answer
  split
  · exact Frame.refl ..
  · refine ⟨fun p hp _ => ?_, fun _ _ _ => rfl⟩
    cases p with
    | mail => exact absurd (List.mem_singleton.mpr rfl) hp
    | link => exact ⟨rfl, rfl⟩
    | rings => exact ⟨rfl, rfl⟩
    | _ => rfl

/-- The EPOCH of an object is none of the mailboxes'. -/
theorem epochOf_answer (d : Ctl) (m st detail ep : Nat) (res : List Word) (o : Nat) : (d.answer m st detail ep res).epochOf o = d.epochOf o := by
  obtain ⟨h, hh⟩ : ∃ t, d.answer m st detail ep res = { d with host := { d.host with taken := t } } := by
    unfold Ctl.answer
    split
    · exact ⟨_, rfl⟩
    · exact ⟨_, rfl⟩
  rw [hh]
  rfl

/-- An answer to a command that has started. -/
theorem answered_answer (hd : d.taken m = some ⟨ws, none, true⟩) (hothers : ∀ x, x ≠ m → d.taken x = c.taken x) :
    Answered c (d.answer m st detail (d.epochOf (reqObj ws)) res) m ws st detail res := by
  rw [Answered, epochOf_answer, answer_taken d hd]
  refine ⟨?_, fun x hx => ?_⟩
  · exact mget_mset_self none d.host.taken m (some ⟨ws, some (st, detail, d.epochOf (reqObj ws), res), true⟩)
  · exact (mget_mset_ne none none d.host.taken (some ⟨ws, some (st, detail, d.epochOf (reqObj ws), res), true⟩) hx).trans (hothers x hx)

/-- The mailboxes after a change that leaves them. -/
theorem Ctl.taken_of_host {c d : Ctl} (h : d.host.taken = c.host.taken) (x : Nat) : d.taken x = c.taken x := by
  rw [Ctl.taken, Ctl.taken, h]

/-- A command that has started is answered after a change that leaves the mailboxes. -/
theorem answered_reply (h : d.host.taken = (c.begins m ws).host.taken) : Answered c (d.reply m (reqObj ws) st detail res) m ws st detail res :=
  answered_answer (by rw [Ctl.taken_of_host h, taken_begins, if_pos rfl])
    fun x hx => by rw [Ctl.taken_of_host h, taken_begins, if_neg hx]

theorem begun_begins (h : d.host.taken = (c.begins m ws).host.taken) : Begun c d m ws :=
  ⟨by rw [Ctl.taken_of_host h, taken_begins, if_pos rfl], fun x hx => by rw [Ctl.taken_of_host h, taken_begins, if_neg hx]⟩

/-- A change of a started command that leaves the mailboxes, and the answer. -/
theorem Frame.replies {ps : List Part} {l : List Nat} (h : Frame false ps l (c.begins m ws) d) (hm : Part.mail ∉ ps) :
    Answered c (d.reply m (reqObj ws) st detail res) m ws st detail res ∧ Frame false (.mail :: ps) l c (d.reply m (reqObj ws) st detail res) :=
  ⟨answered_reply (h.1 .mail hm rfl), (((frame_begins false c m ws).mono (by simp) (by simp)).trans (h.mono (by simp) (fun _ ha => ha))).trans
    ((frame_answer false d m st detail _ res).mono (by simp) (by simp))⟩

end

section
variable {s : State} {m op : Nat} {ws : List Word} {pre : Ctl → List Word → Option (Nat × Nat)} {f : W → List Word → Nat → W}

/-- A command that acts on the controllers alone. -/
theorem completesCtl_command {d : Ctl} {P : Ctl → Prop} (h : Starts s.hw.ctl m op ws) (hpre : pre s.hw.ctl ws = none)
    (hf : f ⟨s.hw.ctl.begins m ws, s.hw.mem, []⟩ ws (reqObj ws) = ⟨d, s.hw.mem, []⟩) (hP : P d) :
    CompletesCtl s (onHw s (fun w => w.command m op pre f)) P :=
  completesCtl_onHw (f := fun w => w.command m op pre f) ((command_starts h hpre).trans hf) hP

/-- A command that does something and answers. -/
theorem completesCtl_replies {d : Ctl} {P : Ctl → Prop} {st detail : Nat} {res : List Word} (h : Starts s.hw.ctl m op ws)
    (hpre : pre s.hw.ctl ws = none)
    (hf : f ⟨s.hw.ctl.begins m ws, s.hw.mem, []⟩ ws (reqObj ws) = W.reply ⟨d, s.hw.mem, []⟩ m (reqObj ws) st detail res)
    (hP : P (d.reply m (reqObj ws) st detail res)) : CompletesCtl s (onHw s (fun w => w.command m op pre f)) P :=
  completesCtl_command h hpre hf hP

/-- A command that answers alone. -/
theorem command_tells {st detail : Nat} {res : List Word} (h : Starts s.hw.ctl m op ws) (hpre : pre s.hw.ctl ws = none)
    (hf : f ⟨s.hw.ctl.begins m ws, s.hw.mem, []⟩ ws (reqObj ws) =
      W.reply ⟨s.hw.ctl.begins m ws, s.hw.mem, []⟩ m (reqObj ws) st detail res) :
    CompletesCtl s (onHw s (fun w => w.command m op pre f)) (fun d => Answered s.hw.ctl d m ws st detail res ∧ Frame false [.mail] [] s.hw.ctl d) :=
  completesCtl_replies h hpre hf ((Frame.refl ..).replies (by simp))

/-- A command that answers alone, with results of some form. -/
theorem command_tells_some {st detail : Nat} {P : List Word → Prop} (h : Starts s.hw.ctl m op ws) (hpre : pre s.hw.ctl ws = none)
    (hf : ∃ res, P res ∧ f ⟨s.hw.ctl.begins m ws, s.hw.mem, []⟩ ws (reqObj ws) =
      W.reply ⟨s.hw.ctl.begins m ws, s.hw.mem, []⟩ m (reqObj ws) st detail res) :
    ∃ res, P res ∧ CompletesCtl s (onHw s (fun w => w.command m op pre f))
      (fun d => Answered s.hw.ctl d m ws st detail res ∧ Frame false [.mail] [] s.hw.ctl d) := by
  obtain ⟨res, hres, heq⟩ := hf
  exact ⟨res, hres, command_tells h hpre heq⟩

/-- A command that its own check refuses. -/
theorem command_tells_refused {st detail : Nat} (h : Starts s.hw.ctl m op ws) (hpre : pre s.hw.ctl ws = some (st, detail)) :
    CompletesCtl s (onHw s (fun w => w.command m op pre f)) (fun d => Answered s.hw.ctl d m ws st detail [] ∧ Frame false [.mail] [] s.hw.ctl d) :=
  completesCtl_onHw (f := fun w => w.command m op pre f) (d := (s.hw.ctl.begins m ws).reply m (reqObj ws) st detail [])
    ((command_refused h hpre).trans rfl) ((Frame.refl ..).replies (by simp))

/-- A command over the memories. -/
theorem completes_command {w : W} {P : State → Prop} (h : Starts s.hw.ctl m op ws) (hpre : pre s.hw.ctl ws = none)
    (hf : f ⟨s.hw.ctl.begins m ws, s.hw.mem, []⟩ ws (reqObj ws) = w) (hP : P ⟨⟨w.ctl, MAct.run s.hw.mem w.acts.reverse⟩, s.pending⟩) :
    Completes (onHw s (fun w => w.command m op pre f)) P :=
  ⟨_, onHw_eq s (fun w => w.command m op pre f) w ((command_starts h hpre).trans hf), hP⟩

end

/-- A command that something else holds back, where it does not. -/
theorem completesCtl_unless {s : State} {p : W → Prop} {_ : DecidablePred p} {f : W → W} {P : Ctl → Prop} (hp : ¬p ⟨s.hw.ctl, s.hw.mem, []⟩)
    (h : CompletesCtl s (onHw s f) P) : CompletesCtl s (onHw s (fun w => if p w then w else f w)) P := by
  have hgo : onHw s (fun w => if p w then w else f w) = onHw s f := onHw_eq s _ _ (if_neg hp)
  rwa [hgo]

theorem CompletesCtl.imp {s : State} {o : Host.Outcome State Fault Refusal} {P Q : Ctl → Prop} (h : CompletesCtl s o P) (hPQ : ∀ d, P d → Q d) :
    CompletesCtl s o Q := by
  obtain ⟨t, ht, hmem, hpend, hd⟩ := h
  exact ⟨t, ht, hmem, hpend, hPQ _ hd⟩

/-! Queries (Table 10.7). -/

section
variable {s : State} {m : Fin 16} {ws : List Word}

theorem preCtx_within {c : Ctl} (h : fieldGet (reqArg ws 0) 0 5 < 24) : preCtx c ws = none := if_pos h

/-- STREAM_QUERY (Table 10.7). -/
theorem streamQuery_tells (hx : fieldGet (reqArg ws 0) 0 5 < 24) (h : Starts s.hw.ctl m 0x0103 ws) :
    CompletesCtl s (exec (.streamQuery m) s) (fun d => ∃ tiles bl crit, Answered s.hw.ctl d m ws stOk 0
      [s.hw.ctl.rd (R.stcSched (fieldGet (reqArg ws 0) 0 5)), tiles, bl, crit, s.hw.ctl.rd (R.stcStatus (fieldGet (reqArg ws 0) 0 5))] ∧
      Frame false [.mail] [] s.hw.ctl d) :=
  completesCtl_replies h (preCtx_within hx) rfl ⟨_, _, _, (Frame.refl ..).replies (by simp)⟩

/-- IMAGE_INFO (Table 10.7). -/
theorem imageInfo_tells {im : Image} (him : (if (reqArg ws 0).getLsbD 0 then s.hw.ctl.img.shadow else s.hw.ctl.img.cur) = some im)
    (h : Starts s.hw.ctl m 0x0204 ws) : CompletesCtl s (exec (.imageInfo m) s) (fun d => ∃ slots, Answered s.hw.ctl d m ws stOk 0
      [im.id, w32 (im.codeSz + 256 * im.resSz + 65536 * im.lcbMin + 16777216 * im.part), slots] ∧ Frame false [.mail] [] s.hw.ctl d) := by
  refine (command_tells (res := [im.id, w32 (im.codeSz + 256 * im.resSz + 65536 * im.lcbMin + 16777216 * im.part),
    w32 ((List.range 32).foldl (fun x k => if imgHasSlot im k then x + 2 ^ k else x) 0)]) h rfl ?_).imp fun d hd => ⟨_, hd⟩
  dsimp only
  rw [show (if (reqArg ws 0).getLsbD 0 then (s.hw.ctl.begins m ws).img.shadow else (s.hw.ctl.begins m ws).img.cur) = some im from him]

theorem schedFit_none (him : (if (reqArg ws 0).getLsbD 16 then s.hw.ctl.img.shadow else s.hw.ctl.img.cur) = none)
    (h : Starts s.hw.ctl m 0x0304 ws) : CompletesCtl s (exec (.schedFit m) s) (fun d => Answered s.hw.ctl d m ws stBadArg 5 [] ∧
      Frame false [.mail] [] s.hw.ctl d) := by
  refine command_tells h rfl ?_
  dsimp only
  rw [show (if (reqArg ws 0).getLsbD 16 then (s.hw.ctl.begins m ws).img.shadow else (s.hw.ctl.begins m ws).img.cur) = none from him]

/-- SCHED_FIT (R221 … R223, R228). -/
theorem schedFit_tells {im : Image} {md : ModelRec} (him : (if (reqArg ws 0).getLsbD 16 then s.hw.ctl.img.shadow else s.hw.ctl.img.cur) = some im)
    (hmd : im.models.find? (fun y => y.slot == fieldGet (reqArg ws 0) 0 8) = some md)
    (hrate : 0 < (reqArg ws 3).toNat * fieldGet (reqArg ws 4) 0 14) (h : Starts s.hw.ctl m 0x0304 ws) :
    CompletesCtl s (exec (.schedFit m) s) (fun d => ∃ b crit tiles, Answered s.hw.ctl d m ws stOk 0
      [b, w32 (620000000000 / ((reqArg ws 3).toNat * fieldGet (reqArg ws 4) 0 14)), crit, tiles] ∧ Frame false [.mail] [] s.hw.ctl d) := by
  obtain ⟨res, ⟨b, crit, tiles, rfl⟩, hgo⟩ : ∃ res, (∃ b crit tiles, res = [b,
      w32 (620000000000 / ((reqArg ws 3).toNat * fieldGet (reqArg ws 4) 0 14)), crit, tiles]) ∧ CompletesCtl s (exec (.schedFit m) s)
      (fun d => Answered s.hw.ctl d m ws stOk 0 res ∧ Frame false [.mail] [] s.hw.ctl d) := command_tells_some h rfl (by
      dsimp only
      rw [show (if (reqArg ws 0).getLsbD 16 then (s.hw.ctl.begins m ws).img.shadow else (s.hw.ctl.begins m ws).img.cur) = some im from him]
      dsimp only
      rw [hmd, decide_eq_true hrate]
      dsimp only
      split
      · exact ⟨_, ⟨_, _, _, rfl⟩, rfl⟩
      · exact ⟨_, ⟨_, _, _, rfl⟩, rfl⟩)
  exact hgo.imp fun d hd => ⟨b, crit, tiles, hd⟩

end

end Sys2Proof.Machine
end

section
/-! Warden commands that note a choice or refuse one (10_warden_commands.md R319 … R326): planned scenes, waiting promotions, cancelled jobs. -/

namespace Sys2Proof.Machine

section
variable {s : State} {m : Fin 16} {ws : List Word} {h : Fin 256} {base : Nat} {ready : Bool}

/-! Streams refused (R319). -/

theorem streamSetup_unwritten (hx : fieldGet (reqArg ws 0) 0 5 < 24) (hw : mget 0 s.hw.ctl.ports.stcWritten (fieldGet (reqArg ws 0) 0 5) % 8 ≠ 7)
    (hs : Starts s.hw.ctl m 0x0101 ws) : CompletesCtl s (exec (.streamSetup m h base) s) (fun d => Answered s.hw.ctl d m ws stBadArg 4 [] ∧
      Frame false [.mail] [] s.hw.ctl d) :=
  command_tells hs (preCtx_within hx) (if_pos (.inr (.inr hw)))

theorem streamSetup_armed (hx : fieldGet (reqArg ws 0) 0 5 < 24) (harm : s.hw.ctl.on (F.stcCtrlArm (fieldGet (reqArg ws 0) 0 5)) = true)
    (hs : Starts s.hw.ctl m 0x0101 ws) : CompletesCtl s (exec (.streamSetup m h base) s) (fun d => Answered s.hw.ctl d m ws stBadArg 4 [] ∧
      Frame false [.mail] [] s.hw.ctl d) :=
  command_tells hs (preCtx_within hx) (if_pos (.inl harm))

theorem streamRelease_armed (hx : fieldGet (reqArg ws 0) 0 5 < 24) (harm : s.hw.ctl.on (F.stcCtrlArm (fieldGet (reqArg ws 0) 0 5)) = true)
    (hs : Starts s.hw.ctl m 0x0102 ws) : CompletesCtl s (exec (.streamRelease m) s) (fun d => Answered s.hw.ctl d m ws stBadArg 4 [] ∧
      Frame false [.mail] [] s.hw.ctl d) :=
  command_tells hs (if_pos hx) (if_pos (.inl harm))

/-! Scenes (R214, R321, R322). -/

theorem specEnd_off {w : W} (h : w.ctl.specOn = false) : w.specEnd = w := if_pos (by rw [h]; rfl)

theorem frame_vcMod (b : Bool) (c : Ctl) (x : Nat) (f : VCtx → VCtx) : Frame b [.vid] [] c (c.vcMod x f) := frame_vcSet ..

theorem vc_vcMod (c : Ctl) (x : Nat) (f : VCtx → VCtx) (i : Nat) : (c.vcMod x f).vc i = if i = x then f (c.vc x) else c.vc i :=
  mget_mset VCtx.init c.vid x i _

/-- A planned scene, or none. -/
def VCtx.planned (p : Option Nat) (v : VCtx) : VCtx := { v with scenePlan := p }

/-- The plan of context x set by a started command, and the command answered. -/
theorem planned_replies (c : Ctl) (m : Nat) (ws : List Word) (x : Nat) (p : Option Nat) :
    let d := ((c.begins m ws).vcMod x (VCtx.planned p)).reply m (reqObj ws) stOk 0 []
    (d.vc x).scenePlan = p ∧ (∀ i, i ≠ x → d.vc i = c.vc i) ∧ Answered c d m ws stOk 0 [] ∧ Frame false [.mail, .vid] [] c d := by
  intro d
  have hd (i : Nat) : d.vc i = if i = x then VCtx.planned p (c.vc x) else c.vc i :=
    ((frame_answer false _ m stOk 0 _ []).vc (by simp) i).trans (vc_vcMod ..)
  obtain ⟨hans, hframe⟩ := (frame_vcMod false (c.begins m ws) x (VCtx.planned p)).replies (st := stOk) (detail := 0) (res := []) (by simp)
  exact ⟨by rw [hd, if_pos rfl]; rfl, fun i hi => by rw [hd, if_neg hi], hans, hframe⟩

section
variable (hx : fieldGet (reqArg ws 0) 0 5 < 24) (hs : Starts s.hw.ctl m 0x0105 ws)
include hx hs

theorem scenePlan_notVideo (hk : s.hw.ctl.kind (fieldGet (reqArg ws 0) 0 5) ≠ 0) : CompletesCtl s (exec (.scenePlan m) s) (fun d =>
    Answered s.hw.ctl d m ws stBadArg 3 [] ∧ Frame false [.mail] [] s.hw.ctl d) :=
  command_tells hs (preCtx_within hx) (if_pos hk)

variable (hk : s.hw.ctl.kind (fieldGet (reqArg ws 0) 0 5) = 0)
include hk

theorem scenePlan_off (hen : (reqArg ws 0).getLsbD 16 = false) (hspec : s.hw.ctl.fab.specRun = none) :
    CompletesCtl s (exec (.scenePlan m) s) (fun d => (d.vc (fieldGet (reqArg ws 0) 0 5)).scenePlan = none ∧
      Answered s.hw.ctl d m ws stOk 0 [] ∧ Frame false [.mail, .vid] [] s.hw.ctl d) := by
  have hoff : ((s.hw.ctl.begins m ws).vcMod (fieldGet (reqArg ws 0) 0 5) (VCtx.planned none)).specOn = false := congrArg Option.isSome hspec
  obtain ⟨hplan, -, hrest⟩ := planned_replies s.hw.ctl m ws (fieldGet (reqArg ws 0) 0 5) none
  refine completesCtl_replies hs (preCtx_within hx) ((if_neg (not_not_intro hk)).trans ((if_pos (by rw [hen]; rfl)).trans ?_)) ⟨hplan, hrest⟩
  exact congrArg (fun w => W.reply w m (reqObj ws) stOk 0 [])
    (specEnd_off (w := ⟨(s.hw.ctl.begins m ws).vcMod (fieldGet (reqArg ws 0) 0 5) (VCtx.planned none), s.hw.mem, []⟩) hoff)

variable (hen : (reqArg ws 0).getLsbD 16 = true)
include hen

theorem scenePlan_noShadow (hsh : s.hw.ctl.img.shadow = none) : CompletesCtl s (exec (.scenePlan m) s) (fun d =>
    Answered s.hw.ctl d m ws stBadArg 5 [] ∧ Frame false [.mail] [] s.hw.ctl d) := by
  refine command_tells hs (preCtx_within hx) ((if_neg (not_not_intro hk)).trans ((if_neg (by rw [hen]; decide)).trans ?_))
  rw [show (s.hw.ctl.begins m ws).img.shadow = none from hsh]

/-- SCENE_PLAN of a model slot that the shadow image has, for contexts whose models it has (R321). -/
theorem scenePlan_on {im : Image} (hsh : s.hw.ctl.img.shadow = some im) (hslot : imgHasSlot im (fieldGet (reqArg ws 0) 8 8) = true)
    (harmed : ∀ y < 24, s.hw.ctl.armedAs y 0 = true → s.hw.ctl.kind y = 0 → imgHasSlot im (s.hw.ctl.get (F.stcSchedModel y)) = true) :
    CompletesCtl s (exec (.scenePlan m) s) (fun d => (d.vc (fieldGet (reqArg ws 0) 0 5)).scenePlan = some (fieldGet (reqArg ws 0) 8 8) ∧
      (∀ i, i ≠ fieldGet (reqArg ws 0) 0 5 → d.vc i = s.hw.ctl.vc i) ∧ Answered s.hw.ctl d m ws stOk 0 [] ∧
      Frame false [.mail, .vid] [] s.hw.ctl d) := by
  have hall : (List.range 24).all (fun y => !(s.hw.ctl.armedAs y 0 && s.hw.ctl.kind y == 0) || imgHasSlot im (s.hw.ctl.get (F.stcSchedModel y))) = true :=
    List.all_eq_true.mpr fun y hy => by
      by_cases ha : s.hw.ctl.armedAs y 0 = true ∧ s.hw.ctl.kind y = 0
      · simp [harmed y (List.mem_range.mp hy) ha.1 ha.2]
      · have hnot : (s.hw.ctl.armedAs y 0 && s.hw.ctl.kind y == 0) = false := by simpa using ha
        simp [hnot]
  refine completesCtl_replies hs (preCtx_within hx) ((if_neg (not_not_intro hk)).trans ((if_neg (by rw [hen]; decide)).trans ?_))
    (planned_replies s.hw.ctl m ws (fieldGet (reqArg ws 0) 0 5) (some (fieldGet (reqArg ws 0) 8 8)))
  rw [show (s.hw.ctl.begins m ws).img.shadow = some im from hsh]
  refine (if_neg ?_).trans rfl
  show ¬(!(imgHasSlot im (fieldGet (reqArg ws 0) 8 8) && (List.range 24).all (fun y => !(s.hw.ctl.armedAs y 0 && s.hw.ctl.kind y == 0) ||
    imgHasSlot im (s.hw.ctl.get (F.stcSchedModel y))))) = true
  rw [hslot, hall]
  decide

end

theorem decideAct_of_taken {c : Ctl} {m : Nat} {t : Taken} (h : c.taken m = some t) : c.decideAct m = fieldGet (reqArg t.words 0) 8 2 := by
  rw [Ctl.decideAct, h]

theorem decideAct_begins (c : Ctl) (m : Nat) (ws : List Word) : (c.begins m ws).decideAct m = fieldGet (reqArg ws 0) 8 2 :=
  decideAct_of_taken (t := ⟨ws, none, true⟩) (by rw [taken_begins, if_pos rfl])

/-- A promotion noted as waiting by a started command that stays without an answer. -/
theorem promotes_begun (c : Ctl) (m : Nat) (ws : List Word) (sel : Option (Nat × Nat)) :
    let d := { c.begins m ws with img := { c.img with promote := some (some m, sel) } }
    d.img = { c.img with promote := some (some m, sel) } ∧ Begun c d m ws ∧ Frame false [.mail, .img] [] c d := by
  refine ⟨rfl, begun_begins rfl, ((frame_begins false c m ws).mono (by simp) (by simp)).trans ⟨fun p hp _ => ?_, fun _ _ _ => rfl⟩⟩
  cases p with
  | img => exact absurd (by simp) hp
  | link => exact ⟨rfl, rfl⟩
  | rings => exact ⟨rfl, rfl⟩
  | _ => rfl

section
variable (hpr : s.hw.ctl.img.promote = none) (hact : fieldGet (reqArg ws 0) 8 2 = 1) (hx : fieldGet (reqArg ws 0) 0 5 < 24) {sl : Nat} {im : Image}
  (hplan : (s.hw.ctl.vc (fieldGet (reqArg ws 0) 0 5)).scenePlan = some sl) (hsh : s.hw.ctl.img.shadow = some im) (hs : Starts s.hw.ctl m 0x0106 ws)
include hpr hact hx hplan hsh hs

/-- SCENE_DECIDE of a planned context whose shadow image is there: what is left to check (R322). -/
theorem sceneDecideConfirm_of {d : Ctl} {P : Ctl → Prop}
    (hd : (if s.hw.ctl.mode = 2 ∧ !ready then W.reply ⟨s.hw.ctl.begins m ws, s.hw.mem, []⟩ m (reqObj ws) stBadArg 5 []
      else if !s.hw.ctl.planFits im (fieldGet (reqArg ws 0) 0 5) sl then (W.specEnd ⟨s.hw.ctl.begins m ws, s.hw.mem, []⟩).reply m (reqObj ws) stBadArg 9 []
      else W.on ⟨s.hw.ctl.begins m ws, s.hw.mem, []⟩ (fun c => { c with img := { c.img with promote := some (some m.val, some (fieldGet (reqArg ws 0) 0 5, sl)) } })) =
      ⟨d, s.hw.mem, []⟩) (hP : P d) : CompletesCtl s (exec (.sceneDecideConfirm m ready) s) P := by
  have hgo : ¬(s.hw.ctl.decideAct m = 2 ∨ s.hw.ctl.img.promote.isSome = true) := by
    rw [decideAct_of_taken hs.taken, hpr]
    simp [hact]
  have hok : decide (fieldGet (reqArg ws 0) 0 5 < 24 ∧ (s.hw.ctl.begins m ws).decideAct m = 1) = true :=
    decide_eq_true ⟨hx, (decideAct_begins ..).trans hact⟩
  change CompletesCtl s (execSceneDecideConfirm m ready s) _
  unfold execSceneDecideConfirm
  refine completesCtl_unless ?_ ?_
  · exact hgo
  refine completesCtl_command hs rfl ?_ hP
  rw [← hd]
  dsimp only
  rw [hok, show ((s.hw.ctl.begins m ws).vc (fieldGet (reqArg ws 0) 0 5)).scenePlan = some sl from hplan]
  dsimp only
  rw [show (s.hw.ctl.begins m ws).img.shadow = some im from hsh]
  rfl

theorem sceneDecideConfirm_partner (hm : s.hw.ctl.mode = 2) (hr : ready = false) : CompletesCtl s (exec (.sceneDecideConfirm m ready) s) (fun d =>
    Answered s.hw.ctl d m ws stBadArg 5 [] ∧ Frame false [.mail] [] s.hw.ctl d) := by
  exact sceneDecideConfirm_of hpr hact hx hplan hsh hs (if_pos ⟨hm, by rw [hr]; rfl⟩) ((Frame.refl ..).replies (by simp))

theorem sceneDecideConfirm_fits (hfit : s.hw.ctl.planFits im (fieldGet (reqArg ws 0) 0 5) sl = true) (hr : s.hw.ctl.mode = 2 → ready = true) :
    CompletesCtl s (exec (.sceneDecideConfirm m ready) s) (fun d =>
      d.img = { s.hw.ctl.img with promote := some (some m.val, some (fieldGet (reqArg ws 0) 0 5, sl)) } ∧ Begun s.hw.ctl d m ws ∧
      Frame false [.mail, .img] [] s.hw.ctl d) := by
  exact sceneDecideConfirm_of hpr hact hx hplan hsh hs ((if_neg fun hno => by simp [hr hno.1] at hno).trans (if_neg (by rw [hfit]; decide))) (promotes_begun ..)

theorem sceneDecideConfirm_unfit (hfit : s.hw.ctl.planFits im (fieldGet (reqArg ws 0) 0 5) sl = false) (hr : s.hw.ctl.mode = 2 → ready = true)
    (hspec : s.hw.ctl.specOn = false) : CompletesCtl s (exec (.sceneDecideConfirm m ready) s) (fun d =>
      Answered s.hw.ctl d m ws stBadArg 9 [] ∧ Frame false [.mail] [] s.hw.ctl d) := by
  refine sceneDecideConfirm_of hpr hact hx hplan hsh hs ((if_neg fun hno => by simp [hr hno.1] at hno).trans ((if_pos (by rw [hfit]; rfl)).trans ?_)) ((Frame.refl ..).replies (by simp))
  exact congrArg (fun w => W.reply w m (reqObj ws) stBadArg 9 []) (specEnd_off (w := ⟨s.hw.ctl.begins m ws, s.hw.mem, []⟩) hspec)

end

theorem sceneDecideCancel_other (hact : fieldGet (reqArg ws 0) 8 2 = 2) (hrun : s.hw.ctl.fab.specRun.map (·.1) ≠ some (fieldGet (reqArg ws 0) 0 5))
    (hs : Starts s.hw.ctl m 0x0106 ws) : CompletesCtl s (exec (.sceneDecideCancel m) s) (fun d => Answered s.hw.ctl d m ws stBadArg 4 [] ∧
      Frame false [.mail] [] s.hw.ctl d) := by
  have hgo : ¬s.hw.ctl.decideAct m ≠ 2 := not_not_intro ((decideAct_of_taken hs.taken).trans hact)
  change CompletesCtl s (execSceneDecideCancel m s) _
  unfold execSceneDecideCancel
  refine completesCtl_unless ?_ ?_
  · exact hgo
  · exact command_tells hs rfl (if_pos hrun)

/-! Images (R211, R323 … R325, R392). -/

theorem imagePromote_none (hpr : s.hw.ctl.img.promote = none) (hsh : s.hw.ctl.img.shadow = none) (hs : Starts s.hw.ctl m 0x0202 ws) :
    CompletesCtl s (exec (.imagePromote m ready) s) (fun d => Answered s.hw.ctl d m ws stBadArg 5 [] ∧ Frame false [.mail] [] s.hw.ctl d) := by
  change CompletesCtl s (execImagePromote m ready s) _
  unfold execImagePromote
  refine completesCtl_unless ?_ ?_
  · exact Bool.not_eq_true _ ▸ congrArg Option.isSome hpr
  · exact command_tells hs rfl (if_pos (.inl (congrArg Option.isNone hsh)))

theorem imagePromote_waits (hpr : s.hw.ctl.img.promote = none) (hsh : s.hw.ctl.img.shadow.isSome = true) (hr : s.hw.ctl.mode = 2 → ready = true)
    (hs : Starts s.hw.ctl m 0x0202 ws) : CompletesCtl s (exec (.imagePromote m ready) s) (fun d =>
      d.img = { s.hw.ctl.img with promote := some (some m.val, none) } ∧ Begun s.hw.ctl d m ws ∧ Frame false [.mail, .img] [] s.hw.ctl d) := by
  have hgo : ¬((s.hw.ctl.begins m ws).img.shadow.isNone = true ∨ (s.hw.ctl.begins m ws).mode = 2 ∧ (!ready) = true) := by
    rintro (hno | hno)
    · rw [Option.isNone_iff_eq_none] at hno
      rw [show s.hw.ctl.img.shadow = none from hno] at hsh
      exact absurd hsh (by decide)
    · simp [hr hno.1] at hno
  change CompletesCtl s (execImagePromote m ready s) _
  unfold execImagePromote
  refine completesCtl_unless ?_ ?_
  · exact Bool.not_eq_true _ ▸ congrArg Option.isSome hpr
  · exact completesCtl_command hs rfl (if_neg hgo) (promotes_begun ..)

/-- Routes are written by registers alone. -/
theorem routesWrite_host (c : Ctl) (h : HostSt) (im : Image) (live : Bool) : Ctl.routesWrite { c with host := h } im live =
    ({ (c.routesWrite im live).1 with host := h }, (c.routesWrite im live).2) := by
  have hvalid (l : List Nat) (c : Ctl) : l.foldl (fun c x => if c.on (F.chnRouteValid x) then c.put (F.chnRouteValid x) 0 else c) { c with host := h } =
      { l.foldl (fun c x => if c.on (F.chnRouteValid x) then c.put (F.chnRouteValid x) 0 else c) c with host := h } :=
    (List.foldl_hom (fun c : Ctl => { c with host := h }) fun c x => by
      by_cases hon : c.on (F.chnRouteValid x) = true
      · rw [if_pos hon, if_pos (show Ctl.on { c with host := h } (F.chnRouteValid x) = true from hon)]
        rfl
      · rw [if_neg hon, if_neg (show ¬Ctl.on { c with host := h } (F.chnRouteValid x) = true from hon)])
  have hmask (g : Nat) (l : List Nat) (c : Ctl) : l.foldl (fun c w => c.wr (R.chnGrpMask g w) (nth 0 (nth [] im.groups g) w)) { c with host := h } =
      { l.foldl (fun c w => c.wr (R.chnGrpMask g w) (nth 0 (nth [] im.groups g) w)) c with host := h } :=
    List.foldl_hom (fun c : Ctl => { c with host := h }) fun _ _ => rfl
  have hgroups (l : List Nat) (c : Ctl) : l.foldl (fun c g => (List.range 4).foldl (fun c w => c.wr (R.chnGrpMask g w) (nth 0 (nth [] im.groups g) w)) c)
      { c with host := h } = { l.foldl (fun c g => (List.range 4).foldl (fun c w => c.wr (R.chnGrpMask g w) (nth 0 (nth [] im.groups g) w)) c) c with host := h } :=
    List.foldl_hom (fun c : Ctl => { c with host := h }) fun c g => hmask g _ c
  have hroutes (l : List RouteRec) (q : Ctl × Bool) : l.foldl (fun (c, ok) r => if ok then c.routeWrite r im.id live else (c, false))
      ({ q.1 with host := h }, q.2) = ({ (l.foldl (fun (c, ok) r => if ok then c.routeWrite r im.id live else (c, false)) q).1 with host := h },
        (l.foldl (fun (c, ok) r => if ok then c.routeWrite r im.id live else (c, false)) q).2) :=
    List.foldl_hom (fun q : Ctl × Bool => (({ q.1 with host := h } : Ctl), q.2)) fun (c, ok) r => by
      cases ok with
      | false => rfl
      | true =>
        simp only [if_true]
        unfold Ctl.routeWrite
        rw [show Ctl.routeCause { c with host := h } r im.id live = c.routeCause r im.id live from rfl]
        split <;> rfl
  unfold Ctl.routesWrite
  dsimp only
  rw [hvalid, hgroups]
  exact hroutes im.routes (_, true)

/-- The checks of a load read no mailbox. -/
theorem imgCheck_begins (c : Ctl) (m : Nat) (ws : List Word) (im : Image) (buf : Nat) : (c.begins m ws).imgCheck im buf = c.imgCheck im buf := by
  have hroutes : ((c.begins m ws).routesWrite im (c.begins m ws).img.cur.isNone).2 = (c.routesWrite im c.img.cur.isNone).2 :=
    (congrArg Prod.snd (routesWrite_host c (c.begins m ws).host im c.img.cur.isNone)).trans rfl
  unfold Ctl.imgCheck
  rw [hroutes]
  rfl

/-- An IMAGE_LOAD that a check of Table 7.3 beside the routes refuses (R218). -/
theorem imageLoad_fails {img : Image} {ok : Bool} (ha : hostAddr ws 0 % 64 = 0) (hok : ok = true) (hl : s.hw.ctl.host.linkUp = true)
    (hmode : s.hw.ctl.mode = 2 → img.id.getLsbD 0 = s.hw.ctl.on F.hngPairStatusPairId) {k : Nat} (hk : k ≠ 6)
    (hcheck : s.hw.ctl.imgCheck img (reqArg ws 2).toNat = some k) (hs : Starts s.hw.ctl m 0x0201 ws) :
    CompletesCtl s (exec (.imageLoad m img ok) s) (fun d => Answered s.hw.ctl d m ws stBadArg (0x100 + k) [] ∧ Frame false [.mail] [] s.hw.ctl d) := by
  have hxfer : ¬(!(s.hw.ctl.begins m ws).xferOk ok) = true := by
    show ¬(!(ok && s.hw.ctl.host.linkUp)) = true
    rw [hok, hl]
    decide
  refine command_tells hs rfl ?_
  dsimp only
  rw [if_neg (not_not_intro ha), if_neg hxfer, if_neg fun hno => hno.2 (hmode hno.1), imgCheck_begins, hcheck]
  dsimp only
  rw [if_neg hk]

/-! Handles and jobs (R233, R326). -/

theorem handleAlloc_waits (hwait : s.hw.ctl.allocWaits m h = true) : exec (.handleAlloc m h base) s = .next s :=
  (onHw_eq s (fun w => if w.ctl.allocWaits m.val h.val then w else _) ⟨s.hw.ctl, s.hw.mem, []⟩ (if_pos hwait)).trans rfl

theorem handleFree_invalid (hv : s.hw.ctl.on (F.cnpHtW0Valid (fieldGet (reqArg ws 0) 0 8)) = false) (hs : Starts s.hw.ctl m 0x0302 ws) :
    CompletesCtl s (exec (.handleFree m) s) (fun d => Answered s.hw.ctl d m ws stRevoked 3 [] ∧ Frame false [.mail] [] s.hw.ctl d) :=
  command_tells_refused hs (if_neg (by rw [hv]; exact Bool.false_ne_true))

theorem handleFree_notOwner (hv : s.hw.ctl.on (F.cnpHtW0Valid (fieldGet (reqArg ws 0) 0 8)) = true)
    (ho : s.hw.ctl.get (F.cnpHtW0Owner (fieldGet (reqArg ws 0) 0 8)) < 0x40 ∨ 0x80 < s.hw.ctl.get (F.cnpHtW0Owner (fieldGet (reqArg ws 0) 0 8)))
    (hs : Starts s.hw.ctl m 0x0302 ws) : CompletesCtl s (exec (.handleFree m) s) (fun d => Answered s.hw.ctl d m ws stNotOwner 1 [] ∧
      Frame false [.mail] [] s.hw.ctl d) :=
  command_tells hs (if_pos hv) (if_pos ho)

theorem jobCancel_none (hj : s.hw.ctl.job (fieldGet (reqArg ws 0) 0 6) = none) (hs : Starts s.hw.ctl m 0x0303 ws) :
    CompletesCtl s (exec (.jobCancel m) s) (fun d => Answered s.hw.ctl d m ws stBadArg 4 [] ∧ Frame false [.mail] [] s.hw.ctl d) :=
  command_tells hs rfl (if_pos (congrArg Option.isNone hj))

/-- The queues without the tasks that a test picks. -/
def dropTasks (p : Task → Bool) (q : SMap (List Task)) : SMap (List Task) :=
  (q.map (fun x => (x.1, x.2.filter (fun t => !p t)))).filter (fun x => !x.2.isEmpty)

theorem mem_of_mem_mget {α : Type} {q : SMap (List α)} {k : Nat} {t : α} (ht : t ∈ mget [] q k) : ∃ x ∈ q, t ∈ x.2 := by
  induction q with
  | nil => exact absurd ht List.not_mem_nil
  | cons x q ih =>
    unfold mget at ht
    split at ht
    · exact ⟨x, List.mem_cons_self, ht⟩
    · obtain ⟨y, hy, hty⟩ := ih ht
      exact ⟨y, List.mem_cons_of_mem _ hy, hty⟩

/-- No queue then holds such a task. -/
theorem not_of_mem_dropTasks {p : Task → Bool} {q : SMap (List Task)} {k : Nat} {t : Task} (ht : t ∈ mget [] (dropTasks p q) k) : p t = false := by
  obtain ⟨x, hx, htx⟩ := mem_of_mem_mget ht
  obtain ⟨y, -, rfl⟩ := List.mem_map.mp (List.mem_filter.mp hx).1
  simpa using (List.mem_filter.mp htx).2

/-- A job cancelled: its items go, and its tasks in the queues (R233). -/
theorem jobCancel_eq {c : Ctl} {j : Nat} {jb : Job} (hj : c.job j = some jb) : c.jobCancel j false =
    Ctl.jobSet { c with fab := { c.fab with queues := dropTasks (fun t => t.owner == 0x40 + j) c.fab.queues } } j
      (some { jb with items := [], cancelled := true }) := by
  unfold Ctl.jobCancel
  rw [hj]
  simp only [Bool.or_false]
  rfl

/-- JOB_CANCEL (R233, R326). -/
theorem jobCancel_cancels {jb : Job} (hj : s.hw.ctl.job (fieldGet (reqArg ws 0) 0 6) = some jb) (hs : Starts s.hw.ctl m 0x0303 ws) :
    CompletesCtl s (exec (.jobCancel m) s) (fun d =>
      d.job (fieldGet (reqArg ws 0) 0 6) = some { jb with items := [], cancelled := true } ∧
      (∀ i, i ≠ fieldGet (reqArg ws 0) 0 6 → d.job i = s.hw.ctl.job i) ∧
      (∀ k, ∀ y ∈ mget [] d.fab.queues k, y.owner ≠ 0x40 + fieldGet (reqArg ws 0) 0 6) ∧ Answered s.hw.ctl d m ws stOk 0 [] ∧
      Frame false [.mail, .jobs, .fab] [] s.hw.ctl d) := by
  generalize hjob : fieldGet (reqArg ws 0) 0 6 = j at hj
  have heq := jobCancel_eq (c := s.hw.ctl.begins m ws) hj
  have hframe : Frame false [.jobs, .fab] [] (s.hw.ctl.begins m ws) ((s.hw.ctl.begins m ws).jobCancel j false) := by
    rw [heq]
    exact Frame.trans frame_parts ((frame_jobSet false _ j _).mono (by simp) (by simp))
  obtain ⟨hans, hall⟩ := hframe.replies (st := stOk) (detail := 0) (res := []) (by simp)
  have hend := frame_answer false ((s.hw.ctl.begins m ws).jobCancel j false) m stOk 0 (((s.hw.ctl.begins m ws).jobCancel j false).epochOf (reqObj ws)) []
  have hjobs (i : Nat) : (((s.hw.ctl.begins m ws).jobCancel j false).reply m (reqObj ws) stOk 0 []).job i =
      if i = j then some { jb with items := [], cancelled := true } else s.hw.ctl.job i := by
    rw [Ctl.job, Ctl.reply, show _ = ((s.hw.ctl.begins m ws).jobCancel j false).host.jobs from hend.1 .jobs (by simp) rfl, heq]
    exact mget_mset none s.hw.ctl.host.jobs j i (some { jb with items := [], cancelled := true })
  have hfab : (((s.hw.ctl.begins m ws).jobCancel j false).reply m (reqObj ws) stOk 0 []).fab =
      { s.hw.ctl.fab with queues := dropTasks (fun t => t.owner == 0x40 + j) s.hw.ctl.fab.queues } := by
    rw [Ctl.reply, show _ = ((s.hw.ctl.begins m ws).jobCancel j false).fab from hend.1 .fab (by simp) rfl, heq]
    rfl
  refine completesCtl_replies (d := (s.hw.ctl.begins m ws).jobCancel j false) hs rfl ((if_neg ?_).trans ?_)
    ⟨by rw [hjobs, if_pos rfl], fun i hi => by rw [hjobs, if_neg hi], fun k y hy => ?_, hans, hall⟩
  · rw [hjob]
    exact Bool.not_eq_true _ ▸ congrArg Option.isNone hj
  · rw [hjob]
    rfl
  · rw [hfab] at hy
    simpa using not_of_mem_dropTasks hy

end

end Sys2Proof.Machine
end

section
/-! The Shutters' commands (10_warden_commands.md R299, R320), alone and after a management request of the same event (R297). -/

namespace Sys2Proof.Machine

/-! The state fields of a Shutter (R296). -/

/-- A unit's state set changes the registers of its fields and of its epoch. -/
theorem onlyRegs_unitState {l : List Nat} (c : Ctl) (ep : Fld) (vals : List (Fld × Nat)) (hep : ep.addr ∈ l) (hv : ∀ p ∈ vals, p.1.addr ∈ l) :
    OnlyRegs l c (c.unitState ep vals) := by
  have hfold (vals : List (Fld × Nat)) (hv : ∀ p ∈ vals, p.1.addr ∈ l) (c : Ctl) : OnlyRegs l c (vals.foldl (fun c p => c.put p.1 p.2) c) := by
    induction vals generalizing c with
    | nil => exact OnlyRegs.refl ..
    | cons p vals ih =>
      exact ((onlyRegs_put c p.1 p.2).mono (by simpa using hv p List.mem_cons_self)).trans (ih (fun x hx => hv x (List.mem_cons_of_mem _ hx)) _)
  unfold Ctl.unitState Ctl.nextEpoch
  split
  · exact OnlyRegs.refl ..
  · exact (hfold vals hv c).trans ((onlyRegs_put _ ep _).mono (by simpa using hep))

section
variable (c : Ctl) (t : Nat)

theorem onlyRegs_shutSet (closed hold cause reason : Nat) : OnlyRegs [R.phcShut t] c (c.shutSet t closed hold cause reason) :=
  onlyRegs_unitState c _ _ (by simp) (by simp)

theorem get_shutSet (closed hold cause reason : Nat) : let d := c.shutSet t closed hold cause reason
    d.get (F.phcShutClosed t) = closed % 2 ∧ d.get (F.phcShutHold t) = hold % 2 ∧ d.get (F.phcShutCause t) = cause % 4 := by
  intro d
  have hput {e : Ctl} {f g : Fld} (x : Nat) (hn : f.lo + f.n ≤ 32) (h : g.lo + g.n ≤ f.lo ∨ f.lo + f.n ≤ g.lo) : (e.put f x).get g = e.get g :=
    Ctl.get_put_ne e f g x hn (.inr h)
  simp only [d, Ctl.shutSet, Ctl.unitState, Ctl.nextEpoch]
  split
  next h =>
    simp only [List.all_cons, List.all_nil, Bool.and_true, Bool.and_eq_true, beq_iff_eq] at h
    obtain ⟨hclosed, hhold, hcause, -⟩ := h
    exact ⟨hclosed, hhold, hcause⟩
  next =>
    simp only [List.foldl_cons, List.foldl_nil]
    refine ⟨?_, ?_, ?_⟩
    · rw [hput _ (by simp) (by simp), hput _ (by simp) (by simp), hput _ (by simp) (by simp), hput _ (by simp) (by simp),
        Ctl.get_put_self _ _ _ (by simp)]
      rfl
    · rw [hput _ (by simp) (by simp), hput _ (by simp) (by simp), hput _ (by simp) (by simp), Ctl.get_put_self _ _ _ (by simp)]
      rfl
    · rw [hput _ (by simp) (by simp), hput _ (by simp) (by simp), Ctl.get_put_self _ _ _ (by simp)]
      rfl

/-- The state that the host driver sets, noted. -/
def Ctl.hostSets (close : Bool) : Ctl := { c with ras := { c.ras with shutHost := mset false c.ras.shutHost t close } }

theorem hostShut_hostSets (close : Bool) : (c.hostSets t close).hostShut t = close := mget_mset_self false c.ras.shutHost t close

theorem frame_hostSets (close : Bool) : Frame false [.ras, .log] [] c (c.hostSets t close) := by
  refine ⟨fun p hp _ => ?_, fun _ _ _ => rfl⟩
  cases p with
  | ras => exact absurd (by simp) hp
  | link => exact ⟨rfl, rfl⟩
  | rings => exact ⟨rfl, rfl⟩
  | _ => rfl

theorem frame_alert (i : Nat) : Frame false [.ras, .log] [] c (c.alert i) := by
  refine ⟨fun p hp _ => ?_, fun _ _ _ => rfl⟩
  cases p with
  | log => exact absurd (by simp) hp
  | link => exact ⟨rfl, rfl⟩
  | rings => exact ⟨rfl, rfl⟩
  | _ => rfl

theorem alert_raised {i : Nat} (hi : i < 32) : (c.alert i).diag.alert.getLsbD i = true := by
  show (BitVec.ofNat 32 (setBit c.diag.alert.toNat i)).getLsbD i = true
  rw [BitVec.getLsbD_ofNat, testBit_setBit, decide_eq_true hi]
  rfl

/-- The Shutter's move by the host: what is set, and the alert where it changes. -/
theorem hostShutter_eq (close : Bool) : c.hostShutter t close =
    let d := c.hostSets t close
    let e := if close then (if c.on (F.phcShutClosed t) then d else d.shutClose t 0) else if c.hng.hold391 then d else d.shutOpen t
    if e.on (F.phcShutClosed t) = c.on (F.phcShutClosed t) then e else e.alert 3 := rfl

/-- What the host's move of a Shutter leaves, as it is to be closed or opened. -/
theorem frame_hostShutter (close : Bool) : Frame false [.ras, .log] [R.phcShut t] c (c.hostShutter t close) := by
  have hset {d : Ctl} (closed hold cause reason : Nat) : Frame false [.ras, .log] [R.phcShut t] d (d.shutSet t closed hold cause reason) :=
    ((onlyRegs_shutSet d t closed hold cause reason).frame false).mono (by simp) (fun _ ha => ha)
  have hsets : Frame false [.ras, .log] [R.phcShut t] c (c.hostSets t close) := (frame_hostSets c t close).mono (fun _ hp => hp) (by simp)
  have hmoved : Frame false [.ras, .log] [R.phcShut t] c (if close then (if c.on (F.phcShutClosed t) then c.hostSets t close
      else (c.hostSets t close).shutClose t 0) else if c.hng.hold391 then c.hostSets t close else (c.hostSets t close).shutOpen t) := by
    split
    · split
      · exact hsets
      · exact hsets.trans (hset ..)
    · split
      · exact hsets
      · unfold Ctl.shutOpen
        split
        · exact hsets
        · exact hsets.trans (hset ..)
  rw [hostShutter_eq]
  dsimp only
  generalize (if close then _ else _ : Ctl) = e at hmoved ⊢
  split
  · exact hmoved
  · exact hmoved.trans ((frame_alert _ 3).mono (fun _ hp => hp) (by simp))

theorem hostShutter_closes : let d := c.hostShutter t true
    d.on (F.phcShutClosed t) = true ∧ d.get (F.phcShutHold t) = c.get (F.phcShutHold t) ∧
    (c.on (F.phcShutClosed t) = false → d.get (F.phcShutCause t) = 0 ∧ d.diag.alert.getLsbD 3 = true) ∧ d.hostShut t = true := by
  intro d
  obtain ⟨hclosed, hhold, hcause⟩ := get_shutSet (c.hostSets t true) t 1 (c.get (F.phcShutHold t)) 0 (c.get (F.phcShutReason t))
  have hras : ((c.hostSets t true).shutSet t 1 (c.get (F.phcShutHold t)) 0 (c.get (F.phcShutReason t))).ras = (c.hostSets t true).ras :=
    ((onlyRegs_shutSet (c.hostSets t true) t 1 (c.get (F.phcShutHold t)) 0 (c.get (F.phcShutReason t))).frame false).ras (by simp)
  have hlt : c.get (F.phcShutHold t) < 2 ^ 1 := Ctl.get_lt c (F.phcShutHold t)
  cases hwas : c.on (F.phcShutClosed t) with
  | true =>
    have hd : d = c.hostSets t true := by
      refine (hostShutter_eq c t true).trans ?_
      dsimp only
      rw [if_pos rfl, if_pos hwas]
      exact if_pos rfl
    rw [hd]
    exact ⟨hwas, rfl, fun hno => absurd hno (by decide), hostShut_hostSets c t true⟩
  | false =>
    have hd : d = ((c.hostSets t true).shutSet t 1 (c.get (F.phcShutHold t)) 0 (c.get (F.phcShutReason t))).alert 3 := by
      refine (hostShutter_eq c t true).trans ?_
      dsimp only
      rw [if_pos (show true = true from rfl), if_neg (show ¬c.on (F.phcShutClosed t) = true by simp [hwas])]
      refine if_neg ?_
      rw [hwas]
      show ¬Ctl.on ((c.hostSets t true).shutSet t 1 (c.get (F.phcShutHold t)) 0 (c.get (F.phcShutReason t))) (F.phcShutClosed t) = false
      rw [Ctl.on, hclosed]
      decide
    rw [hd]
    refine ⟨?_, ?_, fun _ => ⟨hcause, alert_raised _ (by decide)⟩, ?_⟩
    · show Ctl.on ((c.hostSets t true).shutSet t 1 (c.get (F.phcShutHold t)) 0 (c.get (F.phcShutReason t))) (F.phcShutClosed t) = true
      rw [Ctl.on, hclosed]
      decide
    · exact hhold.trans (Nat.mod_eq_of_lt hlt)
    · show mget false ((c.hostSets t true).shutSet t 1 (c.get (F.phcShutHold t)) 0 (c.get (F.phcShutReason t))).ras.shutHost t = true
      rw [hras]
      exact hostShut_hostSets c t true

theorem hostShutter_opens (hhold : c.on (F.phcShutHold t) = false) : let d := c.hostShutter t false
    d.on (F.phcShutClosed t) = (c.hng.hold391 && c.on (F.phcShutClosed t)) ∧ d.hostShut t = false := by
  intro d
  have hmoved : ∃ e, d = (if e.on (F.phcShutClosed t) = c.on (F.phcShutClosed t) then e else e.alert 3) ∧
      e.on (F.phcShutClosed t) = (c.hng.hold391 && c.on (F.phcShutClosed t)) ∧ e.hostShut t = false := by
    cases hheld : c.hng.hold391 with
    | true => exact ⟨c.hostSets t false, by simp only [d, hostShutter_eq, hheld, if_true, Bool.false_eq_true, if_false], rfl, hostShut_hostSets c t false⟩
    | false =>
      obtain ⟨hclosed, -, -⟩ := get_shutSet (c.hostSets t false) t 0 0 (c.get (F.phcShutCause t)) (c.get (F.phcShutReason t))
      have hopen : (c.hostSets t false).shutOpen t = (c.hostSets t false).shutSet t 0 0 (c.get (F.phcShutCause t)) (c.get (F.phcShutReason t)) :=
        if_neg (show ¬c.on (F.phcShutHold t) = true by rw [hhold]; decide)
      refine ⟨(c.hostSets t false).shutOpen t, by simp only [d, hostShutter_eq, hheld, Bool.false_eq_true, if_false], ?_, ?_⟩
      · rw [hopen, Ctl.on, hclosed]
        rfl
      · rw [hopen, Ctl.hostShut, ((onlyRegs_shutSet (c.hostSets t false) t 0 0 (c.get (F.phcShutCause t)) (c.get (F.phcShutReason t))).frame false).ras
          (by simp)]
        exact hostShut_hostSets c t false
  obtain ⟨e, hd, hclosed, hshut⟩ := hmoved
  rw [hd]
  split
  · exact ⟨hclosed, hshut⟩
  · exact ⟨hclosed, hshut⟩

end

/-! The commands. -/

section
variable {s : State} {m : Fin 16} {ws : List Word}

theorem shutRegs_of_lt {t : Nat} (ht : t < 2) : [R.phcShut t] ⊆ [R.phcShut 0, R.phcShut 1] := by
  obtain rfl | rfl : t = 0 ∨ t = 1 := by omega
  · simp
  · simp

theorem shutter_lt (ws : List Word) : fieldGet (reqArg ws 0) 0 1 < 2 := fieldGet_lt _ 0 1

/-- SHUTTER_CLOSE (R320). -/
theorem shutterClose_closes (hact : fieldGet (reqArg ws 0) 8 2 = 1) (hs : Starts s.hw.ctl m 0x0104 ws) :
    CompletesCtl s (exec (.shutterClose m none) s) (fun d => let t := fieldGet (reqArg ws 0) 0 1
      d.on (F.phcShutClosed t) = true ∧ d.get (F.phcShutHold t) = s.hw.ctl.get (F.phcShutHold t) ∧
      (s.hw.ctl.on (F.phcShutClosed t) = false → d.get (F.phcShutCause t) = 0 ∧ d.diag.alert.getLsbD 3 = true) ∧ d.hostShut t = true ∧
      Answered s.hw.ctl d m ws stOk 0 [] ∧ Frame false [.mail, .ras, .log] [R.phcShut 0, R.phcShut 1] s.hw.ctl d) := by
  change CompletesCtl s (execShutterClose m none s) _
  unfold execShutterClose
  refine completesCtl_unless ?_ ?_
  · show ¬s.hw.ctl.decideAct m = 2
    rw [decideAct_of_taken hs.taken, hact]
    decide
  generalize ht : fieldGet (reqArg ws 0) 0 1 = t
  obtain ⟨hclosed, hhold, hcause, hshut⟩ := hostShutter_closes (s.hw.ctl.begins m ws) t
  have hframe := frame_hostShutter (s.hw.ctl.begins m ws) t true
  have hend := frame_answer false ((s.hw.ctl.begins m ws).hostShutter t true) m stOk 0 (((s.hw.ctl.begins m ws).hostShutter t true).epochOf (reqObj ws)) []
  obtain ⟨hans, hall⟩ := hframe.replies (st := stOk) (detail := 0) (res := []) (by simp)
  have hget (f : Fld) : (((s.hw.ctl.begins m ws).hostShutter t true).reply m (reqObj ws) stOk 0 []).get f =
      ((s.hw.ctl.begins m ws).hostShutter t true).get f := Ctl.get_of_rd (hend.2 _ (by simp) rfl)
  refine completesCtl_replies (d := (s.hw.ctl.begins m ws).hostShutter t true) hs rfl ((if_pos hact).trans (by rw [ht]; rfl)) ⟨?_, ?_, fun hwas => ⟨?_, ?_⟩, ?_, hans,
    hall.mono (fun _ hp => hp) (shutRegs_of_lt (ht ▸ shutter_lt ws))⟩
  · rw [Ctl.on, hget]
    exact hclosed
  · rw [hget]
    exact hhold
  · rw [hget]
    exact (hcause hwas).1
  · rw [Ctl.reply, hend.1 .log (by simp) rfl]
    exact (hcause hwas).2
  · rw [Ctl.reply, Ctl.hostShut, hend.ras (by simp)]
    exact hshut

theorem shutterClose_refused (h1 : fieldGet (reqArg ws 0) 8 2 ≠ 1) (h2 : fieldGet (reqArg ws 0) 8 2 ≠ 2) (hs : Starts s.hw.ctl m 0x0104 ws) :
    CompletesCtl s (exec (.shutterClose m none) s) (fun d => Answered s.hw.ctl d m ws stBadArg 3 [] ∧ Frame false [.mail] [] s.hw.ctl d) := by
  change CompletesCtl s (execShutterClose m none s) _
  unfold execShutterClose
  refine completesCtl_unless ?_ ?_
  · show ¬s.hw.ctl.decideAct m = 2
    rw [decideAct_of_taken hs.taken]
    exact h2
  · exact command_tells hs rfl (if_neg h1)

section
variable (hact : fieldGet (reqArg ws 0) 8 2 = 2) (hs : Starts s.hw.ctl m 0x0104 ws)
include hact hs

theorem shutterOpen_held (hhold : s.hw.ctl.on (F.phcShutHold (fieldGet (reqArg ws 0) 0 1)) = true) : CompletesCtl s (exec (.shutterOpen m none) s) (fun d =>
    Answered s.hw.ctl d m ws stRevoked 2 [] ∧ Frame false [.mail] [] s.hw.ctl d) := by
  change CompletesCtl s (execShutterOpen m none s) _
  unfold execShutterOpen
  refine completesCtl_unless ?_ ?_
  · show ¬s.hw.ctl.decideAct m ≠ 2
    rw [decideAct_of_taken hs.taken]
    exact not_not_intro hact
  · exact command_tells_refused hs (if_pos hhold)

/-- SHUTTER_OPEN (R299, R320, R391). -/
theorem shutterOpen_opens (hhold : s.hw.ctl.on (F.phcShutHold (fieldGet (reqArg ws 0) 0 1)) = false) :
    CompletesCtl s (exec (.shutterOpen m none) s) (fun d => let t := fieldGet (reqArg ws 0) 0 1
      d.on (F.phcShutClosed t) = (s.hw.ctl.hng.hold391 && s.hw.ctl.on (F.phcShutClosed t)) ∧ d.hostShut t = false ∧
      Answered s.hw.ctl d m ws stOk 0 [] ∧ Frame false [.mail, .ras, .log] [R.phcShut 0, R.phcShut 1] s.hw.ctl d) := by
  change CompletesCtl s (execShutterOpen m none s) _
  unfold execShutterOpen
  refine completesCtl_unless ?_ ?_
  · show ¬s.hw.ctl.decideAct m ≠ 2
    rw [decideAct_of_taken hs.taken]
    exact not_not_intro hact
  obtain ⟨hclosed, hshut⟩ := hostShutter_opens (s.hw.ctl.begins m ws) (fieldGet (reqArg ws 0) 0 1) hhold
  have hframe := frame_hostShutter (s.hw.ctl.begins m ws) (fieldGet (reqArg ws 0) 0 1) false
  generalize hd : (s.hw.ctl.begins m ws).hostShutter (fieldGet (reqArg ws 0) 0 1) false = d at hclosed hshut hframe
  have hend := frame_answer false d m stOk 0 (d.epochOf (reqObj ws)) []
  obtain ⟨hans, hall⟩ := hframe.replies (st := stOk) (detail := 0) (res := []) (by simp)
  refine completesCtl_replies (d := d) hs (if_neg (by rw [hhold]; decide)) (hd ▸ rfl) ⟨?_, ?_, hans,
    hall.mono (fun _ hp => hp) (shutRegs_of_lt (shutter_lt ws))⟩
  · exact (Ctl.on_of_rd (hend.2 _ (by simp) rfl)).trans hclosed
  · rw [Ctl.reply, Ctl.hostShut, hend.ras (by simp)]
    exact hshut

end

end

end Sys2Proof.Machine
end

section
/-! A management request that is applied before a Warden command of the same arbitration event (09_host_interface.md R297). -/

namespace Sys2Proof.Machine

/-! A management request leaves the mailboxes (R296 … R301, R425). -/

/-- The mailboxes are as before. -/
def SameMail (c d : Ctl) : Prop := d.host.taken = c.host.taken

theorem SameMail.refl (c : Ctl) : SameMail c c := rfl

theorem SameMail.trans {c d e : Ctl} (h : SameMail c d) (g : SameMail d e) : SameMail c e := Eq.trans g h

theorem Frame.sameMail {b : Bool} {ps : List Part} {l : List Nat} {c d : Ctl} (h : Frame b ps l c d) (hm : Part.mail ∉ ps) : SameMail c d :=
  h.1 .mail hm (by simp [Part.byPosting])

theorem OnlyRegs.sameMail {l : List Nat} {c d : Ctl} (h : OnlyRegs l c d) : SameMail c d := (h.frame false).sameMail (by simp)

theorem Posted.sameMail {c d : Ctl} (h : Posted c d) : SameMail c d := h.taken

section
variable (c : Ctl)

theorem sameMail_put (f : Fld) (v : Nat) : SameMail c (c.put f v) := rfl

theorem sameMail_bump (f : Fld) (n : Nat) : SameMail c (c.bump f n) := (onlyRegs_bump c f n).sameMail

theorem sameMail_ceilSet (mv hold reason : Nat) : SameMail c (c.ceilSet mv hold reason) := by
  have hstate : SameMail c (c.unitState F.phcCeilAuthEpoch [(F.phcCeilAuthMv, mv), (F.phcCeilAuthHold, hold), (F.phcCeilAuthReason, reason)]) :=
    (onlyRegs_unitState (l := [R.phcCeilAuth]) c _ _ (by simp) (by simp)).sameMail
  unfold Ctl.ceilSet
  generalize c.unitState F.phcCeilAuthEpoch _ = d at hstate ⊢
  obtain ⟨-, r, p, a, o, hgov⟩ := (govBounds_acted (d.put F.phcGovCeilMgmtMv mv)).governed
  rw [hgov]
  exact hstate

theorem sameMail_rotFail (n st : Nat) : SameMail c (c.rotFail n st) := by
  have hset (c : Ctl) (n st lg : Nat) : SameMail c (c.setStand n st lg) := (onlyRegs_setStand c n st lg).sameMail
  unfold Ctl.rotFail
  split
  · exact SameMail.refl c
  next l e _ =>
    split
    · exact SameMail.refl c
    · dsimp only
      have hentering : SameMail c (if n ≠ e ∧ c.get (F.stdStateState e) = 2 then c.setStand e 1 0 else c) := by
        split
        · exact hset ..
        · exact SameMail.refl c
      generalize (if n ≠ e ∧ c.get (F.stdStateState e) = 2 then c.setStand e 1 0 else c) = d at hentering ⊢
      refine hentering.trans ?_
      split
      · exact hset d l 3 _
      · exact SameMail.refl d

theorem sameMail_holdOff {n : Nat} {d : Ctl} (h : c.holdOff n = some d) : SameMail c d := by
  have hrot (c : Ctl) : SameMail c c.rotRegs := (onlyRegs_rotRegs c).sameMail
  unfold Ctl.holdOff at h
  split at h
  · rw [← Option.some.inj h]
    exact sameMail_put ..
  · rw [← Option.some.inj h]
    have hoff : SameMail c ((((c.standPowerOff n true).setStand n 0 0).put F.phcStdHoldStand (setBit (c.get F.phcStdHoldStand) n)).rotFail n 1) :=
      (((onlyRegs_setStand (c.standPowerOff n true) n 0 0).sameMail : SameMail c _).trans (sameMail_put ..)).trans (sameMail_rotFail _ n 1)
    generalize (((c.standPowerOff n true).setStand n 0 0).put F.phcStdHoldStand (setBit (c.get F.phcStdHoldStand) n)).rotFail n 1 = e at hoff
    exact hoff.trans (hrot { e with pwr := { e.pwr with routine := mset 0 e.pwr.routine n 0, routineOk := mset false e.pwr.routineOk n false,
                                                        bistOn := if e.pwr.bistOn = some n then none else e.pwr.bistOn } })
  · split at h
    · rw [← Option.some.inj h]
      exact hrot { c with pwr := { c.pwr with holdPend := if c.pwr.holdPend.contains n then c.pwr.holdPend else c.pwr.holdPend ++ [n] } }
    · exact absurd h (by simp)
  · exact absurd h (by simp)

theorem sameMail_standRelease (n : Nat) : SameMail c (c.standRelease n) := by
  unfold Ctl.standRelease
  dsimp only
  split
  · rfl
  · split
    · rfl
    · rfl

theorem sameMail_unitAct {u reason act : Nat} {d : Ctl} (h : (if act = 1 then c.unitAct1 u reason else c.unitAct2 u) = .inl d) : SameMail c d := by
  split at h
  · unfold Ctl.unitAct1 at h
    dsimp only at h
    split at h
    · split at h
      · exact absurd h (by simp)
      · split at h
        next e he => exact Sum.inl.inj h ▸ sameMail_holdOff c he
        · exact absurd h (by simp)
    · split at h
      · exact absurd h (by simp)
      · exact Sum.inl.inj h ▸ (onlyRegs_shutSet ..).sameMail
    · exact absurd h (by simp)
  · unfold Ctl.unitAct2 at h
    dsimp only at h
    split at h
    · split at h
      · exact absurd h (by simp)
      · exact Sum.inl.inj h ▸ sameMail_standRelease c _
    · split at h
      · exact absurd h (by simp)
      · split at h
        · exact absurd h (by simp)
        · exact Sum.inl.inj h ▸ (onlyRegs_shutSet ..).sameMail
    · split at h
      · exact absurd h (by simp)
      · exact Sum.inl.inj h ▸ sameMail_ceilSet c 900 0 _
    · exact absurd h (by simp)

theorem sameMail_mgmtApplied (u act reason : Nat) : SameMail c (c.mgmtApplied u act reason).1 := by
  have hcount := sameMail_bump (((c.put F.phcAuthLogUnit u).put F.phcAuthLogAction act).put F.phcAuthLogReason reason) F.phcMgmtCntApplied 1
  exact SameMail.trans (d := (((c.put F.phcAuthLogUnit u).put F.phcAuthLogAction act).put F.phcAuthLogReason reason).bump F.phcMgmtCntApplied 1)
    hcount (posted_msix _ 16 (by decide)).sameMail

theorem sameMail_mgmtCall {pecOk : Bool} {code : Nat} {req : List Byte} {f : Ctl → Ctl × List Byte} (hf : SameMail c (f c).1) :
    SameMail c (c.mgmtCall pecOk code req f) := by
  unfold Ctl.mgmtCall
  split
  · exact SameMail.refl c
  · split
    · rfl
    · exact hf

theorem sameMail_unitReq (pecOk : Bool) (u act : Nat) (check : Bool) (reason exp : Nat) : SameMail c (c.unitReq pecOk u act check reason exp) := by
  have hrefuse (c : Ctl) (st : Nat) : SameMail c (c.mgmtRefuse u st).1 := sameMail_bump ..
  unfold Ctl.unitReq
  refine sameMail_mgmtCall c ?_
  split
  · exact hrefuse ..
  · unfold Ctl.mgmtCheck
    split
    · exact (posted_epochStale c u exp 1).sameMail.trans (hrefuse ..)
    · dsimp only
      cases hact : (if act = 1 then c.unitAct1 u reason else c.unitAct2 u) with
      | inl d => exact (sameMail_unitAct c hact).trans (sameMail_mgmtApplied ..)
      | inr st => exact hrefuse ..

end

/-! The order of the event (R297). -/

section
variable {s t : State} {m : Fin 16} {ws : List Word} {r : MgmtReq}

/-- Two areas of work that come to the same. -/
theorem onHw_eq_onHw {f g : W → W} (hp : t.pending = s.pending) (hm : t.hw.mem = s.hw.mem)
    (h : f ⟨s.hw.ctl, s.hw.mem, []⟩ = g ⟨t.hw.ctl, t.hw.mem, []⟩) : onHw s f = onHw t g := by
  rw [onHw_eq s f _ h, onHw_eq t g _ rfl, hp, hm]

theorem exec_unitReq (h : exec (.unitReqHoldOff true r.unit r.action r.check r.reason r.exp) s = .next t) :
    t.pending = s.pending ∧ t.hw.mem = s.hw.mem ∧
      t.hw.ctl = s.hw.ctl.unitReq true r.unit.toNat r.action.toNat r.check r.reason.toNat r.exp.toNat := by
  have heq : (⟨⟨s.hw.ctl.unitReq true r.unit.toNat r.action.toNat r.check r.reason.toNat r.exp.toNat, s.hw.mem⟩, s.pending⟩ : State) = t :=
    Host.Outcome.next.inj h
  subst heq
  exact ⟨rfl, rfl, rfl⟩

/-- A SHUTTER is done as after the management request that came with it. -/
theorem shutter_mgmtFirst (h : exec (.unitReqHoldOff true r.unit r.action r.check r.reason r.exp) s = .next t) (hs : Starts s.hw.ctl m 0x0104 ws) :
    (fieldGet (reqArg ws 0) 8 2 = 2 → exec (.shutterOpen m (some r)) s = exec (.shutterOpen m none) t) ∧
    (fieldGet (reqArg ws 0) 8 2 ≠ 2 → exec (.shutterClose m (some r)) s = exec (.shutterClose m none) t) := by
  obtain ⟨hpend, hmem, hctl⟩ := exec_unitReq h
  have hact : s.hw.ctl.decideAct m = fieldGet (reqArg ws 0) 8 2 := decideAct_of_taken (t := ⟨ws, none, false⟩) hs.taken
  have hact' : t.hw.ctl.decideAct m = fieldGet (reqArg ws 0) 8 2 := by
    have hmail : SameMail s.hw.ctl t.hw.ctl := hctl ▸ sameMail_unitReq s.hw.ctl true _ _ _ _ _
    exact decideAct_of_taken (t := ⟨ws, none, false⟩) ((Ctl.taken_of_host hmail m).trans hs.taken)
  have hfirst : (⟨s.hw.ctl, s.hw.mem, []⟩ : W).mgmtFirst (some r) = ⟨t.hw.ctl, t.hw.mem, []⟩ := by
    rw [hctl, hmem]
    rfl
  refine ⟨fun h2 => ?_, fun h2 => ?_⟩
  · change execShutterOpen m (some r) s = execShutterOpen m none t
    unfold execShutterOpen
    refine onHw_eq_onHw hpend hmem ?_
    refine (if_neg (show ¬s.hw.ctl.decideAct m ≠ 2 from not_not_intro (hact.trans h2))).trans ?_
    refine Eq.trans ?_ (if_neg (show ¬t.hw.ctl.decideAct m ≠ 2 from not_not_intro (hact'.trans h2))).symm
    rw [hfirst]
    rfl
  · change execShutterClose m (some r) s = execShutterClose m none t
    unfold execShutterClose
    refine onHw_eq_onHw hpend hmem ?_
    refine (if_neg (show ¬s.hw.ctl.decideAct m = 2 from hact ▸ h2)).trans ?_
    refine Eq.trans ?_ (if_neg (show ¬t.hw.ctl.decideAct m = 2 from hact' ▸ h2)).symm
    rw [hfirst]
    rfl

end

end Sys2Proof.Machine
end

section
/-! Handle entries that firmware takes and releases (10_warden_commands.md R319, R326; 05_memory_hierarchy.md R152, R167, R173). -/

namespace Sys2Proof.Machine

/-! What firmware picks (log entry 168). -/

theorem entryPick_free {c : Ctl} {e x : Nat} (he : e < 256) (h : c.entryPick e = some x) : x < 256 ∧ c.on (F.cnpHtW0Valid x) = false := by
  unfold Ctl.entryPick at h
  split at h
  · exact ⟨List.mem_range.mp (List.mem_of_find?_eq_some h), by simpa using List.find?_some h⟩
  next hv =>
    rw [← Option.some.inj h]
    exact ⟨he, Bool.not_eq_true _ ▸ hv⟩

theorem placePick_fits {c : Ctl} {base n b : Nat} (h : c.placePick base n = some b) : (b + n) * 256 ≤ c.canopySpace := by
  have hb := List.find?_some h
  simp only [Bool.and_eq_true, decide_eq_true_eq] at hb
  exact hb.1

/-! A commit that takes an entry. -/

/-- What an accepted commit of a free entry leaves: the entry with its range, marked for Clearing, and its BUSY bit where it is in DRAM. -/
structure Ctl.Allocated (c d : Ctl) (e owner : Nat) (dram : Bool) (b n : Nat) : Prop where
  valid : d.on (F.cnpHtW0Valid e) = true
  owner : d.get (F.cnpHtW0Owner e) = owner
  target : d.on (F.cnpHtW0Target e) = dram
  busy : d.on (F.cnpHtW0Busy e) = dram
  epoch : d.get (F.cnpHtW0Epoch e) = (c.get (F.cnpHtW0Epoch e) + 1) % 65536
  base : d.get (F.cnpHtW1Base e) = b
  size : d.get (F.cnpHtW2SizeM1 e) + 1 = n
  frame : Frame false [.cnp] (R.cnpClrPending :: R.dbgSat :: lcRegs ++ htRegs e) c d
  canopy : dram = false → Frame false [] (R.cnpClrPending :: htRegs e) c d

theorem Ctl.Allocated.hBase {c d : Ctl} {e owner b n : Nat} {dram : Bool} (h : c.Allocated d e owner dram b n) : d.hBase e = b * 256 := by
  rw [Ctl.hBase, h.base]

theorem Ctl.Allocated.hSize {c d : Ctl} {e owner b n : Nat} {dram : Bool} (h : c.Allocated d e owner dram b n) : d.hSize e = n * 256 := by
  rw [Ctl.hSize, h.size]

/-- The key where a range in units of 256 bytes starts. -/
def unitKey (dram : Bool) (b : Nat) : Nat := if dram then dramKey (b * 256) else canopyKey (b * 256)

theorem Ctl.Allocated.hKey {c d : Ctl} {e owner b n : Nat} {dram : Bool} (h : c.Allocated d e owner dram b n) : d.hKey e 0 = unitKey dram b := by
  rw [Ctl.hKey, h.target, h.hBase, Nat.add_zero, unitKey]

/-- A later change that leaves the entry's registers leaves the entry. -/
theorem Ctl.Allocated.after {c d d' : Ctl} {e owner b n : Nat} {dram : Bool} (h : c.Allocated d e owner dram b n)
    {ps : List Part} {l : List Nat} (hf : Frame false ps l d d') (hl : ∀ a ∈ htRegs e, a ∉ l) : d'.on (F.cnpHtW0Valid e) = true ∧
      d'.get (F.cnpHtW0Owner e) = owner ∧ d'.on (F.cnpHtW0Target e) = dram ∧ d'.on (F.cnpHtW0Busy e) = dram ∧
      d'.get (F.cnpHtW0Epoch e) = (c.get (F.cnpHtW0Epoch e) + 1) % 65536 ∧ d'.hBase e = b * 256 ∧ d'.hSize e = n * 256 ∧
      d'.hKey e 0 = unitKey dram b := by
  have hrd (a : Nat) (ha : a ∈ htRegs e) : d'.rd a = d.rd a := hf.2 a (hl a ha) rfl
  have h0 := hrd (R.cnpHtW0 e) (by simp)
  have hbase : d'.hBase e = d.hBase e := by rw [Ctl.hBase, Ctl.hBase, Ctl.get_of_rd (f := F.cnpHtW1Base e) (hrd _ (by simp))]
  have hsize : d'.hSize e = d.hSize e := by rw [Ctl.hSize, Ctl.hSize, Ctl.get_of_rd (f := F.cnpHtW2SizeM1 e) (hrd _ (by simp))]
  have hon {f : Fld} (hf : f.addr = R.cnpHtW0 e) : d'.on f = d.on f := Ctl.on_of_rd (hf ▸ h0)
  have hget {f : Fld} (hf : f.addr = R.cnpHtW0 e) : d'.get f = d.get f := Ctl.get_of_rd (hf ▸ h0)
  refine ⟨(hon rfl).trans h.valid, (hget rfl).trans h.owner, (hon rfl).trans h.target, (hon rfl).trans h.busy, (hget rfl).trans h.epoch,
    hbase.trans h.hBase, hsize.trans h.hSize, ?_⟩
  rw [Ctl.hKey, hon rfl, hbase]
  exact h.hKey

/-- The checks of a commit of a word that firmware makes (R152). -/
theorem htOk_htWord {c : Ctl} {valid dram wr : Bool} {owner b n : Nat} (hlimit : (b + n) * 256 ≤ if dram then c.dramSize else c.canopySpace)
    (ho : owner < 256) (hown : ownerOk owner = true) : c.htOk (htWord valid dram wr false owner) b n = true := by
  obtain ⟨-, fd, fs, fo⟩ := fieldGet_htWord valid dram wr false ho
  unfold Ctl.htOk
  rw [getLsbD_of_fieldGet fd, getLsbD_of_fieldGet fs, fo]
  dsimp only
  rw [hown, decide_eq_true hlimit]
  rfl

section
variable {w : W} {e owner b n : Nat} {dram wr : Bool}

/-- The entry as a commit of a free one stores it, with the range marked after. -/
theorem allocated_htStore {c d : Ctl} (ho : owner < 256) (h1 : 1 ≤ n) (h2 : n ≤ 32768) (hb : b < 2 ^ 26)
    (hd : Frame false [.cnp] (R.cnpClrPending :: R.dbgSat :: lcRegs) (c.htStore e (htWord true dram wr false owner) b n dram) d)
    (hcanopy : dram = false → Frame false [] [R.cnpClrPending] (c.htStore e (htWord true dram wr false owner) b n dram) d) (he : e < 256) :
    c.Allocated d e owner dram b n := by
  obtain ⟨fv, fd, -, fo⟩ := fieldGet_htWord true dram wr false ho
  have hrd {f : Fld} (hf : f.addr ∈ htRegs e) : d.get f = (c.htStore e (htWord true dram wr false owner) b n dram).get f := by
    refine Ctl.get_of_rd (hd.2 _ ?_ rfl)
    simp only [List.mem_cons, List.not_mem_nil, or_false, R.cnpHtW0, R.cnpHtW1, R.cnpHtW2] at hf
    simp only [lcRegs, R.cnpClrPending, R.dbgSat, R.cnpLcHit, R.cnpLcMiss, R.cnpLcWb, List.mem_cons, List.not_mem_nil, or_false]
    omega
  have hstore := (onlyRegs_htStore c (e := e) (w0 := htWord true dram wr false owner) (base := b) (size := n) dram).frame false
  refine ⟨?_, ?_, ?_, ?_, ?_, ?_, ?_, (hstore.mono (by simp) (by simp)).trans (hd.mono (fun _ hp => hp) (by simp [lcRegs])),
    fun hlow => (hstore.mono (by simp) (by simp)).trans ((hcanopy hlow).mono (by simp) (by simp))⟩
  · rw [Ctl.on, hrd (f := F.cnpHtW0Valid e) (by simp), get_htStore_word c dram (.inl (by decide)), fv]
    rfl
  · rw [hrd (f := F.cnpHtW0Owner e) (by simp), get_htStore_word c dram (.inr (by decide)), fo]
  · rw [Ctl.on, hrd (f := F.cnpHtW0Target e) (by simp), get_htStore_word c dram (.inl (by decide)), fd]
    cases dram <;> rfl
  · rw [Ctl.on, hrd (f := F.cnpHtW0Busy e) (by simp)]
    exact on_htStore_busy c dram
  · rw [hrd (f := F.cnpHtW0Epoch e) (by simp), get_htStore_epoch]
  · rw [hrd (f := F.cnpHtW1Base e) (by simp), get_htStore_base c dram hb]
  · rw [hrd (f := F.cnpHtW2SizeM1 e) (by simp), get_htStore_size c dram h1 h2]

/-- A range in Canopy passes the line cache by. -/
theorem lcUnit_low {c : Ctl} {k n : Nat} {dirty : Bool} (h : isDram k = false) : c.lcUnit k n dirty = c := by
  unfold Ctl.lcUnit
  rw [h]
  rfl

/-- A range marked for Clearing and its lines in the cache touched. -/
def W.marked (w : W) (key n : Nat) : W := (w.actC (.mark key n)).on (fun c => c.lcUnit key n true)

theorem frame_marked (w : W) (key n : Nat) : Frame false [.cnp] (R.cnpClrPending :: R.dbgSat :: lcRegs) w.ctl (w.marked key n).ctl ∧
    (isDram key = false → Frame false [] [R.cnpClrPending] w.ctl (w.marked key n).ctl) := by
  have hclr : Frame false [] [R.cnpClrPending] w.ctl (w.actC (.mark key n)).ctl := frame_put false w.ctl F.cnpClrPendingLines _
  refine ⟨(hclr.mono (by simp) (by simp)).trans ((frame_lcUnit _ key n true).mono (fun _ hp => hp) (by simp [cacheRegs])), fun hlow => ?_⟩
  rw [W.marked, W.on_ctl, lcUnit_low hlow]
  exact hclr

theorem isDram_unitKey {c : Ctl} (h1 : 1 ≤ n) (hb : (b + n) * 256 ≤ c.canopySpace) : isDram (unitKey false b) = false := by
  refine canopyKey_low (o := b * 256) ?_
  unfold Ctl.canopySpace at hb
  omega

/-- A commit of a free entry whose last owner was not Understorey. -/
theorem htCommit_allocates (he : e < 256) (hfree : w.ctl.on (F.cnpHtW0Valid e) = false) (hlast : w.ctl.get (F.cnpHtW0Owner e) ≠ 0x80)
    (ho : owner < 256) (h1 : 1 ≤ n) (h2 : n ≤ 32768) (hlimit : (b + n) * 256 ≤ if dram then w.ctl.dramSize else w.ctl.canopySpace)
    (hown : ownerOk owner = true) : ∃ d, w.htCommit e (htWord true dram wr false owner) b n =
      (⟨d, MAct.apply w.mem (.mark (unitKey dram b) (n * 256)), .mark (unitKey dram b) (n * 256) :: w.acts⟩, true) ∧
      w.ctl.Allocated d e owner dram b n := by
  obtain ⟨fv, fd, -, -⟩ := fieldGet_htWord true dram wr false ho
  have hok := htOk_htWord (valid := true) (wr := wr) hlimit ho hown
  have hb := base_lt_of_htOk hok h1
  have hmarks : w.ctl.htMarks e (htWord true dram wr false owner) = true := by
    unfold Ctl.htMarks
    dsimp only
    rw [hfree, getLsbD_of_fieldGet fv]
    rfl
  have hbusy : ((htWord true dram wr false owner).getLsbD 1 && (w.ctl.htMarks e (htWord true dram wr false owner) || w.ctl.on (F.cnpHtW0Busy e))) = dram := by
    rw [getLsbD_of_fieldGet fd, hmarks, Bool.true_or, Bool.and_true]
  have hcommit := htCommit_eq (e := e) hok rfl
  rw [hbusy, hmarks] at hcommit
  have hkey : (w.ctl.htStore e (htWord true dram wr false owner) b n dram).hKey e 0 = unitKey dram b := by
    rw [Ctl.hKey, Ctl.hBase, get_htStore_base w.ctl dram hb, Ctl.on, get_htStore_word w.ctl dram (.inl (by decide)), fd, Nat.add_zero, unitKey]
    cases dram <;> rfl
  generalize hv : w.on (fun _ => w.ctl.htStore e (htWord true dram wr false owner) b n dram) = v at hcommit
  have hvctl : v.ctl = w.ctl.htStore e (htWord true dram wr false owner) b n dram := by rw [← hv]; rfl
  obtain ⟨hframe, hcanopy⟩ := frame_marked v (unitKey dram b) (n * 256)
  rw [hvctl] at hframe hcanopy
  refine ⟨(v.marked (unitKey dram b) (n * 256)).ctl, ?_, allocated_htStore ho h1 h2 hb hframe (fun hd => hcanopy ?_) he⟩
  · rw [hcommit, hvctl, hkey]
    refine (if_neg (by decide)).trans ((if_neg ?_).trans ?_)
    · simp [hlast]
    · rw [← hv]
      rfl
  · subst hd
    exact isDram_unitKey h1 hlimit

end

end Sys2Proof.Machine
end

section
/-! Streams set up, handles allocated and released (10_warden_commands.md R319, R326). -/

namespace Sys2Proof.Machine

/-! A range that reads zero after a mark (R162, Table 5.8). -/

/-- The n bytes from a key read zero and every other byte as in m. -/
def Mem.Zeroed (m m' : Mem) (key n : Nat) : Prop :=
  (∀ b, key ≤ b → b < key + n → m'.rd b = 0) ∧ ∀ b, (b < key ∨ key + n ≤ b) → m'.rd b = m.rd b

theorem zeroed_mark (m : Mem) (key n : Nat) : m.Zeroed (MAct.apply m (.mark key n)) key n := by
  refine ⟨fun b hlo hhi => ?_, fun b hout => ?_⟩
  · rw [MAct.rd_mark]
    exact if_pos (decide_eq_true ⟨hlo, hhi⟩)
  · rw [MAct.rd_mark]
    refine if_neg ?_
    simp only [inRange, decide_eq_true_eq]
    omega

/-! What firmware picks does not depend on the mailboxes. -/

section
variable (c : Ctl) (m : Nat) (ws : List Word)

theorem entryPick_begins (e : Nat) : (c.begins m ws).entryPick e = c.entryPick e := by
  unfold Ctl.entryPick
  rfl

theorem placePick_begins (base n : Nat) : (c.begins m ws).placePick base n = c.placePick base n := by
  unfold Ctl.placePick
  rfl

theorem dramFree_begins (base n : Nat) : (c.begins m ws).dramFree base n = c.dramFree base n := by
  unfold Ctl.dramFree
  rfl

end

/-! HANDLE_ALLOC. -/

section
variable {s : State} {m : Fin 16} {ws : List Word} {h : Fin 256} {base : Nat}

/-- HANDLE_ALLOC of a free entry, its arguments within range and its place free (R326). -/
theorem handleAlloc_takes {e b : Nat} (ho : 0x40 ≤ fieldGet (reqArg ws 0) 0 8) (ho' : fieldGet (reqArg ws 0) 0 8 ≤ 0x80)
    (h1 : 1 ≤ (reqArg ws 1).toNat) (h2 : (reqArg ws 1).toNat ≤ 32768)
    (hund : ¬(fieldGet (reqArg ws 0) 0 8 = 0x80 ∧ (reqArg ws 0).getLsbD 8 = true)) (hwait : s.hw.ctl.allocWaits m h = false)
    (hdram : (reqArg ws 0).getLsbD 8 = true → s.hw.ctl.dramFree (reqArg ws 2).toNat (reqArg ws 1).toNat = true)
    (hpick : s.hw.ctl.entryPick h = some e) (hlast : s.hw.ctl.get (F.cnpHtW0Owner e) ≠ 0x80)
    (hplace : (if (reqArg ws 0).getLsbD 8 then some (reqArg ws 2).toNat else s.hw.ctl.placePick base (reqArg ws 1).toNat) = some b)
    (hep : (nth 0 ws 0).getLsbD 24 = false) (hs : Starts s.hw.ctl m 0x0301 ws) :
    ∃ d, (s.hw.ctl.begins m ws).Allocated d e (fieldGet (reqArg ws 0) 0 8) ((reqArg ws 0).getLsbD 8) b (reqArg ws 1).toNat ∧
      exec (.handleAlloc m h base) s = .next ⟨⟨d.reply m (0x0600 + e) stOk 0 [w32 e, w32 b],
        MAct.apply s.hw.mem (.mark (unitKey ((reqArg ws 0).getLsbD 8) b) ((reqArg ws 1).toNat * 256))⟩, s.pending⟩ := by
  generalize hown : fieldGet (reqArg ws 0) 0 8 = owner at *
  generalize hdr : (reqArg ws 0).getLsbD 8 = dram at *
  generalize hsz : (reqArg ws 1).toNat = n at *
  obtain ⟨he, hfree⟩ := entryPick_free h.isLt hpick
  have hlimit : (b + n) * 256 ≤ if dram then s.hw.ctl.dramSize else s.hw.ctl.canopySpace := by
    cases dram with
    | false => exact placePick_fits hplace
    | true =>
      have hroom := hdram rfl
      simp only [Ctl.dramFree, Bool.and_eq_true, decide_eq_true_eq] at hroom
      rw [if_pos rfl, ← Option.some.inj hplace]
      omega
  have hok : ownerOk owner = true := by
    simp only [ownerOk, Bool.or_eq_true, decide_eq_true_eq]
    exact .inl (.inl (.inl (.inr ⟨ho, ho'⟩)))
  obtain ⟨d, hcommit, halloc⟩ := htCommit_allocates (w := ⟨s.hw.ctl.begins m ws, s.hw.mem, []⟩) (dram := dram) (wr := (reqArg ws 0).getLsbD 9)
    he hfree hlast (by omega) h1 h2 hlimit hok
  refine ⟨d, halloc, ?_⟩
  change execHandleAlloc m h base s = _
  unfold execHandleAlloc
  refine onHw_eq s _ (W.reply ⟨d, MAct.apply s.hw.mem (.mark (unitKey dram b) (n * 256)), [.mark (unitKey dram b) (n * 256)]⟩ m (0x0600 + e) stOk 0 [w32 e, w32 b]) ?_
  dsimp only
  rw [if_neg (by rw [hwait]; decide), command_starts hs rfl]
  dsimp only
  rw [hown, hdr, hsz]
  have hargs : ¬(owner < 0x40 ∨ 0x80 < owner ∨ n < 1 ∨ 32768 < n ∨ owner = 0x80 ∧ dram = true ∨
      dram = true ∧ (!(s.hw.ctl.begins m ws).dramFree (if dram = true then (reqArg ws 2).toNat else base) n) = true) := by
    rintro (h | h | h | h | h | ⟨hd, h⟩)
    · omega
    · omega
    · omega
    · omega
    · exact hund h
    · rw [if_pos hd, dramFree_begins, hdram hd] at h
      exact absurd h (by decide)
  have hat : (if dram = true then some (if dram = true then (reqArg ws 2).toNat else base)
      else (s.hw.ctl.begins m ws).placePick (if dram = true then (reqArg ws 2).toNat else base) n) = some b := by
    rw [placePick_begins]
    cases dram with
    | false =>
      simp only [Bool.false_eq_true, if_false] at hplace ⊢
      exact hplace
    | true =>
      simp only [if_true] at hplace ⊢
      exact hplace
  rw [if_neg hargs, hat, entryPick_begins, hpick]
  dsimp only
  rw [if_neg (by rw [hep]; exact fun hno => absurd hno.1 (by decide)), hcommit]
  rfl

/-- What HANDLE_ALLOC of an entry leaves (R326). -/
theorem handleAlloc_leaves {c d : Ctl} {mem : Mem} {e owner b n m : Nat} {dram : Bool} {ws : List Word}
    (halloc : (c.begins m ws).Allocated d e owner dram b n) {res : List Word} :
    let d' := d.reply m (0x0600 + e) stOk 0 res
    d'.on (F.cnpHtW0Valid e) = true ∧ d'.get (F.cnpHtW0Owner e) = owner ∧ d'.on (F.cnpHtW0Target e) = dram ∧
    d'.on (F.cnpHtW0Busy e) = dram ∧ d'.get (F.cnpHtW0Epoch e) = (c.get (F.cnpHtW0Epoch e) + 1) % 65536 ∧ d'.hBase e = b * 256 ∧
    d'.hSize e = n * 256 ∧ mem.Zeroed (MAct.apply mem (.mark (unitKey dram b) (n * 256))) (d'.hKey e 0) (n * 256) ∧
    d'.taken m = some ⟨ws, some (stOk, 0, d'.epochOf (0x0600 + e), res), true⟩ ∧
    Frame false [.mail, .cnp] (R.cnpClrPending :: R.dbgSat :: lcRegs ++ htRegs e) c d' ∧
    (dram = false → Frame false [.mail] (R.cnpClrPending :: htRegs e) c d') := by
  intro d'
  have hend : Frame false [.mail] [] d d' := frame_answer ..
  have hbegin := frame_begins false c m ws
  obtain ⟨hvalid, howner, htarget, hbusy, hepoch, hbase, hsize, hkey⟩ := halloc.after hend (by simp)
  have htaken : d.taken m = some ⟨ws, none, true⟩ := by
    rw [Ctl.taken_of_host (halloc.frame.sameMail (by simp)), taken_begins, if_pos rfl]
  refine ⟨hvalid, howner, htarget, hbusy, hepoch, hbase, hsize, hkey ▸ zeroed_mark .., ?_,
    ((hbegin.mono (by simp) (by simp)).trans (halloc.frame.mono (by simp) (fun _ ha => ha))).trans (hend.mono (by simp) (by simp)),
    fun hd => ((hbegin.mono (by simp) (by simp)).trans ((halloc.canopy hd).mono (by simp) (fun _ ha => ha))).trans (hend.mono (by simp) (by simp))⟩
  show (d.answer m stOk 0 (d.epochOf (0x0600 + e)) res).taken m = some ⟨ws, some (stOk, 0, (d.answer m stOk 0 _ res).epochOf (0x0600 + e), res), true⟩
  rw [epochOf_answer, answer_taken d htaken]
  exact mget_mset_self none d.host.taken m (some ⟨ws, some (stOk, 0, d.epochOf (0x0600 + e), res), true⟩)

/-! HANDLE_FREE of Understorey's handle (R173). -/

/-- The release of a Canopy handle of Understorey: the entry is not valid, its range noted until the accepted requests are done. -/
theorem htFree_revokes {w : W} {e : Nat} (hown : w.ctl.get (F.cnpHtW0Owner e) = 0x80)
    (htarget : w.ctl.on (F.cnpHtW0Target e) = false) (hlimit : w.ctl.hBase e + w.ctl.hSize e ≤ w.ctl.canopySpace) :
    ∃ d, w.htFree e = ⟨d, w.mem, w.acts⟩ ∧ d.on (F.cnpHtW0Valid e) = false ∧
      d.cnp = { w.ctl.cnp with revoked := w.ctl.cnp.revoked ++ [(canopyKey (w.ctl.hBase e), w.ctl.hSize e)] } ∧
      Frame false [.cnp] (htRegs e) w.ctl d := by
  obtain ⟨fv, fd, -, fo⟩ := fieldGet_htWord false false (w.ctl.on (F.cnpHtW0Wr e)) false (owner := 0) (by decide)
  have hfit : (w.ctl.get (F.cnpHtW1Base e) + (w.ctl.get (F.cnpHtW2SizeM1 e) + 1)) * 256 ≤ if false then w.ctl.dramSize else w.ctl.canopySpace := by
    rw [if_neg Bool.false_ne_true, Nat.add_mul]
    exact hlimit
  have hok : w.ctl.htOk (htWord false false (w.ctl.on (F.cnpHtW0Wr e)) false 0) (w.ctl.get (F.cnpHtW1Base e)) (w.ctl.get (F.cnpHtW2SizeM1 e) + 1) = true :=
    htOk_htWord hfit (by decide) (by decide)
  have hmarks : w.ctl.htMarks e (htWord false false (w.ctl.on (F.cnpHtW0Wr e)) false 0) = true := by
    unfold Ctl.htMarks
    dsimp only
    rw [fo, hown]
    simp
  have hb : w.ctl.get (F.cnpHtW1Base e) < 2 ^ 26 := Ctl.get_lt ..
  have hcommit := htCommit_eq (e := e) hok rfl
  rw [hmarks, getLsbD_of_fieldGet fd, Bool.false_and, fo, hown] at hcommit
  have hfree : w.htFree e = (w.htCommit e (htWord false false (w.ctl.on (F.cnpHtW0Wr e)) false 0) (w.ctl.get (F.cnpHtW1Base e))
      (w.ctl.get (F.cnpHtW2SizeM1 e) + 1)).1 := by
    rw [W.htFree, W.htChange, htarget]
  rw [hcommit] at hfree
  obtain ⟨w0, hw0⟩ : ∃ w0, w0 = htWord false false (w.ctl.on (F.cnpHtW0Wr e)) false 0 := ⟨_, rfl⟩
  rw [← hw0] at hfree fv fd
  have hstore := (onlyRegs_htStore w.ctl (e := e) (w0 := w0) (base := w.ctl.get (F.cnpHtW1Base e)) (size := w.ctl.get (F.cnpHtW2SizeM1 e) + 1) false).frame false
  have hcnp := hstore.1 .cnp (by simp) rfl
  have hkey : (w.ctl.htStore e w0 (w.ctl.get (F.cnpHtW1Base e)) (w.ctl.get (F.cnpHtW2SizeM1 e) + 1) false).hKey e 0 = canopyKey (w.ctl.hBase e) := by
    rw [Ctl.hKey, Ctl.hBase, get_htStore_base w.ctl false hb, Ctl.on, get_htStore_word w.ctl false (.inl (by decide)), fd, Nat.add_zero, Ctl.hBase]
    exact if_neg (by decide)
  have hvalid : (w.ctl.htStore e w0 (w.ctl.get (F.cnpHtW1Base e)) (w.ctl.get (F.cnpHtW2SizeM1 e) + 1) false).on (F.cnpHtW0Valid e) = false := by
    rw [Ctl.on, get_htStore_word w.ctl false (.inl (by decide)), fv]
    rfl
  obtain ⟨d, hd⟩ : ∃ d, d = w.ctl.htStore e w0 (w.ctl.get (F.cnpHtW1Base e)) (w.ctl.get (F.cnpHtW2SizeM1 e) + 1) false := ⟨_, rfl⟩
  rw [← hd] at hstore hcnp hkey hvalid hfree
  refine ⟨d.revoke (canopyKey (w.ctl.hBase e)) (w.ctl.hSize e), ?_, hvalid, ?_, (hstore.mono (by simp) (fun _ ha => ha)).trans frame_parts⟩
  · rw [hfree]
    refine (congrArg Prod.fst ((if_neg (by decide)).trans (if_pos (by decide)))).trans ?_
    rw [W.on_ctl, hkey]
    rfl
  · rw [← show d.cnp = w.ctl.cnp from hcnp]
    rfl

theorem handleFree_revokes (hv : s.hw.ctl.on (F.cnpHtW0Valid (fieldGet (reqArg ws 0) 0 8)) = true)
    (hown : s.hw.ctl.get (F.cnpHtW0Owner (fieldGet (reqArg ws 0) 0 8)) = 0x80)
    (htarget : s.hw.ctl.on (F.cnpHtW0Target (fieldGet (reqArg ws 0) 0 8)) = false)
    (hlimit : s.hw.ctl.hBase (fieldGet (reqArg ws 0) 0 8) + s.hw.ctl.hSize (fieldGet (reqArg ws 0) 0 8) ≤ s.hw.ctl.canopySpace)
    (hs : Starts s.hw.ctl m 0x0302 ws) : let c := s.hw.ctl
    let e := fieldGet (reqArg ws 0) 0 8
    CompletesCtl s (exec (.handleFree m) s) (fun d => d.on (F.cnpHtW0Valid e) = false ∧
      d.cnp = { c.cnp with revoked := c.cnp.revoked ++ [(canopyKey (c.hBase e), c.hSize e)] } ∧
      Answered c d m ws stOk 0 [] ∧ Frame false [.mail, .cnp] (htRegs e) c d) := by
  intro c e
  obtain ⟨d, hfree, hvalid, hcnp, hframe⟩ := htFree_revokes (w := ⟨c.begins m ws, s.hw.mem, []⟩) hown htarget hlimit
  obtain ⟨hans, hall⟩ := hframe.replies (st := stOk) (detail := 0) (res := []) (by simp)
  have hend := frame_answer false d m stOk 0 (d.epochOf (reqObj ws)) []
  refine completesCtl_replies (d := d) hs (if_pos hv) ((if_neg ?_).trans (congrArg (fun w => W.reply w m (reqObj ws) stOk 0 []) hfree)) ⟨?_, ?_, hans, hall⟩
  · show ¬(c.get (F.cnpHtW0Owner e) < 0x40 ∨ 0x80 < c.get (F.cnpHtW0Owner e))
    rw [hown]
    decide
  · exact (Ctl.on_of_rd (hend.2 _ (by simp) rfl)).trans hvalid
  · exact Eq.trans (hend.1 .cnp (by simp) rfl) hcnp

/-! STREAM_SETUP (R319, R384). -/

/-- STC_s_RING named. -/
def Ctl.ringPut (c : Ctl) (x e d f : Nat) : Ctl := ((c.put (F.stcRingHandle x) e).put (F.stcRingDepth x) d).put (F.stcRingSem x) f

/-- A context among those set up. -/
def Ctl.isSetUp (c : Ctl) (x : Nat) : Ctl := { c with img := { c.img with setup := c.img.setup ++ [x] } }

/-- A primary mirrors the RING it writes. -/
def Ctl.ringMirrored (c : Ctl) (x : Nat) : Ctl :=
  if c.paired && c.isPrimary then c.hngSend 0 (.state (.regWrite (R.stcRing x) (c.rd (R.stcRing x)))) else c

theorem frame_hngSends (c : Ctl) (l : Nat) (f : HngOut) : Frame false [.hng, .out] [] c (c.hngSend l f) := by
  have hport (d : Ctl) (p : PortSt) : Frame false [.hng, .out] [] d (d.portSet l p) := frame_parts
  have hemit (d : Ctl) (f : HngOut) : Frame false [.hng, .out] [] d (d.hngEmit l f) := by
    unfold Ctl.hngEmit
    dsimp only
    split
    · exact (hport d _).trans frame_parts
    · exact frame_parts
  have htry (d : Ctl) : Frame false [.hng, .out] [] d (d.hngTry l) := by
    unfold Ctl.hngTry
    split
    · exact Frame.refl ..
    · split
      · exact (hport d _).trans (hemit ..)
      · exact Frame.refl ..
  unfold Ctl.hngSend Ctl.hngPump
  split
  · exact Frame.refl ..
  · exact (hport c _).trans (Frame.foldl _ _ (fun _ _ d => htry d) _)

section
variable (c : Ctl) (x : Nat)

theorem frame_ringPut (e d f : Nat) : Frame false [] [R.stcRing x] c (c.ringPut x e d f) :=
  ((frame_put false c (F.stcRingHandle x) e).trans (frame_put false _ (F.stcRingDepth x) d)).trans (frame_put false _ (F.stcRingSem x) f)

theorem frame_isSetUp : Frame false [.img] [] c (c.isSetUp x) := by
  refine ⟨fun p hp _ => ?_, fun _ _ _ => rfl⟩
  cases p with
  | img => exact absurd (List.mem_singleton.mpr rfl) hp
  | link => exact ⟨rfl, rfl⟩
  | rings => exact ⟨rfl, rfl⟩
  | _ => rfl

theorem get_ringPut {e d f : Nat} (he : e < 256) (hd : d < 64) (hf : f < 256) : (c.ringPut x e d f).get (F.stcRingHandle x) = e ∧
    (c.ringPut x e d f).get (F.stcRingDepth x) = d ∧ (c.ringPut x e d f).get (F.stcRingSem x) = f := by
  unfold Ctl.ringPut
  refine ⟨?_, ?_, ?_⟩
  · rw [Ctl.get_put_ne _ (F.stcRingSem x) (F.stcRingHandle x) f (by simp) (by simp),
      Ctl.get_put_ne _ (F.stcRingDepth x) (F.stcRingHandle x) d (by simp) (by simp), Ctl.get_put_self _ _ _ (by simp)]
    exact Nat.mod_eq_of_lt he
  · rw [Ctl.get_put_ne _ (F.stcRingSem x) (F.stcRingDepth x) f (by simp) (by simp), Ctl.get_put_self _ _ _ (by simp)]
    exact Nat.mod_eq_of_lt hd
  · rw [Ctl.get_put_self _ _ _ (by simp)]
    exact Nat.mod_eq_of_lt hf

theorem frame_ringMirrored : Frame false [.hng, .out] [] c (c.ringMirrored x) := by
  unfold Ctl.ringMirrored
  split
  · exact frame_hngSends ..
  · exact Frame.refl ..

theorem ringMirrored_alone (h : ¬(c.paired = true ∧ c.isPrimary = true)) : c.ringMirrored x = c := if_neg (by simpa using h)

theorem freePair_lt {f : Nat} (h : c.freePair x = some f) : f < 256 := by
  obtain ⟨i, hi, rfl⟩ := List.mem_map.mp (List.mem_of_find?_eq_some h)
  have := List.mem_range.mp hi
  omega

theorem freePair_begins (m : Nat) (ws : List Word) : (c.begins m ws).freePair x = c.freePair x := by
  unfold Ctl.freePair
  rfl

end

/-- What STREAM_SETUP leaves of an entry taken for context x (R319, R384). -/
theorem streamSetup_leaves {c d : Ctl} {mem : Mem} {x e b n depth f : Nat} {res : List Word} (hx : x < 24) (he : e < 256) (hd : depth < 64)
    (hf : f < 256) (halloc : (c.begins m ws).Allocated d e (1 + x) false b n) :
    let d' := (((d.ringPut x e depth f).isSetUp x).ringMirrored x).reply m (reqObj ws) stOk 0 res
    d'.get (F.stcRingHandle x) = e ∧ d'.get (F.stcRingDepth x) = depth ∧ d'.get (F.stcRingSem x) = f ∧
    d'.on (F.cnpHtW0Valid e) = true ∧ d'.get (F.cnpHtW0Owner e) = 1 + x ∧ d'.hBase e = b * 256 ∧ d'.hSize e = n * 256 ∧
    d'.img.setup = c.img.setup ++ [x] ∧ mem.Zeroed (MAct.apply mem (.mark (unitKey false b) (n * 256))) (canopyKey (b * 256)) (n * 256) ∧
    Answered c d' m ws stOk 0 res ∧ Frame false [.mail, .img, .hng, .out] (R.stcRing x :: R.cnpClrPending :: htRegs e) c d' ∧
    (¬(c.paired = true ∧ c.isPrimary = true) → d'.hng = c.hng ∧ d'.out = c.out) := by
  intro d'
  have hcanopy := halloc.canopy rfl
  have hput : Frame false [] [R.stcRing x] d (d.ringPut x e depth f) := frame_ringPut ..
  have hset := frame_isSetUp (d.ringPut x e depth f) x
  have hmir := frame_ringMirrored ((d.ringPut x e depth f).isSetUp x) x
  obtain ⟨ghandle, gdepth, gsem⟩ := get_ringPut d x he hd hf
  have hsetup : ((d.ringPut x e depth f).isSetUp x).img.setup = c.img.setup ++ [x] := by
    show (d.ringPut x e depth f).img.setup ++ [x] = _
    rw [show (d.ringPut x e depth f).img = d.img from hput.1 .img (by simp) rfl, show d.img = (c.begins m ws).img from hcanopy.1 .img (by simp) rfl]
    rfl
  have hstatus : R.hngPairStatus ∉ R.stcRing x :: R.cnpClrPending :: htRegs e := by
    simp only [R.hngPairStatus, R.stcRing, R.cnpClrPending, R.cnpHtW0, R.cnpHtW1, R.cnpHtW2, List.mem_cons, List.not_mem_nil, or_false]
    omega
  have hentry : ∀ a ∈ htRegs e, a ∉ [R.stcRing x] := by
    intro a ha
    simp only [R.stcRing, R.cnpHtW0, R.cnpHtW1, R.cnpHtW2, List.mem_cons, List.not_mem_nil, or_false] at ha ⊢
    omega
  have hwhole : Frame false [.img] (R.stcRing x :: R.cnpClrPending :: htRegs e) (c.begins m ws) ((d.ringPut x e depth f).isSetUp x) :=
    ((hcanopy.mono (by simp) (by simp)).trans (hput.mono (by simp) (by simp))).trans (hset.mono (fun _ hp => hp) (by simp))
  have halone (hno : ¬(c.paired = true ∧ c.isPrimary = true)) : ((d.ringPut x e depth f).isSetUp x).ringMirrored x = (d.ringPut x e depth f).isSetUp x := by
    refine ringMirrored_alone _ x ?_
    rw [hwhole.paired hstatus, Ctl.isPrimary, hwhole.get (f := F.hngPairStatusRole) hstatus (by decide)]
    exact hno
  have hend := frame_answer false (((d.ringPut x e depth f).isSetUp x).ringMirrored x) m stOk 0
    ((((d.ringPut x e depth f).isSetUp x).ringMirrored x).epochOf (reqObj ws)) res
  have hlast : Frame false [.mail, .img, .hng, .out] [] (d.ringPut x e depth f) d' :=
    ((hset.mono (by simp) (by simp)).trans (hmir.mono (by simp) (by simp))).trans (hend.mono (by simp) (by simp))
  obtain ⟨hvalid, howner, -, -, -, hbase, hsize, -⟩ := halloc.after ((hput.mono (by simp) (fun _ ha => ha)).trans (hlast.mono (fun _ hp => hp) (by simp))) hentry
  obtain ⟨hans, hall⟩ := (Frame.trans (ps := [.img, .hng, .out]) (hwhole.mono (by simp) (fun _ ha => ha))
    (hmir.mono (by simp) (by simp))).replies (st := stOk) (detail := 0) (res := res) (by simp)
  have hget (g : Fld) : d'.get g = (d.ringPut x e depth f).get g := Ctl.get_of_rd (hlast.2 _ (by simp) rfl)
  refine ⟨(hget _).trans ghandle, (hget _).trans gdepth, (hget _).trans gsem, hvalid, howner, hbase, hsize, ?_, ?_, hans, hall, fun hno => ?_⟩
  · rw [show d'.img = ((d.ringPut x e depth f).isSetUp x).img from Eq.trans (hend.1 .img (by simp) rfl) (hmir.1 .img (by simp) rfl)]
    exact hsetup
  · exact zeroed_mark mem (canopyKey (b * 256)) (n * 256)
  · have hhng : d'.hng = ((d.ringPut x e depth f).isSetUp x).hng :=
      (show d'.hng = (((d.ringPut x e depth f).isSetUp x).ringMirrored x).hng from hend.1 .hng (by simp) rfl).trans (congrArg Ctl.hng (halone hno))
    have hout : d'.out = ((d.ringPut x e depth f).isSetUp x).out :=
      (show d'.out = (((d.ringPut x e depth f).isSetUp x).ringMirrored x).out from hend.1 .out (by simp) rfl).trans (congrArg Ctl.out (halone hno))
    exact ⟨hhng.trans (hwhole.1 .hng (by simp) rfl), hout.trans (hwhole.1 .out (by simp) rfl)⟩

/-- STREAM_SETUP of a context not set up, its CTRL, GEOM and FMT written, with an entry, a place and a semaphore pair free (R319). -/
theorem streamSetup_takes {x depth slot e b f : Nat} (hxw : fieldGet (reqArg ws 0) 0 5 = x) (hdw : fieldGet (reqArg ws 0) 8 6 = depth)
    (hslot : (if s.hw.ctl.kind x = 1 then s.hw.ctl.outSlot x else s.hw.ctl.lineSlot x) = slot) (hx : x < 24)
    (harm : s.hw.ctl.on (F.stcCtrlArm x) = false) (hk : s.hw.ctl.kind x ≤ 1)
    (hd : if s.hw.ctl.kind x = 1 then 10 ≤ depth ∧ depth ≤ 32 else 8 ≤ depth) (hset : x ∉ s.hw.ctl.img.setup)
    (hw : mget 0 s.hw.ctl.ports.stcWritten x % 8 = 7) (h1 : 1 ≤ depth * slot / 256) (h2 : depth * slot / 256 ≤ 32768)
    (hpick : s.hw.ctl.entryPick h = some e) (hplace : s.hw.ctl.placePick base (depth * slot / 256) = some b)
    (hpair : s.hw.ctl.freePair x = some f) (hlast : s.hw.ctl.get (F.cnpHtW0Owner e) ≠ 0x80) (hs : Starts s.hw.ctl m 0x0101 ws) :
    ∃ d, (s.hw.ctl.begins m ws).Allocated d e (1 + x) false b (depth * slot / 256) ∧
      exec (.streamSetup m h base) s = .next ⟨⟨(((d.ringPut x e depth f).isSetUp x).ringMirrored x).reply m (reqObj ws) stOk 0 [w32 (e + 256 * f), w32 slot],
        MAct.apply s.hw.mem (.mark (unitKey false b) (depth * slot / 256 * 256))⟩, s.pending⟩ := by
  generalize hn : depth * slot / 256 = n at *
  obtain ⟨he, hfree⟩ := entryPick_free h.isLt hpick
  have hok : ownerOk (1 + x) = true := by
    simp only [ownerOk, Bool.or_eq_true, decide_eq_true_eq]
    exact .inl (.inl (.inl (.inl (by omega))))
  obtain ⟨d, hcommit, halloc⟩ := htCommit_allocates (w := ⟨s.hw.ctl.begins m ws, s.hw.mem, []⟩) (dram := false) (wr := true)
    he hfree hlast (by omega) h1 h2 (placePick_fits hplace) hok
  refine ⟨d, halloc, ?_⟩
  have hfreed : W.streamFree ⟨s.hw.ctl.begins m ws, s.hw.mem, []⟩ x = ⟨s.hw.ctl.begins m ws, s.hw.mem, []⟩ := by
    unfold W.streamFree
    refine if_pos ?_
    show (!s.hw.ctl.img.setup.contains x) = true
    simpa using hset
  change execStreamSetup m h base s = _
  unfold execStreamSetup
  refine onHw_eq s _ (W.reply ⟨((d.ringPut x e depth f).isSetUp x).ringMirrored x, MAct.apply s.hw.mem (.mark (unitKey false b) (n * 256)),
    [.mark (unitKey false b) (n * 256)]⟩ m (reqObj ws) stOk 0 [w32 (e + 256 * f), w32 slot]) ?_
  rw [command_starts hs (preCtx_within (hxw ▸ hx))]
  dsimp only
  rw [hxw, hdw, hfreed]
  dsimp only
  rw [show (if (s.hw.ctl.begins m ws).kind x = 1 then (s.hw.ctl.begins m ws).outSlot x else (s.hw.ctl.begins m ws).lineSlot x) = slot from hslot, hn]
  have hstate : ¬((s.hw.ctl.begins m ws).on (F.stcCtrlArm x) = true ∨ (s.hw.ctl.begins m ws).kind x = 2 ∨
      mget 0 (s.hw.ctl.begins m ws).ports.stcWritten x % 8 ≠ 7) := by
    show ¬(s.hw.ctl.on (F.stcCtrlArm x) = true ∨ s.hw.ctl.kind x = 2 ∨ mget 0 s.hw.ctl.ports.stcWritten x % 8 ≠ 7)
    rw [harm, hw]
    simp only [Bool.false_eq_true, false_or, ne_eq, not_true, or_false]
    omega
  have hdepth : ¬((s.hw.ctl.begins m ws).kind x = 1 ∧ (depth < 10 ∨ 32 < depth) ∨ (s.hw.ctl.begins m ws).kind x = 0 ∧ depth < 8) := by
    show ¬(s.hw.ctl.kind x = 1 ∧ (depth < 10 ∨ 32 < depth) ∨ s.hw.ctl.kind x = 0 ∧ depth < 8)
    split at hd
    · omega
    · omega
  rw [if_neg hstate, if_neg hdepth, if_pos ⟨h1, h2⟩, entryPick_begins, hpick, placePick_begins, hplace, freePair_begins, hpair]
  dsimp only
  rw [hcommit]
  rfl

end

end Sys2Proof.Machine
end

section
/-! What the image's operations leave of the host's side and of the image's state (07_schedules_and_tiling.md R211 … R219, R324, R325). -/

namespace Sys2Proof.Machine

/-- The host's side and the image's state are as before. -/
structure Ctl.SameBooks (c d : Ctl) : Prop where
  host : d.host = c.host
  img : d.img = c.img

theorem Ctl.SameBooks.refl (c : Ctl) : c.SameBooks c := ⟨rfl, rfl⟩

theorem Ctl.SameBooks.trans {c d e : Ctl} (h : c.SameBooks d) (g : d.SameBooks e) : c.SameBooks e := ⟨g.host.trans h.host, g.img.trans h.img⟩

theorem OnlyRegs.books {l : List Nat} {c d : Ctl} (h : OnlyRegs l c d) : c.SameBooks d := by
  obtain ⟨-, r, rfl⟩ := h
  exact ⟨rfl, rfl⟩

theorem CacheOnly.books {c d : Ctl} (h : CacheOnly c d) : c.SameBooks d := by
  obtain ⟨-, r, lc, rfl⟩ := h
  exact ⟨rfl, rfl⟩

theorem books_put (c : Ctl) (f : Fld) (v : Nat) : c.SameBooks (c.put f v) := (onlyRegs_put c f v).books

theorem books_wr (c : Ctl) (a : Nat) (v : Word) : c.SameBooks (c.wr a v) := (onlyRegs_wr c a v).books

theorem books_fab (c : Ctl) (x : Fab) : c.SameBooks { c with fab := x } := ⟨rfl, rfl⟩

theorem books_hng (c : Ctl) (x : Hng) : c.SameBooks { c with hng := x } := ⟨rfl, rfl⟩

theorem books_out (c : Ctl) (x : List Output) : c.SameBooks { c with out := x } := ⟨rfl, rfl⟩

/-- What is done or left undone leaves the books where it does. -/
theorem Ctl.SameBooks.ite {p : Prop} [Decidable p] {c d : Ctl} (h : c.SameBooks d) : c.SameBooks (if p then d else c) := by
  split
  · exact h
  · exact .refl c

theorem Ctl.SameBooks.iteW {p : Prop} [Decidable p] {w v : W} (h : w.ctl.SameBooks v.ctl) : w.ctl.SameBooks (if p then v else w).ctl := by
  split
  · exact h
  · exact .refl w.ctl

/-- Work done in steps leaves the books where each step does. -/
theorem books_foldlW {α : Type} {f : W → α → W} (h : ∀ (w : W) (a : α), w.ctl.SameBooks (f w a).ctl) (l : List α) (w : W) :
    w.ctl.SameBooks (l.foldl f w).ctl := by
  induction l generalizing w with
  | nil => exact .refl _
  | cons a l ih => exact (h w a).trans (ih _)

theorem books_foldl {α : Type} {f : Ctl → α → Ctl} (h : ∀ (c : Ctl) (a : α), c.SameBooks (f c a)) (l : List α) (c : Ctl) : c.SameBooks (l.foldl f c) := by
  induction l generalizing c with
  | nil => exact .refl _
  | cons a l ih => exact (h c a).trans (ih _)

/-! Handles (R152, R219). -/

section
variable (w : W)

theorem books_actC (a : MAct) : w.ctl.SameBooks (w.actC a).ctl := books_put w.ctl F.cnpClrPendingLines _

theorem books_marked (key n : Nat) : w.ctl.SameBooks (w.marked key n).ctl := (books_actC w (.mark key n)).trans (cacheOnly_lcUnit _ key n true).books

theorem books_putKey (k : Nat) (bs : List Byte) : w.ctl.SameBooks (w.putKey k bs).ctl :=
  (books_actC w (.put k bs)).trans (cacheOnly_lcUnit _ k bs.length true).books

theorem books_htCommit (e : Nat) (w0 : Word) (base size : Nat) : w.ctl.SameBooks (w.htCommit e w0 base size).1.ctl := by
  cases hok : w.ctl.htOk w0 base size with
  | false =>
    have hrej : w.htCommit e w0 base size = (w.on (fun c => c.put F.cnpStatusHtRej 1), false) := if_pos (by rw [hok]; rfl)
    rw [hrej]
    exact books_put ..
  | true =>
    obtain ⟨v, hv⟩ : ∃ v, v = w.on (fun _ => w.ctl.htStore e w0 base size (w0.getLsbD 1 && (w.ctl.htMarks e w0 || w.ctl.on (F.cnpHtW0Busy e)))) := ⟨_, rfl⟩
    have hstore : w.ctl.SameBooks v.ctl := by
      rw [hv]
      exact (onlyRegs_htStore w.ctl _).books
    rw [htCommit_eq hok hv]
    split
    · exact hstore
    · split
      · exact hstore.trans ⟨rfl, rfl⟩
      · exact hstore.trans (books_marked v _ _)

theorem books_htChange (e : Nat) (valid : Bool) (owner : Nat) (spec : Bool) : w.ctl.SameBooks (w.htChange e valid owner spec).ctl :=
  books_htCommit ..

theorem books_htFree (e : Nat) : w.ctl.SameBooks (w.htFree e).ctl := books_htChange ..

theorem books_declFree (im : Image) : w.ctl.SameBooks (w.declFree im).ctl := by
  unfold W.declFree
  exact books_foldlW (f := fun (w : W) (h : HandleDecl) => w.htFree h.entry) (fun (w : W) (h : HandleDecl) => books_htFree w h.entry) im.handles w

theorem books_declCommit (im : Image) (owner : Nat) (p : Nat → Bool) : w.ctl.SameBooks (w.declCommit im owner p).ctl :=
  books_foldlW (fun _ _ => (books_htCommit ..).iteW) im.handles w

theorem books_declOwners (im : Image) (p : Nat → Bool) : w.ctl.SameBooks (w.declOwners im p).ctl :=
  books_foldlW (fun _ _ => (books_htChange ..).iteW) im.handles w

theorem books_shadowCommit (im : Image) (confirm : Bool) : w.ctl.SameBooks (w.shadowCommit im confirm).ctl :=
  books_foldlW (fun _ _ => (books_htChange ..).iteW) im.handles w

theorem books_constLoad (im : Image) (p : Nat → Bool) : w.ctl.SameBooks (w.constLoad im p).ctl :=
  books_foldlW (fun _ _ => (books_putKey ..).iteW) im.consts w

/-! Regions of the cores: the memories alone (R161, R196). -/

/-- Work in steps of which each changes the memories alone. -/
theorem ctl_foldlW {α : Type} {f : W → α → W} (h : ∀ (w : W) (a : α), (f w a).ctl = w.ctl) (l : List α) (w : W) : (l.foldl f w).ctl = w.ctl := by
  induction l generalizing w with
  | nil => rfl
  | cons a l ih => exact (ih _).trans (h w a)

theorem ctl_act (a : MAct) : (w.act a).ctl = w.ctl := rfl

theorem ctl_putCores (cores : List Nat) (off : Nat) (bs : List Byte) : (w.putCores cores off bs).ctl = w.ctl := by
  refine ctl_foldlW (fun w k => ?_) cores w
  split
  · exact ctl_act ..
  · rfl

theorem ctl_coreLoad (im : Image) : (w.coreLoad im).ctl = w.ctl := by
  unfold W.coreLoad
  dsimp only
  rw [ctl_foldlW (fun w r => ctl_putCores w _ _ _), ctl_foldlW (fun w r => ctl_putCores w _ _ _), ctl_foldlW fun w q => ctl_act w _]

theorem ctl_loadStand (n l : Nat) : (w.loadStand n l).ctl = w.ctl := by
  unfold W.loadStand
  split
  · rfl
  · dsimp only
    rw [ctl_foldlW fun w r => ctl_foldlW (fun w k => ctl_act w _) _ w, ctl_foldlW fun w r => ctl_foldlW (fun w k => ctl_act w _) _ w,
      ctl_foldlW fun w i => ctl_act w _]

theorem ctl_residentPrefetch (im : Image) : (w.residentPrefetch im).ctl = w.ctl := by
  unfold W.residentPrefetch
  exact ctl_foldlW (fun w r => ctl_putCores ..) im.resident w

/-- The image in force noted. -/
def Ctl.nowRuns (c : Ctl) (im : Image) : Ctl := { c with img := { c.img with cur := some im } }

theorem ctl_regionsLoad (im : Image) : (w.regionsLoad im).ctl = w.ctl.nowRuns im := by
  unfold W.regionsLoad
  dsimp only
  rw [ctl_foldlW (f := fun w (p : Nat × Nat) => w.loadStand p.1 p.2) fun w p => ctl_loadStand w p.1 p.2, W.on_ctl, ctl_coreLoad, Ctl.nowRuns]

end

/-! Routes, pools, rings and semaphores (R192 … R209). -/

section
variable (c : Ctl)

theorem books_routesWrite (im : Image) (live : Bool) : c.SameBooks (c.routesWrite im live).1 := by
  have hwrite (r : RouteRec) (c : Ctl) : c.SameBooks (c.routeWrite r im.id live).1 := by
    unfold Ctl.routeWrite
    split
    · exact ((books_put ..).trans (books_put ..)).trans (books_put ..)
    · exact (books_wr ..).trans (books_wr ..)
  have hroutes (l : List RouteRec) (q : Ctl × Bool) :
      q.1.SameBooks (l.foldl (fun (c, ok) r => if ok then c.routeWrite r im.id live else (c, false)) q).1 := by
    induction l generalizing q with
    | nil => exact .refl _
    | cons r l ih =>
      obtain ⟨d, ok⟩ := q
      cases ok with
      | false => exact ih (d, false)
      | true => exact (hwrite r d).trans (ih (d.routeWrite r im.id live))
  have hvalid := books_foldl (f := fun c x => if c.on (F.chnRouteValid x) then c.put (F.chnRouteValid x) 0 else c)
    (fun c x => (books_put ..).ite) (List.range 1024) c
  have hmasks := books_foldl (f := fun c g => (List.range 4).foldl (fun c w => c.wr (R.chnGrpMask g w) (nth 0 (nth [] im.groups g) w)) c)
    fun c g => books_foldl (fun c w => books_wr ..) (List.range 4) c
  unfold Ctl.routesWrite
  dsimp only
  exact hvalid.trans ((hmasks (List.range 32) _).trans (hroutes im.routes (_, true)))

theorem books_poolReset (p : Nat) : c.SameBooks (c.poolReset p) := ((books_put ..).trans (books_put ..)).trans (books_fab ..)

theorem books_semInit (sem : Nat) : c.SameBooks (c.semInit sem) := (books_put ..).trans (books_fab ..)

theorem books_poolsWrite (im : Image) : c.SameBooks (c.poolsWrite im) := by
  unfold Ctl.poolsWrite
  dsimp only
  refine Ctl.SameBooks.trans ?_ (books_foldl (fun c s => ((books_put ..).trans (books_put ..)).trans (books_semInit ..)) im.sems _)
  refine Ctl.SameBooks.trans ?_ (books_foldl (fun c r => (books_wr ..).trans (books_wr ..)) im.rings _)
  refine Ctl.SameBooks.trans ?_ (books_foldl (fun c r => (books_wr ..).ite) (List.range 128) _)
  refine Ctl.SameBooks.trans ?_ (books_foldl (fun c p => ((books_wr ..).trans (books_put ..)).trans (books_poolReset ..)) im.pools _)
  exact books_foldl (fun c p => (books_put ..).ite) (List.range 256) c

/-! The Hinge (R371). -/

theorem books_hngSend (l : Nat) (f : HngOut) : c.SameBooks (c.hngSend l f) := by
  have hemit (c : Ctl) (f : HngOut) : c.SameBooks (c.hngEmit l f) := by
    unfold Ctl.hngEmit
    dsimp only
    split
    · exact (books_hng ..).trans (books_out ..)
    · exact books_out ..
  have htry (c : Ctl) : c.SameBooks (c.hngTry l) := by
    unfold Ctl.hngTry
    split
    · exact .refl _
    · exact ((books_hng ..).trans (hemit ..)).ite
  unfold Ctl.hngSend Ctl.hngPump
  split
  · exact .refl _
  · exact (books_hng ..).trans (books_foldl (fun c _ => htry c) _ _)

theorem books_fwdSend (im : Image) (load : Bool) : c.SameBooks (c.fwdSend im load) := books_foldl (fun _ _ => books_hngSend ..) _ c

end

/-! Loads and drops (R219, R324). -/

section
variable (w : W)

/-- The handles, routes and pools of a load with no image in force. -/
theorem books_directRest (im : Image) : w.ctl.SameBooks ((((w.declCommit im 0xF0 (fun _ => true)).constLoad im (fun _ => true)).declOwners im
    (fun _ => true)).on (fun c => ((c.routesWrite im true).1).poolsWrite im)).ctl :=
  (books_declCommit ..).trans ((books_constLoad ..).trans ((books_declOwners ..).trans ((books_routesWrite _ im true).trans (books_poolsWrite _ im))))

theorem nowRuns_books {c : Ctl} (h : w.ctl.SameBooks c) (im : Image) : (c.nowRuns im).host = w.ctl.host ∧
    (c.nowRuns im).img = { w.ctl.img with cur := some im } :=
  ⟨h.host, by rw [← h.img]; rfl⟩

/-- A load with no image in force (R219). -/
theorem loadDirect_books (im : Image) : (w.loadDirect im).ctl.host = w.ctl.host ∧ (w.loadDirect im).ctl.img = { w.ctl.img with cur := some im } := by
  have hcopy : w.ctl.SameBooks (w.copyPut im w.ctl.img.half).ctl := books_putKey ..
  have hregions := ctl_regionsLoad (w.copyPut im w.ctl.img.half) im
  obtain ⟨rhost, rimg⟩ := nowRuns_books w hcopy im
  rw [← hregions] at rhost rimg
  have hall := books_directRest ((w.copyPut im w.ctl.img.half).regionsLoad im) im
  exact ⟨hall.host.trans rhost, hall.img.trans rimg⟩

/-- The handles of a shadow image released. -/
theorem books_shadowFree (im : Image) (p : W → Nat → Bool) :
    w.ctl.SameBooks (im.handles.foldl (fun (w : W) (h : HandleDecl) => if p w h.entry then w.htFree h.entry else w) w).ctl :=
  books_foldlW (fun _ _ => (books_htFree ..).iteW) im.handles w

/-- The shadow image gone while no promotion waits (R324). -/
theorem dropShadow_books (hp : w.ctl.img.promote = none) : w.dropShadow.ctl.host = w.ctl.host ∧
    w.dropShadow.ctl.img = { w.ctl.img with shadow := none, prefetched := false, promote := none } := by
  have hend (c : Ctl) (h : c.img.promote = none) : ({ c with img := { c.img with shadow := none, prefetched := false } } : Ctl).promoteEnd 4 5 [] =
      { c with img := { c.img with shadow := none, prefetched := false, promote := none } } := by
    unfold Ctl.promoteEnd
    dsimp only
    rw [h]
  unfold W.dropShadow
  dsimp only
  cases hs : w.ctl.img.shadow with
  | none =>
    dsimp only
    rw [W.on_ctl, hend _ hp]
    exact ⟨rfl, rfl⟩
  | some im =>
    dsimp only
    have hfree := books_shadowFree w im (fun w e => w.ctl.on (F.cnpHtW0Valid e) && w.ctl.get (F.cnpHtW0Owner e) == 0xF1)
    rw [W.on_ctl, hend _ (by rw [hfree.img, hp])]
    exact ⟨hfree.host, by rw [hfree.img]⟩

/-- A load while an image is in force and no promotion waits (R219, R324). -/
theorem loadShadow_books (im : Image) (hp : w.ctl.img.promote = none) : (w.loadShadow im).ctl.host = w.ctl.host ∧
    (w.loadShadow im).ctl.img = { w.ctl.img with shadow := some im, prefetched := false, promote := none } := by
  obtain ⟨dhost, dimg⟩ := dropShadow_books w hp
  have hload : w.dropShadow.ctl.SameBooks ((w.dropShadow.copyPut im (!w.ctl.img.half)).declCommit im 0xF1
      (fun e => !(w.dropShadow.copyPut im (!w.ctl.img.half)).ctl.curHas e)).ctl :=
    (books_putKey ..).trans (books_declCommit ..)
  unfold W.loadShadow
  dsimp only
  rw [W.on_ctl]
  refine ⟨hload.host.trans dhost, ?_⟩
  dsimp only
  rw [hload.img, dimg]

end

end Sys2Proof.Machine
end

section
/-! A speculation cancelled (07_schedules_and_tiling.md R214). -/

namespace Sys2Proof.Machine

/-- The commands that mailboxes hold and the image's state are as before. -/
structure Ctl.SameCmds (c d : Ctl) : Prop where
  mail : SameMail c d
  img : d.img = c.img

theorem Ctl.SameCmds.refl (c : Ctl) : c.SameCmds c := ⟨rfl, rfl⟩

theorem Ctl.SameCmds.trans {c d e : Ctl} (h : c.SameCmds d) (g : d.SameCmds e) : c.SameCmds e := ⟨h.mail.trans g.mail, g.img.trans h.img⟩

theorem Ctl.SameBooks.cmds {c d : Ctl} (h : c.SameBooks d) : c.SameCmds d := ⟨congrArg HostSt.taken h.host, h.img⟩

theorem cmds_flushWhere (w : W) (n : Nat) (p : GbEntry → Bool) : w.ctl.SameCmds (w.flushWhere n p).ctl := by
  obtain ⟨hflush, -, -, -⟩ := flushWhere_frame w n p
  exact ⟨hflush.units.taken, hflush.units.img⟩

theorem cmds_foldlW {α : Type} {f : W → α → W} (h : ∀ (w : W) (a : α), w.ctl.SameCmds (f w a).ctl) (l : List α) (w : W) :
    w.ctl.SameCmds (l.foldl f w).ctl := by
  induction l generalizing w with
  | nil => exact .refl _
  | cons a l ih => exact (h w a).trans (ih _)

/-! The tasks of a speculation. -/

/-- No task of a speculation is left: none queued, none on a core of the first n, and no context's speculation noted. -/
structure Ctl.NoSpec (c : Ctl) : Prop where
  run : c.fab.specRun = none
  queued : ∀ k, ∀ y ∈ mget [] c.fab.queues k, y.spec = false
  running : ∀ q < 136, ∀ y, (c.core q).task = some y → y.spec = false

/-- The queues, the cores and the speculation are as before. -/
structure Ctl.SameTasks (c d : Ctl) : Prop where
  run : d.fab.specRun = c.fab.specRun
  queues : d.fab.queues = c.fab.queues
  cores : d.fab.cores = c.fab.cores

theorem Ctl.SameTasks.refl (c : Ctl) : c.SameTasks c := ⟨rfl, rfl, rfl⟩

theorem Ctl.SameTasks.trans {c d e : Ctl} (h : c.SameTasks d) (g : d.SameTasks e) : c.SameTasks e :=
  ⟨g.run.trans h.run, g.queues.trans h.queues, g.cores.trans h.cores⟩

theorem Ctl.SameTasks.of_fab {c d : Ctl} (h : d.fab = c.fab) : c.SameTasks d := by
  constructor <;> rw [h]

theorem Ctl.NoSpec.of_same {c d : Ctl} (h : c.NoSpec) (g : c.SameTasks d) : d.NoSpec := by
  refine ⟨g.run.trans h.run, fun k y hy => h.queued k y ?_, fun q hq y hy => h.running q hq y ?_⟩
  · rw [← g.queues]
    exact hy
  · rw [← Ctl.core_of_cores g.cores]
    exact hy

/-- A running task of a speculation stopped with no completion. -/
def Ctl.specLeave (c : Ctl) (q : Nat) : Ctl := match (c.core q).task with
  | some t => if t.spec then c.leaveCore q false else c
  | none => c

theorem specLeave_task (c : Ctl) (q r : Nat) : ((c.specLeave q).core r).task = (c.core r).task ∨ ((c.specLeave q).core r).task = none := by
  unfold Ctl.specLeave
  split
  · split
    · rw [task_leaveCore]
      split
      · exact .inr rfl
      · exact .inl rfl
    · exact .inl rfl
  · exact .inl rfl

theorem specLeave_self (c : Ctl) (q : Nat) {y : Task} (h : ((c.specLeave q).core q).task = some y) : y.spec = false := by
  unfold Ctl.specLeave at h
  split at h
  next t ht =>
    split at h
    · rw [task_leaveCore, if_pos rfl] at h
      exact absurd h (by simp)
    next hs =>
      rw [ht] at h
      rw [← Option.some.inj h]
      exact Bool.not_eq_true _ ▸ hs
  next ht =>
    rw [ht] at h
    exact absurd h (by simp)

theorem specLeave_fab (c : Ctl) (q : Nat) : (c.specLeave q).fab.specRun = c.fab.specRun ∧ (c.specLeave q).fab.queues = c.fab.queues ∧
    c.SameBooks (c.specLeave q) := by
  unfold Ctl.specLeave
  split
  · split
    · unfold Ctl.leaveCore
      split
      · exact ⟨rfl, rfl, .refl c⟩
      · dsimp only
        split
        · exact ⟨rfl, rfl, ⟨rfl, rfl⟩⟩
        · exact ⟨rfl, rfl, ⟨rfl, rfl⟩⟩
    · exact ⟨rfl, rfl, .refl c⟩
  · exact ⟨rfl, rfl, .refl c⟩

theorem specLeaves (l : List Nat) (c : Ctl) : (l.foldl Ctl.specLeave c).fab.specRun = c.fab.specRun ∧
    (l.foldl Ctl.specLeave c).fab.queues = c.fab.queues ∧ c.SameBooks (l.foldl Ctl.specLeave c) ∧
    ∀ q, (q ∈ l ∨ ∀ y, (c.core q).task = some y → y.spec = false) → ∀ y, ((l.foldl Ctl.specLeave c).core q).task = some y → y.spec = false := by
  induction l generalizing c with
  | nil => exact ⟨rfl, rfl, .refl c, fun q hq y hy => (hq.resolve_left (by simp)) y hy⟩
  | cons a l ih =>
    obtain ⟨hrun, hqueues, hbooks⟩ := specLeave_fab c a
    obtain ⟨irun, iqueues, ibooks, icores⟩ := ih (c.specLeave a)
    refine ⟨irun.trans hrun, iqueues.trans hqueues, hbooks.trans ibooks, fun q hq => icores q ?_⟩
    by_cases hqa : q = a
    · subst hqa
      exact .inr fun y hy => specLeave_self c q hy
    · refine hq.imp (fun h => (List.mem_cons.mp h).resolve_left hqa) fun h y hy => ?_
      rcases specLeave_task c a q with hsame | hnone
      · exact h y (hsame ▸ hy)
      · rw [hnone] at hy
        exact absurd hy (by simp)

/-! What else a speculation leaves behind. -/

/-- The tasks of a speculation gone from the queues. -/
def Ctl.specDequeue (c : Ctl) : Ctl := { c with fab := { c.fab with queues := dropTasks Task.spec c.fab.queues, specRun := none } }

/-- A channel's messages dropped. -/
def Ctl.fifosDrop (c : Ctl) (x : Nat) : Ctl := { c with fab := { c.fab with fifos := mdrop (inRange (128 * x) 128) c.fab.fifos } }

/-- A speculative channel emptied. -/
def Ctl.specFifo (c : Ctl) (x : Nat) : Ctl := if c.on (F.chnRouteSpec x) then (c.fifosDrop x).fifoRegs x else c

/-- The speculative semaphores and pools initialised. -/
def Ctl.specInits (c : Ctl) : Ctl :=
  let c := (List.range 256).foldl (fun c s => if c.on (F.semCountSpec s) then c.semInit s else c) c
  (List.range 256).foldl (fun c p => if c.on (F.chnCpGuardSpec p) && c.on (F.chnCpGuardValid p) then c.poolReset p else c) c

theorem specStop_eq (c : Ctl) : c.specStop =
    ((List.range 1024).foldl Ctl.specFifo ((List.range 136).foldl Ctl.specLeave c.specDequeue)).specInits.specBinsDrop := rfl

theorem same_foldl {α : Type} {f : Ctl → α → Ctl} (h : ∀ (c : Ctl) (a : α), c.SameTasks (f c a) ∧ c.SameBooks (f c a)) (l : List α) (c : Ctl) :
    c.SameTasks (l.foldl f c) ∧ c.SameBooks (l.foldl f c) := by
  induction l generalizing c with
  | nil => exact ⟨.refl _, .refl _⟩
  | cons a l ih =>
    obtain ⟨htasks, hbooks⟩ := h c a
    obtain ⟨itasks, ibooks⟩ := ih (f c a)
    exact ⟨htasks.trans itasks, hbooks.trans ibooks⟩

theorem OnlyRegs.tasks {l : List Nat} {c d : Ctl} (h : OnlyRegs l c d) : c.SameTasks d := by
  obtain ⟨-, r, rfl⟩ := h
  exact ⟨rfl, rfl, rfl⟩

theorem specFifo_same (c : Ctl) (x : Nat) : c.SameTasks (c.specFifo x) ∧ c.SameBooks (c.specFifo x) := by
  unfold Ctl.specFifo
  split
  · have hregs := onlyRegs_fifoRegs (c.fifosDrop x) x
    have hdrop : c.SameTasks (c.fifosDrop x) := ⟨rfl, rfl, rfl⟩
    exact ⟨hdrop.trans hregs.tasks, (books_fab ..).trans hregs.books⟩
  · exact ⟨.refl c, .refl c⟩

theorem specInits_same (c : Ctl) : c.SameTasks c.specInits ∧ c.SameBooks c.specInits := by
  have hsem (c : Ctl) (s : Nat) : c.SameTasks (c.semInit s) := (onlyRegs_put c (F.semCountCount s) _).tasks.trans ⟨rfl, rfl, rfl⟩
  have hpool (c : Ctl) (p : Nat) : c.SameTasks (c.poolReset p) :=
    ((onlyRegs_put c (F.chnCpCountFree p) _).tasks.trans (onlyRegs_put _ (F.chnCpLodgedLodged p) 0).tasks).trans ⟨rfl, rfl, rfl⟩
  have hsems := same_foldl (f := fun c s => if c.on (F.semCountSpec s) then c.semInit s else c) (fun c s => by
    split
    · exact ⟨hsem c s, books_semInit c s⟩
    · exact ⟨.refl c, .refl c⟩) (List.range 256) c
  have hpools := same_foldl (f := fun c p => if c.on (F.chnCpGuardSpec p) && c.on (F.chnCpGuardValid p) then c.poolReset p else c) (fun c p => by
    split
    · exact ⟨hpool c p, books_poolReset c p⟩
    · exact ⟨.refl c, .refl c⟩) (List.range 256) ((List.range 256).foldl (fun c s => if c.on (F.semCountSpec s) then c.semInit s else c) c)
  exact ⟨hsems.1.trans hpools.1, hsems.2.trans hpools.2⟩

theorem specBinsDrop_same (c : Ctl) : c.SameTasks c.specBinsDrop ∧ c.SameBooks c.specBinsDrop := ⟨⟨rfl, rfl, rfl⟩, ⟨rfl, rfl⟩⟩

/-- A speculation stopped leaves none of its tasks, and neither commands nor images change. -/
theorem specStop_stops (c : Ctl) : c.specStop.NoSpec ∧ c.SameBooks c.specStop := by
  rw [specStop_eq]
  obtain ⟨lrun, lqueues, lbooks, lcores⟩ := specLeaves (List.range 136) c.specDequeue
  have hstop : ((List.range 136).foldl Ctl.specLeave c.specDequeue).NoSpec := by
    refine ⟨lrun, fun k y hy => ?_, fun q hq => lcores q (.inl (List.mem_range.mpr hq))⟩
    rw [lqueues] at hy
    exact not_of_mem_dropTasks hy
  have hbooks : c.SameBooks ((List.range 136).foldl Ctl.specLeave c.specDequeue) := Ctl.SameBooks.trans (d := c.specDequeue) ⟨rfl, rfl⟩ lbooks
  obtain ⟨ftasks, fbooks⟩ := same_foldl specFifo_same (List.range 1024) ((List.range 136).foldl Ctl.specLeave c.specDequeue)
  obtain ⟨itasks, ibooks⟩ := specInits_same ((List.range 1024).foldl Ctl.specFifo ((List.range 136).foldl Ctl.specLeave c.specDequeue))
  obtain ⟨btasks, bbooks⟩ := specBinsDrop_same
    ((List.range 1024).foldl Ctl.specFifo ((List.range 136).foldl Ctl.specLeave c.specDequeue)).specInits
  exact ⟨hstop.of_same (ftasks.trans (itasks.trans btasks)), hbooks.trans (fbooks.trans (ibooks.trans bbooks))⟩

/-- The ranges of the speculative handles marked for Clearing. -/
def W.specMark (w : W) (h : Nat) : W :=
  if w.ctl.on (F.cnpHtW0Spec h) && w.ctl.on (F.cnpHtW0Valid h) then w.actC (.mark (w.ctl.hKey h 0) (w.ctl.hSize h)) else w

/-- The stores that a stand's speculative tasks gathered, flushed. -/
def W.specFlush (w : W) (n : Nat) : W := if w.ctl.specOnStand n then w.flushWhere n (fun _ => true) else w

theorem specCancel_eq (w : W) : w.specCancel =
    (List.range 256).foldl W.specMark (((List.range 17).foldl W.specFlush w).on Ctl.specStop) := rfl

theorem same_foldlW {α : Type} {f : W → α → W} (h : ∀ (w : W) (a : α), w.ctl.SameTasks (f w a).ctl ∧ w.ctl.SameBooks (f w a).ctl) (l : List α) (w : W) :
    w.ctl.SameTasks (l.foldl f w).ctl ∧ w.ctl.SameBooks (l.foldl f w).ctl := by
  induction l generalizing w with
  | nil => exact ⟨.refl _, .refl _⟩
  | cons a l ih =>
    obtain ⟨htasks, hbooks⟩ := h w a
    obtain ⟨itasks, ibooks⟩ := ih (f w a)
    exact ⟨htasks.trans itasks, hbooks.trans ibooks⟩

theorem specMark_same (w : W) (h : Nat) : w.ctl.SameTasks (w.specMark h).ctl ∧ w.ctl.SameBooks (w.specMark h).ctl := by
  unfold W.specMark
  split
  · exact ⟨(onlyRegs_put w.ctl F.cnpClrPendingLines _).tasks, books_actC ..⟩
  · exact ⟨.refl _, .refl _⟩

theorem specCancel_cancels (w : W) : w.specCancel.ctl.NoSpec ∧ w.ctl.SameCmds w.specCancel.ctl := by
  have hflush : w.ctl.SameCmds ((List.range 17).foldl W.specFlush w).ctl := cmds_foldlW (fun w n => by
    unfold W.specFlush
    split
    · exact cmds_flushWhere ..
    · exact .refl _) (List.range 17) w
  rw [specCancel_eq]
  generalize (List.range 17).foldl W.specFlush w = v at hflush
  obtain ⟨hstop, sbooks⟩ := specStop_stops v.ctl
  obtain ⟨mtasks, mbooks⟩ := same_foldlW specMark_same (List.range 256) (v.on Ctl.specStop)
  exact ⟨hstop.of_same mtasks, hflush.trans (sbooks.trans mbooks).cmds⟩

/-- A speculation that runs cancelled, and a primary's partner told. -/
theorem specEnd_ends (w : W) : w.ctl.SameCmds w.specEnd.ctl ∧ (w.ctl.specOn = true → w.specEnd.ctl.NoSpec) := by
  cases hon : w.ctl.specOn with
  | false =>
    rw [specEnd_off hon]
    exact ⟨.refl _, fun h => absurd h (by decide)⟩
  | true =>
    obtain ⟨hstop, hcmds⟩ := specCancel_cancels w
    have hend : w.specEnd = w.specCancel.on (fun c => if c.paired && c.isPrimary then c.hngSend 0 (.state .specCancel) else c) :=
      if_neg (by rw [hon]; decide)
    rw [hend, W.on_ctl]
    generalize w.specCancel.ctl = c at hstop hcmds
    split
    · exact ⟨hcmds.trans (books_hngSend ..).cmds, fun _ => hstop.of_same (.of_fab ((frame_hngSends c 0 _).1 .fab (by simp) rfl))⟩
    · exact ⟨hcmds, fun _ => hstop⟩

end Sys2Proof.Machine
end

section
/-! Warden commands that move images and streams (10_warden_commands.md R214, R319, R322, R324, R325, R383). -/

namespace Sys2Proof.Machine

/-! Answers over the memories. -/

/-- What an answer leaves beside the mailboxes. -/
theorem reply_parts (d : Ctl) (m o st detail : Nat) (res : List Word) : (d.reply m o st detail res).img = d.img ∧
    (d.reply m o st detail res).host.epImage = d.host.epImage ∧ (d.reply m o st detail res).fab = d.fab ∧
    (d.reply m o st detail res).frameNow = d.frameNow := by
  obtain ⟨t, ht⟩ : ∃ t, d.reply m o st detail res = { d with host := { d.host with taken := t } } := by
    unfold Ctl.reply Ctl.answer
    split
    · exact ⟨_, rfl⟩
    · exact ⟨_, rfl⟩
  rw [ht]
  exact ⟨rfl, rfl, rfl, rfl⟩

section
variable {s : State} {m : Fin 16} {ws : List Word}

/-- A command over the memories that does something and answers. -/
theorem completes_replies {op : Nat} {pre : Ctl → List Word → Option (Nat × Nat)} {f : W → List Word → Nat → W} {w : W} {st detail : Nat}
    {res : List Word} {P : State → Prop} (h : Starts s.hw.ctl m op ws) (hpre : pre s.hw.ctl ws = none)
    (hf : f ⟨s.hw.ctl.begins m ws, s.hw.mem, []⟩ ws (reqObj ws) = w.reply m (reqObj ws) st detail res)
    (hmail : SameMail (s.hw.ctl.begins m ws) w.ctl)
    (hP : ∀ mem, Answered s.hw.ctl (w.ctl.reply m (reqObj ws) st detail res) m ws st detail res →
      P ⟨⟨w.ctl.reply m (reqObj ws) st detail res, mem⟩, s.pending⟩) :
    Completes (onHw s (fun w => w.command m op pre f)) P :=
  completes_command h hpre hf (hP _ (answered_reply hmail))

/-! STREAM_RELEASE (R319). -/

theorem streamRelease_releases (hx : fieldGet (reqArg ws 0) 0 5 < 24) (harm : s.hw.ctl.on (F.stcCtrlArm (fieldGet (reqArg ws 0) 0 5)) = false)
    (hset : fieldGet (reqArg ws 0) 0 5 ∈ s.hw.ctl.img.setup) (hs : Starts s.hw.ctl m 0x0102 ws) :
    Completes (exec (.streamRelease m) s) (fun u => u.hw.ctl.img.setup = s.hw.ctl.img.setup.filter (· != fieldGet (reqArg ws 0) 0 5) ∧
      Answered s.hw.ctl u.hw.ctl m ws stOk 0 [] ∧ u.pending = s.pending) := by
  generalize hxw : fieldGet (reqArg ws 0) 0 5 = x at *
  have hbooks := books_htFree ⟨s.hw.ctl.begins m ws, s.hw.mem, []⟩ (s.hw.ctl.get (F.stcRingHandle x))
  generalize hv : (⟨s.hw.ctl.begins m ws, s.hw.mem, []⟩ : W).htFree (s.hw.ctl.get (F.stcRingHandle x)) = v at hbooks
  have hfree : (⟨s.hw.ctl.begins m ws, s.hw.mem, []⟩ : W).streamFree x =
      v.on (fun c => { c with img := { c.img with setup := c.img.setup.filter (· != x) } }) := by
    rw [← hv]
    refine if_neg ?_
    show ¬(!s.hw.ctl.img.setup.contains x) = true
    simpa using hset
  have hgo : ¬(s.hw.ctl.on (F.stcCtrlArm x) = true ∨ (!s.hw.ctl.img.setup.contains x) = true) := by
    simpa [harm] using hset
  refine completes_replies (w := v.on (fun c => { c with img := { c.img with setup := c.img.setup.filter (· != x) } })) (st := stOk) (detail := 0)
    (res := []) hs (if_pos (hxw ▸ hx)) ?_ (congrArg HostSt.taken hbooks.host) fun mem hans => ⟨?_, hans, rfl⟩
  · dsimp only
    rw [hxw]
    refine (if_neg hgo).trans ?_
    rw [hfree]
  · rw [(reply_parts ..).1, W.on_ctl]
    exact congrArg (fun i : ImgSt => i.setup.filter (· != x)) hbooks.img

/-! SCENE_DECIDE that cancels (R214, R322). -/

/-- A command that something else holds back, where it does not. -/
theorem onHw_unless {p : W → Prop} {_ : DecidablePred p} {f : W → W} (hp : ¬p ⟨s.hw.ctl, s.hw.mem, []⟩) :
    onHw s (fun w => if p w then w else f w) = onHw s f := onHw_eq s _ _ (if_neg hp)

theorem sceneDecideCancel_cancels (hact : fieldGet (reqArg ws 0) 8 2 = 2)
    (hrun : s.hw.ctl.fab.specRun.map (·.1) = some (fieldGet (reqArg ws 0) 0 5)) (hs : Starts s.hw.ctl m 0x0106 ws) :
    Completes (exec (.sceneDecideCancel m) s) (fun u => u.pending = s.pending ∧ u.hw.ctl.NoSpec ∧
      Answered s.hw.ctl u.hw.ctl m ws stOk 0 [u.hw.ctl.frameNow]) := by
  have hon : (s.hw.ctl.begins m ws).specOn = true := by
    show s.hw.ctl.fab.specRun.isSome = true
    cases hr : s.hw.ctl.fab.specRun with
    | none => simp [hr] at hrun
    | some r => rfl
  obtain ⟨hcmds, hends⟩ := specEnd_ends ⟨s.hw.ctl.begins m ws, s.hw.mem, []⟩
  have hstop := hends hon
  generalize hw : (⟨s.hw.ctl.begins m ws, s.hw.mem, []⟩ : W).specEnd = w at hcmds hstop
  change Completes (execSceneDecideCancel m s) _
  unfold execSceneDecideCancel
  rw [onHw_unless (p := fun w => w.ctl.decideAct m.val ≠ 2) (not_not_intro ((decideAct_of_taken hs.taken).trans hact))]
  refine completes_replies (w := w) (st := stOk) (detail := 0) (res := [w.ctl.frameNow]) hs rfl ((if_neg (not_not_intro hrun)).trans (by rw [hw])) hcmds.mail
    fun mem hans => ⟨rfl, ?_, ?_⟩
  · exact hstop.of_same (.of_fab (reply_parts ..).2.2.1)
  · rw [(reply_parts ..).2.2.2]
    exact hans

/-! Images (R324, R325, R383). -/

/-- The image's EPOCH raised. -/
def Ctl.imageMoves (c : Ctl) : Ctl := { c with host := { c.host with epImage := c.host.epImage + 1 } }

theorem img_imageMoves (c : Ctl) : c.imageMoves.img = c.img := rfl

theorem epImage_imageMoves (c : Ctl) : c.imageMoves.host.epImage = c.host.epImage + 1 := rfl

theorem mail_imageMoves (c : Ctl) : SameMail c c.imageMoves := rfl

theorem imageLoad_eq (w : W) (im : Image) : w.imageLoad im = (if w.ctl.img.cur.isSome then w.loadShadow im else w.loadDirect im).on Ctl.imageMoves := rfl

section
variable {img : Image} {ok : Bool} (ha : hostAddr ws 0 % 64 = 0) (hok : ok = true) (hl : s.hw.ctl.host.linkUp = true)
  (hmode : s.hw.ctl.mode = 2 → img.id.getLsbD 0 = s.hw.ctl.on F.hngPairStatusPairId)
  (hcheck : s.hw.ctl.imgCheck img (reqArg ws 2).toNat = none) (hs : Starts s.hw.ctl m 0x0201 ws)
include ha hok hl hmode hcheck hs

/-- What IMAGE_LOAD does with an image that passes every check (R324, R383). -/
theorem imageLoad_passes {w : W} {P : State → Prop}
    (hw : w = (if s.hw.ctl.img.cur.isSome then W.specEnd ⟨s.hw.ctl.begins m ws, s.hw.mem, []⟩ else ⟨s.hw.ctl.begins m ws, s.hw.mem, []⟩).imageLoad img)
    (hmail : SameMail (s.hw.ctl.begins m ws) w.ctl)
    (hP : ∀ d mem, Answered s.hw.ctl d m ws stOk 0 [img.id, w32 (bit s.hw.ctl.img.cur.isSome)] → d.img = w.ctl.img →
      d.host.epImage = w.ctl.host.epImage → P ⟨⟨d, mem⟩, s.pending⟩) : Completes (exec (.imageLoad m img ok) s) P := by
  have hxfer : ¬(!(s.hw.ctl.begins m ws).xferOk ok) = true := by
    show ¬(!(ok && s.hw.ctl.host.linkUp)) = true
    rw [hok, hl]
    decide
  have hsent : w.ctl.SameBooks (if w.ctl.mode = 1 ∧ w.ctl.isPrimary = true then w.ctl.fwdSend img true else w.ctl) := (books_fwdSend ..).ite
  refine completes_replies (w := w.on (fun c => if c.mode = 1 ∧ c.isPrimary then c.fwdSend img true else c)) (st := stOk) (detail := 0)
    (res := [img.id, w32 (bit s.hw.ctl.img.cur.isSome)]) hs rfl ?_ (hmail.trans hsent.cmds.mail) fun mem hans => hP _ mem hans ?_ ?_
  · dsimp only
    rw [if_neg (not_not_intro ha), if_neg hxfer, if_neg fun hno => hno.2 (hmode hno.1), imgCheck_begins, hcheck]
    rw [hw]
    rfl
  · exact (reply_parts ..).1.trans hsent.img
  · exact (reply_parts ..).2.1.trans (congrArg HostSt.epImage hsent.host)

/-- The first image becomes the one in force. -/
theorem imageLoad_first (hcur : s.hw.ctl.img.cur = none) : Completes (exec (.imageLoad m img ok) s) (fun u => u.pending = s.pending ∧
    u.hw.ctl.img.cur = some img ∧ u.hw.ctl.host.epImage = s.hw.ctl.host.epImage + 1 ∧ Answered s.hw.ctl u.hw.ctl m ws stOk 0 [img.id, 0]) := by
  obtain ⟨lhost, limg⟩ := loadDirect_books ⟨s.hw.ctl.begins m ws, s.hw.mem, []⟩ img
  generalize hv : (⟨s.hw.ctl.begins m ws, s.hw.mem, []⟩ : W).loadDirect img = v at lhost limg
  refine imageLoad_passes (w := v.on Ctl.imageMoves) ha hok hl hmode hcheck hs ?_ ?_
    fun d mem hans hdimg hdep => ⟨rfl, ?_, ?_, ?_⟩
  · have hno : ¬s.hw.ctl.img.cur.isSome = true := by simp [hcur]
    rw [if_neg hno, imageLoad_eq, ← hv]
    exact congrArg (fun w => W.on w Ctl.imageMoves) (if_neg hno).symm
  · exact SameMail.trans (d := v.ctl) (congrArg HostSt.taken lhost) (mail_imageMoves v.ctl)
  · rw [hdimg, W.on_ctl, img_imageMoves, limg]
  · rw [hdep, W.on_ctl, epImage_imageMoves, lhost]
    rfl
  · rw [hcur] at hans
    exact hans

/-- A further image becomes the shadow image. -/
theorem imageLoad_shadow (hcur : s.hw.ctl.img.cur.isSome = true) (hp : s.hw.ctl.img.promote = none) :
    Completes (exec (.imageLoad m img ok) s) (fun u => u.pending = s.pending ∧ u.hw.ctl.img.shadow = some img ∧
      u.hw.ctl.img.cur = s.hw.ctl.img.cur ∧ u.hw.ctl.img.prefetched = false ∧ Answered s.hw.ctl u.hw.ctl m ws stOk 0 [img.id, 1]) := by
  obtain ⟨hcmds, -⟩ := specEnd_ends ⟨s.hw.ctl.begins m ws, s.hw.mem, []⟩
  generalize he : (⟨s.hw.ctl.begins m ws, s.hw.mem, []⟩ : W).specEnd = e at hcmds
  have himg : e.ctl.img = s.hw.ctl.img := hcmds.img
  obtain ⟨lhost, limg⟩ := loadShadow_books e img (by rw [himg, hp])
  generalize hv : e.loadShadow img = v at lhost limg
  refine imageLoad_passes (w := v.on Ctl.imageMoves) ha hok hl hmode hcheck hs ?_ ?_
    fun d mem hans hdimg _ => ⟨rfl, ?_, ?_, ?_, ?_⟩
  · rw [if_pos hcur, he, imageLoad_eq, himg, if_pos hcur, hv]
  · exact hcmds.mail.trans (SameMail.trans (d := v.ctl) (congrArg HostSt.taken lhost) (mail_imageMoves v.ctl))
  · rw [hdimg, W.on_ctl, img_imageMoves, limg]
  · rw [hdimg, W.on_ctl, img_imageMoves, limg, himg]
  · rw [hdimg, W.on_ctl, img_imageMoves, limg]
  · rw [hcur] at hans
    exact hans

end

/-- IMAGE_DROP of the image in force, no input armed (R325). -/
theorem imageDrop_current (hbit : (reqArg ws 0).getLsbD 0 = true) {im : Image} (hcur : s.hw.ctl.img.cur = some im)
    (harmed : ∀ y < 24, s.hw.ctl.armedAs y 0 = false) (hs : Starts s.hw.ctl m 0x0203 ws) :
    Completes (exec (.imageDrop m) s) (fun u => u.pending = s.pending ∧ u.hw.ctl.img.cur = none ∧ u.hw.ctl.img.shadow = s.hw.ctl.img.shadow ∧
      u.hw.ctl.host.epImage = s.hw.ctl.host.epImage + 1 ∧ Answered s.hw.ctl u.hw.ctl m ws stOk 0 []) := by
  have hnone : ¬(List.range 24).any (fun x => s.hw.ctl.armedAs x 0) = true := by
    simp only [List.any_eq_true, List.mem_range, not_exists, not_and]
    exact fun y hy => by simp [harmed y hy]
  have hbooks := books_declFree ⟨s.hw.ctl.begins m ws, s.hw.mem, []⟩ im
  generalize hv : (⟨s.hw.ctl.begins m ws, s.hw.mem, []⟩ : W).declFree im = v at hbooks
  have himg : v.ctl.img = s.hw.ctl.img := hbooks.img
  have hhost : v.ctl.host = (s.hw.ctl.begins m ws).host := hbooks.host
  have hmail : SameMail (s.hw.ctl.begins m ws) (Ctl.imageMoves { v.ctl with img := { v.ctl.img with cur := none } }) :=
    SameMail.trans (d := { v.ctl with img := { v.ctl.img with cur := none } }) (congrArg HostSt.taken hhost) (mail_imageMoves _)
  refine completes_replies (w := (v.on (fun c => { c with img := { c.img with cur := none } })).on Ctl.imageMoves) (st := stOk) (detail := 0)
    (res := []) hs rfl ?_ hmail fun mem hans => ⟨rfl, ?_, ?_, ?_, hans⟩
  · dsimp only
    rw [if_pos hbit, show (s.hw.ctl.begins m ws).img.cur = some im from hcur]
    dsimp only
    rw [← hv]
    exact if_neg hnone
  · rw [(reply_parts ..).1, W.on_ctl, img_imageMoves]
    rfl
  · rw [(reply_parts ..).1, W.on_ctl, img_imageMoves, ← himg]
    rfl
  · rw [(reply_parts ..).2.1, W.on_ctl, epImage_imageMoves]
    show v.ctl.host.epImage + 1 = _
    rw [hhost]
    rfl

theorem books_vcMod (c : Ctl) (x : Nat) (f : VCtx → VCtx) : c.SameBooks (c.vcMod x f) := ⟨rfl, rfl⟩

/-- IMAGE_DROP of the shadow image, no promotion waiting (R325). -/
theorem imageDrop_shadow (hbit : (reqArg ws 0).getLsbD 0 = false) (hp : s.hw.ctl.img.promote = none)
    (hsh : s.hw.ctl.img.shadow.isSome = true) (hs : Starts s.hw.ctl m 0x0203 ws) :
    Completes (exec (.imageDrop m) s) (fun u => u.pending = s.pending ∧ u.hw.ctl.img.shadow = none ∧ u.hw.ctl.img.cur = s.hw.ctl.img.cur ∧
      Answered s.hw.ctl u.hw.ctl m ws stOk 0 []) := by
  obtain ⟨hcmds, -⟩ := specEnd_ends ⟨s.hw.ctl.begins m ws, s.hw.mem, []⟩
  generalize he : (⟨s.hw.ctl.begins m ws, s.hw.mem, []⟩ : W).specEnd = e at hcmds
  have hplans : e.ctl.SameBooks ((List.range 24).foldl (fun c x => c.vcMod x (fun v => { v with scenePlan := none })) e.ctl) :=
    books_foldl (f := fun c x => c.vcMod x (fun v => { v with scenePlan := none })) (fun c x => books_vcMod c x _) (List.range 24) e.ctl
  generalize hd : (List.range 24).foldl (fun c x => c.vcMod x (fun v => { v with scenePlan := none })) e.ctl = d at hplans
  have himg : d.img = s.hw.ctl.img := hplans.img.trans hcmds.img
  obtain ⟨dhost, dimg⟩ := dropShadow_books ⟨d, e.mem, e.acts⟩ (by rw [himg, hp])
  generalize hv : W.dropShadow ⟨d, e.mem, e.acts⟩ = v at dhost dimg
  have hmail : SameMail (s.hw.ctl.begins m ws) v.ctl.imageMoves :=
    (hcmds.mail.trans hplans.cmds.mail).trans (SameMail.trans (d := v.ctl) (congrArg HostSt.taken dhost) (mail_imageMoves v.ctl))
  refine completes_replies (w := v.on Ctl.imageMoves) (st := stOk) (detail := 0) (res := []) hs rfl ?_ hmail fun mem hans => ⟨rfl, ?_, ?_, hans⟩
  · dsimp only
    rw [if_neg (by rw [hbit]; decide), if_neg, he]
    · rw [← hv, ← hd]
      rfl
    · rw [Option.isNone_iff_eq_none, ← Ne, ← Option.isSome_iff_ne_none]
      exact hsh
  · rw [(reply_parts ..).1, W.on_ctl, img_imageMoves, dimg]
  · rw [(reply_parts ..).1, W.on_ctl, img_imageMoves, dimg, himg]

end

end Sys2Proof.Machine
end

section
/-! The next image's constants loaded, and the promotion that waits (07_schedules_and_tiling.md R196, R211). -/

namespace Sys2Proof.Machine

/-! SHADOW_PREFETCH (R196, R211). -/

section
variable {s : State}

theorem frame_putKey (w : W) (k : Nat) (bs : List Byte) : Frame false [.cnp] (R.cnpClrPending :: R.dbgSat :: lcRegs) w.ctl (w.putKey k bs).ctl := by
  have hclr : Frame false [] [R.cnpClrPending] w.ctl (w.actC (.put k bs)).ctl := frame_put false w.ctl F.cnpClrPendingLines _
  exact (hclr.mono (by simp) (by simp)).trans ((frame_lcUnit _ k bs.length true).mono (fun _ hp => hp) (by simp [cacheRegs]))

theorem frame_constLoad (w : W) (im : Image) (p : Nat → Bool) :
    Frame false [.cnp] (R.cnpClrPending :: R.dbgSat :: lcRegs) w.ctl (w.constLoad im p).ctl := by
  have hfold (l : List ConstRec) (w : W) : Frame false [.cnp] (R.cnpClrPending :: R.dbgSat :: lcRegs) w.ctl
      (l.foldl (fun w r => if p r.handle then w.putKey (w.ctl.hKey r.handle r.off) r.bytes else w) w).ctl := by
    induction l generalizing w with
    | nil => exact Frame.refl ..
    | cons r l ih =>
      refine Frame.trans ?_ (ih _)
      dsimp only
      split
      · exact frame_putKey ..
      · exact Frame.refl ..
  exact hfold im.consts w

theorem frame_prefetched (c : Ctl) : Frame false [.img] [] c { c with img := { c.img with prefetched := true } } := by
  refine ⟨fun p hp _ => ?_, fun _ _ _ => rfl⟩
  cases p with
  | img => exact absurd (List.mem_singleton.mpr rfl) hp
  | link => exact ⟨rfl, rfl⟩
  | rings => exact ⟨rfl, rfl⟩
  | _ => rfl

theorem residentPrefetch_none (w : W) {im : Image} (h : im.resident = []) : w.residentPrefetch im = w := by
  unfold W.residentPrefetch
  rw [h]
  rfl

theorem constLoad_none (w : W) {im : Image} (h : im.consts = []) (p : Nat → Bool) : w.constLoad im p = w := by
  unfold W.constLoad
  rw [h]
  rfl

theorem constLoad_one (w : W) {im : Image} {y : ConstRec} (h : im.consts = [y]) {p : Nat → Bool} (hp : p y.handle = true) :
    w.constLoad im p = w.putKey (w.ctl.hKey y.handle y.off) y.bytes := by
  unfold W.constLoad
  rw [h]
  exact if_pos hp

/-- SHADOW_PREFETCH of a shadow image that is not loaded yet (R196, R211). -/
theorem shadowPrefetch_loads {im : Image} (hr : s.hw.ctl.running = true) (hno : s.hw.ctl.img.prefetched = false)
    (hsh : s.hw.ctl.img.shadow = some im) : Completes (exec .shadowPrefetch s) (fun u => u.pending = s.pending ∧
      u.hw.ctl.img = { s.hw.ctl.img with prefetched := true } ∧ (im.consts = [] → im.resident = [] → u.hw.mem = s.hw.mem) ∧
      (∀ y, im.consts = [y] → im.resident = [] → s.hw.ctl.curHas y.handle = false → ∀ i < y.bytes.length,
        u.hw.mem.rd (s.hw.ctl.hKey y.handle y.off + i) = nth 0 y.bytes i) ∧
      Frame false [.img, .cnp] (R.cnpClrPending :: R.dbgSat :: lcRegs) s.hw.ctl u.hw.ctl) := by
  have hconst := books_constLoad ⟨s.hw.ctl, s.hw.mem, []⟩ im (fun e => !s.hw.ctl.curHas e)
  have hframe := frame_constLoad ⟨s.hw.ctl, s.hw.mem, []⟩ im (fun e => !s.hw.ctl.curHas e)
  have hres := ctl_residentPrefetch ((⟨s.hw.ctl, s.hw.mem, []⟩ : W).constLoad im (fun e => !s.hw.ctl.curHas e)) im
  rw [← hres] at hconst hframe
  change Completes (execShadowPrefetch s) _
  unfold execShadowPrefetch
  refine ⟨_, onHw_eq s _ ((((⟨s.hw.ctl, s.hw.mem, []⟩ : W).constLoad im (fun e => !s.hw.ctl.curHas e)).residentPrefetch im).on
    (fun c => { c with img := { c.img with prefetched := true } })) ?_, rfl, ?_, fun hc hre => ?_, fun y hc hre hcur i hi => ?_, ?_⟩
  · dsimp only
    rw [hr, hno, hsh]
    rfl
  · rw [← hconst.img]
    rfl
  · rw [residentPrefetch_none _ hre, constLoad_none _ hc]
    rfl
  · rw [residentPrefetch_none _ hre, constLoad_one _ hc (by rw [hcur]; rfl)]
    have hput : (MAct.apply s.hw.mem (.put (s.hw.ctl.hKey y.handle y.off) y.bytes)).rd (s.hw.ctl.hKey y.handle y.off + i) = nth 0 y.bytes i := by
      rw [MAct.rd_put, if_pos ⟨by omega, by omega⟩, Nat.add_sub_cancel_left]
      rfl
    exact hput
  · exact (hframe.mono (by simp) (fun _ ha => ha)).trans ((frame_prefetched _).mono (by simp) (by simp))

end

/-! The end of a promotion (R211). -/

section
variable {c c0 : Ctl} {m : Nat} {ws : List Word} {st detail : Nat} {res : List Word}

theorem reqObj_promote (h : reqOp ws = 0x0202) : reqObj ws = 0x0700 := by
  unfold reqObj
  simp only [h]

/-- No promotion waits any more. -/
def Ctl.unpromoted (c : Ctl) : Ctl := { c with img := { c.img with promote := none } }

theorem promoteEnd_eq (hp : c.img.promote = some (some m, none)) (hop : reqOp ws = 0x0202) :
    c.promoteEnd st detail res = c.unpromoted.reply m (reqObj ws) st detail res := by
  rw [reqObj_promote hop]
  unfold Ctl.promoteEnd
  dsimp only
  rw [hp]
  rfl

/-- The command of IMAGE_PROMOTE that waits is answered. -/
theorem promoteEnd_answers (hp : c.img.promote = some (some m, none)) (hop : reqOp ws = 0x0202) (hmail : SameMail c0 c)
    (ht : c0.taken m = some ⟨ws, none, true⟩) : Answered c0 (c.promoteEnd st detail res) m ws st detail res := by
  rw [promoteEnd_eq hp hop]
  have hmail' : c.unpromoted.host.taken = c0.host.taken := hmail
  exact answered_answer ((Ctl.taken_of_host hmail' m).trans ht) fun x _ => Ctl.taken_of_host hmail' x

theorem frame_unpromoted (c : Ctl) : Frame false [.img] [] c c.unpromoted := by
  refine ⟨fun p hp _ => ?_, fun _ _ _ => rfl⟩
  cases p with
  | img => exact absurd (List.mem_singleton.mpr rfl) hp
  | link => exact ⟨rfl, rfl⟩
  | rings => exact ⟨rfl, rfl⟩
  | _ => rfl

theorem frameNow_unpromoted (c : Ctl) : c.unpromoted.frameNow = c.frameNow := rfl

end

/-! The promotion itself (R211). -/

section
variable (w : W)

theorem routesWrite_none (c : Ctl) {im : Image} (h : im.routes = []) (live : Bool) : (c.routesWrite im live).2 = true := by
  unfold Ctl.routesWrite
  dsimp only
  rw [h]
  rfl

/-- The first steps of a promotion: a confirmed speculation's end, and the shadow handles made those in force (R211, R214). -/
def W.shadowTaken (w : W) (im : Image) (confirm : Bool) : W := (w.on (fun c => if confirm then c.specConfirm else c)).shadowCommit im confirm

theorem books_shadowTaken (im : Image) (confirm : Bool) : w.ctl.SameBooks (w.shadowTaken im confirm).ctl := by
  have hconf : w.ctl.SameBooks (w.on (fun c => if confirm then c.specConfirm else c)).ctl := Ctl.SameBooks.ite ⟨rfl, rfl⟩
  exact hconf.trans (books_shadowCommit ..)

theorem books_promoteLoad (im : Image) (p q : Nat → Bool) : w.ctl.SameBooks (((w.declCommit im 0xF0 p).constLoad im p).declOwners im q).ctl :=
  (books_declCommit ..).trans ((books_constLoad ..).trans (books_declOwners ..))

/-- The image's state as a promotion leaves it. -/
def ImgSt.promoted (i : ImgSt) (im : Image) : ImgSt := { i with shadow := none, prefetched := false, half := !i.half, cur := some im }

/-- The end of a promotion: the image loaded into the cores, its routes and pools written. -/
theorem promote_ends {v : W} {im : Image} (hv : w.ctl.SameBooks v.ctl) (hroutes : im.routes = []) :
    let u := (v.on (fun c => { c with img := { c.img with shadow := none, prefetched := false, half := !c.img.half } })).regionsLoad im
    (u.ctl.routesWrite im true).2 = true ∧
    ((u.ctl.routesWrite im true).1.poolsWrite im).imageMoves.host = { w.ctl.host with epImage := w.ctl.host.epImage + 1 } ∧
    ((u.ctl.routesWrite im true).1.poolsWrite im).imageMoves.img = w.ctl.img.promoted im := by
  intro u
  have hu : u.ctl = Ctl.nowRuns { v.ctl with img := { v.ctl.img with shadow := none, prefetched := false, half := !v.ctl.img.half } } im := ctl_regionsLoad ..
  have hbooks := (books_routesWrite u.ctl im true).trans (books_poolsWrite _ im)
  generalize (u.ctl.routesWrite im true).1.poolsWrite im = d at hbooks
  have hhost : d.host = w.ctl.host := hbooks.host.trans ((congrArg Ctl.host hu).trans hv.host)
  have himg : d.img = w.ctl.img.promoted im := hbooks.img.trans ((congrArg Ctl.img hu).trans (by rw [← hv.img]; rfl))
  refine ⟨routesWrite_none _ hroutes true, ?_, himg⟩
  rw [← hhost]
  rfl

/-- The promotion of a shadow image without routes is done: it is the one in force, and of the host's side the image's EPOCH alone moves. -/
theorem promote_some {im : Image} (hsh : w.ctl.img.shadow = some im) (hroutes : im.routes = []) (confirm : Bool) :
    ∃ v, w.promote confirm = some v ∧ v.ctl.host = { w.ctl.host with epImage := w.ctl.host.epImage + 1 } ∧ v.ctl.img = w.ctl.img.promoted im := by
  have hbegin := books_shadowTaken w im confirm
  have hfold : (w.on (fun c => if confirm then c.specConfirm else c)).shadowCommit im confirm = w.shadowTaken im confirm := rfl
  unfold W.promote
  rw [hsh]
  dsimp only
  rw [hfold]
  obtain ⟨v0, hv0⟩ : ∃ v0, v0 = w.shadowTaken im confirm := ⟨_, rfl⟩
  rw [← hv0] at hbegin ⊢
  cases hcur : w.ctl.img.cur with
  | none =>
    obtain ⟨hok, hhost, himg⟩ := promote_ends w (hbegin.trans (books_promoteLoad v0 im _ _)) hroutes
    exact ⟨_, if_pos hok, hhost, himg⟩
  | some o =>
    obtain ⟨hok, hhost, himg⟩ := promote_ends w ((hbegin.trans (books_declFree v0 o)).trans (books_promoteLoad _ im _ _)) hroutes
    exact ⟨_, if_pos hok, hhost, himg⟩

end

/-! MODEL_PROMOTION (R211, R322, R383, R392). -/

section
variable {s : State} {m : Nat} {ws : List Word}

/-- The moment of the promotion that the IMAGE_PROMOTE of a mailbox waits for. -/
def Ctl.PromotionDue (c : Ctl) (m : Nat) (ws : List Word) : Prop :=
  c.img.promote = some (some m, none) ∧ c.running = true ∧ c.fwRun = true ∧ c.streamsQuiet = true ∧ c.img.prefetched = true ∧
    c.boundaryNow = true ∧ c.taken m = some ⟨ws, none, true⟩ ∧ reqOp ws = 0x0202

/-- Outside its moment MODEL_PROMOTION does nothing. -/
theorem modelPromotion_early (h : s.hw.ctl.boundaryNow = false ∨ s.hw.ctl.streamsQuiet = false ∨ s.hw.ctl.img.prefetched = false) :
    exec .modelPromotion s = .next s := by
  change onHw s W.modelPromotion = _
  refine onHw_eq s W.modelPromotion ⟨s.hw.ctl, s.hw.mem, []⟩ ?_
  have hnot : (s.hw.ctl.running && s.hw.ctl.fwRun && s.hw.ctl.streamsQuiet && s.hw.ctl.img.prefetched && s.hw.ctl.boundaryNow) = false := by
    rcases h with h | h | h
    · simp [h]
    · simp [h]
    · simp [h]
  unfold W.modelPromotion
  dsimp only
  rw [hnot]
  rfl

/-- The moment has come. -/
theorem modelPromotion_due (hdue : s.hw.ctl.PromotionDue m ws) : W.modelPromotion ⟨s.hw.ctl, s.hw.mem, []⟩ =
    if !(s.hw.ctl.paired && s.hw.ctl.isPrimary) then W.promotionDue ⟨s.hw.ctl, s.hw.mem, []⟩
    else if !s.hw.ctl.anyOut then (W.on ⟨s.hw.ctl, s.hw.mem, []⟩ (fun c => c.promotionSend c.frameNow)).promotionDue
    else if s.hw.ctl.hng.promAt.isSome then ⟨s.hw.ctl, s.hw.mem, []⟩
    else W.on ⟨s.hw.ctl, s.hw.mem, []⟩ (fun c => (c.promotionSend (c.frameNow + 1)).hngMod (fun h => { h with promAt := some (c.frameNow + 1) })) := by
  obtain ⟨hp, hr, hfw, hq, hpre, hb, -, -⟩ := hdue
  unfold W.modelPromotion
  dsimp only
  rw [hp, hr, hfw, hq, hpre, hb]
  rfl

theorem modelPromotion_own (hdue : s.hw.ctl.PromotionDue m ws) (hown : ¬(s.hw.ctl.paired = true ∧ s.hw.ctl.isPrimary = true)) :
    W.modelPromotion ⟨s.hw.ctl, s.hw.mem, []⟩ = W.promotionDue ⟨s.hw.ctl, s.hw.mem, []⟩ :=
  (modelPromotion_due hdue).trans (if_pos (by rwa [Bool.not_eq_true', ← Bool.not_eq_true, Bool.and_eq_true]))

/-- A promotion with no shadow image ends with BAD_ARG. -/
theorem modelPromotion_none (hdue : s.hw.ctl.PromotionDue m ws) (hown : ¬(s.hw.ctl.paired = true ∧ s.hw.ctl.isPrimary = true))
    (hsh : s.hw.ctl.img.shadow = none) : CompletesCtl s (exec .modelPromotion s) (fun d => d.img = { s.hw.ctl.img with promote := none } ∧
      Answered s.hw.ctl d m ws stBadArg 0x107 [] ∧ Frame false [.img, .mail] [] s.hw.ctl d) := by
  have hgo := modelPromotion_own hdue hown
  obtain ⟨hp, -, -, -, -, -, ht, hop⟩ := hdue
  have hend : W.promotionDue ⟨s.hw.ctl, s.hw.mem, []⟩ = ⟨s.hw.ctl.promoteEnd stBadArg 0x107 [], s.hw.mem, []⟩ := by
    unfold W.promotionDue
    dsimp only
    rw [hp, hsh]
    rfl
  refine completesCtl_onHw (f := W.modelPromotion) (hgo.trans hend) ⟨?_, promoteEnd_answers hp hop (SameMail.refl _) ht, ?_⟩
  · rw [promoteEnd_eq hp hop, (reply_parts ..).1]
    rfl
  · rw [promoteEnd_eq hp hop]
    exact ((frame_unpromoted _).mono (by simp) (by simp)).trans ((frame_answer false _ m _ _ _ _).mono (by simp) (by simp))

theorem frame_promAt (c : Ctl) (f : Option Word) : Frame false [.hng, .out] [] c (c.hngMod (fun h => { h with promAt := f })) := frame_parts

/-- A primary with an output names the next boundary for both parts. -/
theorem modelPromotion_paired (hdue : s.hw.ctl.PromotionDue m ws) (hlead : s.hw.ctl.paired = true ∧ s.hw.ctl.isPrimary = true)
    (hout : s.hw.ctl.anyOut = true) (hnone : s.hw.ctl.hng.promAt = none) : CompletesCtl s (exec .modelPromotion s) (fun d =>
      d.hng.promAt = some (s.hw.ctl.frameNow + 1) ∧ Frame false [.hng, .out] [] s.hw.ctl d) := by
  have hgo : W.modelPromotion ⟨s.hw.ctl, s.hw.mem, []⟩ = W.on ⟨s.hw.ctl, s.hw.mem, []⟩ (fun c => (c.promotionSend (c.frameNow + 1)).hngMod
      (fun h => { h with promAt := some (c.frameNow + 1) })) := by
    rw [modelPromotion_due hdue, hlead.1, hlead.2, hout, hnone]
    rfl
  have hsend : s.hw.ctl.promotionSend (s.hw.ctl.frameNow + 1) = s.hw.ctl.hngSend 0 (.state (.specConfirm (s.hw.ctl.frameNow + 1))) := by
    have himg := (frame_hngSends s.hw.ctl 0 (.state (.specConfirm (s.hw.ctl.frameNow + 1)))).1 .img (by simp) (by simp [Part.byPosting])
    unfold Ctl.promotionSend
    dsimp only
    rw [himg, hdue.1]
  refine completesCtl_onHw (f := W.modelPromotion) hgo ⟨rfl, ?_⟩
  dsimp only
  rw [hsend]
  exact (frame_hngSends ..).trans (frame_promAt ..)

/-- The shadow image is promoted and the waiting IMAGE_PROMOTE answered with the frame. -/
theorem modelPromotion_promotes {im : Image} (hdue : s.hw.ctl.PromotionDue m ws)
    (hown : ¬(s.hw.ctl.paired = true ∧ s.hw.ctl.isPrimary = true)) (hsh : s.hw.ctl.img.shadow = some im)
    (hpools : im.pools.all (poolOk im) = true) (hrings : im.rings.all (ringOk im) = true) (hroutes : im.routes = []) :
    Completes (exec .modelPromotion s) (fun u => u.pending = s.pending ∧ u.hw.ctl.img.cur = some im ∧ u.hw.ctl.img.shadow = none ∧
      u.hw.ctl.img.promote = none ∧ u.hw.ctl.host.epImage = s.hw.ctl.host.epImage + 1 ∧
      Answered s.hw.ctl u.hw.ctl m ws stOk 0 [u.hw.ctl.frameNow]) := by
  have hgo := modelPromotion_own hdue hown
  obtain ⟨hp, -, -, -, -, -, ht, hop⟩ := hdue
  obtain ⟨v, hv, hhost, himg⟩ := promote_some ⟨s.hw.ctl, s.hw.mem, []⟩ hsh hroutes false
  have hend : W.promotionDue ⟨s.hw.ctl, s.hw.mem, []⟩ = v.on (fun c => c.promoteEnd stOk 0 [c.frameNow]) := by
    unfold W.promotionDue
    dsimp only
    rw [hp, hsh]
    dsimp only
    rw [Option.map_some, hpools, hrings, Option.isSome_none, Bool.false_and, hv]
    rfl
  have hvp : v.ctl.img.promote = some (some m, none) := (congrArg ImgSt.promote himg).trans hp
  have hmail : SameMail s.hw.ctl v.ctl := by rw [SameMail, hhost]
  have hans := promoteEnd_answers (st := stOk) (detail := 0) (res := [v.ctl.frameNow]) hvp hop hmail ht
  obtain ⟨hri, hre, -, hrf⟩ := reply_parts v.ctl.unpromoted m (reqObj ws) stOk 0 [v.ctl.frameNow]
  rw [promoteEnd_eq hvp hop] at hans
  have hu : v.on (fun c => c.promoteEnd stOk 0 [c.frameNow]) = v.on (fun c => c.unpromoted.reply m (reqObj ws) stOk 0 [c.frameNow]) :=
    congrArg (fun d => (⟨d, v.mem, v.acts⟩ : W)) (promoteEnd_eq hvp hop)
  refine ⟨_, onHw_eq s W.modelPromotion _ ((hgo.trans hend).trans hu), rfl, ?_, ?_, ?_, ?_, ?_⟩
  · rw [W.on_ctl, hri]
    exact congrArg ImgSt.cur himg
  · rw [W.on_ctl, hri]
    exact congrArg ImgSt.shadow himg
  · rw [W.on_ctl, hri]
    rfl
  · rw [W.on_ctl, hre]
    exact congrArg HostSt.epImage hhost
  · rw [W.on_ctl, hrf, frameNow_unpromoted]
    exact hans

end

end Sys2Proof.Machine
end

section
/-! Warden commands of the stream, image, scene, handle and job groups (O54). -/

namespace Sys2Proof.Machine

section
variable {s : State} {m : Fin 16} {ws : List Word} {h : Fin 256} {base : Nat}

/-- STREAM_SETUP of a context that can be set up: what it leaves (R319). -/
theorem streamSetup_sets {x depth slot e b f : Nat} (hxw : fieldGet (reqArg ws 0) 0 5 = x) (hdw : fieldGet (reqArg ws 0) 8 6 = depth)
    (hslot : (if s.hw.ctl.kind x = 1 then s.hw.ctl.outSlot x else s.hw.ctl.lineSlot x) = slot) (hx : x < 24)
    (harm : s.hw.ctl.on (F.stcCtrlArm x) = false) (hk : s.hw.ctl.kind x ≤ 1)
    (hd : if s.hw.ctl.kind x = 1 then 10 ≤ depth ∧ depth ≤ 32 else 8 ≤ depth) (hset : x ∉ s.hw.ctl.img.setup)
    (hw : mget 0 s.hw.ctl.ports.stcWritten x % 8 = 7) (h1 : 1 ≤ depth * slot / 256) (h2 : depth * slot / 256 ≤ 32768)
    (hpick : s.hw.ctl.entryPick h = some e) (hplace : s.hw.ctl.placePick base (depth * slot / 256) = some b)
    (hpair : s.hw.ctl.freePair x = some f) (hlast : s.hw.ctl.get (F.cnpHtW0Owner e) ≠ 0x80) (hs : Starts s.hw.ctl m 0x0101 ws) :
    Completes (exec (.streamSetup m h base) s) (fun u => u.pending = s.pending ∧ u.hw.ctl.get (F.stcRingHandle x) = e ∧
      u.hw.ctl.get (F.stcRingDepth x) = depth ∧ u.hw.ctl.get (F.stcRingSem x) = f ∧ u.hw.ctl.on (F.cnpHtW0Valid e) = true ∧
      u.hw.ctl.get (F.cnpHtW0Owner e) = 1 + x ∧ u.hw.ctl.hBase e = b * 256 ∧ u.hw.ctl.hSize e = depth * slot / 256 * 256 ∧
      u.hw.ctl.img.setup = s.hw.ctl.img.setup ++ [x] ∧ s.hw.mem.Zeroed u.hw.mem (canopyKey (b * 256)) (depth * slot / 256 * 256) ∧
      Answered s.hw.ctl u.hw.ctl m ws stOk 0 [w32 (e + 256 * f), w32 slot] ∧
      Frame false [.mail, .img, .hng, .out] (R.stcRing x :: R.cnpClrPending :: htRegs e) s.hw.ctl u.hw.ctl ∧
      (¬(s.hw.ctl.paired = true ∧ s.hw.ctl.isPrimary = true) → u.hw.ctl.hng = s.hw.ctl.hng ∧ u.hw.ctl.out = s.hw.ctl.out)) := by
  obtain ⟨d, halloc, hexec⟩ := streamSetup_takes hxw hdw hslot hx harm hk hd hset hw h1 h2 hpick hplace hpair hlast hs
  have hdepth : depth < 64 := hdw ▸ fieldGet_lt (reqArg ws 0) 8 6
  exact ⟨_, hexec, rfl, streamSetup_leaves hx (entryPick_free h.isLt hpick).1 hdepth (freePair_lt _ _ hpair) halloc⟩

/-- HANDLE_ALLOC that finds its entry and its place: what it leaves (R326). -/
theorem handleAlloc_allocates {e b : Nat} (ho : 0x40 ≤ fieldGet (reqArg ws 0) 0 8) (ho' : fieldGet (reqArg ws 0) 0 8 ≤ 0x80)
    (h1 : 1 ≤ (reqArg ws 1).toNat) (h2 : (reqArg ws 1).toNat ≤ 32768)
    (hund : ¬(fieldGet (reqArg ws 0) 0 8 = 0x80 ∧ (reqArg ws 0).getLsbD 8 = true)) (hwait : s.hw.ctl.allocWaits m h = false)
    (hdram : (reqArg ws 0).getLsbD 8 = true → s.hw.ctl.dramFree (reqArg ws 2).toNat (reqArg ws 1).toNat = true)
    (hpick : s.hw.ctl.entryPick h = some e) (hlast : s.hw.ctl.get (F.cnpHtW0Owner e) ≠ 0x80)
    (hplace : (if (reqArg ws 0).getLsbD 8 then some (reqArg ws 2).toNat else s.hw.ctl.placePick base (reqArg ws 1).toNat) = some b)
    (hep : (nth 0 ws 0).getLsbD 24 = false) (hs : Starts s.hw.ctl m 0x0301 ws) :
    Completes (exec (.handleAlloc m h base) s) (fun u => u.pending = s.pending ∧ u.hw.ctl.on (F.cnpHtW0Valid e) = true ∧
      u.hw.ctl.get (F.cnpHtW0Owner e) = fieldGet (reqArg ws 0) 0 8 ∧ u.hw.ctl.on (F.cnpHtW0Target e) = (reqArg ws 0).getLsbD 8 ∧
      u.hw.ctl.on (F.cnpHtW0Busy e) = (reqArg ws 0).getLsbD 8 ∧
      u.hw.ctl.get (F.cnpHtW0Epoch e) = (s.hw.ctl.get (F.cnpHtW0Epoch e) + 1) % 65536 ∧ u.hw.ctl.hBase e = b * 256 ∧
      u.hw.ctl.hSize e = (reqArg ws 1).toNat * 256 ∧ s.hw.mem.Zeroed u.hw.mem (u.hw.ctl.hKey e 0) ((reqArg ws 1).toNat * 256) ∧
      u.hw.ctl.taken m = some ⟨ws, some (stOk, 0, u.hw.ctl.epochOf (0x0600 + e), [w32 e, w32 b]), true⟩ ∧
      Frame false [.mail, .cnp] (R.cnpClrPending :: R.dbgSat :: lcRegs ++ htRegs e) s.hw.ctl u.hw.ctl ∧
      ((reqArg ws 0).getLsbD 8 = false → Frame false [.mail] (R.cnpClrPending :: htRegs e) s.hw.ctl u.hw.ctl)) := by
  obtain ⟨d, halloc, hexec⟩ := handleAlloc_takes ho ho' h1 h2 hund hwait hdram hpick hlast hplace hep hs
  exact ⟨_, hexec, rfl, handleAlloc_leaves halloc⟩

end

/-- Settles O54: one lemma per command and outcome, in the order of the statement. -/
theorem wardenStreams : Obligations.WardenStreams := by
  unfold Obligations.WardenStreams
  intro s m ws h base img ok ready
  exact ⟨
    fun hx harm hk hd hset hw h1 h2 _ _ _ hpick hplace hpair hlast hs =>
      streamSetup_sets rfl rfl rfl hx harm hk hd hset hw h1 h2 hpick hplace hpair hlast hs,
    fun hx _ hw hs => streamSetup_unwritten hx hw hs,
    fun _ _ hreq hs => shutter_mgmtFirst hreq hs,
    fun hx harm => ⟨streamSetup_armed hx harm, streamRelease_armed hx harm⟩,
    streamRelease_releases,
    streamQuery_tells,
    shutterClose_closes,
    shutterClose_refused,
    fun hact hhold hs => shutterOpen_held hact hs hhold,
    fun hact hhold hs => shutterOpen_opens hact hs hhold,
    fun hx hk hs => scenePlan_notVideo hx hs hk,
    fun hx hk hen hspec hs => scenePlan_off hx hs hk hen hspec,
    fun hx hk hen hsh hs => scenePlan_noShadow hx hs hk hen hsh,
    fun hx hk hen _ hsh hslot harmed hs => scenePlan_on hx hs hk hen hsh hslot harmed,
    fun hpr hact hx _ _ hplan hsh =>
      ⟨fun hm hr hs => sceneDecideConfirm_partner hpr hact hx hplan hsh hs hm hr,
       fun hfit hr hs => sceneDecideConfirm_fits hpr hact hx hplan hsh hs hfit hr,
       fun hfit hr hspec hs => sceneDecideConfirm_unfit hpr hact hx hplan hsh hs hfit hr hspec⟩,
    sceneDecideCancel_other,
    fun hact hrun hs => (sceneDecideCancel_cancels hact hrun hs).imp fun _ ⟨hpend, hno, hans⟩ =>
      ⟨hpend, hno.run, hno.queued, hno.running, hans⟩,
    fun ha hok hl hmode =>
      ⟨fun _ hk hcheck hs => imageLoad_fails ha hok hl hmode hk hcheck hs,
       fun hcheck hcur hs => imageLoad_first ha hok hl hmode hcheck hs hcur,
       fun hcheck hcur hp hs => imageLoad_shadow ha hok hl hmode hcheck hs hcur hp⟩,
    imagePromote_none,
    imagePromote_waits,
    fun hbit _ hcur harmed hs => imageDrop_current hbit hcur harmed hs,
    imageDrop_shadow,
    fun _ him hs => imageInfo_tells him hs,
    fun ho ho' h1 h2 hund hwait hdram _ _ hpick hlast hplace hep hs =>
      handleAlloc_allocates ho ho' h1 h2 hund hwait hdram hpick hlast hplace hep hs,
    handleAlloc_waits,
    handleFree_invalid,
    handleFree_notOwner,
    handleFree_revokes,
    jobCancel_none,
    fun _ hj hs => jobCancel_cancels hj hs,
    schedFit_none,
    fun _ _ him hmd hrate hs => schedFit_tells him hmd hrate hs,
    fun _ hr hno hsh => shadowPrefetch_loads hr hno hsh,
    modelPromotion_none,
    modelPromotion_paired,
    modelPromotion_early,
    fun _ hdue hown hsh hpools hrings hroutes => modelPromotion_promotes hdue hown hsh hpools hrings hroutes⟩

end Sys2Proof.Machine
end
